-- ==== Sys2Proof/Word.lean ====
section
/-! DEFINITION. The machine's words: 32-bit registers (R57), bytes, 80-bit GTC values in ticks (R3), and the place of a field
in a word. -/
namespace Sys2Proof

/-- A register of the block: 32 bits wide, little-endian (R57). -/
abbrev Word := BitVec 32

/-- One byte of memory. -/
abbrev Byte := BitVec 8

/-- A value of the global time counter, in ticks (R3, R22). -/
abbrev Gtc := BitVec 80

/-- The place of a field in a word: bits [hi:lo]. -/
structure Fld where
  hi : Nat
  lo : Nat
  deriving DecidableEq, Repr

end Sys2Proof
end

