-- ==== Sys2Proof/Syntax.lean ====
section
/-! DEFINITION. The commands of the block: one constructor per row of spec/opcode_table.json.

A row names a step, not a bit layout, so an operand is what the step needs from outside: for a register access, the path it comes by
(0 host, 1 supervisor, 2 timed-command queue, 3 + p sequencer of port p), the index that the row leaves open (port, channel, page) and
the word written; for an occurrence, what the outside world brings about (a pin's level, a measured value, the bytes of a
transaction, the outcome of an attempt). -/
namespace Sys2Proof

/-- A failing cell that a march reports: bank, element, background, row, bit position (R423). -/
structure MarchFail where
  bank : Nat
  elem : Nat
  bg : Nat
  row : Nat
  bit : Nat
  deriving DecidableEq, Repr

/-- One side's access to a mailbox word at an HCLK edge (R413, R414): write or read, word, data, byte enables, stamp in PCLK cycles. -/
structure MbxAcc where
  write : Bool
  word : Nat
  data : Nat
  be : Nat
  stamp : Nat
  deriving DecidableEq, Repr

/-- JTAG instructions (R486, R487, Table 18-2). -/
inductive JtagInstr where
  | bypass | extest | clamp | extestPulse | extestTrain | sample | idcode | serial
  /-- private debug: internal scan, register and memory access, Keeper debug -/
  | private_
  deriving DecidableEq, Repr

/-- What an attempt of a start-up step brings about (R100, R102). -/
structure StepResult where
  /-- success, by run: one run, or one per DRAM channel of DRAMTRAIN -/
  oks : List Bool
  /-- ROOT: valid references, bit 0 REFCLK, bit 1 REFCLK2 -/
  refs : Nat
  /-- KEEPER: version of the image that runs -/
  version : Nat
  /-- SRAMTEST: failing cells as (bank, row, bit position), and the banks whose repeat passes after repair -/
  cells : List (Nat × Nat × Nat)
  passes : List Nat
  /-- DRAMTRAIN, by channel: ranks and density code found (R363), RAAIMT and RAAMMT read (R384), and the trained values -/
  ranks : List (Nat × Nat)
  rfm : List (Nat × Nat)
  train : List (List Nat)
  /-- TIMECAL, by channel: DTC map and path delays (R213) -/
  tcal : List (List Nat × List Nat)
  /-- LEVELCAL, by channel: corrections; and the channels whose level calibration failed (R273) -/
  lcal : List (List Nat)
  lfail : List Nat
  /-- READY: microseconds since the start of POWER -/
  us : Nat
  deriving DecidableEq, Repr

/-- What the outside world adds to a register write whose effect needs it: the bytes of a sideband transaction that have passed when it
is cut short; whether the HPD line reads back as driven; what a march run that ends reports; and whether the signature in `VLT_AUTH`
verifies. -/
structure Outside where
  passed : List Nat
  back : Bool
  fails : List MarchFail
  passes : List Nat
  auth : Bool
  deriving DecidableEq, Repr

/-- How a DMA descriptor ended (R43 to R45, R467): what the host has put in its memory (address, bytes); the bytes that had moved where
it ends early; a host error; the offset of an uncorrectable DRAM line; a corrected line; the plaintext where the tag verifies; time
delayed and throttled; whether the sag governor slowed it, and whether the endpoint recorded an uncorrectable AER error. -/
structure DmaEnd where
  host : List (Nat × List Nat)
  moved : Nat
  hostErr : Bool
  uncorr : Option Nat
  corrected : Bool
  plain : Option (List Nat)
  delayed : Nat
  throttled : Nat
  sag : Bool
  aer : Bool
  deriving DecidableEq, Repr

/-- The commands, in the order of the table. -/
inductive Instr where
  /-- POWER_COMPLETE (R97): `readable`: the start block of the ledger reads -/
  | powerComplete (readable : Bool)
  /-- RAIL_LOSS (R98) -/
  | railLoss
  /-- COLD_RESET (R99): `ns`: how long RESET_N was low -/
  | coldReset (ns : Nat)
  /-- STARTUP_STEP_END (R100): `x`: what the attempt in progress brings about -/
  | startupStepEnd (x : StepResult)
  /-- STARTUP_ATTEMPT_TIMEOUT (R100) -/
  | startupAttemptTimeout
  /-- BOOT_POLICY_WRITE (R106): policy of step `n` + 1 -/
  | bootPolicyWrite (path : Fin 7) (n : Fin 13) (w : Word)
  /-- CLEAR_HIST (R106): policy of step `n` + 1 -/
  | clearHist (path : Fin 7) (n : Fin 13) (w : Word)
  /-- LEDGER_WINDOW_READ (R108) -/
  | ledgerWindowRead (path : Fin 7)
  /-- KEEPER_UPDATE_START (R109) -/
  | keeperUpdateStart (path : Fin 7) (w : Word)
  /-- KEEPER_UPDATE_END (R109): `reason` 0 for an image that passes its checks -/
  | keeperUpdateEnd (reason : Nat) (version : Nat)
  /-- MAILBOX_UPDATE_START (R111) -/
  | mailboxUpdateStart (path : Fin 7) (w : Word)
  /-- CHUNK_LEN_WRITE (R111) -/
  | chunkLenWrite (path : Fin 7) (w : Word)
  /-- KEEPER_RESTART_CMD (R109) -/
  | keeperRestartCmd (path : Fin 7) (w : Word)
  /-- KEEPER_TRIAL_END (R110): `ok`: two seconds of heartbeats -/
  | keeperTrialEnd (ok : Bool)
  /-- KEEPER_WATCHDOG_EXPIRY (R117) -/
  | keeperWatchdogExpiry
  /-- WARM_RESET (R112): a march run in progress is cut short with `out` -/
  | warmReset (path : Fin 7) (w : Word) (out : Outside)
  /-- PORT_RESET (R114): a march run in the port's banks is cut short with `out` -/
  | portReset (path : Fin 7) (p : Fin 4) (w : Word) (out : Outside)
  /-- PORT_RESET_DONE (R112) -/
  | portResetDone (p : Fin 4)
  /-- SIDEBAND_RESET (R115): engine `e`: 0 CEC, 1 DDC, 2 AUX, 3 HPD -/
  | sidebandReset (path : Fin 7) (p : Fin 4) (e : Fin 4) (w : Word)
  /-- CHANNEL_RECALIBRATION (R215): channel `i`: fast 0 to 31, utility from 32 -/
  | channelRecalibration (path : Fin 7) (i : Fin 96) (w : Word)
  /-- CHANNEL_RECALIBRATION_END (R215): the stages that succeeded, and what they found -/
  | channelRecalibrationEnd (i : Fin 96) (tOk : Bool) (lOk : Bool) (dtc : List Nat) (dly : List Nat) (lv : List Nat)
  /-- DRAM_RETRAIN (R390) -/
  | dramRetrain (path : Fin 7) (c : Fin 4) (w : Word)
  /-- RETRAIN_END (R390): training found; a waiting warm reset cuts a march run short -/
  | retrainEnd (c : Fin 4) (ok : Bool) (res : List Nat) (fails : List MarchFail) (passes : List Nat)
  /-- REGISTER_WRITE (R60): word at byte offset `a` of BAR0; `be`: byte enables of a host write -/
  | registerWrite (path : Fin 7) (a : Fin 0x400000) (w : Word) (be : Fin 16) (out : Outside)
  /-- READ_CLEAR (R5): a read of the word at byte offset `a` of BAR0 -/
  | readClear (path : Fin 7) (a : Fin 0x400000)
  /-- PAGE_LOCK_WRITE (R60) -/
  | pageLockWrite (path : Fin 7) (page : Fin 1024) (w : Word)
  /-- W2_BASE_COMMIT (R39) -/
  | w2BaseCommit (path : Fin 7) (w : Word)
  /-- BAR2_ACCESS (R40): `n` dwords read, or `words` written with byte enables, four to a dword; `bad`: a line reads uncorrectable -/
  | bar2Access (write : Bool) (off : Nat) (n : Nat) (words : List Nat) (be : Nat) (bad : Bool)
  /-- BAR4_ACCESS (R42): as BAR2_ACCESS; `waits`: cycles waited at the bank's arbiter -/
  | bar4Access (write : Bool) (off : Nat) (n : Nat) (words : List Nat) (be : Nat) (waits : Nat)
  /-- HOST_INTERFACE_RESET (R36): 0 PERST_N, 1 link-down, 2 hot reset, 3 Function Level Reset -/
  | hostInterfaceReset (kind : Fin 4)
  /-- D3HOT_ENTRY (R37) -/
  | d3hotEntry
  /-- DMA_ENABLE (R46) -/
  | dmaEnable (path : Fin 7) (e : Fin 8) (w : Word)
  /-- DMA_TAIL_WRITE (R43): `host`: what the host has put in its memory (address, bytes) -/
  | dmaTailWrite (path : Fin 7) (e : Fin 8) (w : Word) (host : List (Nat × List Nat))
  /-- DMA_ABORT (R45) -/
  | dmaAbort (path : Fin 7) (e : Fin 8) (w : Word)
  /-- DMA_DESCRIPTOR_COMPLETE (R43): how the descriptor of engine `e` ends -/
  | dmaDescriptorComplete (e : Fin 8) (x : DmaEnd)
  /-- MSIX_UNMASK (R48): `fn`: the function mask is cleared, else the vector control of `v` is written -/
  | msixUnmask (fn : Bool) (path : Fin 7) (v : Fin 64) (w : Word)
  /-- READ_STATUS (R50) -/
  | readStatus
  /-- BMP_WRITE (R51): `part`: BMP_CS_N rises inside a further word -/
  | bmpWrite (a : Nat) (words : List Nat) (part : Bool) (out : Outside)
  /-- BMP_READ (R51): `n` words; `part`: BMP_CS_N rises inside a further word -/
  | bmpRead (a : Nat) (n : Nat) (part : Bool)
  /-- REFERENCE_LOST (R65): 0 REFCLK, 1 REFCLK2 -/
  | referenceLost (r : Fin 2)
  /-- REFERENCE_RETURN (R67): 0 REFCLK, 1 REFCLK2 -/
  | referenceReturn (r : Fin 2)
  /-- CLK_REF_SEL_WRITE (R66) -/
  | clkRefSelWrite (path : Fin 7) (w : Word)
  /-- ROOT_PLL_LOCK_LOSS (R68) -/
  | rootPllLockLoss
  /-- GTC_STEP_COMMIT (R73) -/
  | gtcStepCommit (path : Fin 7) (w : Word)
  /-- TOWPATH_CHECK (R75): `agree`: every replica equals the root counter -/
  | towpathCheck (agree : Bool)
  /-- SYNC_OUT_ARM (R80) -/
  | syncOutArm (path : Fin 7) (w : Word)
  /-- SYNC_OUT_PULSE (R80) -/
  | syncOutPulse
  /-- SYNC_IN_OFF (R83) -/
  | syncInOff (path : Fin 7) (w : Word)
  /-- SYNC_CAPTURE_MODE (R83) -/
  | syncCaptureMode (path : Fin 7) (w : Word)
  /-- SYNC_ALIGN_MODE (R83) -/
  | syncAlignMode (path : Fin 7) (w : Word)
  /-- SYNC_RELAY_MODE (R83) -/
  | syncRelayMode (path : Fin 7) (w : Word)
  /-- SYNC_IN_CAPTURE (R81): `t`: GTC at the edge -/
  | syncInCapture (t : Nat)
  /-- SYNC_IN_MISSING (R82) -/
  | syncInMissing
  /-- RELAY_PULSE (R83) -/
  | relayPulse
  /-- TCQ_PUSH (R86) -/
  | tcqPush (path : Fin 7) (w : Word)
  /-- TCQ_EXECUTE (R88): `out`: what the write it makes needs from outside -/
  | tcqExecute (out : Outside)
  /-- TCQ_DELIVER (R89): `out`: what the write it makes needs from outside -/
  | tcqDeliver (out : Outside)
  /-- TCQ_CANCEL (R93) -/
  | tcqCancel (path : Fin 7) (w : Word)
  /-- TCQ_FLUSH (R93) -/
  | tcqFlush (path : Fin 7) (w : Word)
  /-- TCQ_COMPLETION_READ (R92) -/
  | tcqCompletionRead (path : Fin 7)
  /-- TIMING_AFFECTING_WRITE (R193) -/
  | timingAffectingWrite (path : Fin 7) (a : Fin 0x400000) (w : Word)
  /-- TIMING_CHANGE_APPLY (R203) -/
  | timingChangeApply (p : Fin 4)
  /-- TIMING_PROFILE_WRITE (R25) -/
  | timingProfileWrite (path : Fin 7) (p : Fin 4) (w : Word)
  /-- TRACKING_CONVERGED (R26) -/
  | trackingConverged (p : Fin 4)
  /-- POWER_PROFILE_WRITE (R32) -/
  | powerProfileWrite (path : Fin 7) (w : Word)
  /-- PRT_UCOWN_WRITE (R17): `hi`: channels 8 to 15 -/
  | prtUcownWrite (path : Fin 7) (p : Fin 4) (hi : Bool) (w : Word)
  /-- PORT_START (R156) -/
  | portStart (path : Fin 7) (p : Fin 4) (w : Word)
  /-- FILL_COMPLETE (R156) -/
  | fillComplete (p : Fin 4)
  /-- SEQ_STOP (R157) -/
  | seqStop (path : Fin 7) (p : Fin 4) (w : Word)
  /-- SEQ_ERR_CLEAR (R158) -/
  | seqErrClear (path : Fin 7) (p : Fin 4) (w : Word)
  /-- STREAM_DESCRIPTOR_COMMIT (R149): word 3 of descriptor `i` -/
  | streamDescriptorCommit (path : Fin 7) (p : Fin 4) (rx : Bool) (i : Fin 16) (w : Word)
  /-- ISSUE (R126) -/
  | issue (p : Fin 4)
  /-- APG_RUN (R162) -/
  | apgRun (p : Fin 4)
  /-- IDLE (R512) -/
  | idle (p : Fin 4)
  /-- LOOP (R136) -/
  | loop (p : Fin 4)
  /-- ENDLOOP (R136) -/
  | endloop (p : Fin 4)
  /-- CALL (R136) -/
  | call (p : Fin 4)
  /-- RET (R136) -/
  | ret (p : Fin 4)
  /-- JUMP (R135) -/
  | jump (p : Fin 4)
  /-- JUMP_IF (R133) -/
  | jumpIf (p : Fin 4)
  /-- MATCH (R147) -/
  | matchUnits (p : Fin 4)
  /-- WAIT_TIME (R139) -/
  | waitTime (p : Fin 4)
  /-- WAIT_EVENT (R140) -/
  | waitEvent (p : Fin 4)
  /-- WAIT_EVENT_TIMEOUT (R140) -/
  | waitEventTimeout (p : Fin 4)
  /-- SET_LOCAL (R137) -/
  | setLocal (p : Fin 4)
  /-- SET_REG (R138): `out`: what the write needs from outside -/
  | setReg (p : Fin 4) (out : Outside)
  /-- SET_TIMED (R138) -/
  | setTimed (p : Fin 4)
  /-- SYNC (R139) -/
  | sync (p : Fin 4)
  /-- HALT (R141) -/
  | halt (p : Fin 4)
  /-- ILLEGAL_INSTRUCTION (R134) -/
  | illegalInstruction (p : Fin 4)
  /-- BEAT_ISSUE (R122) -/
  | beatIssue (p : Fin 4)
  /-- VECTOR_LAUNCH (R123) -/
  | vectorLaunch (p : Fin 4)
  /-- COMPARE_DECISION (R144) -/
  | compareDecision (p : Fin 4)
  /-- MOORING_RELEASE (R152) -/
  | mooringRelease (p : Fin 4)
  /-- BARGE_FILL (R151): `poison`: its read is uncorrectable -/
  | bargeFill (p : Fin 4) (poison : Bool)
  /-- BARGE_DRAIN (R151) -/
  | bargeDrain (p : Fin 4)
  /-- BLOCK (R173) -/
  | block (p : Fin 4)
  /-- FIELD (R173) -/
  | field (p : Fin 4)
  /-- NEXT (R174) -/
  | next (p : Fin 4)
  /-- APG_LOOP (R174) -/
  | apgLoop (p : Fin 4)
  /-- ORDER (R168) -/
  | order (p : Fin 4)
  /-- CRC (R172) -/
  | crc (p : Fin 4)
  /-- END (R175) -/
  | endMicro (p : Fin 4)
  /-- SETLC (R173) -/
  | setlc (p : Fin 4)
  /-- CODE_GROUP_RECEIVED (R188): the group whose last UI belongs to vector `last`; `kind` 1 a comma or leader, 2 the end of a burst -/
  | codeGroupReceived (ch : Fin 32) (last : Nat) (word : Nat) (kind : Fin 3) (codeErr : Bool) (dispErr : Bool)
  /-- CDR_UPDATE (R285) -/
  | cdrUpdate (n : Fin 32)
  /-- TRACKING_UPDATE (R217): `want`: the drift measured now, in ticks -/
  | trackingUpdate (i : Fin 96) (want : Int)
  /-- TRIM (R217): `want`: the drift that the trim measures -/
  | trim (i : Fin 96) (want : Int)
  /-- CHANNEL_ENABLE (R245) -/
  | channelEnable (path : Fin 7) (i : Fin 96) (w : Word)
  /-- CHANNEL_READY (R245) -/
  | channelReady (i : Fin 96)
  /-- CHANNEL_DISABLE (R246) -/
  | channelDisable (path : Fin 7) (i : Fin 96) (w : Word)
  /-- COMPLIANCE_FAULT_START (R231): conditions that begin, three bits for each leg -/
  | complianceFaultStart (n : Fin 32) (kinds : Fin 64)
  /-- COMPLIANCE_FAULT_END (R231): legs whose fault ends -/
  | complianceFaultEnd (n : Fin 32) (legs : Fin 4)
  /-- DRIVER_SHORT_DETECT (R227): legs over current -/
  | driverShortDetect (n : Fin 32) (legs : Fin 4)
  /-- CLAMP_OVERDRIVE_DETECT (R242): clamp high, clamp low, current limit -/
  | clampOverdriveDetect (m : Fin 64) (what : Fin 8)
  /-- AUTO_TERMINATE (R235): `low`: both receivers have read low, else one reads high -/
  | autoTerminate (n : Fin 32) (low : Bool)
  /-- LDAC_SETTLED (R256): LDAC `j` of channel `i` -/
  | ldacSettled (i : Fin 96) (j : Fin 8)
  /-- TONE_SAMPLE (R271) -/
  | toneSample (p : Fin 4)
  /-- PMU_CTRL_WRITE (R261) -/
  | pmuCtrlWrite (path : Fin 7) (m : Fin 64) (w : Word)
  /-- RANGE_CHANGE_END (R264) -/
  | rangeChangeEnd (m : Fin 64)
  /-- PMU_FAULT_START (R263): rows of Table 9-4 -/
  | pmuFaultStart (m : Fin 64) (rows : Fin 8)
  /-- PMU_FAULT_END (R263): `opens`, `compl`: the kinds that end -/
  | pmuFaultEnd (m : Fin 64) (opens : Bool) (compl : Bool)
  /-- MEAS_START (R267) -/
  | measStart (path : Fin 7) (p : Fin 4) (w : Word)
  /-- MEAS_STOP (R267) -/
  | measStop (path : Fin 7) (p : Fin 4) (w : Word)
  /-- MEAS_ENTRY_DONE (R267): `sum` of the ADC codes; `moved`: the range changed meanwhile -/
  | measEntryDone (p : Fin 4) (sum : Int) (moved : Bool)
  /-- CALBUS_REQUEST (R275) -/
  | calbusRequest (path : Fin 7) (p : Fin 4) (w : Word)
  /-- CALBUS_GRANT (R275) -/
  | calbusGrant
  /-- COMPARE_RESULT (R282): slicer results of the oldest open vector, by channel -/
  | compareResult (p : Fin 4) (fc : List Nat) (uc : List Nat)
  /-- SNAP (R295) -/
  | snap (path : Fin 7) (p : Fin 4) (w : Word)
  /-- CNT_CLR (R295) -/
  | cntClr (path : Fin 7) (p : Fin 4) (w : Word)
  /-- COUNTER_SNAPSHOT_TAKEN (R295) -/
  | counterSnapshotTaken (p : Fin 4)
  /-- FIRST_CLR (R296) -/
  | firstClr (path : Fin 7) (p : Fin 4) (w : Word)
  /-- BM_FLUSH (R301) -/
  | bmFlush (path : Fin 7) (p : Fin 4) (w : Word)
  /-- FAIL_LOG_WRITE (R299) -/
  | failLogWrite (p : Fin 4)
  /-- BITMAP_LINE_WRITE (R301): `bad`: the line reads uncorrectable -/
  | bitmapLineWrite (p : Fin 4) (bad : Bool)
  /-- EYE_START (R290) -/
  | eyeStart (path : Fin 7) (n : Fin 32) (w : Word)
  /-- EYE_STOP (R294) -/
  | eyeStop (path : Fin 7) (n : Fin 32) (w : Word)
  /-- EYE_POINT_DONE (R290): `bad`: the row write meets an error -/
  | eyePointDone (n : Fin 32) (bad : Bool)
  /-- TRIG_IN_EDGE (R313): ball `k` changes to `lvl` at `t` -/
  | trigInEdge (k : Fin 4) (t : Nat) (lvl : Bool)
  /-- UTILITY_COMPARATOR_EDGE (R313): comparator `c` (0 high, 1 low) of UCm changes to `lvl` at `t` -/
  | utilityComparatorEdge (m : Fin 64) (c : Fin 2) (t : Nat) (lvl : Bool)
  /-- SAMPLE_DECISION (R314) -/
  | sampleDecision (p : Fin 4)
  /-- REARM (R320) -/
  | rearm (p : Fin 4)
  /-- ACQ_ROUND_WRITE (R323): `bad`: DRAM refuses the data -/
  | acqRoundWrite (p : Fin 4) (bad : Bool)
  /-- ACQ_ARM (R318) -/
  | acqArm (path : Fin 7) (p : Fin 4) (w : Word)
  /-- ACQ_DISARM (R318) -/
  | acqDisarm (path : Fin 7) (p : Fin 4) (w : Word)
  /-- ACQ_FORCE (R317) -/
  | acqForce (path : Fin 7) (p : Fin 4) (w : Word)
  /-- ACQ_FREEZE (R322) -/
  | acqFreeze (path : Fin 7) (p : Fin 4) (w : Word)
  /-- TRG_OUT_WRITE (R324) -/
  | trgOutWrite (path : Fin 7) (p : Fin 4) (w : Word)
  /-- MSK_VIOL_DECISION (R330) -/
  | mskViolDecision (p : Fin 4)
  /-- MSK_CLR (R330) -/
  | mskClr (path : Fin 7) (p : Fin 4) (w : Word)
  /-- SIDEBAND_ENABLE (R334): engine `e`: 0 CEC, 1 DDC, 2 AUX, 3 HPD -/
  | sidebandEnable (path : Fin 7) (p : Fin 4) (e : Fin 4) (w : Word)
  /-- SIDEBAND_DISABLE (R342) -/
  | sidebandDisable (path : Fin 7) (p : Fin 4) (e : Fin 4) (w : Word) (out : Outside)
  /-- ABORT (R342): `out`: the bytes that have passed -/
  | abort (path : Fin 7) (p : Fin 4) (e : Fin 3) (w : Word) (out : Outside)
  /-- FLUSH (R342): `out`: the bytes that have passed -/
  | flush (path : Fin 7) (p : Fin 4) (e : Fin 3) (w : Word) (out : Outside)
  /-- LINE_LOST (R343): `rx`: another party's transaction was in progress -/
  | lineLost (p : Fin 4) (e : Fin 4) (rx : Bool) (t : Nat) (passed : List Nat)
  /-- SEND (R346): how the attempt ends: status, blocks sent, their acknowledges, and the times of the bits -/
  | send (p : Fin 4) (status : Nat) (blocks : Nat) (acks : Nat) (t : Nat) (times : List Nat)
  /-- CEC_ATTEMPT_START (R346) -/
  | cecAttemptStart (p : Fin 4)
  /-- CEC_MESSAGE_RECEIVED (R347): blocks of the message, header first; `fault` 0 none, 4 an error notification, 8 a timing fault -/
  | cecMessageReceived (p : Fin 4) (t : Nat) (fault : Nat) (bytes : List Nat) (acks : Nat) (times : List Nat)
  /-- DDC_WRITE (R349): how the command ends -/
  | ddcWrite (p : Fin 4) (t : Nat) (losses : Nat) (status : Nat) (sent : Nat) (nack : Nat) (times : List Nat)
  /-- DDC_READ (R349): how the command ends -/
  | ddcRead (p : Fin 4) (t : Nat) (losses : Nat) (status : Nat) (sent : Nat) (nack : Nat) (rd : List Nat) (times : List Nat)
  /-- DDC_WRITE_READ (R349): how the command ends -/
  | ddcWriteRead (p : Fin 4) (t : Nat) (losses : Nat) (status : Nat) (sent : Nat) (nack : Nat) (rd : List Nat) (times : List Nat)
  /-- DDC_STUCK_BUS_TIMEOUT (R349) -/
  | ddcStuckBusTimeout (p : Fin 4) (t : Nat)
  /-- DDC_TRANSACTION_OBSERVED (R351): phases as (address byte, acknowledged, bytes) -/
  | ddcTransactionObserved (p : Fin 4) (t : Nat) (phases : List (Nat × Bool × List Nat)) (broken : Bool) (nack : Nat) (times : List Nat)
  /-- NATIVE_WR (R353): `t`: time of the request -/
  | nativeWr (p : Fin 4) (t : Nat)
  /-- NATIVE_RD (R353): `t`: time of the request -/
  | nativeRd (p : Fin 4) (t : Nat)
  /-- I2C_WR (R353): `t`: time of the request -/
  | i2cWr (p : Fin 4) (t : Nat)
  /-- I2C_RD (R353): `t`: time of the request -/
  | i2cRd (p : Fin 4) (t : Nat)
  /-- AUX_REPLY_TIMEOUT (R353) -/
  | auxReplyTimeout (p : Fin 4) (t : Nat)
  /-- AUX_DEFER_RETRY (R353) -/
  | auxDeferRetry (p : Fin 4) (t : Nat)
  /-- AUX_REQUEST_RECEIVED (R354): `bad`: it breaks R352 -/
  | auxRequestReceived (p : Fin 4) (t : Nat) (comm : Nat) (addr : Nat) (len : Nat) (data : List Nat) (bad : Bool) (times : List Nat)
  /-- AUX_RELEASE (R355) -/
  | auxRelease (path : Fin 7) (p : Fin 4) (w : Word)
  /-- HPD_LEVEL_WRITE (R358): `out.back`: the line reads back as driven -/
  | hpdLevelWrite (path : Fin 7) (p : Fin 4) (w : Word) (out : Outside)
  /-- HPD_PULSE (R358): `out.back`: the line reads back as driven -/
  | hpdPulse (path : Fin 7) (p : Fin 4) (w : Word) (out : Outside)
  /-- HPD_PULSE_END (R358) -/
  | hpdPulseEnd (p : Fin 4) (back : Bool)
  /-- HPD_LINE_CHANGE (R359): the filtered line changes to `lvl` at `t` -/
  | hpdLineChange (p : Fin 4) (t : Nat) (lvl : Bool)
  /-- HPD_UNPLUG_TIMEOUT (R359) -/
  | hpdUnplugTimeout (p : Fin 4)
  /-- DRAM_READ_COMPLETE (R367): `devs`: erroneous symbols by device; `wrong`: a pattern beyond the code passes as corrected; `rmw`: a merge read -/
  | dramReadComplete (req : Nat) (a : Nat) (devs : List Nat) (wrong : Bool) (rmw : Bool)
  /-- WRITE_CRC_ALERT (R369): the line at `a` -/
  | writeCrcAlert (req : Nat) (a : Nat)
  /-- ELOG_READ (R370) -/
  | elogRead (path : Fin 7) (c : Fin 4)
  /-- ACT (R383): the row of the line at `a`, for requester `req`, at `t` -/
  | act (a : Nat) (req : Nat) (t : Nat)
  /-- ACT_WINDOW_END (R383) -/
  | actWindowEnd (c : Fin 4)
  /-- RH_WINDOW_END (R385) -/
  | rhWindowEnd (c : Fin 4)
  /-- REFRESH_INTERVAL (R379) -/
  | refreshInterval (c : Fin 4) (r : Fin 2)
  /-- MR4_POLL (R381): code and range of rank r of channel c at place 2c + r -/
  | mr4Poll (rs : List (Nat × Nat))
  /-- URGENT_REFRESH_END (R382) -/
  | urgentRefreshEnd (c : Fin 4) (r : Fin 2)
  /-- DQS_OSC_RUN (R389): `steps`: drift since training -/
  | dqsOscRun (c : Fin 4) (rank : Fin 2) (sc : Fin 2) (steps : Int)
  /-- PATROL_SCRUB (R371): `n` lines; errors met (address, symbols by device, wrong) -/
  | patrolScrub (n : Nat) (hits : List (Nat × List Nat × Bool))
  /-- LAZY_SWEEP (R387): `n` blocks -/
  | lazySweep (n : Nat)
  /-- MCG_MAP_WRITE (R375) -/
  | mcgMapWrite (path : Fin 7) (w : Word)
  /-- MARCH_START (R419): `out`: what a STOP in the same word reports -/
  | marchStart (path : Fin 7) (w : Word) (out : Outside)
  /-- MARCH_STOP (R420): `out`: what the run reports -/
  | marchStop (path : Fin 7) (w : Word) (out : Outside)
  /-- MARCH_RUN_END (R424): what the run reports -/
  | marchRunEnd (fails : List MarchFail) (passes : List Nat)
  /-- MARCH_YIELD (R422): window `j` -/
  | marchYield (j : Nat)
  /-- MARCH_WINDOW_RETRY (R422) -/
  | marchWindowRetry
  /-- RETENTION_REQUEST (R426): banks by word `i` -/
  | retentionRequest (path : Fin 7) (i : Fin 3) (w : Word)
  /-- RETENTION_WAKE (R427): banks by word `i` -/
  | retentionWake (path : Fin 7) (i : Fin 3) (w : Word)
  /-- WAKE_COMPLETE (R427) -/
  | wakeComplete (b : Fin 68)
  /-- MAILBOX_ACCESS (R415): accesses of host and supervisor at one HCLK edge -/
  | mailboxAccess (h : Option MbxAcc) (b : Option MbxAcc)
  /-- MBX_DOORBELL_WRITE (R417): host-to-supervisor bells, or the other way -/
  | mbxDoorbellWrite (path : Fin 7) (h2b : Bool) (w : Word)
  /-- STICKY_CLEAR (R434): `EVT_STICKY` of a page -/
  | stickyClear (path : Fin 7) (page : Fin 1024) (w : Word)
  /-- EVENT_FORCE_WRITE (R435): `EVT_FORCE` of a page -/
  | eventForceWrite (path : Fin 7) (page : Fin 1024) (w : Word)
  /-- EVG_CFG_WRITE (R437): source `k` of group `g` -/
  | evgCfgWrite (path : Fin 7) (g : Fin 36) (k : Fin 32) (w : Word)
  /-- EVC_FF_CLR (R441) -/
  | evcFfClr (path : Fin 7) (w : Word)
  /-- LEDGER_FAULT_RECORD (R444) -/
  | ledgerFaultRecord
  /-- SAG_START (R448): point `pt` falls to `mv` -/
  | sagStart (pt : Fin 4) (mv : Nat)
  /-- SAG_PERSIST_TIMEOUT (R450) -/
  | sagPersistTimeout
  /-- SAG_END (R447) -/
  | sagEnd
  /-- AVS_MEASURE (R451): `mv`: lowest voltage that meets timing -/
  | avsMeasure (mv : Nat)
  /-- SENSOR_READING (R452): sixteen readings in 0.25 °C -/
  | sensorReading (rs : List Int)
  /-- SEASON_ARM (R459) -/
  | seasonArm (path : Fin 7) (w : Word)
  /-- SEASON_COMMIT (R459): `out.auth`: the signature in `VLT_AUTH` verifies -/
  | seasonCommit (path : Fin 7) (w : Word) (out : Outside)
  /-- SEASON_ARM_EXPIRY (R459) -/
  | seasonArmExpiry
  /-- SEASON_CHANGE_DONE (R460) -/
  | seasonChangeDone
  /-- TAMPER_N_LOW (R463) -/
  | tamperNLow
  /-- TAMPER_WIPE_DONE (R463) -/
  | tamperWipeDone
  /-- LOAD (R466) -/
  | load (path : Fin 7) (w : Word)
  /-- VLT_APPLY (R469): `out`: what the writes it makes need from outside -/
  | vltApply (path : Fin 7) (w : Word) (out : Outside)
  /-- JTAG_INSTRUCTION (R487): `low`: RESET_N is low -/
  | jtagInstruction (i : JtagInstr) (low : Bool)
  /-- KEEPER_RESTART_DONE (R117) -/
  | keeperRestartDone
  /-- PCIE_LINK_UP (R101) -/
  | pcieLinkUp
  /-- D3HOT_EXIT (R37) -/
  | d3hotExit
  /-- AUX_REPLY_RECEIVED (R353): `bad`: it breaks R352 -/
  | auxReplyReceived (p : Fin 4) (t : Nat) (comm : Nat) (data : List Nat) (bad : Bool) (times : List Nat)
  /-- COMMAND_SLOT (R377): `arr`: requests that have arrived (requester, address, write, partial) -/
  | commandSlot (c : Fin 4) (sc : Fin 2) (t : Nat) (arr : List (Nat × Nat × Bool × Bool))
  /-- DRIVER_SHORT_END (R227): legs no longer over current -/
  | driverShortEnd (n : Fin 32) (legs : Fin 4)
  /-- CLAMP_OVERDRIVE_END (R242): clamp high, clamp low, current limit -/
  | clampOverdriveEnd (m : Fin 64) (what : Fin 8)
  /-- DISABLE_SEQUENCE_END (R246) -/
  | disableSequenceEnd (i : Fin 96)
  /-- PMU_SWITCH_CLOSE (R261) -/
  | pmuSwitchClose (m : Fin 64)
  /-- SIDEBAND_RESET_DONE (R112) -/
  | sidebandResetDone (p : Fin 4) (e : Fin 4)
  /-- TAMPER_N_HIGH (R463) -/
  | tamperNHigh
  deriving DecidableEq, Repr

end Sys2Proof
end

