-- ==== Sys2Proof/Decode.lean ====
section
/-! DEFINITION. The commands that a word spells: no row of the table gives bits, so there is none. -/
namespace Sys2Proof

/-- The command that an instruction word spells, by the bits of the table: none of its rows has any. -/
def decodeTableWord (_nbits _w : Nat) : Option Instr := none

end Sys2Proof
end

