-- ==== Sys2Proof/Machine/Bits.lean ====
section
/-! DEFINITION. Bit fields, saturating counters, byte order, and the one sparse store that registers, memories and per-unit
tables are all held in. -/
namespace Sys2Proof.Machine

/-- Bits [hi:lo] of a natural number. -/
def nbits (x hi lo : Nat) : Nat := x / 2 ^ lo % 2 ^ (hi + 1 - lo)

/-- Bit `i` of a natural number. -/
def nbit (x i : Nat) : Bool := x.testBit i

/-- A Boolean as a bit. -/
def b2n (b : Bool) : Nat := if b then 1 else 0

/-- The number `x` with bits [hi:lo] replaced by `v`. -/
def setNbits (x hi lo v : Nat) : Nat :=
  x - nbits x hi lo * 2 ^ lo + v % 2 ^ (hi + 1 - lo) * 2 ^ lo

/-- The value of a field of a word. -/
def fget (w : Word) (f : Fld) : Nat := nbits w.toNat f.hi f.lo

/-- A word with one field replaced. -/
def fset (w : Word) (f : Fld) (v : Nat) : Word := BitVec.ofNat 32 (setNbits w.toNat f.hi f.lo v)

/-- The bits of a mask. -/
def maskW (m : Nat) : Word := BitVec.ofNat 32 m

/-- Add `k` and stop at `top`: a saturating counter. -/
def satAdd (top x k : Nat) : Nat := min top (x + k)

/-- The two's-complement value of the low `w` bits. -/
def sext (w x : Nat) : Int :=
  let y := x % 2 ^ w
  if 2 ^ (w - 1) ≤ y then (y : Int) - 2 ^ w else y

/-- The low `w` bits of an integer, two's complement. -/
def wrapInt (w : Nat) (x : Int) : Nat := (x % (2 ^ w : Nat)).toNat

/-- The smallest multiple count: `⌈a / b⌉`, 0 for `b = 0`. -/
def ceilDiv (a b : Nat) : Nat := if b = 0 then 0 else (a + b - 1) / b

/-- Number of bits of `x` that are 1 among its low `n`. -/
def popCount : Nat → Nat → Nat
  | 0, _ => 0
  | n + 1, x => popCount n x + b2n (nbit x n)

/-- Reversal of the low `n` bits. -/
def revBits : Nat → Nat → Nat
  | 0, _ => 0
  | n + 1, x => b2n (nbit x 0) * 2 ^ n + revBits n (x / 2)

/-- The `n` little-endian bytes of a number (R57). -/
def leBytes : Nat → Nat → List Byte
  | 0, _ => []
  | n + 1, x => BitVec.ofNat 8 x :: leBytes n (x / 256)

/-- The number that little-endian bytes spell. -/
def leNat : List Byte → Nat
  | [] => 0
  | b :: bs => b.toNat + 256 * leNat bs

/-- CRC-32, reflected, polynomial 0x04C1_1DB7 (0xEDB8_8320 reflected): one byte. -/
def crc32Byte (c : Nat) (b : Nat) : Nat :=
  let f := fun (x : Nat) => if x % 2 = 1 then (x / 2) ^^^ 0xEDB88320 else x / 2
  f (f (f (f (f (f (f (f (c ^^^ b))))))))

/-- CRC-32 with initial and final XOR 0xFFFF_FFFF (Table 16-9). -/
def crc32 (bs : List Byte) : Nat :=
  (bs.foldl (fun c b => crc32Byte c b.toNat) 0xFFFFFFFF) ^^^ 0xFFFFFFFF

/-! ### The sparse store -/

/-- Read key `k`: its first entry; a key that is not listed reads as `d k`. -/
def tget {β : Type} (d : Nat → β) : List (Nat × β) → Nat → β
  | [], k => d k
  | (j, v) :: t, k => if j = k then v else tget d t k

/-- Put an entry in its place among rising keys. -/
def tins {β : Type} : List (Nat × β) → Nat → β → List (Nat × β)
  | [], k, v => [(k, v)]
  | (j, u) :: t, k, v => if j = k then (k, v) :: t else if k < j then (k, v) :: (j, u) :: t else (j, u) :: tins t k v

/-- Write key `k`.  The list stays strictly rising in its keys, and a value equal to what an unlisted key reads as is not
listed. -/
def tset {β : Type} [DecidableEq β] (d : Nat → β) (l : List (Nat × β)) (k : Nat) (v : β) : List (Nat × β) :=
  match l with
  | [] => if v = d k then [] else [(k, v)]
  | x :: t => if v = d k then (x :: t).filter (fun y => y.1 != k) else tins (x :: t) k v

/-- All keys are above `b`, strictly rising, and no listed value is the default: the canonical form. -/
def tcanon {β : Type} [DecidableEq β] (d : Nat → β) : Option Nat → List (Nat × β) → Bool
  | _, [] => true
  | b, (k, v) :: t =>
    (match b with | none => true | some x => decide (x < k)) && decide (v ≠ d k) && tcanon d (some k) t

/-- What a memory cell that is not listed reads as. -/
def zeroCell (_ : Nat) : Byte := 0

/-- One byte of a memory. -/
def mget (m : List Host.Cell) (a : Nat) : Byte := tget zeroCell m a

/-- Write one byte of a memory. -/
def mset (m : List Host.Cell) (a : Nat) (v : Byte) : List Host.Cell := tset zeroCell m a v

/-- `n` bytes from address `a` up. -/
def mread (m : List Host.Cell) (a : Nat) : Nat → List Byte
  | 0 => []
  | n + 1 => mget m a :: mread m (a + 1) n

/-- Write bytes at ascending addresses from `a`. -/
def mwrite (m : List Host.Cell) (a : Nat) : List Byte → List Host.Cell
  | [] => m
  | b :: bs => mwrite (mset m a b) (a + 1) bs

/-- The canonical form of a memory: addresses strictly rising, no entry equal to what an unlisted address reads as. -/
def Memory.wf (m : List Host.Cell) : Bool := tcanon zeroCell none m

/-- A little-endian number of `n` bytes. -/
def mnat (m : List Host.Cell) (a n : Nat) : Nat := leNat (mread m a n)

/-- Write a little-endian number of `n` bytes. -/
def mputNat (m : List Host.Cell) (a n v : Nat) : List Host.Cell := mwrite m a (leBytes n v)

/-- Replace element `i` of a list. -/
def lset {α : Type} : List α → Nat → α → List α
  | [], _, _ => []
  | _ :: t, 0, v => v :: t
  | x :: t, i + 1, v => x :: lset t i v

/-- Insert by a rising natural key, after its equals (a stable queue). -/
def insertBy {α : Type} (key : α → Nat) (x : α) : List α → List α
  | [] => [x]
  | y :: t => if key x < key y then x :: y :: t else y :: insertBy key x t

end Sys2Proof.Machine
end

