-- ==== Sys2Proof/Machine/RegNames.lean ====
section
/-! DEFINITION. The BAR0 byte address of every register the spec names, under the spec's own name (R54 Table 2-9 gives
the pages, each chapter's register tables the offsets), and the bit ranges of the named fields. -/
namespace Sys2Proof.Machine

/-- First byte of page `off` of port `p` (Table 2-9: page 0x100 + 0x40p + off). -/
def portPage (p off : Nat) : Nat := (0x100 + 0x40 * p + off) * 0x1000
/-- First byte of page `FCHn` (Table 2-9). -/
def fchPage (n : Nat) : Nat := (0x200 + n) * 0x1000
/-- First byte of page `UCHm` (Table 2-9). -/
def uchPage (m : Nat) : Nat := (0x240 + m) * 0x1000

/-- `GLB_PROFILE` (01, R32). -/
def R.glbProfile : Nat := 0x60
def F.glbProfileCapOver : Fld := ⟨8, 8⟩
def F.glbProfilePower : Fld := ⟨0, 0⟩
/-- `GLB_ID` (18, R457). -/
def R.glbId : Nat := 0x40
def F.glbIdDevice : Fld := ⟨31, 16⟩
def F.glbIdRev : Fld := ⟨7, 0⟩
/-- `GLB_SERIAL_LO` (18, R457). -/
def R.glbSerialLo : Nat := 0x44
/-- `GLB_SERIAL_HI` (18, R457). -/
def R.glbSerialHi : Nat := 0x48
/-- `GLB_SEASON` (18, R458). -/
def R.glbSeason : Nat := 0x4C
def F.glbSeasonSeason : Fld := ⟨3, 0⟩
/-- `CLK_REF` (03, R65). -/
def R.clkRef : Nat := 0x1040
def F.clkRefRef2Ok : Fld := ⟨9, 9⟩
def F.clkRefRefOk : Fld := ⟨8, 8⟩
def F.clkRefActive : Fld := ⟨5, 4⟩
def F.clkRefFailover : Fld := ⟨1, 1⟩
def F.clkRefSel : Fld := ⟨0, 0⟩
/-- `CLK_STAT` (03, R67). -/
def R.clkStat : Nat := 0x1044
def F.clkStatSwitchCnt : Fld := ⟨15, 8⟩
def F.clkStatHclkStretch : Fld := ⟨2, 2⟩
def F.clkStatHoldover : Fld := ⟨1, 1⟩
def F.clkStatRootLock : Fld := ⟨0, 0⟩
/-- `GTC_NOW0` (03, R74). -/
def R.gtcNow0 : Nat := 0x2040
/-- `GTC_NOW1` (03, R74). -/
def R.gtcNow1 : Nat := 0x2044
/-- `GTC_NOW2` (03, R74). -/
def R.gtcNow2 : Nat := 0x2048
/-- `GTC_PHASE` (03, R69). -/
def R.gtcPhase : Nat := 0x204C
/-- `GTC_STEP0` (03, R73). -/
def R.gtcStep0 : Nat := 0x2050
/-- `GTC_STEP1` (03, R73). -/
def R.gtcStep1 : Nat := 0x2054
/-- `GTC_STEP2` (03, R73). -/
def R.gtcStep2 : Nat := 0x2058
/-- `SYNC_CTRL` (03, R80). -/
def R.syncCtrl : Nat := 0x2060
def F.syncCtrlOutRepeat : Fld := ⟨31, 16⟩
def F.syncCtrlOutCont : Fld := ⟨8, 8⟩
def F.syncCtrlInMode : Fld := ⟨5, 4⟩
def F.syncCtrlOutArm : Fld := ⟨0, 0⟩
/-- `SYNC_STAT` (03, R83). -/
def R.syncStat : Nat := 0x2064
def F.syncStatCapCnt : Fld := ⟨31, 24⟩
def F.syncStatOutBusy : Fld := ⟨5, 5⟩
def F.syncStatAlignBlocked : Fld := ⟨4, 4⟩
def F.syncStatAlignFail : Fld := ⟨3, 3⟩
def F.syncStatStepped : Fld := ⟨2, 2⟩
def F.syncStatAlignBusy : Fld := ⟨1, 1⟩
/-- `SYNC_PERIOD` (03, R79). -/
def R.syncPeriod : Nat := 0x2068
/-- `SYNC_CABLE_DLY` (03, R81). -/
def R.syncCableDly : Nat := 0x206C
/-- `SYNC_OUT_AT0` (03, R80). -/
def R.syncOutAt0 : Nat := 0x2070
/-- `SYNC_OUT_AT1` (03, R80). -/
def R.syncOutAt1 : Nat := 0x2074
/-- `SYNC_OUT_AT2` (03, R80). -/
def R.syncOutAt2 : Nat := 0x2078
/-- `SYNC_EXP0` (03, R81). -/
def R.syncExp0 : Nat := 0x2080
/-- `SYNC_EXP1` (03, R81). -/
def R.syncExp1 : Nat := 0x2084
/-- `SYNC_EXP2` (03, R81). -/
def R.syncExp2 : Nat := 0x2088
/-- `SYNC_IN_CAP0` (03, R81). -/
def R.syncInCap0 : Nat := 0x2090
/-- `SYNC_IN_CAP1` (03, R81). -/
def R.syncInCap1 : Nat := 0x2094
/-- `SYNC_IN_CAP2` (03, R81). -/
def R.syncInCap2 : Nat := 0x2098
/-- `SYNC_ERR` (03, R81). -/
def R.syncErr : Nat := 0x20A0
/-- `SYNC_DRIFT_LIM` (03, R83). -/
def R.syncDriftLim : Nat := 0x20A4
/-- `TCQ_ENTRY` (03, R86). -/
def R.tcqEntry (i : Nat) : Nat := 0x2100 + 0x4 * i
/-- `TCQ_STAT` (03, R91). -/
def R.tcqStat : Nat := 0x2120
def F.tcqStatHeld : Fld := ⟨28, 24⟩
def F.tcqStatCplCnt : Fld := ⟨20, 16⟩
def F.tcqStatFill : Fld := ⟨8, 0⟩
/-- `TCQ_CANCEL` (03, R93). -/
def R.tcqCancel : Nat := 0x2124
/-- `TCQ_FLUSH` (03, R93). -/
def R.tcqFlush : Nat := 0x2128
/-- `TCQ_DROP_CNT` (03, R92). -/
def R.tcqDropCnt : Nat := 0x212C
def F.tcqDropCntCplLost : Fld := ⟨31, 16⟩
def F.tcqDropCntRefused : Fld := ⟨15, 0⟩
/-- `TCQ_CPL0` (03, R92). -/
def R.tcqCpl0 : Nat := 0x2130
/-- `TCQ_CPL1` (03, R92). -/
def R.tcqCpl1 : Nat := 0x2134
/-- `TCQ_CPL2` (03, R92). -/
def R.tcqCpl2 : Nat := 0x2138
/-- `TCQ_CPL3` (03, R92). -/
def R.tcqCpl3 : Nat := 0x213C
/-- `BOOT_STAT` (04, R100). -/
def R.bootStat : Nat := 0x3040
def F.bootStatState : Fld := ⟨31, 28⟩
def F.bootStatCause : Fld := ⟨27, 24⟩
def F.bootStatAttempt : Fld := ⟨19, 16⟩
def F.bootStatForm : Fld := ⟨13, 12⟩
def F.bootStatOutcome : Fld := ⟨11, 8⟩
def F.bootStatStep : Fld := ⟨7, 0⟩
/-- `BOOT_DEGRADED` (04, R107). -/
def R.bootDegraded : Nat := 0x3044
def F.bootDegradedLevelcal : Fld := ⟨14, 14⟩
def F.bootDegradedTimecal : Fld := ⟨13, 13⟩
def F.bootDegradedMc : Fld := ⟨12, 9⟩
def F.bootDegradedSramDev : Fld := ⟨8, 8⟩
def F.bootDegradedSram : Fld := ⟨7, 4⟩
def F.bootDegradedHostlink : Fld := ⟨3, 3⟩
def F.bootDegradedRepair : Fld := ⟨2, 2⟩
def F.bootDegradedLedger : Fld := ⟨1, 1⟩
def F.bootDegradedAny : Fld := ⟨0, 0⟩
/-- `BOOT_START_NO` (04, R108). -/
def R.bootStartNo : Nat := 0x3048
/-- `BOOT_READY_TIME` (04, R100). -/
def R.bootReadyTime : Nat := 0x304C
/-- `BOOT_SSID` (04, R35). -/
def R.bootSsid : Nat := 0x3050
def F.bootSsidSsid : Fld := ⟨31, 16⟩
def F.bootSsidSvid : Fld := ⟨15, 0⟩
/-- `BOOT_KUPD_CTRL` (04, R109). -/
def R.bootKupdCtrl : Nat := 0x3054
def F.bootKupdCtrlStart : Fld := ⟨31, 31⟩
def F.bootKupdCtrlSrc : Fld := ⟨30, 30⟩
def F.bootKupdCtrlChunkLen : Fld := ⟨16, 0⟩
/-- `BOOT_KUPD_SRC_LO` (04, R109). -/
def R.bootKupdSrcLo : Nat := 0x3058
/-- `BOOT_KUPD_SRC_HI` (04, R109). -/
def R.bootKupdSrcHi : Nat := 0x305C
/-- `BOOT_KUPD_LEN` (04, R109). -/
def R.bootKupdLen : Nat := 0x3060
/-- `BOOT_KUPD_STAT` (04, R109). -/
def R.bootKupdStat : Nat := 0x3064
def F.bootKupdStatState : Fld := ⟨31, 28⟩
def F.bootKupdStatReason : Fld := ⟨27, 24⟩
def F.bootKupdStatChunkTaken : Fld := ⟨0, 0⟩
/-- `BOOT_KEEPER` (04, R109). -/
def R.bootKeeper : Nat := 0x3068
def F.bootKeeperVersion : Fld := ⟨31, 16⟩
def F.bootKeeperBValid : Fld := ⟨1, 1⟩
def F.bootKeeperSlot : Fld := ⟨0, 0⟩
/-- `BOOT_KEEPER_CMD` (04, R109). -/
def R.bootKeeperCmd : Nat := 0x306C
def F.bootKeeperCmdRestart : Fld := ⟨0, 0⟩
/-- `BOOT_POLICY1` (04, R106). -/
def R.bootPolicy1 : Nat := 0x3080
def F.bootPolicy1ClearHist : Fld := ⟨31, 31⟩
def F.bootPolicy1Attempts : Fld := ⟨10, 8⟩
def F.bootPolicy1PreferAlt : Fld := ⟨7, 7⟩
def F.bootPolicy1Thresh : Fld := ⟨5, 4⟩
def F.bootPolicy1Action : Fld := ⟨1, 0⟩
/-- `BOOT_POLICY2` (04, R106). -/
def R.bootPolicy2 : Nat := 0x3084
def F.bootPolicy2ClearHist : Fld := ⟨31, 31⟩
def F.bootPolicy2Attempts : Fld := ⟨10, 8⟩
def F.bootPolicy2PreferAlt : Fld := ⟨7, 7⟩
def F.bootPolicy2Thresh : Fld := ⟨5, 4⟩
def F.bootPolicy2Action : Fld := ⟨1, 0⟩
/-- `BOOT_POLICY3` (04, R106). -/
def R.bootPolicy3 : Nat := 0x3088
def F.bootPolicy3ClearHist : Fld := ⟨31, 31⟩
def F.bootPolicy3Attempts : Fld := ⟨10, 8⟩
def F.bootPolicy3PreferAlt : Fld := ⟨7, 7⟩
def F.bootPolicy3Thresh : Fld := ⟨5, 4⟩
def F.bootPolicy3Action : Fld := ⟨1, 0⟩
/-- `BOOT_POLICY4` (04, R106). -/
def R.bootPolicy4 : Nat := 0x308C
def F.bootPolicy4ClearHist : Fld := ⟨31, 31⟩
def F.bootPolicy4Attempts : Fld := ⟨10, 8⟩
def F.bootPolicy4PreferAlt : Fld := ⟨7, 7⟩
def F.bootPolicy4Thresh : Fld := ⟨5, 4⟩
def F.bootPolicy4Action : Fld := ⟨1, 0⟩
/-- `BOOT_POLICY5` (04, R106). -/
def R.bootPolicy5 : Nat := 0x3090
def F.bootPolicy5ClearHist : Fld := ⟨31, 31⟩
def F.bootPolicy5Attempts : Fld := ⟨10, 8⟩
def F.bootPolicy5PreferAlt : Fld := ⟨7, 7⟩
def F.bootPolicy5Thresh : Fld := ⟨5, 4⟩
def F.bootPolicy5Action : Fld := ⟨1, 0⟩
/-- `BOOT_POLICY6` (04, R106). -/
def R.bootPolicy6 : Nat := 0x3094
def F.bootPolicy6ClearHist : Fld := ⟨31, 31⟩
def F.bootPolicy6Attempts : Fld := ⟨10, 8⟩
def F.bootPolicy6PreferAlt : Fld := ⟨7, 7⟩
def F.bootPolicy6Thresh : Fld := ⟨5, 4⟩
def F.bootPolicy6Action : Fld := ⟨1, 0⟩
/-- `BOOT_POLICY7` (04, R106). -/
def R.bootPolicy7 : Nat := 0x3098
def F.bootPolicy7ClearHist : Fld := ⟨31, 31⟩
def F.bootPolicy7Attempts : Fld := ⟨10, 8⟩
def F.bootPolicy7PreferAlt : Fld := ⟨7, 7⟩
def F.bootPolicy7Thresh : Fld := ⟨5, 4⟩
def F.bootPolicy7Action : Fld := ⟨1, 0⟩
/-- `BOOT_POLICY8` (04, R106). -/
def R.bootPolicy8 : Nat := 0x309C
def F.bootPolicy8ClearHist : Fld := ⟨31, 31⟩
def F.bootPolicy8Attempts : Fld := ⟨10, 8⟩
def F.bootPolicy8PreferAlt : Fld := ⟨7, 7⟩
def F.bootPolicy8Thresh : Fld := ⟨5, 4⟩
def F.bootPolicy8Action : Fld := ⟨1, 0⟩
/-- `BOOT_POLICY9` (04, R106). -/
def R.bootPolicy9 : Nat := 0x30A0
def F.bootPolicy9ClearHist : Fld := ⟨31, 31⟩
def F.bootPolicy9Attempts : Fld := ⟨10, 8⟩
def F.bootPolicy9PreferAlt : Fld := ⟨7, 7⟩
def F.bootPolicy9Thresh : Fld := ⟨5, 4⟩
def F.bootPolicy9Action : Fld := ⟨1, 0⟩
/-- `BOOT_POLICY10` (04, R106). -/
def R.bootPolicy10 : Nat := 0x30A4
def F.bootPolicy10ClearHist : Fld := ⟨31, 31⟩
def F.bootPolicy10Attempts : Fld := ⟨10, 8⟩
def F.bootPolicy10PreferAlt : Fld := ⟨7, 7⟩
def F.bootPolicy10Thresh : Fld := ⟨5, 4⟩
def F.bootPolicy10Action : Fld := ⟨1, 0⟩
/-- `BOOT_POLICY11` (04, R106). -/
def R.bootPolicy11 : Nat := 0x30A8
def F.bootPolicy11ClearHist : Fld := ⟨31, 31⟩
def F.bootPolicy11Attempts : Fld := ⟨10, 8⟩
def F.bootPolicy11PreferAlt : Fld := ⟨7, 7⟩
def F.bootPolicy11Thresh : Fld := ⟨5, 4⟩
def F.bootPolicy11Action : Fld := ⟨1, 0⟩
/-- `BOOT_POLICY12` (04, R106). -/
def R.bootPolicy12 : Nat := 0x30AC
def F.bootPolicy12ClearHist : Fld := ⟨31, 31⟩
def F.bootPolicy12Attempts : Fld := ⟨10, 8⟩
def F.bootPolicy12PreferAlt : Fld := ⟨7, 7⟩
def F.bootPolicy12Thresh : Fld := ⟨5, 4⟩
def F.bootPolicy12Action : Fld := ⟨1, 0⟩
/-- `BOOT_POLICY13` (04, R106). -/
def R.bootPolicy13 : Nat := 0x30B0
def F.bootPolicy13ClearHist : Fld := ⟨31, 31⟩
def F.bootPolicy13Attempts : Fld := ⟨10, 8⟩
def F.bootPolicy13PreferAlt : Fld := ⟨7, 7⟩
def F.bootPolicy13Thresh : Fld := ⟨5, 4⟩
def F.bootPolicy13Action : Fld := ⟨1, 0⟩
/-- `BOOT_HIST` (04, R106). -/
def R.bootHist (i : Nat) : Nat := 0x3100 + 0x8 * i
def F.bootHistFNorm : Fld := ⟨31, 24⟩
def F.bootHistFAlt : Fld := ⟨23, 16⟩
def F.bootHistLastOutcome : Fld := ⟨15, 12⟩
def F.bootHistLastAttempts : Fld := ⟨11, 8⟩
def F.bootHistStep : Fld := ⟨7, 0⟩
/-- `BOOT_HISTB` (04, R106). -/
def R.bootHistb (i : Nat) : Nat := 0x3104 + 0x8 * i
def F.bootHistbLastStart : Fld := ⟨31, 0⟩
/-- `BOOT_LWIN_ADDR` (04, R108). -/
def R.bootLwinAddr : Nat := 0x3200
/-- `BOOT_LWIN_DATA` (04, R108). -/
def R.bootLwinData : Nat := 0x3204
/-- `EVC_CTRL` (16, R440). -/
def R.evcCtrl : Nat := 0x4040
def F.evcCtrlFaultnLow : Fld := ⟨8, 8⟩
def F.evcCtrlEvqEn : Fld := ⟨0, 0⟩
/-- `EVC_STAT` (16, R440). -/
def R.evcStat : Nat := 0x4044
def F.evcStatFaultn : Fld := ⟨31, 31⟩
def F.evcStatFatal : Fld := ⟨30, 30⟩
def F.evcStatNsev : Fld := ⟨10, 0⟩
/-- `EVC_GSEV0` (16, R440). -/
def R.evcGsev0 : Nat := 0x4048
/-- `EVC_GSEV1` (16, R440). -/
def R.evcGsev1 : Nat := 0x404C
/-- `EVC_GANY0` (16, R440). -/
def R.evcGany0 : Nat := 0x4050
/-- `EVC_GANY1` (16, R440). -/
def R.evcGany1 : Nat := 0x4054
/-- `EVC_FF0` (16, R441). -/
def R.evcFf0 : Nat := 0x4060
def F.evcFf0Valid : Fld := ⟨31, 31⟩
def F.evcFf0Coincident : Fld := ⟨30, 30⟩
def F.evcFf0Class : Fld := ⟨29, 28⟩
def F.evcFf0Esc : Fld := ⟨27, 27⟩
def F.evcFf0Forced : Fld := ⟨26, 26⟩
def F.evcFf0Source : Fld := ⟨10, 0⟩
/-- `EVC_FF1` (16, R441). -/
def R.evcFf1 : Nat := 0x4064
/-- `EVC_FF2` (16, R441). -/
def R.evcFf2 : Nat := 0x4068
/-- `EVC_FF3` (16, R441). -/
def R.evcFf3 : Nat := 0x406C
def F.evcFf3Ncoinc : Fld := ⟨26, 16⟩
def F.evcFf3GtcHi : Fld := ⟨15, 0⟩
/-- `EVC_FF_CLR` (16, R441). -/
def R.evcFfClr : Nat := 0x4070
/-- `EVC_EVQ_WPTR` (16, R443). -/
def R.evcEvqWptr : Nat := 0x4080
/-- `EVC_EVQ_RPTR` (16, R443). -/
def R.evcEvqRptr : Nat := 0x4084
/-- `EVC_EVQ_LOST` (16, R443). -/
def R.evcEvqLost : Nat := 0x4088
/-- `EVC_LEDGER_CFG` (16, R444). -/
def R.evcLedgerCfg : Nat := 0x4090
def F.evcLedgerCfgGcap : Fld := ⟨23, 16⟩
def F.evcLedgerCfgHold : Fld := ⟨15, 0⟩
/-- `EVC_LEDGER_SUPP` (16, R444). -/
def R.evcLedgerSupp : Nat := 0x4094
/-- `EVC_LEDGER_SEQ` (16, R444). -/
def R.evcLedgerSeq : Nat := 0x4098
/-- `EVG_ESC` (16, R437). -/
def R.evgEsc (g : Nat) : Nat := (0x10 + g) * 0x1000 + 0x40
/-- `EVG_SEV` (16, R440). -/
def R.evgSev (g : Nat) : Nat := (0x10 + g) * 0x1000 + 0x44
/-- `EVG_CFG` (16, R437). -/
def R.evgCfg (g : Nat) (i : Nat) : Nat := (0x10 + g) * 0x1000 + 0x100 + 0x4 * i
def F.evgCfgEscN : Fld := ⟨31, 24⟩
def F.evgCfgEscW : Fld := ⟨23, 19⟩
def F.evgCfgEvq : Fld := ⟨18, 18⟩
def F.evgCfgClass : Fld := ⟨17, 16⟩
def F.evgCfgReact : Fld := ⟨14, 12⟩
def F.evgCfgRport : Fld := ⟨11, 10⟩
def F.evgCfgMsi : Fld := ⟨8, 8⟩
def F.evgCfgReactSev : Fld := ⟨7, 7⟩
def F.evgCfgVector : Fld := ⟨5, 0⟩
/-- `EVG_CNT` (16, R437). -/
def R.evgCnt (g : Nat) (i : Nat) : Nat := (0x10 + g) * 0x1000 + 0x180 + 0x4 * i
def F.evgCntOcc : Fld := ⟨31, 8⟩
def F.evgCntC : Fld := ⟨7, 0⟩
/-- `MC_STAT` (13, R363). -/
def R.mcStat (c : Nat) : Nat := (0x40 + c) * 0x1000 + 0x40
def F.mcStatExcluded : Fld := ⟨31, 31⟩
def F.mcStatExclWhy : Fld := ⟨30, 28⟩
def F.mcStatRetrain : Fld := ⟨27, 26⟩
def F.mcStatRanks : Fld := ⟨25, 24⟩
def F.mcStatDensity : Fld := ⟨23, 22⟩
def F.mcStatSluicing : Fld := ⟨21, 21⟩
def F.mcStatPoisoned : Fld := ⟨20, 16⟩
/-- `MC_REF_CFG` (13, R379). -/
def R.mcRefCfg (c : Nat) : Nat := (0x40 + c) * 0x1000 + 0x44
def F.mcRefCfgMode : Fld := ⟨4, 4⟩
def F.mcRefCfgPostpone : Fld := ⟨2, 0⟩
/-- `MC_REF_STAT` (13, R381). -/
def R.mcRefStat (c : Nat) : Nat := (0x40 + c) * 0x1000 + 0x48
def F.mcRefStatDouble : Fld := ⟨31, 31⟩
def F.mcRefStatUrgent1 : Fld := ⟨29, 29⟩
def F.mcRefStatUrgent0 : Fld := ⟨28, 28⟩
def F.mcRefStatDebt1 : Fld := ⟨23, 16⟩
def F.mcRefStatDebt0 : Fld := ⟨15, 8⟩
def F.mcRefStatMr41 : Fld := ⟨7, 4⟩
def F.mcRefStatMr40 : Fld := ⟨3, 0⟩
/-- `MC_RH_CFG` (13, R383). -/
def R.mcRhCfg (c : Nat) : Nat := (0x40 + c) * 0x1000 + 0x4C
def F.mcRhCfgRtBoost : Fld := ⟨31, 31⟩
def F.mcRhCfgRhThresh : Fld := ⟨28, 8⟩
def F.mcRhCfgProbLog2 : Fld := ⟨4, 0⟩
/-- `MC_RH_GAP` (13, R385). -/
def R.mcRhGap (c : Nat) : Nat := (0x40 + c) * 0x1000 + 0x50
/-- `MC_ECC_CFG` (13, R366). -/
def R.mcEccCfg (c : Nat) : Nat := (0x40 + c) * 0x1000 + 0x54
def F.mcEccCfgFaildev : Fld := ⟨31, 16⟩
def F.mcEccCfgDevMarkN : Fld := ⟨15, 8⟩
def F.mcEccCfgAutoMark : Fld := ⟨1, 1⟩
def F.mcEccCfgCorrWb : Fld := ⟨0, 0⟩
/-- `MC_ECC_CNT` (13, R367). -/
def R.mcEccCnt (c : Nat) : Nat := (0x40 + c) * 0x1000 + 0x58
def F.mcEccCntUncorr : Fld := ⟨31, 16⟩
def F.mcEccCntCorr : Fld := ⟨15, 0⟩
/-- `MC_WCRC_CNT` (13, R369). -/
def R.mcWcrcCnt (c : Nat) : Nat := (0x40 + c) * 0x1000 + 0x5C
def F.mcWcrcCntFail : Fld := ⟨31, 16⟩
def F.mcWcrcCntReplay : Fld := ⟨15, 0⟩
/-- `MC_URGENT_CNT` (13, R382). -/
def R.mcUrgentCnt (c : Nat) : Nat := (0x40 + c) * 0x1000 + 0x60
def F.mcUrgentCntUrgent : Fld := ⟨31, 16⟩
def F.mcUrgentCntForced : Fld := ⟨15, 0⟩
/-- `MC_THR_CNT` (13, R385). -/
def R.mcThrCnt (c : Nat) (i : Nat) : Nat := (0x40 + c) * 0x1000 + 0x64 + 0x4 * i
/-- `MC_NREF_CNT` (13, R383). -/
def R.mcNrefCnt (c : Nat) : Nat := (0x40 + c) * 0x1000 + 0x74
/-- `MC_RFM_CNT` (13, R384). -/
def R.mcRfmCnt (c : Nat) : Nat := (0x40 + c) * 0x1000 + 0x78
/-- `MC_DEVERR` (13, R371). -/
def R.mcDeverr (c : Nat) (i : Nat) : Nat := (0x40 + c) * 0x1000 + 0x80 + 0x4 * i
/-- `MC_ELOG` (13, R370). -/
def R.mcElog (c : Nat) (i : Nat) : Nat := (0x40 + c) * 0x1000 + 0xD0 + 0x4 * i
/-- `MC_ELOG_STAT` (13, R370). -/
def R.mcElogStat (c : Nat) : Nat := (0x40 + c) * 0x1000 + 0xF0
def F.mcElogStatLost : Fld := ⟨31, 16⟩
def F.mcElogStatHeld : Fld := ⟨4, 0⟩
/-- `MC_OSC_CFG` (13, R389). -/
def R.mcOscCfg (c : Nat) : Nat := (0x40 + c) * 0x1000 + 0x100
def F.mcOscCfgOscLim : Fld := ⟨23, 16⟩
def F.mcOscCfgOscInt : Fld := ⟨15, 0⟩
/-- `MC_OSC_STAT` (13, R389). -/
def R.mcOscStat (c : Nat) : Nat := (0x40 + c) * 0x1000 + 0x104
/-- `MCG_MAP` (13, R375). -/
def R.mcgMap : Nat := 0x44040
def F.mcgMapIlv : Fld := ⟨9, 8⟩
def F.mcgMapOrder : Fld := ⟨1, 0⟩
/-- `MCG_CFG` (13, R363). -/
def R.mcgCfg : Nat := 0x44044
def F.mcgCfgPop : Fld := ⟨11, 8⟩
def F.mcgCfgSpeed : Fld := ⟨1, 0⟩
/-- `MCG_CAP` (13, R363). -/
def R.mcgCap : Nat := 0x44048
/-- `MCG_CCH` (13, R363). -/
def R.mcgCch : Nat := 0x4404C
/-- `MCG_INIT_STAT` (13, R387). -/
def R.mcgInitStat : Nat := 0x44050
def F.mcgInitStatMode : Fld := ⟨31, 31⟩
def F.mcgInitStatLazyDone : Fld := ⟨30, 30⟩
def F.mcgInitStatProgress : Fld := ⟨15, 0⟩
/-- `MCG_SCRUB` (13, R371). -/
def R.mcgScrub : Nat := 0x44054
def F.mcgScrubPeriod : Fld := ⟨15, 0⟩
/-- `MCG_SCRUB_STAT` (13, R371). -/
def R.mcgScrubStat : Nat := 0x44058
def F.mcgScrubStatPasses : Fld := ⟨31, 16⟩
def F.mcgScrubStatProgress : Fld := ⟨15, 0⟩
/-- `QOS_BUDGET` (14, R397). -/
def R.qosBudget : Nat := 0x45040
/-- `QOS_USED` (14, R398). -/
def R.qosUsed : Nat := 0x45044
/-- `QOS_CH_USED` (14, R398). -/
def R.qosChUsed (i : Nat) : Nat := 0x45048 + 0x4 * i
/-- `QOS_ADM` (14, R400). -/
def R.qosAdm (i : Nat) : Nat := 0x45060 + 0x4 * i
def F.qosAdmRx : Fld := ⟨31, 16⟩
def F.qosAdmTx : Fld := ⟨15, 0⟩
/-- `QOS_DENY` (14, R399). -/
def R.qosDeny (i : Nat) : Nat := 0x45070 + 0x4 * i
def F.qosDenyReason : Fld := ⟨31, 28⟩
def F.qosDenyDenials : Fld := ⟨27, 24⟩
def F.qosDenyLimit : Fld := ⟨23, 0⟩
/-- `QOS_C0_WMAX` (14, R407). -/
def R.qosC0Wmax : Nat := 0x45080
/-- `QOS_C0_WLIM` (14, R407). -/
def R.qosC0Wlim : Nat := 0x45084
/-- `QOS_C0_WHO` (14, R407). -/
def R.qosC0Who : Nat := 0x45088
def F.qosC0WhoChan : Fld := ⟨9, 8⟩
def F.qosC0WhoReq : Fld := ⟨7, 0⟩
/-- `QOS_DELAYED` (14, R402). -/
def R.qosDelayed (i : Nat) : Nat := 0x45200 + 0x10 * i
/-- `QOS_THROTTLED` (14, R402). -/
def R.qosThrottled (i : Nat) : Nat := 0x45204 + 0x10 * i
/-- `QOS_REFUSED` (14, R402). -/
def R.qosRefused (i : Nat) : Nat := 0x45208 + 0x10 * i
/-- `SRM_MARCH_CTRL` (15, R419). -/
def R.srmMarchCtrl : Nat := 0x50040
def F.srmMarchCtrlStart : Fld := ⟨31, 31⟩
def F.srmMarchCtrlStop : Fld := ⟨30, 30⟩
def F.srmMarchCtrlRepair : Fld := ⟨27, 27⟩
def F.srmMarchCtrlMode : Fld := ⟨26, 26⟩
def F.srmMarchCtrlBg : Fld := ⟨23, 20⟩
def F.srmMarchCtrlLast : Fld := ⟨14, 8⟩
def F.srmMarchCtrlFirst : Fld := ⟨6, 0⟩
/-- `SRM_MARCH_STAT` (15, R419). -/
def R.srmMarchStat : Nat := 0x50044
def F.srmMarchStatState : Fld := ⟨31, 28⟩
def F.srmMarchStatBank : Fld := ⟨26, 20⟩
def F.srmMarchStatElem : Fld := ⟨18, 16⟩
def F.srmMarchStatCells : Fld := ⟨15, 8⟩
def F.srmMarchStatSkipBanks : Fld := ⟨7, 4⟩
def F.srmMarchStatFailBanks : Fld := ⟨3, 0⟩
/-- `SRM_MARCH_YIELD` (15, R422). -/
def R.srmMarchYield : Nat := 0x50048
def F.srmMarchYieldSkipped : Fld := ⟨31, 16⟩
def F.srmMarchYieldYields : Fld := ⟨15, 0⟩
/-- `SRM_MARCH_DROPS` (15, R420). -/
def R.srmMarchDrops : Nat := 0x5004C
/-- `SRM_RET_REQ0` (15, R426). -/
def R.srmRetReq0 : Nat := 0x50050
/-- `SRM_RET_REQ1` (15, R426). -/
def R.srmRetReq1 : Nat := 0x50054
/-- `SRM_RET_REQ2` (15, R426). -/
def R.srmRetReq2 : Nat := 0x50058
/-- `SRM_WAKE_CNT` (15, R427). -/
def R.srmWakeCnt : Nat := 0x5005C
/-- `SRM_RET_STAT` (15, R426). -/
def R.srmRetStat : Nat := 0x50060
def F.srmRetStatRefused : Fld := ⟨31, 31⟩
def F.srmRetStatBank : Fld := ⟨6, 0⟩
/-- `SRM_FAIL` (15, R423). -/
def R.srmFail (i : Nat) : Nat := 0x50100 + 0x4 * i
def F.srmFailValid : Fld := ⟨31, 31⟩
def F.srmFailElem : Fld := ⟨30, 28⟩
def F.srmFailBg : Fld := ⟨27, 26⟩
def F.srmFailBank : Fld := ⟨25, 19⟩
def F.srmFailRow : Fld := ⟨18, 9⟩
def F.srmFailBit : Fld := ⟨8, 1⟩
/-- `SRM_BANK` (15, R424). -/
def R.srmBank (i : Nat) : Nat := 0x50400 + 0x4 * i
def F.srmBankFaulty : Fld := ⟨31, 31⟩
def F.srmBankRetained : Fld := ⟨30, 30⟩
def F.srmBankMarching : Fld := ⟨29, 29⟩
def F.srmBankUrgent : Fld := ⟨28, 28⟩
def F.srmBankRows : Fld := ⟨26, 24⟩
def F.srmBankCols : Fld := ⟨21, 20⟩
/-- `SRM_BCC0` (15, R412). -/
def R.srmBcc0 (i : Nat) : Nat := 0x50600 + 0x20 * i
/-- `SRM_BCC1` (15, R412). -/
def R.srmBcc1 (i : Nat) : Nat := 0x50604 + 0x20 * i
/-- `SRM_BCC2` (15, R412). -/
def R.srmBcc2 (i : Nat) : Nat := 0x50608 + 0x20 * i
/-- `SRM_BCC3` (15, R412). -/
def R.srmBcc3 (i : Nat) : Nat := 0x5060C + 0x20 * i
/-- `SRM_BCC4` (15, R412). -/
def R.srmBcc4 (i : Nat) : Nat := 0x50610 + 0x20 * i
/-- `SRM_BCC5` (15, R412). -/
def R.srmBcc5 (i : Nat) : Nat := 0x50614 + 0x20 * i
/-- `SRM_BCC6` (15, R412). -/
def R.srmBcc6 (i : Nat) : Nat := 0x50618 + 0x20 * i
/-- `SRM_BCC7` (15, R412). -/
def R.srmBcc7 (i : Nat) : Nat := 0x5061C + 0x20 * i
/-- `MBX_STAT` (15, R415). -/
def R.mbxStat : Nat := 0x51040
def F.mbxStatBmpWarn : Fld := ⟨31, 31⟩
def F.mbxStatHostWarn : Fld := ⟨30, 30⟩
def F.mbxStatLastKind : Fld := ⟨29, 29⟩
def F.mbxStatLastWord : Fld := ⟨13, 0⟩
/-- `MBX_CNT` (15, R415). -/
def R.mbxCnt : Nat := 0x51044
def F.mbxCntWw : Fld := ⟨31, 16⟩
def F.mbxCntRw : Fld := ⟨15, 0⟩
/-- `MBX_DB_H2B` (15, R417). -/
def R.mbxDbH2b : Nat := 0x51048
/-- `MBX_DB_B2H` (15, R417). -/
def R.mbxDbB2h : Nat := 0x5104C
/-- `VLT_STAT` (18, R458). -/
def R.vltStat : Nat := 0x52040
def F.vltStatSeason : Fld := ⟨31, 28⟩
def F.vltStatWipeBusy : Fld := ⟨27, 27⟩
def F.vltStatTransBusy : Fld := ⟨26, 26⟩
def F.vltStatSealedOk : Fld := ⟨25, 25⟩
def F.vltStatTamperExh : Fld := ⟨24, 24⟩
def F.vltStatTampers : Fld := ⟨21, 16⟩
def F.vltStatReqErr : Fld := ⟨11, 8⟩
def F.vltStatApplyBusy : Fld := ⟨4, 4⟩
def F.vltStatApplyErr : Fld := ⟨3, 3⟩
/-- `VLT_KEYSTAT` (18, R466). -/
def R.vltKeystat : Nat := 0x52044
def F.vltKeystatLocked : Fld := ⟨31, 16⟩
def F.vltKeystatValid : Fld := ⟨15, 0⟩
/-- `VLT_SEASON_REQ` (18, R459). -/
def R.vltSeasonReq : Nat := 0x52048
def F.vltSeasonReqTarget : Fld := ⟨31, 28⟩
def F.vltSeasonReqOp : Fld := ⟨1, 0⟩
/-- `VLT_NONCE0` (18, R459). -/
def R.vltNonce0 : Nat := 0x5204C
/-- `VLT_NONCE1` (18, R459). -/
def R.vltNonce1 : Nat := 0x52050
/-- `VLT_TAMPER_CNT` (18, R463). -/
def R.vltTamperCnt : Nat := 0x52054
/-- `VLT_SEALED0` (18, R468). -/
def R.vltSealed0 : Nat := 0x52058
/-- `VLT_SEALED1` (18, R468). -/
def R.vltSealed1 : Nat := 0x5205C
/-- `VLT_AUTH` (18, R462). -/
def R.vltAuth (i : Nat) : Nat := 0x52060 + 0x4 * i
/-- `VLT_KEYCTRL` (18, R466). -/
def R.vltKeyctrl : Nat := 0x520C0
def F.vltKeyctrlLoad : Fld := ⟨31, 31⟩
def F.vltKeyctrlLock : Fld := ⟨8, 8⟩
def F.vltKeyctrlSlot : Fld := ⟨3, 0⟩
/-- `VLT_KEY` (18, R466). -/
def R.vltKey (i : Nat) : Nat := 0x520E0 + 0x4 * i
/-- `VLT_APPLY` (18, R469). -/
def R.vltApply : Nat := 0x52100
def F.vltApplyGo : Fld := ⟨31, 31⟩
def F.vltApplyPort : Fld := ⟨29, 28⟩
def F.vltApplyOfs : Fld := ⟨20, 3⟩
/-- `VLT_APPLY_CNT` (18, R469). -/
def R.vltApplyCnt : Nat := 0x52104
/-- `HIF_W2_BASE_LO` (02, R39). -/
def R.hifW2BaseLo : Nat := 0x60048
def F.hifW2BaseLoBaseL : Fld := ⟨31, 20⟩
/-- `HIF_W2_BASE_HI` (02, R39). -/
def R.hifW2BaseHi : Nat := 0x6004C
def F.hifW2BaseHiBaseH : Fld := ⟨5, 0⟩
/-- `HIF_DROP_CNT` (02, R57). -/
def R.hifDropCnt : Nat := 0x60050
def F.hifDropCntUnassigned : Fld := ⟨31, 16⟩
def F.hifDropCntPartial : Fld := ⟨15, 0⟩
/-- `HIF_W2_ERR_CNT` (02, R40). -/
def R.hifW2ErrCnt : Nat := 0x60054
def F.hifW2ErrCntBeyond : Fld := ⟨31, 0⟩
/-- `DMA_CTRL` (02, R46). -/
def R.dmaCtrl (i : Nat) : Nat := 0x60100 + 0x40 * i
def F.dmaCtrlVector : Fld := ⟨21, 16⟩
def F.dmaCtrlSizeLog2 : Fld := ⟨11, 8⟩
def F.dmaCtrlStopOnErr : Fld := ⟨2, 2⟩
def F.dmaCtrlAbort : Fld := ⟨1, 1⟩
def F.dmaCtrlEnable : Fld := ⟨0, 0⟩
/-- `DMA_STAT` (02, R45). -/
def R.dmaStat (i : Nat) : Nat := 0x60104 + 0x40 * i
def F.dmaStatRunning : Fld := ⟨31, 31⟩
def F.dmaStatStoppedErr : Fld := ⟨30, 30⟩
def F.dmaStatLastStatus : Fld := ⟨23, 16⟩
/-- `DMA_RING_LO` (02, R43). -/
def R.dmaRingLo (i : Nat) : Nat := 0x60108 + 0x40 * i
/-- `DMA_RING_HI` (02, R43). -/
def R.dmaRingHi (i : Nat) : Nat := 0x6010C + 0x40 * i
/-- `DMA_CPL_LO` (02, R43). -/
def R.dmaCplLo (i : Nat) : Nat := 0x60110 + 0x40 * i
/-- `DMA_CPL_HI` (02, R43). -/
def R.dmaCplHi (i : Nat) : Nat := 0x60114 + 0x40 * i
/-- `DMA_TAIL` (02, R43). -/
def R.dmaTail (i : Nat) : Nat := 0x60118 + 0x40 * i
/-- `DMA_HEAD` (02, R43). -/
def R.dmaHead (i : Nat) : Nat := 0x6011C + 0x40 * i
/-- `DMA_DONE_CNT` (02, R46). -/
def R.dmaDoneCnt (i : Nat) : Nat := 0x60120 + 0x40 * i
/-- `MSIX_ADDR_LO` (02, R47). -/
def R.msixAddrLo (i : Nat) : Nat := 0x60800 + 0x10 * i
/-- `MSIX_ADDR_HI` (02, R47). -/
def R.msixAddrHi (i : Nat) : Nat := 0x60804 + 0x10 * i
/-- `MSIX_DATA` (02, R47). -/
def R.msixData (i : Nat) : Nat := 0x60808 + 0x10 * i
/-- `MSIX_VCTRL` (02, R47). -/
def R.msixVctrl (i : Nat) : Nat := 0x6080C + 0x10 * i
def F.msixVctrlMask : Fld := ⟨0, 0⟩
/-- `MSIX_PBA` (02, R47). -/
def R.msixPba (i : Nat) : Nat := 0x60C00 + 0x4 * i
/-- `PWR_SAG_CFG` (17, R447). -/
def R.pwrSagCfg : Nat := 0x70040
def F.pwrSagCfgHold : Fld := ⟨23, 16⟩
def F.pwrSagCfgPtEn : Fld := ⟨11, 8⟩
def F.pwrSagCfgTh : Fld := ⟨7, 0⟩
/-- `PWR_SAG_STAT` (17, R447). -/
def R.pwrSagStat : Nat := 0x70044
def F.pwrSagStatActive : Fld := ⟨31, 31⟩
def F.pwrSagStatPersist : Fld := ⟨30, 30⟩
def F.pwrSagStatPoints : Fld := ⟨27, 24⟩
/-- `PWR_SAG_CNT` (17, R450). -/
def R.pwrSagCnt : Nat := 0x70048
def F.pwrSagCntPersist : Fld := ⟨31, 16⟩
def F.pwrSagCntSags : Fld := ⟨15, 0⟩
/-- `PWR_SAG_TIME` (17, R448). -/
def R.pwrSagTime : Nat := 0x7004C
/-- `PWR_SAG_MIN` (17, R450). -/
def R.pwrSagMin : Nat := 0x70050
def F.pwrSagMinPoint : Fld := ⟨19, 16⟩
def F.pwrSagMinMv : Fld := ⟨15, 0⟩
/-- `PWR_AVS` (17, R451). -/
def R.pwrAvs : Nat := 0x70054
def F.pwrAvsReqMv : Fld := ⟨31, 16⟩
def F.pwrAvsSetMv : Fld := ⟨15, 0⟩
/-- `PWR_THERM_CFG` (17, R454). -/
def R.pwrThermCfg : Nat := 0x70058
def F.pwrThermCfgWarn : Fld := ⟨23, 16⟩
def F.pwrThermCfgHyst : Fld := ⟨15, 8⟩
/-- `PWR_THERM_STAT` (17, R454). -/
def R.pwrThermStat : Nat := 0x7005C
def F.pwrThermStatTripped : Fld := ⟨31, 31⟩
def F.pwrThermStatWarning : Fld := ⟨30, 30⟩
def F.pwrThermStatValid : Fld := ⟨15, 0⟩
/-- `PWR_TMAX` (17, R452). -/
def R.pwrTmax : Nat := 0x70060
def F.pwrTmaxSensor : Fld := ⟨19, 16⟩
/-- `PWR_TPEAK` (17, R452). -/
def R.pwrTpeak : Nat := 0x70064
def F.pwrTpeakSensor : Fld := ⟨19, 16⟩
/-- `PWR_TEMP` (17, R452). -/
def R.pwrTemp (i : Nat) : Nat := 0x70100 + 0x4 * i
def F.pwrTempValid : Fld := ⟨31, 31⟩
/-- `PRT_PROFILE` (01, R25). -/
def R.prtProfile (p : Nat) : Nat := portPage p 0x0 + 0x40
def F.prtProfileLockActive : Fld := ⟨17, 17⟩
def F.prtProfileTimingActive : Fld := ⟨16, 16⟩
def F.prtProfileLock : Fld := ⟨1, 1⟩
def F.prtProfileTiming : Fld := ⟨0, 0⟩
/-- `PRT_UCOWN0` (01, R14). -/
def R.prtUcown0 (p : Nat) : Nat := portPage p 0x0 + 0x50
/-- `PRT_UCOWN1` (01, R14). -/
def R.prtUcown1 (p : Nat) : Nat := portPage p 0x0 + 0x54
/-- `SEQ_CTRL` (05, R156). -/
def R.seqCtrl (p : Nat) : Nat := portPage p 0x1 + 0x40
def F.seqCtrlStartTs : Fld := ⟨11, 8⟩
def F.seqCtrlStop : Fld := ⟨1, 1⟩
def F.seqCtrlStart : Fld := ⟨0, 0⟩
/-- `SEQ_STAT` (05, R156). -/
def R.seqStat (p : Nat) : Nat := portPage p 0x1 + 0x44
def F.seqStatState : Fld := ⟨31, 28⟩
def F.seqStatTs : Fld := ⟨27, 24⟩
def F.seqStatLoopDepth : Fld := ⟨23, 20⟩
def F.seqStatCallDepth : Fld := ⟨19, 15⟩
def F.seqStatFifo : Fld := ⟨12, 8⟩
def F.seqStatMoored : Fld := ⟨2, 2⟩
def F.seqStatDeciding : Fld := ⟨1, 1⟩
def F.seqStatWaiting : Fld := ⟨0, 0⟩
/-- `SEQ_START_PC` (05, R156). -/
def R.seqStartPc (p : Nat) : Nat := portPage p 0x1 + 0x48
/-- `SEQ_UDIV` (05, R130). -/
def R.seqUdiv (p : Nat) : Nat := portPage p 0x1 + 0x4C
/-- `SEQ_IDLE0` (05, R159). -/
def R.seqIdle0 (p : Nat) : Nat := portPage p 0x1 + 0x50
def F.seqIdle0Util : Fld := ⟨31, 16⟩
def F.seqIdle0Fast : Fld := ⟨15, 0⟩
/-- `SEQ_IDLE1` (05, R159). -/
def R.seqIdle1 (p : Nat) : Nat := portPage p 0x1 + 0x54
def F.seqIdle1Map : Fld := ⟨3, 0⟩
/-- `SEQ_UHOLD` (05, R129). -/
def R.seqUhold (p : Nat) : Nat := portPage p 0x1 + 0x58
/-- `SEQ_CMASK` (05, R143). -/
def R.seqCmask (p : Nat) : Nat := portPage p 0x1 + 0x5C
def F.seqCmaskUc : Fld := ⟨23, 8⟩
def F.seqCmaskFc : Fld := ⟨7, 0⟩
/-- `SEQ_HFLAG` (05, R142). -/
def R.seqHflag (p : Nat) : Nat := portPage p 0x1 + 0x60
/-- `SEQ_SFLAG` (05, R137). -/
def R.seqSflag (p : Nat) : Nat := portPage p 0x1 + 0x64
/-- `SEQ_CNT` (05, R142). -/
def R.seqCnt (p : Nat) (i : Nat) : Nat := portPage p 0x1 + 0x68 + 0x4 * i
/-- `SEQ_START_AT0` (05, R124). -/
def R.seqStartAt0 (p : Nat) : Nat := portPage p 0x1 + 0x78
/-- `SEQ_START_AT1` (05, R124). -/
def R.seqStartAt1 (p : Nat) : Nat := portPage p 0x1 + 0x7C
/-- `SEQ_START_AT2` (05, R124). -/
def R.seqStartAt2 (p : Nat) : Nat := portPage p 0x1 + 0x80
/-- `SEQ_TREF0` (05, R124). -/
def R.seqTref0 (p : Nat) : Nat := portPage p 0x1 + 0x84
/-- `SEQ_TREF1` (05, R124). -/
def R.seqTref1 (p : Nat) : Nat := portPage p 0x1 + 0x88
/-- `SEQ_TREF2` (05, R124). -/
def R.seqTref2 (p : Nat) : Nat := portPage p 0x1 + 0x8C
/-- `SEQ_ERR` (05, R158). -/
def R.seqErr (p : Nat) : Nat := portPage p 0x1 + 0x90
def F.seqErrClear : Fld := ⟨31, 31⟩
def F.seqErrCause : Fld := ⟨27, 24⟩
def F.seqErrPc : Fld := ⟨13, 0⟩
/-- `SEQ_ERR_VOFS` (05, R158). -/
def R.seqErrVofs (p : Nat) : Nat := portPage p 0x1 + 0x94
/-- `SEQ_ERR_GTC0` (05, R158). -/
def R.seqErrGtc0 (p : Nat) : Nat := portPage p 0x1 + 0x98
/-- `SEQ_ERR_GTC1` (05, R158). -/
def R.seqErrGtc1 (p : Nat) : Nat := portPage p 0x1 + 0x9C
/-- `SEQ_ERR_GTC2` (05, R158). -/
def R.seqErrGtc2 (p : Nat) : Nat := portPage p 0x1 + 0xA0
/-- `SEQ_STARVE_UI` (05, R127). -/
def R.seqStarveUi (p : Nat) : Nat := portPage p 0x1 + 0xA4
/-- `SEQ_MOOR_UI` (05, R152). -/
def R.seqMoorUi (p : Nat) : Nat := portPage p 0x1 + 0xA8
/-- `SEQ_PAD_UI` (05, R145). -/
def R.seqPadUi (p : Nat) : Nat := portPage p 0x1 + 0xAC
/-- `SEQ_MATCH_LAST` (05, R147). -/
def R.seqMatchLast (p : Nat) : Nat := portPage p 0x1 + 0xB0
def F.seqMatchLastHeld : Fld := ⟨31, 31⟩
def F.seqMatchLastUnits : Fld := ⟨15, 0⟩
/-- `SEQ_WAIT_LATE` (05, R139). -/
def R.seqWaitLate (p : Nat) : Nat := portPage p 0x1 + 0xB4
/-- `SEQ_PC` (05, R135). -/
def R.seqPc (p : Nat) : Nat := portPage p 0x1 + 0xB8
/-- `SEQ_VCOUNT0` (05, R123). -/
def R.seqVcount0 (p : Nat) : Nat := portPage p 0x1 + 0xC0
/-- `SEQ_VCOUNT1` (05, R123). -/
def R.seqVcount1 (p : Nat) : Nat := portPage p 0x1 + 0xC4
/-- `SEQ_WSMAP0` (05, R160). -/
def R.seqWsmap0 (p : Nat) (i : Nat) : Nat := portPage p 0x1 + 0x100 + 0x10 * i
/-- `SEQ_WSMAP1` (05, R160). -/
def R.seqWsmap1 (p : Nat) (i : Nat) : Nat := portPage p 0x1 + 0x104 + 0x10 * i
/-- `SEQ_WSMAP2` (05, R160). -/
def R.seqWsmap2 (p : Nat) (i : Nat) : Nat := portPage p 0x1 + 0x108 + 0x10 * i
/-- `LKS_TX_FMT` (05, R148). -/
def R.lksTxFmt (p : Nat) : Nat := portPage p 0x2 + 0x40
def F.lksTxFmtUtrack : Fld := ⟨9, 9⟩
def F.lksTxFmtBpu : Fld := ⟨8, 8⟩
def F.lksTxFmtChmask : Fld := ⟨7, 0⟩
/-- `LKS_RX_FMT` (05, R148). -/
def R.lksRxFmt (p : Nat) : Nat := portPage p 0x2 + 0x44
def F.lksRxFmtUtrack : Fld := ⟨9, 9⟩
def F.lksRxFmtBpu : Fld := ⟨8, 8⟩
def F.lksRxFmtChmask : Fld := ⟨7, 0⟩
/-- `LKS_DECL_PERIOD` (05, R148). -/
def R.lksDeclPeriod (p : Nat) : Nat := portPage p 0x2 + 0x48
/-- `LKS_TX_RATE` (05, R148). -/
def R.lksTxRate (p : Nat) : Nat := portPage p 0x2 + 0x4C
/-- `LKS_RX_RATE` (05, R148). -/
def R.lksRxRate (p : Nat) : Nat := portPage p 0x2 + 0x50
/-- `LKS_TX_WEIR` (05, R29). -/
def R.lksTxWeir (p : Nat) : Nat := portPage p 0x2 + 0x54
def F.lksTxWeirH : Fld := ⟨23, 16⟩
def F.lksTxWeirL : Fld := ⟨7, 0⟩
/-- `LKS_RX_WEIR` (05, R29). -/
def R.lksRxWeir (p : Nat) : Nat := portPage p 0x2 + 0x58
def F.lksRxWeirH : Fld := ⟨23, 16⟩
def F.lksRxWeirL : Fld := ⟨7, 0⟩
/-- `LKS_TX_FILL` (05, R151). -/
def R.lksTxFill (p : Nat) : Nat := portPage p 0x2 + 0x5C
def F.lksTxFillLowest : Fld := ⟨23, 16⟩
def F.lksTxFillFill : Fld := ⟨7, 0⟩
/-- `LKS_RX_FILL` (05, R151). -/
def R.lksRxFill (p : Nat) : Nat := portPage p 0x2 + 0x60
def F.lksRxFillLowest : Fld := ⟨23, 16⟩
def F.lksRxFillFree : Fld := ⟨7, 0⟩
/-- `LKS_PIN_BASE` (05, R155). -/
def R.lksPinBase (p : Nat) : Nat := portPage p 0x2 + 0x64
/-- `LKS_PIN_LEN` (05, R155). -/
def R.lksPinLen (p : Nat) : Nat := portPage p 0x2 + 0x68
/-- `LKS_ERR_DADDR_LO` (05, R154). -/
def R.lksErrDaddrLo (p : Nat) : Nat := portPage p 0x2 + 0x6C
/-- `LKS_ERR_DADDR_HI` (05, R154). -/
def R.lksErrDaddrHi (p : Nat) : Nat := portPage p 0x2 + 0x70
/-- `LKS_DESC_STAT` (05, R150). -/
def R.lksDescStat (p : Nat) : Nat := portPage p 0x2 + 0x74
def F.lksDescStatBadIdx : Fld := ⟨31, 28⟩
def F.lksDescStatBadValid : Fld := ⟨27, 27⟩
def F.lksDescStatBadRx : Fld := ⟨26, 26⟩
def F.lksDescStatRxd : Fld := ⟨11, 8⟩
def F.lksDescStatTxd : Fld := ⟨3, 0⟩
/-- `LKS_TXD0` (05, R149). -/
def R.lksTxd0 (p : Nat) (i : Nat) : Nat := portPage p 0x2 + 0x100 + 0x10 * i
def F.lksTxd0DaddrL : Fld := ⟨31, 11⟩
/-- `LKS_TXD1` (05, R149). -/
def R.lksTxd1 (p : Nat) (i : Nat) : Nat := portPage p 0x2 + 0x104 + 0x10 * i
def F.lksTxd1DaddrH : Fld := ⟨5, 0⟩
/-- `LKS_TXD2` (05, R149). -/
def R.lksTxd2 (p : Nat) (i : Nat) : Nat := portPage p 0x2 + 0x108 + 0x10 * i
def F.lksTxd2Barges : Fld := ⟨19, 0⟩
/-- `LKS_TXD3` (05, R149). -/
def R.lksTxd3 (p : Nat) (i : Nat) : Nat := portPage p 0x2 + 0x10C + 0x10 * i
def F.lksTxd3Valid : Fld := ⟨31, 31⟩
def F.lksTxd3Last : Fld := ⟨30, 30⟩
def F.lksTxd3Pin : Fld := ⟨29, 29⟩
def F.lksTxd3Repeat : Fld := ⟨15, 0⟩
/-- `LKS_RXD0` (05, R149). -/
def R.lksRxd0 (p : Nat) (i : Nat) : Nat := portPage p 0x2 + 0x200 + 0x10 * i
def F.lksRxd0DaddrL : Fld := ⟨31, 11⟩
/-- `LKS_RXD1` (05, R149). -/
def R.lksRxd1 (p : Nat) (i : Nat) : Nat := portPage p 0x2 + 0x204 + 0x10 * i
def F.lksRxd1DaddrH : Fld := ⟨5, 0⟩
/-- `LKS_RXD2` (05, R149). -/
def R.lksRxd2 (p : Nat) (i : Nat) : Nat := portPage p 0x2 + 0x208 + 0x10 * i
def F.lksRxd2Barges : Fld := ⟨19, 0⟩
/-- `LKS_RXD3` (05, R149). -/
def R.lksRxd3 (p : Nat) (i : Nat) : Nat := portPage p 0x2 + 0x20C + 0x10 * i
def F.lksRxd3Valid : Fld := ⟨31, 31⟩
def F.lksRxd3Last : Fld := ⟨30, 30⟩
def F.lksRxd3Pin : Fld := ⟨29, 29⟩
def F.lksRxd3Repeat : Fld := ⟨15, 0⟩
/-- `APG_CTRL` (06, R162). -/
def R.apgCtrl (p : Nat) : Nat := portPage p 0x3 + 0x40
def F.apgCtrlVspol : Fld := ⟨2, 2⟩
def F.apgCtrlHspol : Fld := ⟨1, 1⟩
def F.apgCtrlResume : Fld := ⟨0, 0⟩
/-- `APG_STAT` (06, R162). -/
def R.apgStat (p : Nat) : Nat := portPage p 0x3 + 0x44
def F.apgStatState : Fld := ⟨31, 28⟩
def F.apgStatUpc : Fld := ⟨19, 16⟩
def F.apgStatWrapped : Fld := ⟨8, 8⟩
/-- `APG_XSIZE` (06, R165). -/
def R.apgXsize (p : Nat) : Nat := portPage p 0x3 + 0x48
/-- `APG_YSIZE` (06, R165). -/
def R.apgYsize (p : Nat) : Nat := portPage p 0x3 + 0x4C
/-- `APG_HACT` (06, R166). -/
def R.apgHact (p : Nat) : Nat := portPage p 0x3 + 0x50
/-- `APG_VACT` (06, R166). -/
def R.apgVact (p : Nat) : Nat := portPage p 0x3 + 0x54
/-- `APG_HSYNC` (06, R166). -/
def R.apgHsync (p : Nat) : Nat := portPage p 0x3 + 0x58
def F.apgHsyncHsWidth : Fld := ⟨31, 16⟩
def F.apgHsyncHsStart : Fld := ⟨15, 0⟩
/-- `APG_VSYNC` (06, R166). -/
def R.apgVsync (p : Nat) : Nat := portPage p 0x3 + 0x5C
def F.apgVsyncVsWidth : Fld := ⟨31, 16⟩
def F.apgVsyncVsStart : Fld := ⟨15, 0⟩
/-- `APG_ORDER0` (06, R168). -/
def R.apgOrder0 (p : Nat) : Nat := portPage p 0x3 + 0x60
def F.apgOrder0Swap : Fld := ⟨5, 5⟩
def F.apgOrder0Down : Fld := ⟨4, 4⟩
def F.apgOrder0Order : Fld := ⟨3, 0⟩
/-- `APG_DCONST` (06, R170). -/
def R.apgDconst (p : Nat) : Nat := portPage p 0x3 + 0x64
/-- `APG_RSTEP` (06, R170). -/
def R.apgRstep (p : Nat) : Nat := portPage p 0x3 + 0x68
/-- `APG_SHIFT` (06, R170). -/
def R.apgShift (p : Nat) : Nat := portPage p 0x3 + 0x6C
def F.apgShiftDwidth : Fld := ⟨12, 8⟩
def F.apgShiftSy : Fld := ⟨7, 4⟩
def F.apgShiftSx : Fld := ⟨3, 0⟩
/-- `APG_BARW` (06, R170). -/
def R.apgBarw (p : Nat) : Nat := portPage p 0x3 + 0x70
/-- `APG_CMP_DELAY` (06, R164). -/
def R.apgCmpDelay (p : Nat) : Nat := portPage p 0x3 + 0x74
/-- `APG_LANEFILL` (06, R162). -/
def R.apgLanefill (p : Nat) : Nat := portPage p 0x3 + 0x78
/-- `APG_CRC` (06, R172). -/
def R.apgCrc (p : Nat) : Nat := portPage p 0x3 + 0x7C
def F.apgCrcCmp : Fld := ⟨31, 16⟩
def F.apgCrcTx : Fld := ⟨15, 0⟩
/-- `APG_BAR` (06, R170). -/
def R.apgBar (p : Nat) (i : Nat) : Nat := portPage p 0x3 + 0x80 + 0x4 * i
/-- `APG_CONST` (06, R170). -/
def R.apgConst (p : Nat) (i : Nat) : Nat := portPage p 0x3 + 0xA0 + 0x4 * i
/-- `APG_LFSR_CFG` (06, R171). -/
def R.apgLfsrCfg (p : Nat) (i : Nat) : Nat := portPage p 0x3 + 0xB0 + 0x8 * i
def F.apgLfsrCfgInv : Fld := ⟨3, 3⟩
def F.apgLfsrCfgPoly : Fld := ⟨2, 0⟩
/-- `APG_LFSR_SEED` (06, R171). -/
def R.apgLfsrSeed (p : Nat) (i : Nat) : Nat := portPage p 0x3 + 0xB4 + 0x8 * i
/-- `APG_LC` (06, R173). -/
def R.apgLc (p : Nat) (i : Nat) : Nat := portPage p 0x3 + 0xD0 + 0x4 * i
/-- `APG_BLANK` (06, R177). -/
def R.apgBlank (p : Nat) : Nat := portPage p 0x3 + 0xD8
/-- `APG_COMP` (06, R176). -/
def R.apgComp (p : Nat) (i : Nat) : Nat := portPage p 0x3 + 0xE0 + 0x4 * i
def F.apgCompShift : Fld := ⟨4, 0⟩
/-- `APG_TXPACK` (06, R176). -/
def R.apgTxpack (p : Nat) : Nat := portPage p 0x3 + 0xF0
def F.apgTxpackBlankEmit : Fld := ⟨17, 17⟩
def F.apgTxpackMsbf : Fld := ⟨16, 16⟩
def F.apgTxpackCfmt : Fld := ⟨13, 12⟩
def F.apgTxpackBpc : Fld := ⟨10, 8⟩
def F.apgTxpackNlanes : Fld := ⟨7, 4⟩
def F.apgTxpackMap : Fld := ⟨3, 0⟩
/-- `APG_TXLANES` (06, R176). -/
def R.apgTxlanes (p : Nat) : Nat := portPage p 0x3 + 0xF4
/-- `APG_CMPPACK` (06, R176). -/
def R.apgCmppack (p : Nat) : Nat := portPage p 0x3 + 0xF8
def F.apgCmppackBlankEmit : Fld := ⟨17, 17⟩
def F.apgCmppackMsbf : Fld := ⟨16, 16⟩
def F.apgCmppackCfmt : Fld := ⟨13, 12⟩
def F.apgCmppackBpc : Fld := ⟨10, 8⟩
def F.apgCmppackNlanes : Fld := ⟨7, 4⟩
def F.apgCmppackMap : Fld := ⟨3, 0⟩
/-- `APG_CMPLANES` (06, R176). -/
def R.apgCmplanes (p : Nat) : Nat := portPage p 0x3 + 0xFC
/-- `APG_UCODE_LO` (06, R173). -/
def R.apgUcodeLo (p : Nat) (i : Nat) : Nat := portPage p 0x3 + 0x100 + 0x8 * i
/-- `APG_UCODE_HI` (06, R173). -/
def R.apgUcodeHi (p : Nat) (i : Nat) : Nat := portPage p 0x3 + 0x104 + 0x8 * i
/-- `APG_K0` (06, R165). -/
def R.apgK0 (p : Nat) : Nat := portPage p 0x3 + 0x180
/-- `APG_K1` (06, R165). -/
def R.apgK1 (p : Nat) : Nat := portPage p 0x3 + 0x184
def F.apgK1Y : Fld := ⟨31, 16⟩
def F.apgK1X : Fld := ⟨15, 0⟩
/-- `CDC_CFG` (06, R179). -/
def R.cdcCfg (p : Nat) (i : Nat) : Nat := portPage p 0x4 + 0x40 + 0x10 * i
def F.cdcCfgLossN : Fld := ⟨31, 24⟩
def F.cdcCfgLockN : Fld := ⟨23, 16⟩
def F.cdcCfgBflag : Fld := ⟨14, 12⟩
def F.cdcCfgErrfail : Fld := ⟨11, 11⟩
def F.cdcCfgAlignFixed : Fld := ⟨10, 10⟩
def F.cdcCfgRxDec : Fld := ⟨9, 9⟩
def F.cdcCfgFill : Fld := ⟨7, 7⟩
def F.cdcCfgScrEn : Fld := ⟨6, 6⟩
def F.cdcCfgLane : Fld := ⟨5, 4⟩
def F.cdcCfgMode : Fld := ⟨3, 0⟩
/-- `CDC_GOFS` (06, R179). -/
def R.cdcGofs (p : Nat) (i : Nat) : Nat := portPage p 0x4 + 0x44 + 0x10 * i
def F.cdcGofsRxOfs : Fld := ⟨23, 16⟩
def F.cdcGofsTxOfs : Fld := ⟨7, 0⟩
/-- `CDC_RXSTAT` (06, R187). -/
def R.cdcRxstat (p : Nat) (i : Nat) : Nat := portPage p 0x4 + 0x48 + 0x10 * i
def F.cdcRxstatLocked : Fld := ⟨31, 31⟩
def F.cdcRxstatHunting : Fld := ⟨30, 30⟩
def F.cdcRxstatLosses : Fld := ⟨23, 16⟩
def F.cdcRxstatPhase : Fld := ⟨7, 0⟩
/-- `CDC_ERR` (06, R189). -/
def R.cdcErr (p : Nat) (i : Nat) : Nat := portPage p 0x4 + 0x4C + 0x10 * i
def F.cdcErrCode : Fld := ⟨31, 16⟩
def F.cdcErrDisp : Fld := ⟨15, 0⟩
/-- `CDC_DPHY0` (06, R183). -/
def R.cdcDphy0 (p : Nat) : Nat := portPage p 0x4 + 0xC0
def F.cdcDphy0TPrep : Fld := ⟨31, 16⟩
def F.cdcDphy0TLpx : Fld := ⟨15, 0⟩
/-- `CDC_DPHY1` (06, R183). -/
def R.cdcDphy1 (p : Nat) : Nat := portPage p 0x4 + 0xC4
def F.cdcDphy1TTrail : Fld := ⟨31, 16⟩
def F.cdcDphy1TZero : Fld := ⟨15, 0⟩
/-- `CDC_UNLOCKED` (06, R188). -/
def R.cdcUnlocked (p : Nat) : Nat := portPage p 0x4 + 0xC8
/-- `CDC_FILL` (06, R182). -/
def R.cdcFill (p : Nat) (i : Nat) : Nat := portPage p 0x4 + 0xE0 + 0x4 * i
/-- `TSA_TRIM` (07, R217). -/
def R.tsaTrim (p : Nat) : Nat := portPage p 0x5 + 0x40
def F.tsaTrimDtemp : Fld := ⟨23, 16⟩
def F.tsaTrimInterval : Fld := ⟨15, 0⟩
/-- `TSA_RJ_SEED` (07, R212). -/
def R.tsaRjSeed (p : Nat) : Nat := portPage p 0x5 + 0x44
/-- `TSA_TRIM_AGE` (07, R217). -/
def R.tsaTrimAge (p : Nat) : Nat := portPage p 0x5 + 0x48
def F.tsaTrimAgeMove : Fld := ⟨31, 16⟩
def F.tsaTrimAgeAge : Fld := ⟨15, 0⟩
/-- `TS_PER0` (07, R191). -/
def R.tsPer0 (p : Nat) (i : Nat) : Nat := portPage p 0x5 + 0x100 + 0x40 * i
def F.tsPer0Frac : Fld := ⟨23, 0⟩
/-- `TS_PER1` (07, R191). -/
def R.tsPer1 (p : Nat) (i : Nat) : Nat := portPage p 0x5 + 0x104 + 0x40 * i
def F.tsPer1Int : Fld := ⟨31, 0⟩
/-- `TS_EPOCH0` (07, R191). -/
def R.tsEpoch0 (p : Nat) (i : Nat) : Nat := portPage p 0x5 + 0x108 + 0x40 * i
/-- `TS_EPOCH1` (07, R191). -/
def R.tsEpoch1 (p : Nat) (i : Nat) : Nat := portPage p 0x5 + 0x10C + 0x40 * i
/-- `TS_EPOCH2` (07, R191). -/
def R.tsEpoch2 (p : Nat) (i : Nat) : Nat := portPage p 0x5 + 0x110 + 0x40 * i
/-- `TS_SSCP` (07, R208). -/
def R.tsSscp (p : Nat) (i : Nat) : Nat := portPage p 0x5 + 0x114 + 0x40 * i
/-- `TS_SSC` (07, R208). -/
def R.tsSsc (p : Nat) (i : Nat) : Nat := portPage p 0x5 + 0x118 + 0x40 * i
def F.tsSscSpread : Fld := ⟨16, 0⟩
/-- `TS_SJ` (07, R211). -/
def R.tsSj (p : Nat) (i : Nat) : Nat := portPage p 0x5 + 0x11C + 0x40 * i
def F.tsSjSjDrv : Fld := ⟨31, 31⟩
def F.tsSjSjStb : Fld := ⟨30, 30⟩
def F.tsSjSjAmp : Fld := ⟨25, 0⟩
/-- `TS_RJ` (07, R212). -/
def R.tsRj (p : Nat) (i : Nat) : Nat := portPage p 0x5 + 0x120 + 0x40 * i
def F.tsRjRjDrv : Fld := ⟨31, 31⟩
def F.tsRjRjStb : Fld := ⟨30, 30⟩
def F.tsRjRjSigma : Fld := ⟨18, 0⟩
/-- `TS_STAT` (07, R193). -/
def R.tsStat (p : Nat) (i : Nat) : Nat := portPage p 0x5 + 0x124 + 0x40 * i
def F.tsStatInUse : Fld := ⟨31, 31⟩
def F.tsStatPending : Fld := ⟨30, 30⟩
def F.tsStatSeams : Fld := ⟨15, 0⟩
/-- `TS_SEAM_LEN` (07, R205). -/
def R.tsSeamLen (p : Nat) (i : Nat) : Nat := portPage p 0x5 + 0x128 + 0x40 * i
/-- `TS_SEAM_AT0` (07, R205). -/
def R.tsSeamAt0 (p : Nat) (i : Nat) : Nat := portPage p 0x5 + 0x12C + 0x40 * i
/-- `TS_SEAM_AT1` (07, R205). -/
def R.tsSeamAt1 (p : Nat) (i : Nat) : Nat := portPage p 0x5 + 0x130 + 0x40 * i
/-- `TS_SEAM_AT2` (07, R205). -/
def R.tsSeamAt2 (p : Nat) (i : Nat) : Nat := portPage p 0x5 + 0x134 + 0x40 * i
/-- `DDS_FTW0` (07, R209). -/
def R.ddsFtw0 (p : Nat) : Nat := portPage p 0x6 + 0x44
/-- `DDS_FTW1` (07, R209). -/
def R.ddsFtw1 (p : Nat) : Nat := portPage p 0x6 + 0x48
/-- `DDS_PHOFS` (07, R209). -/
def R.ddsPhofs (p : Nat) : Nat := portPage p 0x6 + 0x4C
/-- `DDS_EPOCH0` (07, R209). -/
def R.ddsEpoch0 (p : Nat) : Nat := portPage p 0x6 + 0x50
/-- `DDS_EPOCH1` (07, R209). -/
def R.ddsEpoch1 (p : Nat) : Nat := portPage p 0x6 + 0x54
/-- `DDS_EPOCH2` (07, R209). -/
def R.ddsEpoch2 (p : Nat) : Nat := portPage p 0x6 + 0x58
/-- `DDS_STAT` (07, R211). -/
def R.ddsStat (p : Nat) : Nat := portPage p 0x6 + 0x5C
def F.ddsStatSjLimited : Fld := ⟨31, 31⟩
def F.ddsStatPhase : Fld := ⟨15, 0⟩
/-- `TRG_HORIZON` (11, R314). -/
def R.trgHorizon (p : Nat) : Nat := portPage p 0x7 + 0x40
/-- `TRG_OUT` (11, R324). -/
def R.trgOut (p : Nat) : Nat := portPage p 0x7 + 0x44
def F.trgOutOwidth : Fld := ⟨31, 24⟩
def F.trgOutOsel : Fld := ⟨15, 8⟩
def F.trgOutOwn : Fld := ⟨3, 0⟩
/-- `TRG_STAT` (11, R314). -/
def R.trgStat (p : Nat) : Nat := portPage p 0x7 + 0x48
def F.trgStatState : Fld := ⟨29, 28⟩
def F.trgStatHits : Fld := ⟨23, 16⟩
/-- `TRG_LATE_CNT` (11, R314). -/
def R.trgLateCnt (p : Nat) : Nat := portPage p 0x7 + 0x4C
/-- `TRG_ST_CTRL` (11, R315). -/
def R.trgStCtrl (p : Nat) (i : Nat) : Nat := portPage p 0x7 + 0x80 + 0x8 * i
def F.trgStCtrlTmoFire : Fld := ⟨18, 18⟩
def F.trgStCtrlTmoNext : Fld := ⟨17, 16⟩
def F.trgStCtrlNext : Fld := ⟨13, 12⟩
def F.trgStCtrlAct : Fld := ⟨10, 9⟩
def F.trgStCtrlAll : Fld := ⟨8, 8⟩
def F.trgStCtrlCond : Fld := ⟨7, 0⟩
/-- `TRG_ST_TMO` (11, R315). -/
def R.trgStTmo (p : Nat) (i : Nat) : Nat := portPage p 0x7 + 0x84 + 0x8 * i
/-- `TRG_CU_CFG` (11, R311). -/
def R.trgCuCfg (p : Nat) (i : Nat) : Nat := portPage p 0x7 + 0x100 + 0x20 * i
def F.trgCuCfgSel : Fld := ⟨19, 16⟩
def F.trgCuCfgMode : Fld := ⟨11, 8⟩
def F.trgCuCfgType : Fld := ⟨3, 0⟩
/-- `TRG_CU_PARAM` (11, R311). -/
def R.trgCuParam (p : Nat) (i : Nat) : Nat := portPage p 0x7 + 0x104 + 0x20 * i
/-- `TRG_CU_VAL_LO` (11, R311). -/
def R.trgCuValLo (p : Nat) (i : Nat) : Nat := portPage p 0x7 + 0x108 + 0x20 * i
/-- `TRG_CU_VAL_HI` (11, R311). -/
def R.trgCuValHi (p : Nat) (i : Nat) : Nat := portPage p 0x7 + 0x10C + 0x20 * i
/-- `TRG_CU_MASK_LO` (11, R311). -/
def R.trgCuMaskLo (p : Nat) (i : Nat) : Nat := portPage p 0x7 + 0x110 + 0x20 * i
/-- `TRG_CU_MASK_HI` (11, R311). -/
def R.trgCuMaskHi (p : Nat) (i : Nat) : Nat := portPage p 0x7 + 0x114 + 0x20 * i
/-- `TRG_CU_HITS` (11, R311). -/
def R.trgCuHits (p : Nat) (i : Nat) : Nat := portPage p 0x7 + 0x118 + 0x20 * i
/-- `ACQ_CTRL` (11, R318). -/
def R.acqCtrl (p : Nat) : Nat := portPage p 0x8 + 0x40
def F.acqCtrlForce : Fld := ⟨3, 3⟩
def F.acqCtrlDisarm : Fld := ⟨1, 1⟩
def F.acqCtrlArm : Fld := ⟨0, 0⟩
/-- `ACQ_CFG` (11, R318). -/
def R.acqCfg (p : Nat) : Nat := portPage p 0x8 + 0x44
def F.acqCfgPreFull : Fld := ⟨3, 3⟩
def F.acqCfgFullPol : Fld := ⟨2, 2⟩
def F.acqCfgRing : Fld := ⟨1, 1⟩
def F.acqCfgDest : Fld := ⟨0, 0⟩
/-- `ACQ_STAT` (11, R318). -/
def R.acqStat (p : Nat) : Nat := portPage p 0x8 + 0x48
def F.acqStatState : Fld := ⟨31, 28⟩
def F.acqStatTriggered : Fld := ⟨27, 27⟩
/-- `ACQ_PRE` (11, R319). -/
def R.acqPre (p : Nat) : Nat := portPage p 0x8 + 0x4C
/-- `ACQ_POST` (11, R319). -/
def R.acqPost (p : Nat) : Nat := portPage p 0x8 + 0x50
/-- `ACQ_NSLOT` (11, R309). -/
def R.acqNslot (p : Nat) : Nat := portPage p 0x8 + 0x54
/-- `ACQ_NREC` (11, R320). -/
def R.acqNrec (p : Nat) : Nat := portPage p 0x8 + 0x58
/-- `ACQ_BASE_LO` (11, R309). -/
def R.acqBaseLo (p : Nat) : Nat := portPage p 0x8 + 0x5C
/-- `ACQ_BASE_HI` (11, R309). -/
def R.acqBaseHi (p : Nat) : Nat := portPage p 0x8 + 0x60
/-- `ACQ_DESC_BASE_LO` (11, R309). -/
def R.acqDescBaseLo (p : Nat) : Nat := portPage p 0x8 + 0x64
/-- `ACQ_DESC_BASE_HI` (11, R309). -/
def R.acqDescBaseHi (p : Nat) : Nat := portPage p 0x8 + 0x68
/-- `ACQ_SLOT_ROUNDS` (11, R309). -/
def R.acqSlotRounds (p : Nat) : Nat := portPage p 0x8 + 0x6C
/-- `ACQ_ROUND_BYTES` (11, R309). -/
def R.acqRoundBytes (p : Nat) : Nat := portPage p 0x8 + 0x70
/-- `ACQ_WPTR` (11, R320). -/
def R.acqWptr (p : Nat) : Nat := portPage p 0x8 + 0x74
/-- `ACQ_RPTR` (11, R320). -/
def R.acqRptr (p : Nat) : Nat := portPage p 0x8 + 0x78
/-- `ACQ_MISSED` (11, R320). -/
def R.acqMissed (p : Nat) : Nat := portPage p 0x8 + 0x7C
/-- `ACQ_MISSED_GTC0` (11, R320). -/
def R.acqMissedGtc0 (p : Nat) : Nat := portPage p 0x8 + 0x80
/-- `ACQ_MISSED_GTC1` (11, R320). -/
def R.acqMissedGtc1 (p : Nat) : Nat := portPage p 0x8 + 0x84
/-- `ACQ_MISSED_GTC2` (11, R320). -/
def R.acqMissedGtc2 (p : Nat) : Nat := portPage p 0x8 + 0x88
/-- `ACQ_EARLY_IGN` (11, R319). -/
def R.acqEarlyIgn (p : Nat) : Nat := portPage p 0x8 + 0x8C
/-- `ACQ_DRAM_ERR_CNT` (11, R323). -/
def R.acqDramErrCnt (p : Nat) : Nat := portPage p 0x8 + 0x90
/-- `MSK_CTRL` (11, R330). -/
def R.mskCtrl (p : Nat) : Nat := portPage p 0x9 + 0x40
def F.mskCtrlClr : Fld := ⟨8, 8⟩
def F.mskCtrlStopAct : Fld := ⟨5, 4⟩
def F.mskCtrlStrEn : Fld := ⟨1, 1⟩
def F.mskCtrlEyeEn : Fld := ⟨0, 0⟩
/-- `MSK_STAT` (11, R330). -/
def R.mskStat (p : Nat) : Nat := portPage p 0x9 + 0x44
def F.mskStatViol : Fld := ⟨31, 31⟩
def F.mskStatLate : Fld := ⟨30, 30⟩
def F.mskStatSrc : Fld := ⟨29, 29⟩
def F.mskStatChan : Fld := ⟨26, 24⟩
/-- `MSK_EYE_CFG` (11, R327). -/
def R.mskEyeCfg (p : Nat) : Nat := portPage p 0x9 + 0x48
def F.mskEyeCfgNv : Fld := ⟨20, 16⟩
def F.mskEyeCfgEyeCh : Fld := ⟨2, 0⟩
/-- `MSK_EYE_LIM` (11, R328). -/
def R.mskEyeLim (p : Nat) : Nat := portPage p 0x9 + 0x4C
/-- `MSK_STR_CFG` (11, R329). -/
def R.mskStrCfg (p : Nat) : Nat := portPage p 0x9 + 0x50
def F.mskStrCfgTolAlt : Fld := ⟨31, 24⟩
def F.mskStrCfgTol : Fld := ⟨23, 16⟩
def F.mskStrCfgAltSf : Fld := ⟨14, 12⟩
def F.mskStrCfgAltEn : Fld := ⟨11, 11⟩
def F.mskStrCfgLanes : Fld := ⟨7, 0⟩
/-- `MSK_VIOL_CNT` (11, R330). -/
def R.mskViolCnt (p : Nat) : Nat := portPage p 0x9 + 0x54
/-- `MSK_VIOL_SAMPLE_LO` (11, R330). -/
def R.mskViolSampleLo (p : Nat) : Nat := portPage p 0x9 + 0x60
/-- `MSK_VIOL_SAMPLE_HI` (11, R330). -/
def R.mskViolSampleHi (p : Nat) : Nat := portPage p 0x9 + 0x64
/-- `MSK_VIOL_GTC0` (11, R330). -/
def R.mskViolGtc0 (p : Nat) : Nat := portPage p 0x9 + 0x68
/-- `MSK_VIOL_GTC1` (11, R330). -/
def R.mskViolGtc1 (p : Nat) : Nat := portPage p 0x9 + 0x6C
/-- `MSK_VIOL_GTC2` (11, R330). -/
def R.mskViolGtc2 (p : Nat) : Nat := portPage p 0x9 + 0x70
/-- `MSK_VIOL_POS` (11, R330). -/
def R.mskViolPos (p : Nat) : Nat := portPage p 0x9 + 0x74
/-- `MSK_VIOL_DATA` (11, R330). -/
def R.mskViolData (p : Nat) : Nat := portPage p 0x9 + 0x78
def F.mskViolDataTagv : Fld := ⟨31, 31⟩
def F.mskViolDataIdx : Fld := ⟨27, 24⟩
def F.mskViolDataExp : Fld := ⟨15, 8⟩
def F.mskViolDataGot : Fld := ⟨7, 0⟩
/-- `MSK_VIOL_COUNT` (11, R330). -/
def R.mskViolCount (p : Nat) : Nat := portPage p 0x9 + 0x7C
/-- `MSK_EYE_V` (11, R327). -/
def R.mskEyeV (p : Nat) (i : Nat) : Nat := portPage p 0x9 + 0x100 + 0x4 * i
def F.mskEyeVT : Fld := ⟨7, 0⟩
/-- `FLP_CTRL` (10, R304). -/
def R.flpCtrl (p : Nat) : Nat := portPage p 0xA + 0x40
def F.flpCtrlStopAct : Fld := ⟨27, 26⟩
def F.flpCtrlLogPol : Fld := ⟨24, 24⟩
def F.flpCtrlFmode : Fld := ⟨17, 16⟩
def F.flpCtrlBmFlush : Fld := ⟨3, 3⟩
def F.flpCtrlFirstClr : Fld := ⟨2, 2⟩
def F.flpCtrlCntClr : Fld := ⟨1, 1⟩
def F.flpCtrlSnap : Fld := ⟨0, 0⟩
/-- `FLP_STAT` (10, R304). -/
def R.flpStat (p : Nat) : Nat := portPage p 0xA + 0x44
def F.flpStatFrozen : Fld := ⟨31, 31⟩
def F.flpStatStopped : Fld := ⟨30, 30⟩
def F.flpStatFirstValid : Fld := ⟨29, 29⟩
def F.flpStatSnapBusy : Fld := ⟨28, 28⟩
def F.flpStatBmPending : Fld := ⟨27, 27⟩
def F.flpStatLogFull : Fld := ⟨26, 26⟩
def F.flpStatStaged : Fld := ⟨10, 0⟩
/-- `FLP_PINMASK` (10, R296). -/
def R.flpPinmask (p : Nat) : Nat := portPage p 0xA + 0x48
/-- `FLP_STOP_N` (10, R304). -/
def R.flpStopN (p : Nat) : Nat := portPage p 0xA + 0x4C
/-- `FLP_FAILVEC_LO` (10, R295). -/
def R.flpFailvecLo (p : Nat) : Nat := portPage p 0xA + 0x50
/-- `FLP_FAILVEC_HI` (10, R295). -/
def R.flpFailvecHi (p : Nat) : Nat := portPage p 0xA + 0x54
/-- `FLP_LOG_BASE_LO` (10, R298). -/
def R.flpLogBaseLo (p : Nat) : Nat := portPage p 0xA + 0x58
/-- `FLP_LOG_BASE_HI` (10, R298). -/
def R.flpLogBaseHi (p : Nat) : Nat := portPage p 0xA + 0x5C
/-- `FLP_LOG_LEN` (10, R298). -/
def R.flpLogLen (p : Nat) : Nat := portPage p 0xA + 0x60
/-- `FLP_LOG_WPTR` (10, R298). -/
def R.flpLogWptr (p : Nat) : Nat := portPage p 0xA + 0x64
/-- `FLP_LOG_RPTR` (10, R298). -/
def R.flpLogRptr (p : Nat) : Nat := portPage p 0xA + 0x68
/-- `FLP_LOG_LOST` (10, R299). -/
def R.flpLogLost (p : Nat) : Nat := portPage p 0xA + 0x6C
/-- `FLP_BM_BASE_LO` (10, R300). -/
def R.flpBmBaseLo (p : Nat) : Nat := portPage p 0xA + 0x70
/-- `FLP_BM_BASE_HI` (10, R300). -/
def R.flpBmBaseHi (p : Nat) : Nat := portPage p 0xA + 0x74
/-- `FLP_BM_STRIDE` (10, R300). -/
def R.flpBmStride (p : Nat) : Nat := portPage p 0xA + 0x78
/-- `FLP_BM_NEW` (10, R301). -/
def R.flpBmNew (p : Nat) : Nat := portPage p 0xA + 0x7C
/-- `FLP_RAW_CFG` (10, R303). -/
def R.flpRawCfg (p : Nat) : Nat := portPage p 0xA + 0x80
def F.flpRawCfgUrawSel : Fld := ⟨0, 0⟩
/-- `FLP_DRAM_ERR_CNT` (10, R299). -/
def R.flpDramErrCnt (p : Nat) : Nat := portPage p 0xA + 0x84
/-- `FLP_SNAP_GTC0` (10, R295). -/
def R.flpSnapGtc0 (p : Nat) : Nat := portPage p 0xA + 0xA0
/-- `FLP_SNAP_GTC1` (10, R295). -/
def R.flpSnapGtc1 (p : Nat) : Nat := portPage p 0xA + 0xA4
/-- `FLP_SNAP_GTC2` (10, R295). -/
def R.flpSnapGtc2 (p : Nat) : Nat := portPage p 0xA + 0xA8
/-- `FLP_FIRST` (10, R296). -/
def R.flpFirst (p : Nat) (i : Nat) : Nat := portPage p 0xA + 0xC0 + 0x4 * i
/-- `FLP_FAILS_LO` (10, R295). -/
def R.flpFailsLo (p : Nat) (i : Nat) : Nat := portPage p 0xA + 0x200 + 0x20 * i
/-- `FLP_FAILS_HI` (10, R295). -/
def R.flpFailsHi (p : Nat) (i : Nat) : Nat := portPage p 0xA + 0x204 + 0x20 * i
/-- `FLP_BITS_LO` (10, R295). -/
def R.flpBitsLo (p : Nat) (i : Nat) : Nat := portPage p 0xA + 0x208 + 0x20 * i
/-- `FLP_BITS_HI` (10, R295). -/
def R.flpBitsHi (p : Nat) (i : Nat) : Nat := portPage p 0xA + 0x20C + 0x20 * i
/-- `FLP_ERRBITS_LO` (10, R295). -/
def R.flpErrbitsLo (p : Nat) (i : Nat) : Nat := portPage p 0xA + 0x210 + 0x20 * i
/-- `FLP_ERRBITS_HI` (10, R295). -/
def R.flpErrbitsHi (p : Nat) (i : Nat) : Nat := portPage p 0xA + 0x214 + 0x20 * i
/-- `CEC_STAT` (12, R339). -/
def R.cecStat (p : Nat) : Nat := portPage p 0xB + 0x44
def F.cecStatLinesReady : Fld := ⟨31, 31⟩
def F.cecStatDriving : Fld := ⟨30, 30⟩
def F.cecStatBusBusy : Fld := ⟨29, 29⟩
def F.cecStatCmdBusy : Fld := ⟨28, 28⟩
/-- `CEC_CMD_WPTR` (12, R339). -/
def R.cecCmdWptr (p : Nat) : Nat := portPage p 0xB + 0x48
/-- `CEC_CMD_RPTR` (12, R339). -/
def R.cecCmdRptr (p : Nat) : Nat := portPage p 0xB + 0x4C
/-- `CEC_REC_WPTR` (12, R338). -/
def R.cecRecWptr (p : Nat) : Nat := portPage p 0xB + 0x50
/-- `CEC_REC_RPTR` (12, R338). -/
def R.cecRecRptr (p : Nat) : Nat := portPage p 0xB + 0x54
/-- `CEC_REC_LOST` (12, R340). -/
def R.cecRecLost (p : Nat) : Nat := portPage p 0xB + 0x58
/-- `CEC_ABORT` (12, R342). -/
def R.cecAbort (p : Nat) : Nat := portPage p 0xB + 0x5C
def F.cecAbortFlush : Fld := ⟨1, 1⟩
def F.cecAbortAbort : Fld := ⟨0, 0⟩
/-- `CEC_CFG` (12, R345). -/
def R.cecCfg (p : Nat) : Nat := portPage p 0xB + 0x80
def F.cecCfgTolx : Fld := ⟨31, 24⟩
def F.cecCfgFilt : Fld := ⟨23, 16⟩
def F.cecCfgRetry : Fld := ⟨11, 9⟩
def F.cecCfgErrnote : Fld := ⟨8, 8⟩
def F.cecCfgRole : Fld := ⟨0, 0⟩
/-- `CEC_LA` (12, R345). -/
def R.cecLa (p : Nat) : Nat := portPage p 0xB + 0x84
def F.cecLaEn : Fld := ⟨19, 16⟩
def F.cecLaLa3 : Fld := ⟨15, 12⟩
def F.cecLaLa2 : Fld := ⟨11, 8⟩
def F.cecLaLa1 : Fld := ⟨7, 4⟩
def F.cecLaLa0 : Fld := ⟨3, 0⟩
/-- `CEC_CNT` (12, R346). -/
def R.cecCnt (p : Nat) : Nat := portPage p 0xB + 0x88
def F.cecCntArb : Fld := ⟨31, 16⟩
def F.cecCntColl : Fld := ⟨15, 0⟩
/-- `DDC_STAT` (12, R339). -/
def R.ddcStat (p : Nat) : Nat := portPage p 0xC + 0x44
def F.ddcStatLinesReady : Fld := ⟨31, 31⟩
def F.ddcStatDriving : Fld := ⟨30, 30⟩
def F.ddcStatBusBusy : Fld := ⟨29, 29⟩
def F.ddcStatCmdBusy : Fld := ⟨28, 28⟩
/-- `DDC_CMD_WPTR` (12, R339). -/
def R.ddcCmdWptr (p : Nat) : Nat := portPage p 0xC + 0x48
/-- `DDC_CMD_RPTR` (12, R339). -/
def R.ddcCmdRptr (p : Nat) : Nat := portPage p 0xC + 0x4C
/-- `DDC_REC_WPTR` (12, R338). -/
def R.ddcRecWptr (p : Nat) : Nat := portPage p 0xC + 0x50
/-- `DDC_REC_RPTR` (12, R338). -/
def R.ddcRecRptr (p : Nat) : Nat := portPage p 0xC + 0x54
/-- `DDC_REC_LOST` (12, R340). -/
def R.ddcRecLost (p : Nat) : Nat := portPage p 0xC + 0x58
/-- `DDC_ABORT` (12, R342). -/
def R.ddcAbort (p : Nat) : Nat := portPage p 0xC + 0x5C
def F.ddcAbortFlush : Fld := ⟨1, 1⟩
def F.ddcAbortAbort : Fld := ⟨0, 0⟩
/-- `DDC_CFG` (12, R348). -/
def R.ddcCfg (p : Nat) : Nat := portPage p 0xC + 0x80
def F.ddcCfgStretchMax : Fld := ⟨31, 16⟩
def F.ddcCfgBusyTmo : Fld := ⟨15, 12⟩
def F.ddcCfgRetry : Fld := ⟨11, 9⟩
def F.ddcCfgFilt : Fld := ⟨7, 4⟩
def F.ddcCfgSpeed : Fld := ⟨3, 2⟩
def F.ddcCfgRole : Fld := ⟨0, 0⟩
/-- `DDC_CNT` (12, R349). -/
def R.ddcCnt (p : Nat) : Nat := portPage p 0xC + 0x84
def F.ddcCntArb : Fld := ⟨31, 16⟩
def F.ddcCntBuserr : Fld := ⟨15, 0⟩
/-- `DDC_RESP_CFG` (12, R350). -/
def R.ddcRespCfg (p : Nat) (i : Nat) : Nat := portPage p 0xC + 0xC0 + 0x4 * i
def F.ddcRespCfgEn : Fld := ⟨31, 31⟩
def F.ddcRespCfgHold : Fld := ⟨30, 30⟩
def F.ddcRespCfgWr : Fld := ⟨29, 29⟩
def F.ddcRespCfgSeg : Fld := ⟨28, 28⟩
def F.ddcRespCfgAddr : Fld := ⟨22, 16⟩
def F.ddcRespCfgSize : Fld := ⟨15, 8⟩
def F.ddcRespCfgBase : Fld := ⟨6, 0⟩
/-- `AUX_STAT` (12, R339). -/
def R.auxStat (p : Nat) : Nat := portPage p 0xD + 0x44
def F.auxStatLinesReady : Fld := ⟨31, 31⟩
def F.auxStatDriving : Fld := ⟨30, 30⟩
def F.auxStatBusBusy : Fld := ⟨29, 29⟩
def F.auxStatCmdBusy : Fld := ⟨28, 28⟩
/-- `AUX_CMD_WPTR` (12, R339). -/
def R.auxCmdWptr (p : Nat) : Nat := portPage p 0xD + 0x48
/-- `AUX_CMD_RPTR` (12, R339). -/
def R.auxCmdRptr (p : Nat) : Nat := portPage p 0xD + 0x4C
/-- `AUX_REC_WPTR` (12, R338). -/
def R.auxRecWptr (p : Nat) : Nat := portPage p 0xD + 0x50
/-- `AUX_REC_RPTR` (12, R338). -/
def R.auxRecRptr (p : Nat) : Nat := portPage p 0xD + 0x54
/-- `AUX_REC_LOST` (12, R340). -/
def R.auxRecLost (p : Nat) : Nat := portPage p 0xD + 0x58
/-- `AUX_ABORT` (12, R342). -/
def R.auxAbort (p : Nat) : Nat := portPage p 0xD + 0x5C
def F.auxAbortFlush : Fld := ⟨1, 1⟩
def F.auxAbortAbort : Fld := ⟨0, 0⟩
/-- `AUX_CFG` (12, R353). -/
def R.auxCfg (p : Nat) : Nat := portPage p 0xD + 0x80
def F.auxCfgDeferMax : Fld := ⟨31, 28⟩
def F.auxCfgRetry : Fld := ⟨27, 25⟩
def F.auxCfgUnmapPol : Fld := ⟨24, 24⟩
def F.auxCfgI2cN : Fld := ⟨23, 20⟩
def F.auxCfgI2cPol : Fld := ⟨19, 18⟩
def F.auxCfgRole : Fld := ⟨17, 16⟩
def F.auxCfgFilt : Fld := ⟨7, 0⟩
/-- `AUX_TIME` (12, R353). -/
def R.auxTime (p : Nat) : Nat := portPage p 0xD + 0x84
def F.auxTimeRplyDly : Fld := ⟨31, 22⟩
def F.auxTimeReplyTmo : Fld := ⟨21, 12⟩
def F.auxTimeDeferDly : Fld := ⟨11, 0⟩
/-- `AUX_HOSTREQ` (12, R355). -/
def R.auxHostreq (p : Nat) : Nat := portPage p 0xD + 0x88
def F.auxHostreqPending : Fld := ⟨31, 31⟩
def F.auxHostreqComm : Fld := ⟨30, 27⟩
def F.auxHostreqLen : Fld := ⟨26, 23⟩
def F.auxHostreqWin : Fld := ⟨22, 20⟩
def F.auxHostreqAddr : Fld := ⟨19, 0⟩
/-- `AUX_RELEASE` (12, R355). -/
def R.auxRelease (p : Nat) : Nat := portPage p 0xD + 0x8C
/-- `AUX_CNT` (12, R353). -/
def R.auxCnt (p : Nat) : Nat := portPage p 0xD + 0x90
def F.auxCntNoise : Fld := ⟨31, 16⟩
def F.auxCntDefer : Fld := ⟨15, 0⟩
/-- `AUX_WIN_A` (12, R354). -/
def R.auxWinA (p : Nat) (i : Nat) : Nat := portPage p 0xD + 0xC0 + 0x8 * i
def F.auxWinAEn : Fld := ⟨31, 31⟩
def F.auxWinAWr : Fld := ⟨30, 30⟩
def F.auxWinAPol : Fld := ⟨29, 28⟩
def F.auxWinAN : Fld := ⟨27, 24⟩
def F.auxWinAStart : Fld := ⟨19, 0⟩
/-- `AUX_WIN_B` (12, R354). -/
def R.auxWinB (p : Nat) (i : Nat) : Nat := portPage p 0xD + 0xC4 + 0x8 * i
def F.auxWinBOfs : Fld := ⟨28, 16⟩
def F.auxWinBLen : Fld := ⟨13, 0⟩
/-- `HPD_STAT0` (12, R339). -/
def R.hpdStat0 (p : Nat) : Nat := portPage p 0xE + 0x44
def F.hpdStat0LinesReady : Fld := ⟨31, 31⟩
def F.hpdStat0Driving : Fld := ⟨30, 30⟩
def F.hpdStat0BusBusy : Fld := ⟨29, 29⟩
def F.hpdStat0CmdBusy : Fld := ⟨28, 28⟩
/-- `HPD_REC_WPTR` (12, R338). -/
def R.hpdRecWptr (p : Nat) : Nat := portPage p 0xE + 0x50
/-- `HPD_REC_RPTR` (12, R338). -/
def R.hpdRecRptr (p : Nat) : Nat := portPage p 0xE + 0x54
/-- `HPD_REC_LOST` (12, R340). -/
def R.hpdRecLost (p : Nat) : Nat := portPage p 0xE + 0x58
/-- `HPD_CFG` (12, R359). -/
def R.hpdCfg (p : Nat) : Nat := portPage p 0xE + 0x80
def F.hpdCfgIrqMax : Fld := ⟨31, 16⟩
def F.hpdCfgFilt : Fld := ⟨15, 8⟩
def F.hpdCfgRole : Fld := ⟨0, 0⟩
/-- `HPD_LIM` (12, R359). -/
def R.hpdLim (p : Nat) : Nat := portPage p 0xE + 0x84
def F.hpdLimUnplug : Fld := ⟨31, 16⟩
def F.hpdLimIrqMin : Fld := ⟨15, 0⟩
/-- `HPD_CTRL` (12, R358). -/
def R.hpdCtrl (p : Nat) : Nat := portPage p 0xE + 0x88
def F.hpdCtrlPulse : Fld := ⟨31, 31⟩
def F.hpdCtrlLevel : Fld := ⟨16, 16⟩
def F.hpdCtrlPw : Fld := ⟨15, 0⟩
/-- `HPD_STAT` (12, R359). -/
def R.hpdStat (p : Nat) : Nat := portPage p 0xE + 0x8C
def F.hpdStatLevel : Fld := ⟨31, 31⟩
def F.hpdStatPulse : Fld := ⟨30, 30⟩
/-- `MEAS_CTRL` (09, R267). -/
def R.measCtrl (p : Nat) : Nat := portPage p 0xF + 0x40
def F.measCtrlLast : Fld := ⟨11, 8⟩
def F.measCtrlCont : Fld := ⟨2, 2⟩
def F.measCtrlStop : Fld := ⟨1, 1⟩
def F.measCtrlStart : Fld := ⟨0, 0⟩
/-- `MEAS_STAT` (09, R267). -/
def R.measStat (p : Nat) : Nat := portPage p 0xF + 0x44
def F.measStatState : Fld := ⟨31, 28⟩
def F.measStatEntry : Fld := ⟨27, 24⟩
def F.measStatValid : Fld := ⟨15, 0⟩
/-- `MEAS_TONE_DIV` (09, R271). -/
def R.measToneDiv (p : Nat) : Nat := portPage p 0xF + 0x48
/-- `MEAS_CALBUS` (09, R275). -/
def R.measCalbus (p : Nat) : Nat := portPage p 0xF + 0x4C
def F.measCalbusReq : Fld := ⟨31, 31⟩
def F.measCalbusNode : Fld := ⟨26, 24⟩
def F.measCalbusJ : Fld := ⟨9, 8⟩
def F.measCalbusCh : Fld := ⟨3, 0⟩
/-- `MEAS_CALVAL` (09, R274). -/
def R.measCalval (p : Nat) : Nat := portPage p 0xF + 0x50
/-- `MEAS_CALSTAT` (09, R275). -/
def R.measCalstat (p : Nat) : Nat := portPage p 0xF + 0x54
def F.measCalstatState : Fld := ⟨31, 30⟩
def F.measCalstatLcalFail : Fld := ⟨21, 21⟩
def F.measCalstatChan : Fld := ⟨20, 16⟩
/-- `MEAS_T0_0` (09, R267). -/
def R.measT00 (p : Nat) : Nat := portPage p 0xF + 0x58
/-- `MEAS_T0_1` (09, R267). -/
def R.measT01 (p : Nat) : Nat := portPage p 0xF + 0x5C
/-- `MEAS_T0_2` (09, R267). -/
def R.measT02 (p : Nat) : Nat := portPage p 0xF + 0x60
/-- `MEAS_ENT` (09, R266). -/
def R.measEnt (p : Nat) (i : Nat) : Nat := portPage p 0xF + 0x100 + 0x4 * i
def F.measEntDly : Fld := ⟨31, 16⟩
def F.measEntAvgLog2 : Fld := ⟨11, 8⟩
def F.measEntQty : Fld := ⟨7, 6⟩
def F.measEntCh : Fld := ⟨3, 0⟩
/-- `MEAS_RES` (09, R268). -/
def R.measRes (p : Nat) (i : Nat) : Nat := portPage p 0xF + 0x140 + 0x4 * i
/-- `FCH_DSK_DRV` (07, R194). -/
def R.fchDskDrv (n : Nat) : Nat := fchPage n + 0x40
/-- `FCH_DSK_STB` (07, R194). -/
def R.fchDskStb (n : Nat) : Nat := fchPage n + 0x44
/-- `FCH_TCAL_STAT` (07, R215). -/
def R.fchTcalStat (n : Nat) : Nat := fchPage n + 0x48
def F.fchTcalStatState : Fld := ⟨31, 28⟩
def F.fchTcalStatTemp : Fld := ⟨15, 0⟩
/-- `FCH_TRACK` (07, R217). -/
def R.fchTrack (n : Nat) : Nat := fchPage n + 0x4C
/-- `FCH_DRIFT` (07, R197). -/
def R.fchDrift (n : Nat) : Nat := fchPage n + 0x50
/-- `FCH_SLIP` (07, R198). -/
def R.fchSlip (n : Nat) : Nat := fchPage n + 0x54
def F.fchSlipBack : Fld := ⟨31, 16⟩
def F.fchSlipFwd : Fld := ⟨15, 0⟩
/-- `FCH_CLAMP` (07, R196). -/
def R.fchClamp (n : Nat) : Nat := fchPage n + 0x58
def F.fchClampStb : Fld := ⟨31, 16⟩
def F.fchClampDrv : Fld := ⟨15, 0⟩
/-- `WS_D0` (07, R201). -/
def R.wsD0 (n : Nat) (i : Nat) : Nat := fchPage n + 0x100 + 0x20 * i
def F.wsD0Ofs : Fld := ⟨27, 0⟩
/-- `WS_D1` (07, R201). -/
def R.wsD1 (n : Nat) (i : Nat) : Nat := fchPage n + 0x104 + 0x20 * i
def F.wsD1Ofs : Fld := ⟨27, 0⟩
/-- `WS_S0` (07, R201). -/
def R.wsS0 (n : Nat) (i : Nat) : Nat := fchPage n + 0x108 + 0x20 * i
def F.wsS0En : Fld := ⟨31, 31⟩
def F.wsS0Ofs : Fld := ⟨27, 0⟩
/-- `WS_S1` (07, R201). -/
def R.wsS1 (n : Nat) (i : Nat) : Nat := fchPage n + 0x10C + 0x20 * i
def F.wsS1En : Fld := ⟨31, 31⟩
def F.wsS1Ofs : Fld := ⟨27, 0⟩
/-- `WS_S2` (07, R201). -/
def R.wsS2 (n : Nat) (i : Nat) : Nat := fchPage n + 0x110 + 0x20 * i
def F.wsS2En : Fld := ⟨31, 31⟩
def F.wsS2Ofs : Fld := ⟨27, 0⟩
/-- `WS_S3` (07, R201). -/
def R.wsS3 (n : Nat) (i : Nat) : Nat := fchPage n + 0x114 + 0x20 * i
def F.wsS3En : Fld := ⟨31, 31⟩
def F.wsS3Ofs : Fld := ⟨27, 0⟩
/-- `WS_CTRL` (07, R201). -/
def R.wsCtrl (n : Nat) (i : Nat) : Nat := fchPage n + 0x118 + 0x20 * i
def F.wsCtrlEmphPost : Fld := ⟨17, 17⟩
def F.wsCtrlEmphPre : Fld := ⟨16, 16⟩
def F.wsCtrlLset : Fld := ⟨13, 12⟩
def F.wsCtrlExpv : Fld := ⟨9, 8⟩
def F.wsCtrlRole : Fld := ⟨6, 4⟩
def F.wsCtrlFormat : Fld := ⟨3, 0⟩
/-- `FCH_DRV_CFG` (08, R249). -/
def R.fchDrvCfg (n : Nat) : Nat := fchPage n + 0x60
def F.fchDrvCfgCmplFilt : Fld := ⟨23, 16⟩
def F.fchDrvCfgNds : Fld := ⟨15, 14⟩
def F.fchDrvCfgRest : Fld := ⟨13, 12⟩
def F.fchDrvCfgMode : Fld := ⟨9, 8⟩
def F.fchDrvCfgGray : Fld := ⟨5, 5⟩
def F.fchDrvCfgInv : Fld := ⟨4, 4⟩
/-- `FCH_PAM` (08, R225). -/
def R.fchPam (n : Nat) : Nat := fchPage n + 0x64
def F.fchPamL2 : Fld := ⟨21, 11⟩
def F.fchPamL1 : Fld := ⟨10, 0⟩
/-- `FCH_LP_CFG` (08, R232). -/
def R.fchLpCfg (n : Nat) : Nat := fchPage n + 0x68
def F.fchLpCfgTermDly : Fld := ⟨15, 8⟩
def F.fchLpCfgAutoTerm : Fld := ⟨2, 2⟩
def F.fchLpCfgLpRest : Fld := ⟨1, 1⟩
def F.fchLpCfgLpEn : Fld := ⟨0, 0⟩
/-- `FCH_DRV_STAT` (08, R245). -/
def R.fchDrvStat (n : Nat) : Nat := fchPage n + 0x6C
def F.fchDrvStatReady : Fld := ⟨31, 31⟩
def F.fchDrvStatSafe : Fld := ⟨30, 30⟩
def F.fchDrvStatLpOn : Fld := ⟨29, 29⟩
def F.fchDrvStatHsOn : Fld := ⟨28, 28⟩
def F.fchDrvStatCmplKind : Fld := ⟨27, 24⟩
def F.fchDrvStatCmplLive : Fld := ⟨23, 22⟩
def F.fchDrvStatShortLive : Fld := ⟨21, 20⟩
def F.fchDrvStatEmphLim : Fld := ⟨19, 19⟩
/-- `FCH_DRV_CNT` (08, R231). -/
def R.fchDrvCnt (n : Nat) : Nat := fchPage n + 0x70
def F.fchDrvCntCmpl : Fld := ⟨31, 24⟩
def F.fchDrvCntShort : Fld := ⟨23, 16⟩
def F.fchDrvCntLpSlow : Fld := ⟨15, 8⟩
def F.fchDrvCntSplitMis : Fld := ⟨7, 0⟩
/-- `FCH_TONE` (09, R270). -/
def R.fchTone (n : Nat) : Nat := fchPage n + 0x74
def F.fchToneEn : Fld := ⟨31, 31⟩
def F.fchToneAmp : Fld := ⟨15, 0⟩
/-- `FCH_LVL_STAT` (09, R256). -/
def R.fchLvlStat (n : Nat) : Nat := fchPage n + 0x78
def F.fchLvlStatSet : Fld := ⟨25, 24⟩
def F.fchLvlStatClip : Fld := ⟨23, 16⟩
def F.fchLvlStatSettling : Fld := ⟨15, 8⟩
/-- `FCH_LS_0` (09, R257). -/
def R.fchLs0 (n : Nat) (i : Nat) : Nat := fchPage n + 0x300 + 0x20 * i
def F.fchLs0Code : Fld := ⟨15, 0⟩
/-- `FCH_LS_1` (09, R257). -/
def R.fchLs1 (n : Nat) (i : Nat) : Nat := fchPage n + 0x304 + 0x20 * i
def F.fchLs1Code : Fld := ⟨15, 0⟩
/-- `FCH_LS_2` (09, R257). -/
def R.fchLs2 (n : Nat) (i : Nat) : Nat := fchPage n + 0x308 + 0x20 * i
def F.fchLs2Code : Fld := ⟨15, 0⟩
/-- `FCH_LS_3` (09, R257). -/
def R.fchLs3 (n : Nat) (i : Nat) : Nat := fchPage n + 0x30C + 0x20 * i
def F.fchLs3Code : Fld := ⟨15, 0⟩
/-- `FCH_LS_4` (09, R257). -/
def R.fchLs4 (n : Nat) (i : Nat) : Nat := fchPage n + 0x310 + 0x20 * i
def F.fchLs4Code : Fld := ⟨15, 0⟩
/-- `FCH_LS_5` (09, R257). -/
def R.fchLs5 (n : Nat) (i : Nat) : Nat := fchPage n + 0x314 + 0x20 * i
def F.fchLs5Code : Fld := ⟨15, 0⟩
/-- `FCH_LS_6` (09, R257). -/
def R.fchLs6 (n : Nat) (i : Nat) : Nat := fchPage n + 0x318 + 0x20 * i
def F.fchLs6Code : Fld := ⟨15, 0⟩
/-- `FCH_LS_7` (09, R257). -/
def R.fchLs7 (n : Nat) (i : Nat) : Nat := fchPage n + 0x31C + 0x20 * i
def F.fchLs7Code : Fld := ⟨15, 0⟩
/-- `FCH_CMP_CFG` (10, R302). -/
def R.fchCmpCfg (n : Nat) : Nat := fchPage n + 0x80
def F.fchCmpCfgRawSel : Fld := ⟨19, 16⟩
def F.fchCmpCfgSmode : Fld := ⟨8, 8⟩
/-- `FCH_CDR_CFG` (10, R284). -/
def R.fchCdrCfg (n : Nat) : Nat := fchPage n + 0x84
def F.fchCdrCfgNotr : Fld := ⟨31, 24⟩
def F.fchCdrCfgFwdSrc : Fld := ⟨18, 16⟩
def F.fchCdrCfgPreset : Fld := ⟨11, 8⟩
def F.fchCdrCfgTrack : Fld := ⟨1, 0⟩
/-- `FCH_CDR_GAIN` (10, R287). -/
def R.fchCdrGain (n : Nat) : Nat := fchPage n + 0x88
def F.fchCdrGainNupdLog2 : Fld := ⟨31, 28⟩
def F.fchCdrGainKp : Fld := ⟨27, 16⟩
def F.fchCdrGainKi : Fld := ⟨15, 0⟩
/-- `FCH_CDR_STAT` (10, R285). -/
def R.fchCdrStat (n : Nat) : Nat := fchPage n + 0x8C
def F.fchCdrStatFrozen : Fld := ⟨31, 31⟩
def F.fchCdrStatFlim : Fld := ⟨30, 30⟩
/-- `FCH_CDR_FREQ` (10, R285). -/
def R.fchCdrFreq (n : Nat) : Nat := fchPage n + 0x90
/-- `FCH_EYE_CTRL` (10, R290). -/
def R.fchEyeCtrl (n : Nat) : Nat := fchPage n + 0x94
def F.fchEyeCtrlStart : Fld := ⟨31, 31⟩
def F.fchEyeCtrlStop : Fld := ⟨30, 30⟩
def F.fchEyeCtrlCnt : Fld := ⟨25, 24⟩
def F.fchEyeCtrlSymfEn : Fld := ⟨20, 20⟩
def F.fchEyeCtrlSymf : Fld := ⟨17, 16⟩
def F.fchEyeCtrlCont : Fld := ⟨0, 0⟩
/-- `FCH_EYE_T0` (10, R290). -/
def R.fchEyeT0 (n : Nat) : Nat := fchPage n + 0x98
/-- `FCH_EYE_TSTEP` (10, R290). -/
def R.fchEyeTstep (n : Nat) : Nat := fchPage n + 0x9C
/-- `FCH_EYE_V` (10, R290). -/
def R.fchEyeV (n : Nat) : Nat := fchPage n + 0xA0
def F.fchEyeVVstep : Fld := ⟨31, 16⟩
def F.fchEyeVV0 : Fld := ⟨15, 0⟩
/-- `FCH_EYE_N` (10, R290). -/
def R.fchEyeN (n : Nat) : Nat := fchPage n + 0xA4
def F.fchEyeNNv : Fld := ⟨24, 16⟩
def F.fchEyeNNt : Fld := ⟨8, 0⟩
/-- `FCH_EYE_DWELL` (10, R290). -/
def R.fchEyeDwell (n : Nat) : Nat := fchPage n + 0xA8
/-- `FCH_EYE_BASE_LO` (10, R293). -/
def R.fchEyeBaseLo (n : Nat) : Nat := fchPage n + 0xAC
/-- `FCH_EYE_BASE_HI` (10, R293). -/
def R.fchEyeBaseHi (n : Nat) : Nat := fchPage n + 0xB0
/-- `FCH_EYE_STAT` (10, R290). -/
def R.fchEyeStat (n : Nat) : Nat := fchPage n + 0xB4
def F.fchEyeStatState : Fld := ⟨31, 28⟩
def F.fchEyeStatRow : Fld := ⟨24, 16⟩
def F.fchEyeStatCol : Fld := ⟨8, 0⟩
/-- `FCH_CMP_CNT` (10, R279). -/
def R.fchCmpCnt (n : Nat) : Nat := fchPage n + 0xB8
/-- `UCH_DSK_DRV` (08, R194). -/
def R.uchDskDrv (m : Nat) : Nat := uchPage m + 0x40
/-- `UCH_DSK_STB` (08, R194). -/
def R.uchDskStb (m : Nat) : Nat := uchPage m + 0x44
/-- `UCH_DRV_CFG` (08, R249). -/
def R.uchDrvCfg (m : Nat) : Nat := uchPage m + 0x48
def F.uchDrvCfgSlew : Fld := ⟨15, 14⟩
def F.uchDrvCfgClampEn : Fld := ⟨12, 12⟩
def F.uchDrvCfgPull : Fld := ⟨10, 8⟩
def F.uchDrvCfgRest : Fld := ⟨7, 6⟩
def F.uchDrvCfgNds : Fld := ⟨5, 4⟩
def F.uchDrvCfgDmode : Fld := ⟨1, 0⟩
/-- `UCH_DRV_STAT` (08, R245). -/
def R.uchDrvStat (m : Nat) : Nat := uchPage m + 0x4C
def F.uchDrvStatReady : Fld := ⟨31, 31⟩
def F.uchDrvStatSafe : Fld := ⟨30, 30⟩
def F.uchDrvStatClampHi : Fld := ⟨29, 29⟩
def F.uchDrvStatClampLo : Fld := ⟨28, 28⟩
def F.uchDrvStatIlim : Fld := ⟨27, 27⟩
/-- `UCH_ECLAMP` (08, R196). -/
def R.uchEclamp (m : Nat) : Nat := uchPage m + 0x50
def F.uchEclampStb : Fld := ⟨31, 16⟩
def F.uchEclampDrv : Fld := ⟨15, 0⟩
/-- `UCH_DRV_CNT` (08, R242). -/
def R.uchDrvCnt (m : Nat) : Nat := uchPage m + 0x54
def F.uchDrvCntClamp : Fld := ⟨31, 16⟩
def F.uchDrvCntIlim : Fld := ⟨15, 0⟩
/-- `UWS_D0` (08, R238). -/
def R.uwsD0 (m : Nat) (i : Nat) : Nat := uchPage m + 0x100 + 0x10 * i
def F.uwsD0Ofs : Fld := ⟨31, 0⟩
/-- `UWS_D1` (08, R238). -/
def R.uwsD1 (m : Nat) (i : Nat) : Nat := uchPage m + 0x104 + 0x10 * i
def F.uwsD1Ofs : Fld := ⟨31, 0⟩
/-- `UWS_S` (08, R238). -/
def R.uwsS (m : Nat) (i : Nat) : Nat := uchPage m + 0x108 + 0x10 * i
def F.uwsSOfs : Fld := ⟨31, 0⟩
/-- `UWS_CTRL` (08, R238). -/
def R.uwsCtrl (m : Nat) (i : Nat) : Nat := uchPage m + 0x10C + 0x10 * i
def F.uwsCtrlSEn : Fld := ⟨16, 16⟩
def F.uwsCtrlLset : Fld := ⟨13, 12⟩
def F.uwsCtrlExpv : Fld := ⟨9, 8⟩
def F.uwsCtrlRole : Fld := ⟨6, 4⟩
def F.uwsCtrlFormat : Fld := ⟨3, 0⟩
/-- `UCH_CLAMP_LVL` (09, R242). -/
def R.uchClampLvl (m : Nat) : Nat := uchPage m + 0x58
def F.uchClampLvlCll : Fld := ⟨31, 16⟩
def F.uchClampLvlClh : Fld := ⟨15, 0⟩
/-- `UCH_PMU_CTRL` (09, R261). -/
def R.uchPmuCtrl (m : Nat) : Nat := uchPage m + 0x5C
def F.uchPmuCtrlIrange : Fld := ⟨30, 28⟩
def F.uchPmuCtrlPmode : Fld := ⟨25, 24⟩
def F.uchPmuCtrlPmuFilt : Fld := ⟨23, 16⟩
def F.uchPmuCtrlForce : Fld := ⟨15, 0⟩
/-- `UCH_PMU_STAT` (09, R264). -/
def R.uchPmuStat (m : Nat) : Nat := uchPage m + 0x60
def F.uchPmuStatOn : Fld := ⟨31, 31⟩
def F.uchPmuStatRangeBusy : Fld := ⟨30, 30⟩
def F.uchPmuStatComplLive : Fld := ⟨29, 29⟩
def F.uchPmuStatOpenLive : Fld := ⟨28, 28⟩
def F.uchPmuStatKind : Fld := ⟨27, 24⟩
def F.uchPmuStatRange : Fld := ⟨2, 0⟩
/-- `UCH_TONE` (09, R270). -/
def R.uchTone (m : Nat) : Nat := uchPage m + 0x64
def F.uchToneEn : Fld := ⟨31, 31⟩
def F.uchToneSel : Fld := ⟨26, 24⟩
def F.uchToneAmp : Fld := ⟨15, 0⟩
/-- `UCH_LVL_STAT` (09, R256). -/
def R.uchLvlStat (m : Nat) : Nat := uchPage m + 0x68
def F.uchLvlStatSet : Fld := ⟨25, 24⟩
def F.uchLvlStatClip : Fld := ⟨23, 16⟩
def F.uchLvlStatSettling : Fld := ⟨15, 8⟩
/-- `UCH_PMU_CNT` (09, R263). -/
def R.uchPmuCnt (m : Nat) : Nat := uchPage m + 0x6C
def F.uchPmuCntCompl : Fld := ⟨31, 16⟩
def F.uchPmuCntOpen : Fld := ⟨15, 0⟩
/-- `UCH_LS_0` (09, R257). -/
def R.uchLs0 (m : Nat) (i : Nat) : Nat := uchPage m + 0x200 + 0x20 * i
def F.uchLs0Code : Fld := ⟨15, 0⟩
/-- `UCH_LS_1` (09, R257). -/
def R.uchLs1 (m : Nat) (i : Nat) : Nat := uchPage m + 0x204 + 0x20 * i
def F.uchLs1Code : Fld := ⟨15, 0⟩
/-- `UCH_LS_2` (09, R257). -/
def R.uchLs2 (m : Nat) (i : Nat) : Nat := uchPage m + 0x208 + 0x20 * i
def F.uchLs2Code : Fld := ⟨15, 0⟩
/-- `UCH_LS_3` (09, R257). -/
def R.uchLs3 (m : Nat) (i : Nat) : Nat := uchPage m + 0x20C + 0x20 * i
def F.uchLs3Code : Fld := ⟨15, 0⟩
/-- `UCH_LS_4` (09, R257). -/
def R.uchLs4 (m : Nat) (i : Nat) : Nat := uchPage m + 0x210 + 0x20 * i
def F.uchLs4Code : Fld := ⟨15, 0⟩

end Sys2Proof.Machine
end

