-- ==== Sys2Proof/Machine/RegTables.lean ====
section
/-! DEFINITION. The register map: for each kind of page, one row per register with its offset, count and stride, its reset
value, and which bits have which access type (R5 Table 0-4), taken from the spec's register tables.  Bits in no mask are
reserved.  `nz` lists the fields in which a zero is refused (R7).  `wide = (j, n)`: word `j` of a wide value of `n` words (R59). -/
namespace Sys2Proof.Machine

/-- One register of a page. -/
structure RegDef where
  off : Nat
  cnt : Nat
  stride : Nat
  reset : Nat
  rw : Nat
  ro : Nat
  w1c : Nat
  w1s : Nat
  wo : Nat
  rc : Nat
  nz : List (Nat × Nat)
  wide : Nat × Nat
  deriving DecidableEq, Repr

/-- The kinds of page of Table 2-9. -/
inductive PageKind where
  | glb
  | clk
  | gtc
  | boot
  | evc
  | evg
  | mc
  | mcg
  | qos
  | srm
  | mbx
  | vlt
  | hif
  | bmp
  | pwr
  | prt
  | seq
  | lks
  | apg
  | cdc
  | tsa
  | dds
  | trg
  | acq
  | msk
  | flp
  | cec
  | ddc
  | aux
  | hpd
  | meas
  | fch
  | uch
  deriving DecidableEq, Repr

/-- Registers of the `GLB` page (01_architecture.md, 18_security_identity_and_seasons.md). -/
def mapGlb : List RegDef := [
  ⟨0x60, 1, 0x0, 0x0, 0x1, 0x100, 0x0, 0x0, 0x0, 0x0, [], (0, 1)⟩,
  ⟨0x40, 1, 0x0, 0x32640001, 0x0, 0xFFFF00FF, 0x0, 0x0, 0x0, 0x0, [], (0, 1)⟩,
  ⟨0x44, 1, 0x0, 0x0, 0x0, 0xFFFFFFFF, 0x0, 0x0, 0x0, 0x0, [], (0, 1)⟩,
  ⟨0x48, 1, 0x0, 0x0, 0x0, 0xFFFFFFFF, 0x0, 0x0, 0x0, 0x0, [], (0, 1)⟩,
  ⟨0x4C, 1, 0x0, 0x1, 0x0, 0xF, 0x0, 0x0, 0x0, 0x0, [], (0, 1)⟩]

/-- Registers of the `CLK` page (03_time_base_and_clocks.md). -/
def mapClk : List RegDef := [
  ⟨0x40, 1, 0x0, 0x2, 0x3, 0x330, 0x0, 0x0, 0x0, 0x0, [], (0, 1)⟩,
  ⟨0x44, 1, 0x0, 0x0, 0x0, 0xFF07, 0x0, 0x0, 0x0, 0x0, [], (0, 1)⟩]

/-- Registers of the `GTC` page (03_time_base_and_clocks.md). -/
def mapGtcA : List RegDef := [
  ⟨0x40, 1, 0x0, 0x0, 0x0, 0xFFFFFFFF, 0x0, 0x0, 0x0, 0x0, [], (0, 3)⟩,
  ⟨0x44, 1, 0x0, 0x0, 0x0, 0xFFFFFFFF, 0x0, 0x0, 0x0, 0x0, [], (1, 3)⟩,
  ⟨0x48, 1, 0x0, 0x0, 0x0, 0xFFFF, 0x0, 0x0, 0x0, 0x0, [], (2, 3)⟩,
  ⟨0x4C, 1, 0x0, 0x0, 0x0, 0x7FFFF, 0x0, 0x0, 0x0, 0x0, [], (0, 1)⟩,
  ⟨0x50, 1, 0x0, 0x0, 0xFFFFFFFF, 0x0, 0x0, 0x0, 0x0, 0x0, [], (0, 3)⟩,
  ⟨0x54, 1, 0x0, 0x0, 0xFFFFFFFF, 0x0, 0x0, 0x0, 0x0, 0x0, [], (1, 3)⟩,
  ⟨0x58, 1, 0x0, 0x0, 0xFFFF, 0x0, 0x0, 0x0, 0x0, 0x0, [], (2, 3)⟩,
  ⟨0x60, 1, 0x0, 0x0, 0xFFFF0131, 0x0, 0x0, 0x0, 0x0, 0x0, [], (0, 1)⟩,
  ⟨0x64, 1, 0x0, 0x0, 0x0, 0xFF00003E, 0x0, 0x0, 0x0, 0x0, [], (0, 1)⟩,
  ⟨0x68, 1, 0x0, 0x40, 0xFFFF, 0x0, 0x0, 0x0, 0x0, 0x0, [(15, 0)], (0, 1)⟩,
  ⟨0x6C, 1, 0x0, 0x0, 0xFFFFFFFF, 0x0, 0x0, 0x0, 0x0, 0x0, [], (0, 1)⟩,
  ⟨0x70, 1, 0x0, 0x0, 0xFFFFFFFF, 0x0, 0x0, 0x0, 0x0, 0x0, [], (0, 3)⟩]
/-- Registers of the `GTC` page (03_time_base_and_clocks.md). -/
def mapGtcB : List RegDef := [
  ⟨0x74, 1, 0x0, 0x0, 0xFFFFFFFF, 0x0, 0x0, 0x0, 0x0, 0x0, [], (1, 3)⟩,
  ⟨0x78, 1, 0x0, 0x0, 0xFFFF, 0x0, 0x0, 0x0, 0x0, 0x0, [], (2, 3)⟩,
  ⟨0x80, 1, 0x0, 0x0, 0xFFFFFFFF, 0x0, 0x0, 0x0, 0x0, 0x0, [], (0, 3)⟩,
  ⟨0x84, 1, 0x0, 0x0, 0xFFFFFFFF, 0x0, 0x0, 0x0, 0x0, 0x0, [], (1, 3)⟩,
  ⟨0x88, 1, 0x0, 0x0, 0xFFFF, 0x0, 0x0, 0x0, 0x0, 0x0, [], (2, 3)⟩,
  ⟨0x90, 1, 0x0, 0x0, 0x0, 0xFFFFFFFF, 0x0, 0x0, 0x0, 0x0, [], (0, 3)⟩,
  ⟨0x94, 1, 0x0, 0x0, 0x0, 0xFFFFFFFF, 0x0, 0x0, 0x0, 0x0, [], (1, 3)⟩,
  ⟨0x98, 1, 0x0, 0x0, 0x0, 0xFFFF, 0x0, 0x0, 0x0, 0x0, [], (2, 3)⟩,
  ⟨0xA0, 1, 0x0, 0x0, 0x0, 0xFFFFFFFF, 0x0, 0x0, 0x0, 0x0, [], (0, 1)⟩,
  ⟨0xA4, 1, 0x0, 0x0, 0xFFFF, 0x0, 0x0, 0x0, 0x0, 0x0, [], (0, 1)⟩,
  ⟨0x100, 8, 0x4, 0x0, 0xFFFFFFFF, 0x0, 0x0, 0x0, 0x0, 0x0, [], (0, 1)⟩,
  ⟨0x120, 1, 0x0, 0x0, 0x0, 0x1F1F01FF, 0x0, 0x0, 0x0, 0x0, [], (0, 1)⟩]
/-- Registers of the `GTC` page (03_time_base_and_clocks.md). -/
def mapGtcC : List RegDef := [
  ⟨0x124, 1, 0x0, 0x0, 0x0, 0x0, 0x0, 0x0, 0xFFFF, 0x0, [], (0, 1)⟩,
  ⟨0x128, 1, 0x0, 0x0, 0x0, 0x0, 0x0, 0x0, 0x1, 0x0, [], (0, 1)⟩,
  ⟨0x12C, 1, 0x0, 0x0, 0x0, 0x0, 0x0, 0x0, 0x0, 0xFFFFFFFF, [], (0, 1)⟩,
  ⟨0x130, 1, 0x0, 0x0, 0x0, 0xFFFFFFFF, 0x0, 0x0, 0x0, 0x0, [], (0, 4)⟩,
  ⟨0x134, 1, 0x0, 0x0, 0x0, 0xFFFFFFFF, 0x0, 0x0, 0x0, 0x0, [], (1, 4)⟩,
  ⟨0x138, 1, 0x0, 0x0, 0x0, 0xFFFFFFFF, 0x0, 0x0, 0x0, 0x0, [], (2, 4)⟩,
  ⟨0x13C, 1, 0x0, 0x0, 0x0, 0xFFFFFFFF, 0x0, 0x0, 0x0, 0x0, [], (3, 4)⟩]
/-- All registers of the `GTC` page. -/
def mapGtc : List RegDef := mapGtcA ++ mapGtcB ++ mapGtcC

/-- Registers of the `BOOT` page (04_startup_reset_and_partial_service.md). -/
def mapBootA : List RegDef := [
  ⟨0x40, 1, 0x0, 0x1, 0x0, 0xFF0F3FFF, 0x0, 0x0, 0x0, 0x0, [], (0, 1)⟩,
  ⟨0x44, 1, 0x0, 0x0, 0x0, 0x7FFF, 0x0, 0x0, 0x0, 0x0, [], (0, 1)⟩,
  ⟨0x48, 1, 0x0, 0x0, 0x0, 0xFFFFFFFF, 0x0, 0x0, 0x0, 0x0, [], (0, 1)⟩,
  ⟨0x4C, 1, 0x0, 0x0, 0x0, 0xFFFFFFFF, 0x0, 0x0, 0x0, 0x0, [], (0, 1)⟩,
  ⟨0x50, 1, 0x0, 0x0, 0xFFFFFFFF, 0x0, 0x0, 0x0, 0x0, 0x0, [], (0, 1)⟩,
  ⟨0x54, 1, 0x0, 0x0, 0x4001FFFF, 0x0, 0x0, 0x0, 0x80000000, 0x0, [(16, 0)], (0, 1)⟩,
  ⟨0x58, 1, 0x0, 0x0, 0xFFFFFFC0, 0x0, 0x0, 0x0, 0x0, 0x0, [], (0, 2)⟩,
  ⟨0x5C, 1, 0x0, 0x0, 0x3F, 0x0, 0x0, 0x0, 0x0, 0x0, [], (1, 2)⟩,
  ⟨0x60, 1, 0x0, 0x0, 0xFFFFF, 0x0, 0x0, 0x0, 0x0, 0x0, [(19, 0)], (0, 1)⟩,
  ⟨0x64, 1, 0x0, 0x0, 0x0, 0xFF000000, 0x0, 0x0, 0x0, 0x1, [], (0, 1)⟩,
  ⟨0x68, 1, 0x0, 0x0, 0x0, 0xFFFF0003, 0x0, 0x0, 0x0, 0x0, [], (0, 1)⟩,
  ⟨0x6C, 1, 0x0, 0x0, 0x0, 0x0, 0x0, 0x0, 0x1, 0x0, [], (0, 1)⟩]
/-- Registers of the `BOOT` page (04_startup_reset_and_partial_service.md). -/
def mapBootB : List RegDef := [
  ⟨0x80, 1, 0x0, 0x100, 0x7B3, 0x0, 0x0, 0x80000000, 0x0, 0x0, [(10, 8)], (0, 1)⟩,
  ⟨0x84, 1, 0x0, 0x212, 0x7B3, 0x0, 0x0, 0x80000000, 0x0, 0x0, [(10, 8)], (0, 1)⟩,
  ⟨0x88, 1, 0x0, 0x100, 0x7B3, 0x0, 0x0, 0x80000000, 0x0, 0x0, [(10, 8)], (0, 1)⟩,
  ⟨0x8C, 1, 0x0, 0x200, 0x7B3, 0x0, 0x0, 0x80000000, 0x0, 0x0, [(10, 8)], (0, 1)⟩,
  ⟨0x90, 1, 0x0, 0x200, 0x7B3, 0x0, 0x0, 0x80000000, 0x0, 0x0, [(10, 8)], (0, 1)⟩,
  ⟨0x94, 1, 0x0, 0x200, 0x7B3, 0x0, 0x0, 0x80000000, 0x0, 0x0, [(10, 8)], (0, 1)⟩,
  ⟨0x98, 1, 0x0, 0x112, 0x7B3, 0x0, 0x0, 0x80000000, 0x0, 0x0, [(10, 8)], (0, 1)⟩,
  ⟨0x9C, 1, 0x0, 0x200, 0x7B3, 0x0, 0x0, 0x80000000, 0x0, 0x0, [(10, 8)], (0, 1)⟩,
  ⟨0xA0, 1, 0x0, 0x112, 0x7B3, 0x0, 0x0, 0x80000000, 0x0, 0x0, [(10, 8)], (0, 1)⟩,
  ⟨0xA4, 1, 0x0, 0x100, 0x7B3, 0x0, 0x0, 0x80000000, 0x0, 0x0, [(10, 8)], (0, 1)⟩,
  ⟨0xA8, 1, 0x0, 0x112, 0x7B3, 0x0, 0x0, 0x80000000, 0x0, 0x0, [(10, 8)], (0, 1)⟩,
  ⟨0xAC, 1, 0x0, 0x112, 0x7B3, 0x0, 0x0, 0x80000000, 0x0, 0x0, [(10, 8)], (0, 1)⟩]
/-- Registers of the `BOOT` page (04_startup_reset_and_partial_service.md). -/
def mapBootC : List RegDef := [
  ⟨0xB0, 1, 0x0, 0x100, 0x7B3, 0x0, 0x0, 0x80000000, 0x0, 0x0, [(10, 8)], (0, 1)⟩,
  ⟨0x100, 16, 0x8, 0x0, 0x0, 0xFFFFFFFF, 0x0, 0x0, 0x0, 0x0, [], (0, 2)⟩,
  ⟨0x104, 16, 0x8, 0x0, 0x0, 0xFFFFFFFF, 0x0, 0x0, 0x0, 0x0, [], (1, 2)⟩,
  ⟨0x200, 1, 0x0, 0x0, 0x3FFFFC, 0x0, 0x0, 0x0, 0x0, 0x0, [], (0, 1)⟩,
  ⟨0x204, 1, 0x0, 0x0, 0x0, 0xFFFFFFFF, 0x0, 0x0, 0x0, 0x0, [], (0, 1)⟩]
/-- All registers of the `BOOT` page. -/
def mapBoot : List RegDef := mapBootA ++ mapBootB ++ mapBootC

/-- Registers of the `EVC` page (16_events_and_faults.md). -/
def mapEvcA : List RegDef := [
  ⟨0x40, 1, 0x0, 0x1, 0x101, 0x0, 0x0, 0x0, 0x0, 0x0, [], (0, 1)⟩,
  ⟨0x44, 1, 0x0, 0x0, 0x0, 0xC00007FF, 0x0, 0x0, 0x0, 0x0, [], (0, 1)⟩,
  ⟨0x48, 1, 0x0, 0x0, 0x0, 0xFFFFFFFF, 0x0, 0x0, 0x0, 0x0, [], (0, 1)⟩,
  ⟨0x4C, 1, 0x0, 0x0, 0x0, 0xF, 0x0, 0x0, 0x0, 0x0, [], (0, 1)⟩,
  ⟨0x50, 1, 0x0, 0x0, 0x0, 0xFFFFFFFF, 0x0, 0x0, 0x0, 0x0, [], (0, 1)⟩,
  ⟨0x54, 1, 0x0, 0x0, 0x0, 0xF, 0x0, 0x0, 0x0, 0x0, [], (0, 1)⟩,
  ⟨0x60, 1, 0x0, 0x0, 0x0, 0xFC0007FF, 0x0, 0x0, 0x0, 0x0, [], (0, 4)⟩,
  ⟨0x64, 1, 0x0, 0x0, 0x0, 0xFFFFFFFF, 0x0, 0x0, 0x0, 0x0, [], (1, 4)⟩,
  ⟨0x68, 1, 0x0, 0x0, 0x0, 0xFFFFFFFF, 0x0, 0x0, 0x0, 0x0, [], (2, 4)⟩,
  ⟨0x6C, 1, 0x0, 0x0, 0x0, 0x7FFFFFF, 0x0, 0x0, 0x0, 0x0, [], (3, 4)⟩,
  ⟨0x70, 1, 0x0, 0x0, 0x0, 0x0, 0x0, 0x0, 0x1, 0x0, [], (0, 1)⟩,
  ⟨0x80, 1, 0x0, 0x0, 0x0, 0xFFFFFFFF, 0x0, 0x0, 0x0, 0x0, [], (0, 1)⟩]
/-- Registers of the `EVC` page (16_events_and_faults.md). -/
def mapEvcB : List RegDef := [
  ⟨0x84, 1, 0x0, 0x0, 0xFFFFFFFF, 0x0, 0x0, 0x0, 0x0, 0x0, [], (0, 1)⟩,
  ⟨0x88, 1, 0x0, 0x0, 0x0, 0x0, 0x0, 0x0, 0x0, 0xFFFFFFFF, [], (0, 1)⟩,
  ⟨0x90, 1, 0x0, 0x4003E8, 0xFFFFFF, 0x0, 0x0, 0x0, 0x0, 0x0, [(23, 16)], (0, 1)⟩,
  ⟨0x94, 1, 0x0, 0x0, 0x0, 0x0, 0x0, 0x0, 0x0, 0xFFFFFFFF, [], (0, 1)⟩,
  ⟨0x98, 1, 0x0, 0x0, 0x0, 0xFFFFFFFF, 0x0, 0x0, 0x0, 0x0, [], (0, 1)⟩]
/-- All registers of the `EVC` page. -/
def mapEvc : List RegDef := mapEvcA ++ mapEvcB

/-- Registers of the `EVG` page (16_events_and_faults.md). -/
def mapEvg : List RegDef := [
  ⟨0x40, 1, 0x0, 0x0, 0x0, 0xFFFFFFFF, 0x0, 0x0, 0x0, 0x0, [], (0, 1)⟩,
  ⟨0x44, 1, 0x0, 0x0, 0x0, 0xFFFFFFFF, 0x0, 0x0, 0x0, 0x0, [], (0, 1)⟩,
  ⟨0x100, 32, 0x4, 0x40000, 0xFFFF7DBF, 0x0, 0x0, 0x0, 0x0, 0x0, [], (0, 1)⟩,
  ⟨0x180, 32, 0x4, 0x0, 0x0, 0xFFFFFFFF, 0x0, 0x0, 0x0, 0x0, [], (0, 1)⟩]

/-- Registers of the `MC` page (13_dram_controller.md). -/
def mapMcA : List RegDef := [
  ⟨0x40, 1, 0x0, 0x0, 0x0, 0xFFFF0000, 0x0, 0x0, 0x0, 0x0, [], (0, 1)⟩,
  ⟨0x44, 1, 0x0, 0x4, 0x17, 0x0, 0x0, 0x0, 0x0, 0x0, [], (0, 1)⟩,
  ⟨0x48, 1, 0x0, 0x0, 0x0, 0xB0FFFFFF, 0x0, 0x0, 0x0, 0x0, [], (0, 1)⟩,
  ⟨0x4C, 1, 0x0, 0x8000100C, 0x9FFFFF1F, 0x0, 0x0, 0x0, 0x0, 0x0, [], (0, 1)⟩,
  ⟨0x50, 1, 0x0, 0x64, 0xFFFF, 0x0, 0x0, 0x0, 0x0, 0x0, [(15, 0)], (0, 1)⟩,
  ⟨0x54, 1, 0x0, 0x4000, 0xFFFFFF03, 0x0, 0x0, 0x0, 0x0, 0x0, [], (0, 1)⟩,
  ⟨0x58, 1, 0x0, 0x0, 0x0, 0x0, 0x0, 0x0, 0x0, 0xFFFFFFFF, [], (0, 1)⟩,
  ⟨0x5C, 1, 0x0, 0x0, 0x0, 0x0, 0x0, 0x0, 0x0, 0xFFFFFFFF, [], (0, 1)⟩,
  ⟨0x60, 1, 0x0, 0x0, 0x0, 0x0, 0x0, 0x0, 0x0, 0xFFFFFFFF, [], (0, 1)⟩,
  ⟨0x64, 4, 0x4, 0x0, 0x0, 0x0, 0x0, 0x0, 0x0, 0xFFFFFFFF, [], (0, 1)⟩,
  ⟨0x74, 1, 0x0, 0x0, 0x0, 0x0, 0x0, 0x0, 0x0, 0xFFFFFFFF, [], (0, 1)⟩,
  ⟨0x78, 1, 0x0, 0x0, 0x0, 0x0, 0x0, 0x0, 0x0, 0xFFFFFFFF, [], (0, 1)⟩]
/-- Registers of the `MC` page (13_dram_controller.md). -/
def mapMcB : List RegDef := [
  ⟨0x80, 20, 0x4, 0x0, 0x0, 0x0, 0x0, 0x0, 0x0, 0xFFFF, [], (0, 1)⟩,
  ⟨0xD0, 8, 0x4, 0x0, 0x0, 0xFFFFFFFF, 0x0, 0x0, 0x0, 0x0, [], (0, 1)⟩,
  ⟨0xF0, 1, 0x0, 0x0, 0x0, 0xFFFF001F, 0x0, 0x0, 0x0, 0x0, [], (0, 1)⟩,
  ⟨0x100, 1, 0x0, 0x80001, 0xFFFFFF, 0x0, 0x0, 0x0, 0x0, 0x0, [], (0, 1)⟩,
  ⟨0x104, 1, 0x0, 0x0, 0x0, 0xFFFFFFFF, 0x0, 0x0, 0x0, 0x0, [], (0, 1)⟩]
/-- All registers of the `MC` page. -/
def mapMc : List RegDef := mapMcA ++ mapMcB

/-- Registers of the `MCG` page (13_dram_controller.md). -/
def mapMcg : List RegDef := [
  ⟨0x40, 1, 0x0, 0x1, 0x303, 0x0, 0x0, 0x0, 0x0, 0x0, [], (0, 1)⟩,
  ⟨0x44, 1, 0x0, 0xF00, 0xF03, 0x0, 0x0, 0x0, 0x0, 0x0, [], (0, 1)⟩,
  ⟨0x48, 1, 0x0, 0x0, 0x0, 0x7FFFFF, 0x0, 0x0, 0x0, 0x0, [], (0, 1)⟩,
  ⟨0x4C, 1, 0x0, 0x0, 0x0, 0x1FFFFF, 0x0, 0x0, 0x0, 0x0, [], (0, 1)⟩,
  ⟨0x50, 1, 0x0, 0x0, 0x0, 0xC000FFFF, 0x0, 0x0, 0x0, 0x0, [], (0, 1)⟩,
  ⟨0x54, 1, 0x0, 0x18, 0xFFFF, 0x0, 0x0, 0x0, 0x0, 0x0, [], (0, 1)⟩,
  ⟨0x58, 1, 0x0, 0x0, 0x0, 0xFFFFFFFF, 0x0, 0x0, 0x0, 0x0, [], (0, 1)⟩]

/-- Registers of the `QOS` page (14_arbitration_and_streaming_budget.md). -/
def mapQos : List RegDef := [
  ⟨0x40, 1, 0x0, 0x0, 0x0, 0xFFFFFFFF, 0x0, 0x0, 0x0, 0x0, [], (0, 1)⟩,
  ⟨0x44, 1, 0x0, 0x0, 0x0, 0xFFFFFFFF, 0x0, 0x0, 0x0, 0x0, [], (0, 1)⟩,
  ⟨0x48, 4, 0x4, 0x0, 0x0, 0xFFFFFFFF, 0x0, 0x0, 0x0, 0x0, [], (0, 1)⟩,
  ⟨0x60, 4, 0x4, 0x0, 0x0, 0xFFFFFFFF, 0x0, 0x0, 0x0, 0x0, [], (0, 1)⟩,
  ⟨0x70, 4, 0x4, 0x0, 0x0, 0xFFFFFFFF, 0x0, 0x0, 0x0, 0x0, [], (0, 1)⟩,
  ⟨0x80, 1, 0x0, 0x0, 0x0, 0x0, 0x0, 0x0, 0x0, 0xFFFFFFFF, [], (0, 1)⟩,
  ⟨0x84, 1, 0x0, 0x0, 0xFFFFFFFF, 0x0, 0x0, 0x0, 0x0, 0x0, [], (0, 1)⟩,
  ⟨0x88, 1, 0x0, 0x0, 0x0, 0x3FF, 0x0, 0x0, 0x0, 0x0, [], (0, 1)⟩,
  ⟨0x200, 52, 0x10, 0x0, 0x0, 0x0, 0x0, 0x0, 0x0, 0xFFFFFFFF, [], (0, 1)⟩,
  ⟨0x204, 52, 0x10, 0x0, 0x0, 0x0, 0x0, 0x0, 0x0, 0xFFFFFFFF, [], (0, 1)⟩,
  ⟨0x208, 52, 0x10, 0x0, 0x0, 0x0, 0x0, 0x0, 0x0, 0xFFFFFFFF, [], (0, 1)⟩]

/-- Registers of the `SRM` page (15_onchip_memories.md). -/
def mapSrmA : List RegDef := [
  ⟨0x40, 1, 0x0, 0x100000, 0xCF07F7F, 0x0, 0x0, 0x0, 0xC0000000, 0x0, [(23, 20)], (0, 1)⟩,
  ⟨0x44, 1, 0x0, 0x0, 0x0, 0xF7F7FFFF, 0x0, 0x0, 0x0, 0x0, [], (0, 1)⟩,
  ⟨0x48, 1, 0x0, 0x0, 0x0, 0x0, 0x0, 0x0, 0x0, 0xFFFFFFFF, [], (0, 1)⟩,
  ⟨0x4C, 1, 0x0, 0x0, 0x0, 0x0, 0x0, 0x0, 0x0, 0xFFFFFFFF, [], (0, 1)⟩,
  ⟨0x50, 1, 0x0, 0x0, 0xFFFFFFFF, 0x0, 0x0, 0x0, 0x0, 0x0, [], (0, 1)⟩,
  ⟨0x54, 1, 0x0, 0x0, 0xFFFFFFFF, 0x0, 0x0, 0x0, 0x0, 0x0, [], (0, 1)⟩,
  ⟨0x58, 1, 0x0, 0x0, 0x3, 0x0, 0x0, 0x0, 0x0, 0x0, [], (0, 1)⟩,
  ⟨0x5C, 1, 0x0, 0x0, 0x0, 0x0, 0x0, 0x0, 0x0, 0xFFFFFFFF, [], (0, 1)⟩,
  ⟨0x60, 1, 0x0, 0x0, 0x0, 0x7F, 0x0, 0x0, 0x0, 0x80000000, [], (0, 1)⟩,
  ⟨0x100, 16, 0x4, 0x0, 0x0, 0xFFFFFFFE, 0x0, 0x0, 0x0, 0x0, [], (0, 1)⟩,
  ⟨0x400, 72, 0x4, 0x0, 0x0, 0xF7300000, 0x0, 0x0, 0x0, 0x0, [], (0, 1)⟩,
  ⟨0x600, 72, 0x20, 0x0, 0x0, 0x0, 0x0, 0x0, 0x0, 0xFFFFFFFF, [], (0, 1)⟩]
/-- Registers of the `SRM` page (15_onchip_memories.md). -/
def mapSrmB : List RegDef := [
  ⟨0x604, 72, 0x20, 0x0, 0x0, 0x0, 0x0, 0x0, 0x0, 0xFFFFFFFF, [], (0, 1)⟩,
  ⟨0x608, 72, 0x20, 0x0, 0x0, 0x0, 0x0, 0x0, 0x0, 0xFFFFFFFF, [], (0, 1)⟩,
  ⟨0x60C, 72, 0x20, 0x0, 0x0, 0x0, 0x0, 0x0, 0x0, 0xFFFFFFFF, [], (0, 1)⟩,
  ⟨0x610, 72, 0x20, 0x0, 0x0, 0x0, 0x0, 0x0, 0x0, 0xFFFFFFFF, [], (0, 1)⟩,
  ⟨0x614, 72, 0x20, 0x0, 0x0, 0x0, 0x0, 0x0, 0x0, 0xFFFFFFFF, [], (0, 1)⟩,
  ⟨0x618, 72, 0x20, 0x0, 0x0, 0x0, 0x0, 0x0, 0x0, 0xFFFFFFFF, [], (0, 1)⟩,
  ⟨0x61C, 72, 0x20, 0x0, 0x0, 0x0, 0x0, 0x0, 0x0, 0xFFFFFFFF, [], (0, 1)⟩]
/-- All registers of the `SRM` page. -/
def mapSrm : List RegDef := mapSrmA ++ mapSrmB

/-- Registers of the `MBX` page (15_onchip_memories.md). -/
def mapMbx : List RegDef := [
  ⟨0x40, 1, 0x0, 0x0, 0x0, 0x20003FFF, 0xC0000000, 0x0, 0x0, 0x0, [], (0, 1)⟩,
  ⟨0x44, 1, 0x0, 0x0, 0x0, 0x0, 0x0, 0x0, 0x0, 0xFFFFFFFF, [], (0, 1)⟩,
  ⟨0x48, 1, 0x0, 0x0, 0x0, 0x0, 0x0, 0xFFFF, 0x0, 0x0, [], (0, 1)⟩,
  ⟨0x4C, 1, 0x0, 0x0, 0x0, 0x0, 0x0, 0xFFFF, 0x0, 0x0, [], (0, 1)⟩]

/-- Registers of the `VLT` page (18_security_identity_and_seasons.md). -/
def mapVltA : List RegDef := [
  ⟨0x40, 1, 0x0, 0x10000000, 0x0, 0xFF3F0F18, 0x0, 0x0, 0x0, 0x0, [], (0, 1)⟩,
  ⟨0x44, 1, 0x0, 0x0, 0x0, 0xFFFFFFFF, 0x0, 0x0, 0x0, 0x0, [], (0, 1)⟩,
  ⟨0x48, 1, 0x0, 0x0, 0x0, 0x0, 0x0, 0x0, 0xF0000003, 0x0, [], (0, 1)⟩,
  ⟨0x4C, 1, 0x0, 0x0, 0x0, 0xFFFFFFFF, 0x0, 0x0, 0x0, 0x0, [], (0, 2)⟩,
  ⟨0x50, 1, 0x0, 0x0, 0x0, 0xFFFFFFFF, 0x0, 0x0, 0x0, 0x0, [], (1, 2)⟩,
  ⟨0x54, 1, 0x0, 0x0, 0x0, 0x0, 0x0, 0x0, 0x0, 0xFFFFFFFF, [], (0, 1)⟩,
  ⟨0x58, 1, 0x0, 0x0, 0x0, 0xFFFFFFFF, 0x0, 0x0, 0x0, 0x0, [], (0, 1)⟩,
  ⟨0x5C, 1, 0x0, 0x0, 0x0, 0xFFFFFFFF, 0x0, 0x0, 0x0, 0x0, [], (0, 1)⟩,
  ⟨0x60, 24, 0x4, 0x0, 0x0, 0x0, 0x0, 0x0, 0xFFFFFFFF, 0x0, [], (0, 1)⟩,
  ⟨0xC0, 1, 0x0, 0x0, 0x0, 0x0, 0x0, 0x0, 0x8000010F, 0x0, [], (0, 1)⟩,
  ⟨0xE0, 8, 0x4, 0x0, 0x0, 0x0, 0x0, 0x0, 0xFFFFFFFF, 0x0, [], (0, 1)⟩,
  ⟨0x100, 1, 0x0, 0x0, 0x0, 0x0, 0x0, 0x0, 0xB01FFFF8, 0x0, [], (0, 1)⟩]
/-- Registers of the `VLT` page (18_security_identity_and_seasons.md). -/
def mapVltB : List RegDef := [
  ⟨0x104, 1, 0x0, 0x0, 0x3FFFF, 0x0, 0x0, 0x0, 0x0, 0x0, [(17, 0)], (0, 1)⟩]
/-- All registers of the `VLT` page. -/
def mapVlt : List RegDef := mapVltA ++ mapVltB

/-- Registers of the `HIF` page (02_host_interface_and_registers.md). -/
def mapHifA : List RegDef := [
  ⟨0x48, 1, 0x0, 0x0, 0xFFF00000, 0x0, 0x0, 0x0, 0x0, 0x0, [], (0, 2)⟩,
  ⟨0x4C, 1, 0x0, 0x0, 0x3F, 0x0, 0x0, 0x0, 0x0, 0x0, [], (1, 2)⟩,
  ⟨0x50, 1, 0x0, 0x0, 0x0, 0x0, 0x0, 0x0, 0x0, 0xFFFFFFFF, [], (0, 1)⟩,
  ⟨0x54, 1, 0x0, 0x0, 0x0, 0x0, 0x0, 0x0, 0x0, 0xFFFFFFFF, [], (0, 1)⟩,
  ⟨0x100, 8, 0x40, 0x404, 0x3F0F05, 0x0, 0x0, 0x0, 0x2, 0x0, [], (0, 1)⟩,
  ⟨0x104, 8, 0x40, 0x0, 0x0, 0xC0FF0000, 0x0, 0x0, 0x0, 0x0, [], (0, 1)⟩,
  ⟨0x108, 8, 0x40, 0x0, 0xFFFFFFC0, 0x0, 0x0, 0x0, 0x0, 0x0, [], (0, 2)⟩,
  ⟨0x10C, 8, 0x40, 0x0, 0xFFFFFFFF, 0x0, 0x0, 0x0, 0x0, 0x0, [], (1, 2)⟩,
  ⟨0x110, 8, 0x40, 0x0, 0xFFFFFFC0, 0x0, 0x0, 0x0, 0x0, 0x0, [], (0, 2)⟩,
  ⟨0x114, 8, 0x40, 0x0, 0xFFFFFFFF, 0x0, 0x0, 0x0, 0x0, 0x0, [], (1, 2)⟩,
  ⟨0x118, 8, 0x40, 0x0, 0xFFFF, 0x0, 0x0, 0x0, 0x0, 0x0, [], (0, 1)⟩,
  ⟨0x11C, 8, 0x40, 0x0, 0x0, 0xFFFF, 0x0, 0x0, 0x0, 0x0, [], (0, 1)⟩]
/-- Registers of the `HIF` page (02_host_interface_and_registers.md). -/
def mapHifB : List RegDef := [
  ⟨0x120, 8, 0x40, 0x0, 0x0, 0xFFFFFFFF, 0x0, 0x0, 0x0, 0x0, [], (0, 1)⟩,
  ⟨0x800, 64, 0x10, 0x0, 0xFFFFFFFC, 0x0, 0x0, 0x0, 0x0, 0x0, [], (0, 1)⟩,
  ⟨0x804, 64, 0x10, 0x0, 0xFFFFFFFF, 0x0, 0x0, 0x0, 0x0, 0x0, [], (0, 1)⟩,
  ⟨0x808, 64, 0x10, 0x0, 0xFFFFFFFF, 0x0, 0x0, 0x0, 0x0, 0x0, [], (0, 1)⟩,
  ⟨0x80C, 64, 0x10, 0x1, 0x1, 0x0, 0x0, 0x0, 0x0, 0x0, [], (0, 1)⟩,
  ⟨0xC00, 2, 0x4, 0x0, 0x0, 0xFFFFFFFF, 0x0, 0x0, 0x0, 0x0, [], (0, 1)⟩]
/-- All registers of the `HIF` page. -/
def mapHif : List RegDef := mapHifA ++ mapHifB

/-- Registers of the `BMP` page; it has only the common registers of R55. -/
def mapBmp : List RegDef := [
]

/-- Registers of the `PWR` page (17_power_and_thermal.md). -/
def mapPwr : List RegDef := [
  ⟨0x40, 1, 0x0, 0xA0F1E, 0xFF0FFF, 0x0, 0x0, 0x0, 0x0, 0x0, [(23, 16)], (0, 1)⟩,
  ⟨0x44, 1, 0x0, 0x0, 0x0, 0xCF000000, 0x0, 0x0, 0x0, 0x0, [], (0, 1)⟩,
  ⟨0x48, 1, 0x0, 0x0, 0x0, 0x0, 0x0, 0x0, 0x0, 0xFFFFFFFF, [], (0, 1)⟩,
  ⟨0x4C, 1, 0x0, 0x0, 0x0, 0x0, 0x0, 0x0, 0x0, 0xFFFFFFFF, [], (0, 1)⟩,
  ⟨0x50, 1, 0x0, 0xFFFF, 0x0, 0x0, 0x0, 0x0, 0x0, 0xFFFFF, [], (0, 1)⟩,
  ⟨0x54, 1, 0x0, 0x2EE02EE, 0xFFFF, 0xFFFF0000, 0x0, 0x0, 0x0, 0x0, [], (0, 1)⟩,
  ⟨0x58, 1, 0x0, 0x690300, 0xFFFF00, 0x0, 0x0, 0x0, 0x0, 0x0, [(15, 8)], (0, 1)⟩,
  ⟨0x5C, 1, 0x0, 0x0, 0x0, 0xC000FFFF, 0x0, 0x0, 0x0, 0x0, [], (0, 1)⟩,
  ⟨0x60, 1, 0x0, 0x0, 0x0, 0xFFFFF, 0x0, 0x0, 0x0, 0x0, [], (0, 1)⟩,
  ⟨0x64, 1, 0x0, 0x8000, 0x0, 0x0, 0x0, 0x0, 0x0, 0xFFFFF, [], (0, 1)⟩,
  ⟨0x100, 16, 0x4, 0x0, 0x0, 0x8000FFFF, 0x0, 0x0, 0x0, 0x0, [], (0, 1)⟩]

/-- Registers of the `PRT` page (01_architecture.md). -/
def mapPrt : List RegDef := [
  ⟨0x40, 1, 0x0, 0x0, 0x3, 0x30000, 0x0, 0x0, 0x0, 0x0, [], (0, 1)⟩,
  ⟨0x50, 1, 0x0, 0x0, 0xFFFFFFFF, 0x0, 0x0, 0x0, 0x0, 0x0, [], (0, 1)⟩,
  ⟨0x54, 1, 0x0, 0x0, 0xFFFFFFFF, 0x0, 0x0, 0x0, 0x0, 0x0, [], (0, 1)⟩]

/-- Registers of the `SEQ` page (05_vector_sequencer.md). -/
def mapSeqA : List RegDef := [
  ⟨0x40, 1, 0x0, 0x0, 0xF00, 0x0, 0x0, 0x0, 0x3, 0x0, [], (0, 1)⟩,
  ⟨0x44, 1, 0x0, 0x0, 0x0, 0xFFFF9F07, 0x0, 0x0, 0x0, 0x0, [], (0, 1)⟩,
  ⟨0x48, 1, 0x0, 0x0, 0x3FFF, 0x0, 0x0, 0x0, 0x0, 0x0, [], (0, 1)⟩,
  ⟨0x4C, 1, 0x0, 0x1, 0x1FFFF, 0x0, 0x0, 0x0, 0x0, 0x0, [(16, 0)], (0, 1)⟩,
  ⟨0x50, 1, 0x0, 0x0, 0xFFFFFFFF, 0x0, 0x0, 0x0, 0x0, 0x0, [], (0, 1)⟩,
  ⟨0x54, 1, 0x0, 0x0, 0xF, 0x0, 0x0, 0x0, 0x0, 0x0, [], (0, 1)⟩,
  ⟨0x58, 1, 0x0, 0x0, 0xFFFF, 0x0, 0x0, 0x0, 0x0, 0x0, [], (0, 1)⟩,
  ⟨0x5C, 1, 0x0, 0xFFFFFF, 0xFFFFFF, 0x0, 0x0, 0x0, 0x0, 0x0, [], (0, 1)⟩,
  ⟨0x60, 1, 0x0, 0x0, 0xF, 0x0, 0x0, 0x0, 0x0, 0x0, [], (0, 1)⟩,
  ⟨0x64, 1, 0x0, 0x0, 0x0, 0xFF, 0x0, 0x0, 0x0, 0x0, [], (0, 1)⟩,
  ⟨0x68, 4, 0x4, 0x0, 0xFFFFFFFF, 0x0, 0x0, 0x0, 0x0, 0x0, [], (0, 1)⟩,
  ⟨0x78, 1, 0x0, 0x0, 0xFFFFFFFF, 0x0, 0x0, 0x0, 0x0, 0x0, [], (0, 3)⟩]
/-- Registers of the `SEQ` page (05_vector_sequencer.md). -/
def mapSeqB : List RegDef := [
  ⟨0x7C, 1, 0x0, 0x0, 0xFFFFFFFF, 0x0, 0x0, 0x0, 0x0, 0x0, [], (1, 3)⟩,
  ⟨0x80, 1, 0x0, 0x0, 0xFFFF, 0x0, 0x0, 0x0, 0x0, 0x0, [], (2, 3)⟩,
  ⟨0x84, 1, 0x0, 0x0, 0x0, 0xFFFFFFFF, 0x0, 0x0, 0x0, 0x0, [], (0, 3)⟩,
  ⟨0x88, 1, 0x0, 0x0, 0x0, 0xFFFFFFFF, 0x0, 0x0, 0x0, 0x0, [], (1, 3)⟩,
  ⟨0x8C, 1, 0x0, 0x0, 0x0, 0xFFFF, 0x0, 0x0, 0x0, 0x0, [], (2, 3)⟩,
  ⟨0x90, 1, 0x0, 0x0, 0x0, 0xF003FFF, 0x0, 0x0, 0x80000000, 0x0, [], (0, 1)⟩,
  ⟨0x94, 1, 0x0, 0x0, 0x0, 0xFFFFFFFF, 0x0, 0x0, 0x0, 0x0, [], (0, 1)⟩,
  ⟨0x98, 1, 0x0, 0x0, 0x0, 0xFFFFFFFF, 0x0, 0x0, 0x0, 0x0, [], (0, 3)⟩,
  ⟨0x9C, 1, 0x0, 0x0, 0x0, 0xFFFFFFFF, 0x0, 0x0, 0x0, 0x0, [], (1, 3)⟩,
  ⟨0xA0, 1, 0x0, 0x0, 0x0, 0xFFFF, 0x0, 0x0, 0x0, 0x0, [], (2, 3)⟩,
  ⟨0xA4, 1, 0x0, 0x0, 0x0, 0x0, 0x0, 0x0, 0x0, 0xFFFFFFFF, [], (0, 1)⟩,
  ⟨0xA8, 1, 0x0, 0x0, 0x0, 0x0, 0x0, 0x0, 0x0, 0xFFFFFFFF, [], (0, 1)⟩]
/-- Registers of the `SEQ` page (05_vector_sequencer.md). -/
def mapSeqC : List RegDef := [
  ⟨0xAC, 1, 0x0, 0x0, 0x0, 0x0, 0x0, 0x0, 0x0, 0xFFFFFFFF, [], (0, 1)⟩,
  ⟨0xB0, 1, 0x0, 0x0, 0x0, 0x8000FFFF, 0x0, 0x0, 0x0, 0x0, [], (0, 1)⟩,
  ⟨0xB4, 1, 0x0, 0x0, 0x0, 0x0, 0x0, 0x0, 0x0, 0xFFFFFFFF, [], (0, 1)⟩,
  ⟨0xB8, 1, 0x0, 0x0, 0x0, 0x3FFF, 0x0, 0x0, 0x0, 0x0, [], (0, 1)⟩,
  ⟨0xC0, 1, 0x0, 0x0, 0x0, 0xFFFFFFFF, 0x0, 0x0, 0x0, 0x0, [], (0, 2)⟩,
  ⟨0xC4, 1, 0x0, 0x0, 0x0, 0xFFFFFFFF, 0x0, 0x0, 0x0, 0x0, [], (1, 2)⟩,
  ⟨0x100, 16, 0x10, 0x0, 0xFFFFFFFF, 0x0, 0x0, 0x0, 0x0, 0x0, [], (0, 3)⟩,
  ⟨0x104, 16, 0x10, 0x0, 0xFFFFFFFF, 0x0, 0x0, 0x0, 0x0, 0x0, [], (1, 3)⟩,
  ⟨0x108, 16, 0x10, 0x0, 0xFFFFFFFF, 0x0, 0x0, 0x0, 0x0, 0x0, [], (2, 3)⟩]
/-- All registers of the `SEQ` page. -/
def mapSeq : List RegDef := mapSeqA ++ mapSeqB ++ mapSeqC

/-- Registers of the `LKS` page (05_vector_sequencer.md). -/
def mapLksA : List RegDef := [
  ⟨0x40, 1, 0x0, 0x0, 0x3FF, 0x0, 0x0, 0x0, 0x0, 0x0, [], (0, 1)⟩,
  ⟨0x44, 1, 0x0, 0x0, 0x3FF, 0x0, 0x0, 0x0, 0x0, 0x0, [], (0, 1)⟩,
  ⟨0x48, 1, 0x0, 0x800, 0xFFFFFFFF, 0x0, 0x0, 0x0, 0x0, 0x0, [(31, 0)], (0, 1)⟩,
  ⟨0x4C, 1, 0x0, 0x0, 0x0, 0xFFFFFFFF, 0x0, 0x0, 0x0, 0x0, [], (0, 1)⟩,
  ⟨0x50, 1, 0x0, 0x0, 0x0, 0xFFFFFFFF, 0x0, 0x0, 0x0, 0x0, [], (0, 1)⟩,
  ⟨0x54, 1, 0x0, 0x0, 0x0, 0xFF00FF, 0x0, 0x0, 0x0, 0x0, [], (0, 1)⟩,
  ⟨0x58, 1, 0x0, 0x0, 0x0, 0xFF00FF, 0x0, 0x0, 0x0, 0x0, [], (0, 1)⟩,
  ⟨0x5C, 1, 0x0, 0x800000, 0x0, 0xFF00FF, 0x0, 0x0, 0x0, 0x0, [], (0, 1)⟩,
  ⟨0x60, 1, 0x0, 0x800080, 0x0, 0xFF00FF, 0x0, 0x0, 0x0, 0x0, [], (0, 1)⟩,
  ⟨0x64, 1, 0x0, 0x0, 0xFF800, 0x0, 0x0, 0x0, 0x0, 0x0, [], (0, 1)⟩,
  ⟨0x68, 1, 0x0, 0x0, 0x1FF800, 0x0, 0x0, 0x0, 0x0, 0x0, [], (0, 1)⟩,
  ⟨0x6C, 1, 0x0, 0x0, 0x0, 0xFFFFFFFF, 0x0, 0x0, 0x0, 0x0, [], (0, 2)⟩]
/-- Registers of the `LKS` page (05_vector_sequencer.md). -/
def mapLksB : List RegDef := [
  ⟨0x70, 1, 0x0, 0x0, 0x0, 0x3F, 0x0, 0x0, 0x0, 0x0, [], (1, 2)⟩,
  ⟨0x74, 1, 0x0, 0x0, 0x0, 0xFC000F0F, 0x0, 0x0, 0x0, 0x0, [], (0, 1)⟩,
  ⟨0x100, 16, 0x10, 0x0, 0xFFFFF800, 0x0, 0x0, 0x0, 0x0, 0x0, [], (0, 4)⟩,
  ⟨0x104, 16, 0x10, 0x0, 0x3F, 0x0, 0x0, 0x0, 0x0, 0x0, [], (1, 4)⟩,
  ⟨0x108, 16, 0x10, 0x0, 0xFFFFF, 0x0, 0x0, 0x0, 0x0, 0x0, [(19, 0)], (2, 4)⟩,
  ⟨0x10C, 16, 0x10, 0x0, 0xE000FFFF, 0x0, 0x0, 0x0, 0x0, 0x0, [], (3, 4)⟩,
  ⟨0x200, 16, 0x10, 0x0, 0xFFFFF800, 0x0, 0x0, 0x0, 0x0, 0x0, [], (0, 4)⟩,
  ⟨0x204, 16, 0x10, 0x0, 0x3F, 0x0, 0x0, 0x0, 0x0, 0x0, [], (1, 4)⟩,
  ⟨0x208, 16, 0x10, 0x0, 0xFFFFF, 0x0, 0x0, 0x0, 0x0, 0x0, [(19, 0)], (2, 4)⟩,
  ⟨0x20C, 16, 0x10, 0x0, 0xE000FFFF, 0x0, 0x0, 0x0, 0x0, 0x0, [], (3, 4)⟩]
/-- All registers of the `LKS` page. -/
def mapLks : List RegDef := mapLksA ++ mapLksB

/-- Registers of the `APG` page (06_algorithmic_generators_and_codecs.md). -/
def mapApgA : List RegDef := [
  ⟨0x40, 1, 0x0, 0x0, 0x7, 0x0, 0x0, 0x0, 0x0, 0x0, [], (0, 1)⟩,
  ⟨0x44, 1, 0x0, 0x0, 0x0, 0xF00F0100, 0x0, 0x0, 0x0, 0x0, [], (0, 1)⟩,
  ⟨0x48, 1, 0x0, 0x1, 0x1FFFF, 0x0, 0x0, 0x0, 0x0, 0x0, [(16, 0)], (0, 1)⟩,
  ⟨0x4C, 1, 0x0, 0x1, 0x1FFFF, 0x0, 0x0, 0x0, 0x0, 0x0, [(16, 0)], (0, 1)⟩,
  ⟨0x50, 1, 0x0, 0x0, 0x1FFFF, 0x0, 0x0, 0x0, 0x0, 0x0, [], (0, 1)⟩,
  ⟨0x54, 1, 0x0, 0x0, 0x1FFFF, 0x0, 0x0, 0x0, 0x0, 0x0, [], (0, 1)⟩,
  ⟨0x58, 1, 0x0, 0x0, 0xFFFFFFFF, 0x0, 0x0, 0x0, 0x0, 0x0, [], (0, 1)⟩,
  ⟨0x5C, 1, 0x0, 0x0, 0xFFFFFFFF, 0x0, 0x0, 0x0, 0x0, 0x0, [], (0, 1)⟩,
  ⟨0x60, 1, 0x0, 0x0, 0x3F, 0x0, 0x0, 0x0, 0x0, 0x0, [], (0, 1)⟩,
  ⟨0x64, 1, 0x0, 0x0, 0xFFFFFFFF, 0x0, 0x0, 0x0, 0x0, 0x0, [], (0, 1)⟩,
  ⟨0x68, 1, 0x0, 0x0, 0xFFFFFFFF, 0x0, 0x0, 0x0, 0x0, 0x0, [], (0, 1)⟩,
  ⟨0x6C, 1, 0x0, 0x1F00, 0x1FFF, 0x0, 0x0, 0x0, 0x0, 0x0, [], (0, 1)⟩]
/-- Registers of the `APG` page (06_algorithmic_generators_and_codecs.md). -/
def mapApgB : List RegDef := [
  ⟨0x70, 1, 0x0, 0x1, 0x1FFFF, 0x0, 0x0, 0x0, 0x0, 0x0, [(16, 0)], (0, 1)⟩,
  ⟨0x74, 1, 0x0, 0x0, 0xFFF, 0x0, 0x0, 0x0, 0x0, 0x0, [], (0, 1)⟩,
  ⟨0x78, 1, 0x0, 0x0, 0xFFFF, 0x0, 0x0, 0x0, 0x0, 0x0, [], (0, 1)⟩,
  ⟨0x7C, 1, 0x0, 0xFFFFFFFF, 0x0, 0xFFFFFFFF, 0x0, 0x0, 0x0, 0x0, [], (0, 1)⟩,
  ⟨0x80, 8, 0x4, 0x0, 0xFFFFFFFF, 0x0, 0x0, 0x0, 0x0, 0x0, [], (0, 1)⟩,
  ⟨0xA0, 4, 0x4, 0x0, 0xFFFFFFFF, 0x0, 0x0, 0x0, 0x0, 0x0, [], (0, 1)⟩,
  ⟨0xB0, 4, 0x8, 0x0, 0xF, 0x0, 0x0, 0x0, 0x0, 0x0, [], (0, 1)⟩,
  ⟨0xB4, 4, 0x8, 0x7FFFFFFF, 0xFFFFFFFF, 0x0, 0x0, 0x0, 0x0, 0x0, [], (0, 1)⟩,
  ⟨0xD0, 2, 0x4, 0x0, 0xFFFFFFFF, 0x0, 0x0, 0x0, 0x0, 0x0, [], (0, 1)⟩,
  ⟨0xD8, 1, 0x0, 0x0, 0xFFFFFFFF, 0x0, 0x0, 0x0, 0x0, 0x0, [], (0, 1)⟩,
  ⟨0xE0, 3, 0x4, 0x0, 0x1F, 0x0, 0x0, 0x0, 0x0, 0x0, [], (0, 1)⟩,
  ⟨0xF0, 1, 0x0, 0x100, 0x337FF, 0x0, 0x0, 0x0, 0x0, 0x0, [], (0, 1)⟩]
/-- Registers of the `APG` page (06_algorithmic_generators_and_codecs.md). -/
def mapApgC : List RegDef := [
  ⟨0xF4, 1, 0x0, 0x0, 0xFFFFFF, 0x0, 0x0, 0x0, 0x0, 0x0, [], (0, 1)⟩,
  ⟨0xF8, 1, 0x0, 0x100, 0x337FF, 0x0, 0x0, 0x0, 0x0, 0x0, [], (0, 1)⟩,
  ⟨0xFC, 1, 0x0, 0x0, 0xFFFFFF, 0x0, 0x0, 0x0, 0x0, 0x0, [], (0, 1)⟩,
  ⟨0x100, 16, 0x8, 0x0, 0xFFFFFFFF, 0x0, 0x0, 0x0, 0x0, 0x0, [], (0, 2)⟩,
  ⟨0x104, 16, 0x8, 0x70000000, 0xFFFFFFFF, 0x0, 0x0, 0x0, 0x0, 0x0, [], (1, 2)⟩,
  ⟨0x180, 1, 0x0, 0x0, 0x0, 0xFFFFFFFF, 0x0, 0x0, 0x0, 0x0, [], (0, 1)⟩,
  ⟨0x184, 1, 0x0, 0x0, 0x0, 0xFFFFFFFF, 0x0, 0x0, 0x0, 0x0, [], (0, 1)⟩]
/-- All registers of the `APG` page. -/
def mapApg : List RegDef := mapApgA ++ mapApgB ++ mapApgC

/-- Registers of the `CDC` page (06_algorithmic_generators_and_codecs.md). -/
def mapCdc : List RegDef := [
  ⟨0x40, 8, 0x10, 0x80040, 0xFFFF7EFF, 0x0, 0x0, 0x0, 0x0, 0x0, [(23, 16)], (0, 1)⟩,
  ⟨0x44, 8, 0x10, 0x0, 0xFF00FF, 0x0, 0x0, 0x0, 0x0, 0x0, [], (0, 1)⟩,
  ⟨0x48, 8, 0x10, 0x0, 0x0, 0xC0FF00FF, 0x0, 0x0, 0x0, 0x0, [], (0, 1)⟩,
  ⟨0x4C, 8, 0x10, 0x0, 0x0, 0x0, 0x0, 0x0, 0x0, 0xFFFFFFFF, [], (0, 1)⟩,
  ⟨0xC0, 1, 0x0, 0x10001, 0xFFFFFFFF, 0x0, 0x0, 0x0, 0x0, 0x0, [(31, 16), (15, 0)], (0, 1)⟩,
  ⟨0xC4, 1, 0x0, 0x10001, 0xFFFFFFFF, 0x0, 0x0, 0x0, 0x0, 0x0, [(31, 16), (15, 0)], (0, 1)⟩,
  ⟨0xC8, 1, 0x0, 0x0, 0x0, 0x0, 0x0, 0x0, 0x0, 0xFFFFFFFF, [], (0, 1)⟩,
  ⟨0xE0, 8, 0x4, 0x0, 0xFFFFFFFF, 0x0, 0x0, 0x0, 0x0, 0x0, [], (0, 1)⟩]

/-- Registers of the `TSA` page (07_timing_generators.md). -/
def mapTsaA : List RegDef := [
  ⟨0x40, 1, 0x0, 0x10003C, 0xFFFFFF, 0x0, 0x0, 0x0, 0x0, 0x0, [], (0, 1)⟩,
  ⟨0x44, 1, 0x0, 0x1, 0x7FFFFFFF, 0x0, 0x0, 0x0, 0x0, 0x0, [], (0, 1)⟩,
  ⟨0x48, 1, 0x0, 0x0, 0x0, 0xFFFFFFFF, 0x0, 0x0, 0x0, 0x0, [], (0, 1)⟩,
  ⟨0x100, 16, 0x40, 0x0, 0xFFFFFF, 0x0, 0x0, 0x0, 0x0, 0x0, [], (0, 2)⟩,
  ⟨0x104, 16, 0x40, 0x800, 0xFFFFFFFF, 0x0, 0x0, 0x0, 0x0, 0x0, [], (1, 2)⟩,
  ⟨0x108, 16, 0x40, 0x0, 0xFFFFFFFF, 0x0, 0x0, 0x0, 0x0, 0x0, [], (0, 3)⟩,
  ⟨0x10C, 16, 0x40, 0x0, 0xFFFFFFFF, 0x0, 0x0, 0x0, 0x0, 0x0, [], (1, 3)⟩,
  ⟨0x110, 16, 0x40, 0x0, 0xFFFF, 0x0, 0x0, 0x0, 0x0, 0x0, [], (2, 3)⟩,
  ⟨0x114, 16, 0x40, 0x64000000, 0xFFFFFFFF, 0x0, 0x0, 0x0, 0x0, 0x0, [], (0, 2)⟩,
  ⟨0x118, 16, 0x40, 0x0, 0x1FFFF, 0x0, 0x0, 0x0, 0x0, 0x0, [], (1, 2)⟩,
  ⟨0x11C, 16, 0x40, 0x0, 0xC3FFFFFF, 0x0, 0x0, 0x0, 0x0, 0x0, [], (0, 1)⟩,
  ⟨0x120, 16, 0x40, 0x0, 0xC007FFFF, 0x0, 0x0, 0x0, 0x0, 0x0, [], (0, 1)⟩]
/-- Registers of the `TSA` page (07_timing_generators.md). -/
def mapTsaB : List RegDef := [
  ⟨0x124, 16, 0x40, 0x0, 0x0, 0xC000FFFF, 0x0, 0x0, 0x0, 0x0, [], (0, 1)⟩,
  ⟨0x128, 16, 0x40, 0x0, 0x0, 0xFFFFFFFF, 0x0, 0x0, 0x0, 0x0, [], (0, 1)⟩,
  ⟨0x12C, 16, 0x40, 0x0, 0x0, 0xFFFFFFFF, 0x0, 0x0, 0x0, 0x0, [], (0, 3)⟩,
  ⟨0x130, 16, 0x40, 0x0, 0x0, 0xFFFFFFFF, 0x0, 0x0, 0x0, 0x0, [], (1, 3)⟩,
  ⟨0x134, 16, 0x40, 0x0, 0x0, 0xFFFF, 0x0, 0x0, 0x0, 0x0, [], (2, 3)⟩]
/-- All registers of the `TSA` page. -/
def mapTsa : List RegDef := mapTsaA ++ mapTsaB

/-- Registers of the `DDS` page (07_timing_generators.md). -/
def mapDds : List RegDef := [
  ⟨0x44, 1, 0x0, 0x0, 0xFFFFFFFF, 0x0, 0x0, 0x0, 0x0, 0x0, [], (0, 2)⟩,
  ⟨0x48, 1, 0x0, 0x0, 0xFFFF, 0x0, 0x0, 0x0, 0x0, 0x0, [], (1, 2)⟩,
  ⟨0x4C, 1, 0x0, 0x0, 0xFFFF, 0x0, 0x0, 0x0, 0x0, 0x0, [], (0, 1)⟩,
  ⟨0x50, 1, 0x0, 0x0, 0xFFFFFFFF, 0x0, 0x0, 0x0, 0x0, 0x0, [], (0, 3)⟩,
  ⟨0x54, 1, 0x0, 0x0, 0xFFFFFFFF, 0x0, 0x0, 0x0, 0x0, 0x0, [], (1, 3)⟩,
  ⟨0x58, 1, 0x0, 0x0, 0xFFFF, 0x0, 0x0, 0x0, 0x0, 0x0, [], (2, 3)⟩,
  ⟨0x5C, 1, 0x0, 0x0, 0x0, 0x8000FFFF, 0x0, 0x0, 0x0, 0x0, [], (0, 1)⟩]

/-- Registers of the `TRG` page (11_trigger_and_acquisition.md). -/
def mapTrgA : List RegDef := [
  ⟨0x40, 1, 0x0, 0x200000, 0xFFFFFFFF, 0x0, 0x0, 0x0, 0x0, 0x0, [(31, 0)], (0, 1)⟩,
  ⟨0x44, 1, 0x0, 0x8000000, 0xFF00FF0F, 0x0, 0x0, 0x0, 0x0, 0x0, [(31, 24)], (0, 1)⟩,
  ⟨0x48, 1, 0x0, 0x0, 0x0, 0x30FF0000, 0x0, 0x0, 0x0, 0x0, [], (0, 1)⟩,
  ⟨0x4C, 1, 0x0, 0x0, 0x0, 0x0, 0x0, 0x0, 0x0, 0xFFFFFFFF, [], (0, 1)⟩,
  ⟨0x80, 4, 0x8, 0x0, 0x737FF, 0x0, 0x0, 0x0, 0x0, 0x0, [], (0, 1)⟩,
  ⟨0x84, 4, 0x8, 0x0, 0xFFFFFFFF, 0x0, 0x0, 0x0, 0x0, 0x0, [], (0, 1)⟩,
  ⟨0x100, 8, 0x20, 0x0, 0xF0F0F, 0x0, 0x0, 0x0, 0x0, 0x0, [], (0, 1)⟩,
  ⟨0x104, 8, 0x20, 0x0, 0xFFFFFFFF, 0x0, 0x0, 0x0, 0x0, 0x0, [], (0, 1)⟩,
  ⟨0x108, 8, 0x20, 0x0, 0xFFFFFFFF, 0x0, 0x0, 0x0, 0x0, 0x0, [], (0, 2)⟩,
  ⟨0x10C, 8, 0x20, 0x0, 0xFFFFFFFF, 0x0, 0x0, 0x0, 0x0, 0x0, [], (1, 2)⟩,
  ⟨0x110, 8, 0x20, 0x0, 0xFFFFFFFF, 0x0, 0x0, 0x0, 0x0, 0x0, [], (0, 2)⟩,
  ⟨0x114, 8, 0x20, 0x0, 0xFFFFFFFF, 0x0, 0x0, 0x0, 0x0, 0x0, [], (1, 2)⟩]
/-- Registers of the `TRG` page (11_trigger_and_acquisition.md). -/
def mapTrgB : List RegDef := [
  ⟨0x118, 8, 0x20, 0x0, 0x0, 0x0, 0x0, 0x0, 0x0, 0xFFFFFFFF, [], (0, 1)⟩]
/-- All registers of the `TRG` page. -/
def mapTrg : List RegDef := mapTrgA ++ mapTrgB

/-- Registers of the `ACQ` page (11_trigger_and_acquisition.md). -/
def mapAcqA : List RegDef := [
  ⟨0x40, 1, 0x0, 0x0, 0x0, 0x0, 0x0, 0x0, 0xB, 0x0, [], (0, 1)⟩,
  ⟨0x44, 1, 0x0, 0x0, 0xF, 0x0, 0x0, 0x0, 0x0, 0x0, [], (0, 1)⟩,
  ⟨0x48, 1, 0x0, 0x0, 0x0, 0xF8000000, 0x0, 0x0, 0x0, 0x0, [], (0, 1)⟩,
  ⟨0x4C, 1, 0x0, 0x0, 0xFFFFFFFF, 0x0, 0x0, 0x0, 0x0, 0x0, [], (0, 1)⟩,
  ⟨0x50, 1, 0x0, 0x0, 0xFFFFFFFF, 0x0, 0x0, 0x0, 0x0, 0x0, [], (0, 1)⟩,
  ⟨0x54, 1, 0x0, 0x1, 0x1FFFF, 0x0, 0x0, 0x0, 0x0, 0x0, [(16, 0)], (0, 1)⟩,
  ⟨0x58, 1, 0x0, 0x1, 0xFFFFFFFF, 0x0, 0x0, 0x0, 0x0, 0x0, [(31, 0)], (0, 1)⟩,
  ⟨0x5C, 1, 0x0, 0x0, 0xFFFFF000, 0x0, 0x0, 0x0, 0x0, 0x0, [], (0, 2)⟩,
  ⟨0x60, 1, 0x0, 0x0, 0x3F, 0x0, 0x0, 0x0, 0x0, 0x0, [], (1, 2)⟩,
  ⟨0x64, 1, 0x0, 0x0, 0xFFFFFFC0, 0x0, 0x0, 0x0, 0x0, 0x0, [], (0, 2)⟩,
  ⟨0x68, 1, 0x0, 0x0, 0x3F, 0x0, 0x0, 0x0, 0x0, 0x0, [], (1, 2)⟩,
  ⟨0x6C, 1, 0x0, 0x0, 0x0, 0xFFFFFFFF, 0x0, 0x0, 0x0, 0x0, [], (0, 1)⟩]
/-- Registers of the `ACQ` page (11_trigger_and_acquisition.md). -/
def mapAcqB : List RegDef := [
  ⟨0x70, 1, 0x0, 0x0, 0x0, 0xFFFF, 0x0, 0x0, 0x0, 0x0, [], (0, 1)⟩,
  ⟨0x74, 1, 0x0, 0x0, 0x0, 0xFFFFFFFF, 0x0, 0x0, 0x0, 0x0, [], (0, 1)⟩,
  ⟨0x78, 1, 0x0, 0x0, 0xFFFFFFFF, 0x0, 0x0, 0x0, 0x0, 0x0, [], (0, 1)⟩,
  ⟨0x7C, 1, 0x0, 0x0, 0x0, 0x0, 0x0, 0x0, 0x0, 0xFFFFFFFF, [], (0, 1)⟩,
  ⟨0x80, 1, 0x0, 0x0, 0x0, 0xFFFFFFFF, 0x0, 0x0, 0x0, 0x0, [], (0, 3)⟩,
  ⟨0x84, 1, 0x0, 0x0, 0x0, 0xFFFFFFFF, 0x0, 0x0, 0x0, 0x0, [], (1, 3)⟩,
  ⟨0x88, 1, 0x0, 0x0, 0x0, 0xFFFF, 0x0, 0x0, 0x0, 0x0, [], (2, 3)⟩,
  ⟨0x8C, 1, 0x0, 0x0, 0x0, 0x0, 0x0, 0x0, 0x0, 0xFFFFFFFF, [], (0, 1)⟩,
  ⟨0x90, 1, 0x0, 0x0, 0x0, 0x0, 0x0, 0x0, 0x0, 0xFFFFFFFF, [], (0, 1)⟩]
/-- All registers of the `ACQ` page. -/
def mapAcq : List RegDef := mapAcqA ++ mapAcqB

/-- Registers of the `MSK` page (11_trigger_and_acquisition.md). -/
def mapMskA : List RegDef := [
  ⟨0x40, 1, 0x0, 0x0, 0x33, 0x0, 0x0, 0x0, 0x100, 0x0, [], (0, 1)⟩,
  ⟨0x44, 1, 0x0, 0x0, 0x0, 0xE7000000, 0x0, 0x0, 0x0, 0x0, [], (0, 1)⟩,
  ⟨0x48, 1, 0x0, 0x0, 0x1F0007, 0x0, 0x0, 0x0, 0x0, 0x0, [], (0, 1)⟩,
  ⟨0x4C, 1, 0x0, 0x0, 0xFFFFFFFF, 0x0, 0x0, 0x0, 0x0, 0x0, [], (0, 1)⟩,
  ⟨0x50, 1, 0x0, 0x0, 0xFFFF78FF, 0x0, 0x0, 0x0, 0x0, 0x0, [], (0, 1)⟩,
  ⟨0x54, 1, 0x0, 0x0, 0x0, 0x0, 0x0, 0x0, 0x0, 0xFFFFFFFF, [], (0, 1)⟩,
  ⟨0x60, 1, 0x0, 0x0, 0x0, 0xFFFFFFFF, 0x0, 0x0, 0x0, 0x0, [], (0, 2)⟩,
  ⟨0x64, 1, 0x0, 0x0, 0x0, 0xFFFFFFFF, 0x0, 0x0, 0x0, 0x0, [], (1, 2)⟩,
  ⟨0x68, 1, 0x0, 0x0, 0x0, 0xFFFFFFFF, 0x0, 0x0, 0x0, 0x0, [], (0, 3)⟩,
  ⟨0x6C, 1, 0x0, 0x0, 0x0, 0xFFFFFFFF, 0x0, 0x0, 0x0, 0x0, [], (1, 3)⟩,
  ⟨0x70, 1, 0x0, 0x0, 0x0, 0xFFFF, 0x0, 0x0, 0x0, 0x0, [], (2, 3)⟩,
  ⟨0x74, 1, 0x0, 0x0, 0x0, 0xFFFFFFFF, 0x0, 0x0, 0x0, 0x0, [], (0, 1)⟩]
/-- Registers of the `MSK` page (11_trigger_and_acquisition.md). -/
def mapMskB : List RegDef := [
  ⟨0x78, 1, 0x0, 0x0, 0x0, 0x8F00FFFF, 0x0, 0x0, 0x0, 0x0, [], (0, 1)⟩,
  ⟨0x7C, 1, 0x0, 0x0, 0x0, 0xFFFFFFFF, 0x0, 0x0, 0x0, 0x0, [], (0, 1)⟩,
  ⟨0x100, 16, 0x4, 0x0, 0xFF00FF, 0x0, 0x0, 0x0, 0x0, 0x0, [], (0, 1)⟩]
/-- All registers of the `MSK` page. -/
def mapMsk : List RegDef := mapMskA ++ mapMskB

/-- Registers of the `FLP` page (10_compare_and_fail.md). -/
def mapFlpA : List RegDef := [
  ⟨0x40, 1, 0x0, 0x0, 0xD030000, 0x0, 0x0, 0x0, 0xF, 0x0, [], (0, 1)⟩,
  ⟨0x44, 1, 0x0, 0x0, 0x0, 0xFC0007FF, 0x0, 0x0, 0x0, 0x0, [], (0, 1)⟩,
  ⟨0x48, 1, 0x0, 0xFFFFFF, 0xFFFFFF, 0x0, 0x0, 0x0, 0x0, 0x0, [], (0, 1)⟩,
  ⟨0x4C, 1, 0x0, 0x0, 0xFFFFFFFF, 0x0, 0x0, 0x0, 0x0, 0x0, [], (0, 1)⟩,
  ⟨0x50, 1, 0x0, 0x0, 0x0, 0xFFFFFFFF, 0x0, 0x0, 0x0, 0x0, [], (0, 2)⟩,
  ⟨0x54, 1, 0x0, 0x0, 0x0, 0xFFFF, 0x0, 0x0, 0x0, 0x0, [], (1, 2)⟩,
  ⟨0x58, 1, 0x0, 0x0, 0xFFFFF000, 0x0, 0x0, 0x0, 0x0, 0x0, [], (0, 2)⟩,
  ⟨0x5C, 1, 0x0, 0x0, 0x3F, 0x0, 0x0, 0x0, 0x0, 0x0, [], (1, 2)⟩,
  ⟨0x60, 1, 0x0, 0x1, 0xFFFFF, 0x0, 0x0, 0x0, 0x0, 0x0, [(19, 0)], (0, 1)⟩,
  ⟨0x64, 1, 0x0, 0x0, 0x0, 0xFFFFFFFF, 0x0, 0x0, 0x0, 0x0, [], (0, 1)⟩,
  ⟨0x68, 1, 0x0, 0x0, 0xFFFFFFFF, 0x0, 0x0, 0x0, 0x0, 0x0, [], (0, 1)⟩,
  ⟨0x6C, 1, 0x0, 0x0, 0x0, 0x0, 0x0, 0x0, 0x0, 0xFFFFFFFF, [], (0, 1)⟩]
/-- Registers of the `FLP` page (10_compare_and_fail.md). -/
def mapFlpB : List RegDef := [
  ⟨0x70, 1, 0x0, 0x0, 0xFFFFFFC0, 0x0, 0x0, 0x0, 0x0, 0x0, [], (0, 2)⟩,
  ⟨0x74, 1, 0x0, 0x0, 0x3F, 0x0, 0x0, 0x0, 0x0, 0x0, [], (1, 2)⟩,
  ⟨0x78, 1, 0x0, 0x40, 0xFFFFC0, 0x0, 0x0, 0x0, 0x0, 0x0, [(23, 6)], (0, 1)⟩,
  ⟨0x7C, 1, 0x0, 0x0, 0x0, 0x0, 0x0, 0x0, 0x0, 0xFFFFFFFF, [], (0, 1)⟩,
  ⟨0x80, 1, 0x0, 0x0, 0x1, 0x0, 0x0, 0x0, 0x0, 0x0, [], (0, 1)⟩,
  ⟨0x84, 1, 0x0, 0x0, 0x0, 0x0, 0x0, 0x0, 0x0, 0xFFFFFFFF, [], (0, 1)⟩,
  ⟨0xA0, 1, 0x0, 0x0, 0x0, 0xFFFFFFFF, 0x0, 0x0, 0x0, 0x0, [], (0, 3)⟩,
  ⟨0xA4, 1, 0x0, 0x0, 0x0, 0xFFFFFFFF, 0x0, 0x0, 0x0, 0x0, [], (1, 3)⟩,
  ⟨0xA8, 1, 0x0, 0x0, 0x0, 0xFFFF, 0x0, 0x0, 0x0, 0x0, [], (2, 3)⟩,
  ⟨0xC0, 8, 0x4, 0x0, 0x0, 0xFFFFFFFF, 0x0, 0x0, 0x0, 0x0, [], (0, 1)⟩,
  ⟨0x200, 24, 0x20, 0x0, 0x0, 0xFFFFFFFF, 0x0, 0x0, 0x0, 0x0, [], (0, 2)⟩,
  ⟨0x204, 24, 0x20, 0x0, 0x0, 0xFFFF, 0x0, 0x0, 0x0, 0x0, [], (1, 2)⟩]
/-- Registers of the `FLP` page (10_compare_and_fail.md). -/
def mapFlpC : List RegDef := [
  ⟨0x208, 24, 0x20, 0x0, 0x0, 0xFFFFFFFF, 0x0, 0x0, 0x0, 0x0, [], (0, 2)⟩,
  ⟨0x20C, 24, 0x20, 0x0, 0x0, 0xFFFF, 0x0, 0x0, 0x0, 0x0, [], (1, 2)⟩,
  ⟨0x210, 24, 0x20, 0x0, 0x0, 0xFFFFFFFF, 0x0, 0x0, 0x0, 0x0, [], (0, 2)⟩,
  ⟨0x214, 24, 0x20, 0x0, 0x0, 0xFFFF, 0x0, 0x0, 0x0, 0x0, [], (1, 2)⟩]
/-- All registers of the `FLP` page. -/
def mapFlp : List RegDef := mapFlpA ++ mapFlpB ++ mapFlpC

/-- Registers of the `CEC` page (12_sideband_engines.md). -/
def mapCec : List RegDef := [
  ⟨0x44, 1, 0x0, 0x0, 0x0, 0xF0000000, 0x0, 0x0, 0x0, 0x0, [], (0, 1)⟩,
  ⟨0x48, 1, 0x0, 0x0, 0xFFFFFFFF, 0x0, 0x0, 0x0, 0x0, 0x0, [], (0, 1)⟩,
  ⟨0x4C, 1, 0x0, 0x0, 0x0, 0xFFFFFFFF, 0x0, 0x0, 0x0, 0x0, [], (0, 1)⟩,
  ⟨0x50, 1, 0x0, 0x0, 0x0, 0xFFFFFFFF, 0x0, 0x0, 0x0, 0x0, [], (0, 1)⟩,
  ⟨0x54, 1, 0x0, 0x0, 0xFFFFFFFF, 0x0, 0x0, 0x0, 0x0, 0x0, [], (0, 1)⟩,
  ⟨0x58, 1, 0x0, 0x0, 0x0, 0x0, 0x0, 0x0, 0x0, 0xFFFFFFFF, [], (0, 1)⟩,
  ⟨0x5C, 1, 0x0, 0x0, 0x0, 0x0, 0x0, 0x0, 0x3, 0x0, [], (0, 1)⟩,
  ⟨0x80, 1, 0x0, 0x640A00, 0xFFFF0F01, 0x0, 0x0, 0x0, 0x0, 0x0, [], (0, 1)⟩,
  ⟨0x84, 1, 0x0, 0x0, 0xFFFFF, 0x0, 0x0, 0x0, 0x0, 0x0, [], (0, 1)⟩,
  ⟨0x88, 1, 0x0, 0x0, 0x0, 0x0, 0x0, 0x0, 0x0, 0xFFFFFFFF, [], (0, 1)⟩]

/-- Registers of the `DDC` page (12_sideband_engines.md). -/
def mapDdc : List RegDef := [
  ⟨0x44, 1, 0x0, 0x0, 0x0, 0xF0000000, 0x0, 0x0, 0x0, 0x0, [], (0, 1)⟩,
  ⟨0x48, 1, 0x0, 0x0, 0xFFFFFFFF, 0x0, 0x0, 0x0, 0x0, 0x0, [], (0, 1)⟩,
  ⟨0x4C, 1, 0x0, 0x0, 0x0, 0xFFFFFFFF, 0x0, 0x0, 0x0, 0x0, [], (0, 1)⟩,
  ⟨0x50, 1, 0x0, 0x0, 0x0, 0xFFFFFFFF, 0x0, 0x0, 0x0, 0x0, [], (0, 1)⟩,
  ⟨0x54, 1, 0x0, 0x0, 0xFFFFFFFF, 0x0, 0x0, 0x0, 0x0, 0x0, [], (0, 1)⟩,
  ⟨0x58, 1, 0x0, 0x0, 0x0, 0x0, 0x0, 0x0, 0x0, 0xFFFFFFFF, [], (0, 1)⟩,
  ⟨0x5C, 1, 0x0, 0x0, 0x0, 0x0, 0x0, 0x0, 0x3, 0x0, [], (0, 1)⟩,
  ⟨0x80, 1, 0x0, 0x27100A50, 0xFFFFFEFD, 0x0, 0x0, 0x0, 0x0, 0x0, [], (0, 1)⟩,
  ⟨0x84, 1, 0x0, 0x0, 0x0, 0x0, 0x0, 0x0, 0x0, 0xFFFFFFFF, [], (0, 1)⟩,
  ⟨0xC0, 8, 0x4, 0x100, 0xF07FFF7F, 0x0, 0x0, 0x0, 0x0, 0x0, [(15, 8)], (0, 1)⟩]

/-- Registers of the `AUX` page (12_sideband_engines.md). -/
def mapAuxA : List RegDef := [
  ⟨0x44, 1, 0x0, 0x0, 0x0, 0xF0000000, 0x0, 0x0, 0x0, 0x0, [], (0, 1)⟩,
  ⟨0x48, 1, 0x0, 0x0, 0xFFFFFFFF, 0x0, 0x0, 0x0, 0x0, 0x0, [], (0, 1)⟩,
  ⟨0x4C, 1, 0x0, 0x0, 0x0, 0xFFFFFFFF, 0x0, 0x0, 0x0, 0x0, [], (0, 1)⟩,
  ⟨0x50, 1, 0x0, 0x0, 0x0, 0xFFFFFFFF, 0x0, 0x0, 0x0, 0x0, [], (0, 1)⟩,
  ⟨0x54, 1, 0x0, 0x0, 0xFFFFFFFF, 0x0, 0x0, 0x0, 0x0, 0x0, [], (0, 1)⟩,
  ⟨0x58, 1, 0x0, 0x0, 0x0, 0x0, 0x0, 0x0, 0x0, 0xFFFFFFFF, [], (0, 1)⟩,
  ⟨0x5C, 1, 0x0, 0x0, 0x0, 0x0, 0x0, 0x0, 0x3, 0x0, [], (0, 1)⟩,
  ⟨0x80, 1, 0x0, 0x7600000A, 0xFFFF00FF, 0x0, 0x0, 0x0, 0x0, 0x0, [], (0, 1)⟩,
  ⟨0x84, 1, 0x0, 0xC990190, 0xFFFFFFFF, 0x0, 0x0, 0x0, 0x0, 0x0, [(21, 12)], (0, 1)⟩,
  ⟨0x88, 1, 0x0, 0x0, 0x0, 0xFFFFFFFF, 0x0, 0x0, 0x0, 0x0, [], (0, 1)⟩,
  ⟨0x8C, 1, 0x0, 0x0, 0x0, 0x0, 0x0, 0x0, 0x1, 0x0, [], (0, 1)⟩,
  ⟨0x90, 1, 0x0, 0x0, 0x0, 0x0, 0x0, 0x0, 0x0, 0xFFFFFFFF, [], (0, 1)⟩]
/-- Registers of the `AUX` page (12_sideband_engines.md). -/
def mapAuxB : List RegDef := [
  ⟨0xC0, 8, 0x8, 0x0, 0xFF0FFFFF, 0x0, 0x0, 0x0, 0x0, 0x0, [], (0, 1)⟩,
  ⟨0xC4, 8, 0x8, 0x1, 0x1FFF3FFF, 0x0, 0x0, 0x0, 0x0, 0x0, [(13, 0)], (0, 1)⟩]
/-- All registers of the `AUX` page. -/
def mapAux : List RegDef := mapAuxA ++ mapAuxB

/-- Registers of the `HPD` page (12_sideband_engines.md). -/
def mapHpd : List RegDef := [
  ⟨0x44, 1, 0x0, 0x0, 0x0, 0xF0000000, 0x0, 0x0, 0x0, 0x0, [], (0, 1)⟩,
  ⟨0x50, 1, 0x0, 0x0, 0x0, 0xFFFFFFFF, 0x0, 0x0, 0x0, 0x0, [], (0, 1)⟩,
  ⟨0x54, 1, 0x0, 0x0, 0xFFFFFFFF, 0x0, 0x0, 0x0, 0x0, 0x0, [], (0, 1)⟩,
  ⟨0x58, 1, 0x0, 0x0, 0x0, 0x0, 0x0, 0x0, 0x0, 0xFFFFFFFF, [], (0, 1)⟩,
  ⟨0x80, 1, 0x0, 0x5DC0A00, 0xFFFFFF01, 0x0, 0x0, 0x0, 0x0, 0x0, [], (0, 1)⟩,
  ⟨0x84, 1, 0x0, 0x7D000FA, 0xFFFFFFFF, 0x0, 0x0, 0x0, 0x0, 0x0, [(31, 16)], (0, 1)⟩,
  ⟨0x88, 1, 0x0, 0x2EE, 0x1FFFF, 0x0, 0x0, 0x0, 0x80000000, 0x0, [], (0, 1)⟩,
  ⟨0x8C, 1, 0x0, 0x0, 0x0, 0xC0000000, 0x0, 0x0, 0x0, 0x0, [], (0, 1)⟩]

/-- Registers of the `MEAS` page (09_levels_pmu_and_analog_dds.md). -/
def mapMeas : List RegDef := [
  ⟨0x40, 1, 0x0, 0x0, 0xF04, 0x0, 0x0, 0x0, 0x3, 0x0, [], (0, 1)⟩,
  ⟨0x44, 1, 0x0, 0x0, 0x0, 0xFF00FFFF, 0x0, 0x0, 0x0, 0x0, [], (0, 1)⟩,
  ⟨0x48, 1, 0x0, 0x64, 0xFFFF, 0x0, 0x0, 0x0, 0x0, 0x0, [(15, 0)], (0, 1)⟩,
  ⟨0x4C, 1, 0x0, 0x0, 0x8700030F, 0x0, 0x0, 0x0, 0x0, 0x0, [], (0, 1)⟩,
  ⟨0x50, 1, 0x0, 0x2625A0, 0xFFFFFFFF, 0x0, 0x0, 0x0, 0x0, 0x0, [(31, 0)], (0, 1)⟩,
  ⟨0x54, 1, 0x0, 0x0, 0x0, 0xC03F0000, 0x0, 0x0, 0x0, 0x0, [], (0, 1)⟩,
  ⟨0x58, 1, 0x0, 0x0, 0x0, 0xFFFFFFFF, 0x0, 0x0, 0x0, 0x0, [], (0, 3)⟩,
  ⟨0x5C, 1, 0x0, 0x0, 0x0, 0xFFFFFFFF, 0x0, 0x0, 0x0, 0x0, [], (1, 3)⟩,
  ⟨0x60, 1, 0x0, 0x0, 0x0, 0xFFFF, 0x0, 0x0, 0x0, 0x0, [], (2, 3)⟩,
  ⟨0x100, 16, 0x4, 0x400, 0xFFFF0FCF, 0x0, 0x0, 0x0, 0x0, 0x0, [], (0, 1)⟩,
  ⟨0x140, 16, 0x4, 0x0, 0x0, 0xFFFFFFFF, 0x0, 0x0, 0x0, 0x0, [], (0, 1)⟩]

/-- Registers of the `FCH` page (07_timing_generators.md). -/
def mapFchA : List RegDef := [
  ⟨0x40, 1, 0x0, 0x0, 0xFFFFFF, 0x0, 0x0, 0x0, 0x0, 0x0, [], (0, 1)⟩,
  ⟨0x44, 1, 0x0, 0x0, 0xFFFFFF, 0x0, 0x0, 0x0, 0x0, 0x0, [], (0, 1)⟩,
  ⟨0x48, 1, 0x0, 0x0, 0x0, 0xF000FFFF, 0x0, 0x0, 0x0, 0x0, [], (0, 1)⟩,
  ⟨0x4C, 1, 0x0, 0x0, 0x0, 0xFFFFFF, 0x0, 0x0, 0x0, 0x0, [], (0, 1)⟩,
  ⟨0x50, 1, 0x0, 0x0, 0x0, 0xFFFFFF, 0x0, 0x0, 0x0, 0x0, [], (0, 1)⟩,
  ⟨0x54, 1, 0x0, 0x0, 0x0, 0x0, 0x0, 0x0, 0x0, 0xFFFFFFFF, [], (0, 1)⟩,
  ⟨0x58, 1, 0x0, 0x0, 0x0, 0x0, 0x0, 0x0, 0x0, 0xFFFFFFFF, [], (0, 1)⟩,
  ⟨0x100, 16, 0x20, 0x0, 0xFFFFFFF, 0x0, 0x0, 0x0, 0x0, 0x0, [], (0, 1)⟩,
  ⟨0x104, 16, 0x20, 0x0, 0xFFFFFFF, 0x0, 0x0, 0x0, 0x0, 0x0, [], (0, 1)⟩,
  ⟨0x108, 16, 0x20, 0x0, 0x8FFFFFFF, 0x0, 0x0, 0x0, 0x0, 0x0, [], (0, 1)⟩,
  ⟨0x10C, 16, 0x20, 0x0, 0x8FFFFFFF, 0x0, 0x0, 0x0, 0x0, 0x0, [], (0, 1)⟩,
  ⟨0x110, 16, 0x20, 0x0, 0x8FFFFFFF, 0x0, 0x0, 0x0, 0x0, 0x0, [], (0, 1)⟩]
/-- Registers of the `FCH` page (07_timing_generators.md, 08_formatters_and_drive.md, 09_levels_pmu_and_analog_dds.md). -/
def mapFchB : List RegDef := [
  ⟨0x114, 16, 0x20, 0x0, 0x8FFFFFFF, 0x0, 0x0, 0x0, 0x0, 0x0, [], (0, 1)⟩,
  ⟨0x118, 16, 0x20, 0x1, 0x3337F, 0x0, 0x0, 0x0, 0x0, 0x0, [], (0, 1)⟩,
  ⟨0x60, 1, 0x0, 0xA4000, 0xFFF330, 0x0, 0x0, 0x0, 0x0, 0x0, [(23, 16)], (0, 1)⟩,
  ⟨0x64, 1, 0x0, 0x2AAAAB, 0x3FFFFF, 0x0, 0x0, 0x0, 0x0, 0x0, [], (0, 1)⟩,
  ⟨0x68, 1, 0x0, 0x400, 0xFF07, 0x0, 0x0, 0x0, 0x0, 0x0, [], (0, 1)⟩,
  ⟨0x6C, 1, 0x0, 0x0, 0x0, 0xFFF80000, 0x0, 0x0, 0x0, 0x0, [], (0, 1)⟩,
  ⟨0x70, 1, 0x0, 0x0, 0x0, 0x0, 0x0, 0x0, 0x0, 0xFFFFFFFF, [], (0, 1)⟩,
  ⟨0x74, 1, 0x0, 0x0, 0x8000FFFF, 0x0, 0x0, 0x0, 0x0, 0x0, [], (0, 1)⟩,
  ⟨0x78, 1, 0x0, 0x0, 0x0, 0x3FFFF00, 0x0, 0x0, 0x0, 0x0, [], (0, 1)⟩,
  ⟨0x300, 4, 0x20, 0x147B, 0xFFFF, 0x0, 0x0, 0x0, 0x0, 0x0, [], (0, 1)⟩,
  ⟨0x304, 4, 0x20, 0x0, 0xFFFF, 0x0, 0x0, 0x0, 0x0, 0x0, [], (0, 1)⟩,
  ⟨0x308, 4, 0x20, 0x0, 0xFFFF, 0x0, 0x0, 0x0, 0x0, 0x0, [], (0, 1)⟩]
/-- Registers of the `FCH` page (09_levels_pmu_and_analog_dds.md, 10_compare_and_fail.md). -/
def mapFchC : List RegDef := [
  ⟨0x30C, 4, 0x20, 0x0, 0xFFFF, 0x0, 0x0, 0x0, 0x0, 0x0, [], (0, 1)⟩,
  ⟨0x310, 4, 0x20, 0x8000, 0xFFFF, 0x0, 0x0, 0x0, 0x0, 0x0, [], (0, 1)⟩,
  ⟨0x314, 4, 0x20, 0x8000, 0xFFFF, 0x0, 0x0, 0x0, 0x0, 0x0, [], (0, 1)⟩,
  ⟨0x318, 4, 0x20, 0x8000, 0xFFFF, 0x0, 0x0, 0x0, 0x0, 0x0, [], (0, 1)⟩,
  ⟨0x31C, 4, 0x20, 0x8000, 0xFFFF, 0x0, 0x0, 0x0, 0x0, 0x0, [], (0, 1)⟩,
  ⟨0x80, 1, 0x0, 0x0, 0xF0100, 0x0, 0x0, 0x0, 0x0, 0x0, [], (0, 1)⟩,
  ⟨0x84, 1, 0x0, 0x500, 0xFF070F03, 0x0, 0x0, 0x0, 0x0, 0x0, [], (0, 1)⟩,
  ⟨0x88, 1, 0x0, 0x0, 0xFFFFFFFF, 0x0, 0x0, 0x0, 0x0, 0x0, [], (0, 1)⟩,
  ⟨0x8C, 1, 0x0, 0x0, 0x0, 0xC0000000, 0x0, 0x0, 0x0, 0x0, [], (0, 1)⟩,
  ⟨0x90, 1, 0x0, 0x0, 0x0, 0xFFFFFFFF, 0x0, 0x0, 0x0, 0x0, [], (0, 1)⟩,
  ⟨0x94, 1, 0x0, 0x0, 0x3130001, 0x0, 0x0, 0x0, 0xC0000000, 0x0, [], (0, 1)⟩,
  ⟨0x98, 1, 0x0, 0x0, 0xFFFFFFF, 0x0, 0x0, 0x0, 0x0, 0x0, [], (0, 1)⟩]
/-- Registers of the `FCH` page (10_compare_and_fail.md). -/
def mapFchD : List RegDef := [
  ⟨0x9C, 1, 0x0, 0x0, 0xFFFF, 0x0, 0x0, 0x0, 0x0, 0x0, [], (0, 1)⟩,
  ⟨0xA0, 1, 0x0, 0x0, 0xFFFFFFFF, 0x0, 0x0, 0x0, 0x0, 0x0, [], (0, 1)⟩,
  ⟨0xA4, 1, 0x0, 0x1000100, 0x1FF01FF, 0x0, 0x0, 0x0, 0x0, 0x0, [(24, 16), (8, 0)], (0, 1)⟩,
  ⟨0xA8, 1, 0x0, 0x10000, 0xFFFFFFFF, 0x0, 0x0, 0x0, 0x0, 0x0, [(31, 0)], (0, 1)⟩,
  ⟨0xAC, 1, 0x0, 0x0, 0xFFFFFC00, 0x0, 0x0, 0x0, 0x0, 0x0, [], (0, 2)⟩,
  ⟨0xB0, 1, 0x0, 0x0, 0x3F, 0x0, 0x0, 0x0, 0x0, 0x0, [], (1, 2)⟩,
  ⟨0xB4, 1, 0x0, 0x0, 0x0, 0xF1FF01FF, 0x0, 0x0, 0x0, 0x0, [], (0, 1)⟩,
  ⟨0xB8, 1, 0x0, 0x0, 0x0, 0x0, 0x0, 0x0, 0x0, 0xFFFFFFFF, [], (0, 1)⟩]
/-- All registers of the `FCH` page. -/
def mapFch : List RegDef := mapFchA ++ mapFchB ++ mapFchC ++ mapFchD

/-- Registers of the `UCH` page (08_formatters_and_drive.md, 09_levels_pmu_and_analog_dds.md). -/
def mapUchA : List RegDef := [
  ⟨0x40, 1, 0x0, 0x0, 0xFFFFFF, 0x0, 0x0, 0x0, 0x0, 0x0, [], (0, 1)⟩,
  ⟨0x44, 1, 0x0, 0x0, 0xFFFFFF, 0x0, 0x0, 0x0, 0x0, 0x0, [], (0, 1)⟩,
  ⟨0x48, 1, 0x0, 0x10, 0xD7F3, 0x0, 0x0, 0x0, 0x0, 0x0, [], (0, 1)⟩,
  ⟨0x4C, 1, 0x0, 0x0, 0x0, 0xF8000000, 0x0, 0x0, 0x0, 0x0, [], (0, 1)⟩,
  ⟨0x50, 1, 0x0, 0x0, 0x0, 0x0, 0x0, 0x0, 0x0, 0xFFFFFFFF, [], (0, 1)⟩,
  ⟨0x54, 1, 0x0, 0x0, 0x0, 0x0, 0x0, 0x0, 0x0, 0xFFFFFFFF, [], (0, 1)⟩,
  ⟨0x100, 16, 0x10, 0x0, 0xFFFFFFFF, 0x0, 0x0, 0x0, 0x0, 0x0, [], (0, 1)⟩,
  ⟨0x104, 16, 0x10, 0x0, 0xFFFFFFFF, 0x0, 0x0, 0x0, 0x0, 0x0, [], (0, 1)⟩,
  ⟨0x108, 16, 0x10, 0x0, 0xFFFFFFFF, 0x0, 0x0, 0x0, 0x0, 0x0, [], (0, 1)⟩,
  ⟨0x10C, 16, 0x10, 0x1, 0x1337F, 0x0, 0x0, 0x0, 0x0, 0x0, [], (0, 1)⟩,
  ⟨0x58, 1, 0x0, 0x199AF333, 0xFFFFFFFF, 0x0, 0x0, 0x0, 0x0, 0x0, [], (0, 1)⟩,
  ⟨0x5C, 1, 0x0, 0x420A4000, 0x73FFFFFF, 0x0, 0x0, 0x0, 0x0, 0x0, [(23, 16)], (0, 1)⟩]
/-- Registers of the `UCH` page (09_levels_pmu_and_analog_dds.md). -/
def mapUchB : List RegDef := [
  ⟨0x60, 1, 0x0, 0x4, 0x0, 0xFF000007, 0x0, 0x0, 0x0, 0x0, [], (0, 1)⟩,
  ⟨0x64, 1, 0x0, 0x0, 0x8700FFFF, 0x0, 0x0, 0x0, 0x0, 0x0, [], (0, 1)⟩,
  ⟨0x68, 1, 0x0, 0x0, 0x0, 0x3FFFF00, 0x0, 0x0, 0x0, 0x0, [], (0, 1)⟩,
  ⟨0x6C, 1, 0x0, 0x0, 0x0, 0x0, 0x0, 0x0, 0x0, 0xFFFFFFFF, [], (0, 1)⟩,
  ⟨0x200, 4, 0x20, 0x4000, 0xFFFF, 0x0, 0x0, 0x0, 0x0, 0x0, [], (0, 1)⟩,
  ⟨0x204, 4, 0x20, 0x4000, 0xFFFF, 0x0, 0x0, 0x0, 0x0, 0x0, [], (0, 1)⟩,
  ⟨0x208, 4, 0x20, 0x4000, 0xFFFF, 0x0, 0x0, 0x0, 0x0, 0x0, [], (0, 1)⟩,
  ⟨0x20C, 4, 0x20, 0x4000, 0xFFFF, 0x0, 0x0, 0x0, 0x0, 0x0, [], (0, 1)⟩,
  ⟨0x210, 4, 0x20, 0x4000, 0xFFFF, 0x0, 0x0, 0x0, 0x0, 0x0, [], (0, 1)⟩]
/-- All registers of the `UCH` page. -/
def mapUch : List RegDef := mapUchA ++ mapUchB

/-- The block-specific registers of a kind of page. -/
def pageMap : PageKind → List RegDef
  | .glb => mapGlb
  | .clk => mapClk
  | .gtc => mapGtc
  | .boot => mapBoot
  | .evc => mapEvc
  | .evg => mapEvg
  | .mc => mapMc
  | .mcg => mapMcg
  | .qos => mapQos
  | .srm => mapSrm
  | .mbx => mapMbx
  | .vlt => mapVlt
  | .hif => mapHif
  | .bmp => mapBmp
  | .pwr => mapPwr
  | .prt => mapPrt
  | .seq => mapSeq
  | .lks => mapLks
  | .apg => mapApg
  | .cdc => mapCdc
  | .tsa => mapTsa
  | .dds => mapDds
  | .trg => mapTrg
  | .acq => mapAcq
  | .msk => mapMsk
  | .flp => mapFlp
  | .cec => mapCec
  | .ddc => mapDdc
  | .aux => mapAux
  | .hpd => mapHpd
  | .meas => mapMeas
  | .fch => mapFch
  | .uch => mapUch

end Sys2Proof.Machine
end

