-- ==== Sys2Proof/Machine/Sources.lean ====
section
/-! DEFINITION. The 1,152 event sources (R430, Tables 16-1 to 16-5 and the source tables of each chapter): their numbers, their
base classes, and the block page that shows each of them (R431). -/
namespace Sys2Proof.Machine

def Ev.edgeOrder (n : Nat) : Nat := 8 * n + 0
def Ev.strobeSlip (n : Nat) : Nat := 8 * n + 1
def Ev.tcalErr (n : Nat) : Nat := 8 * n + 2
def Ev.drvCompliance (n : Nat) : Nat := 8 * n + 3
def Ev.drvShort (n : Nat) : Nat := 8 * n + 4
def Ev.eyeDone (n : Nat) : Nat := 8 * n + 5
def Ev.cdrNoTrans (n : Nat) : Nat := 8 * n + 6
def Ev.cdrFreqLim (n : Nat) : Nat := 8 * n + 7
def Ev.ucEdgeOrder (m : Nat) : Nat := 0x100 + 4 * m + 0
def Ev.ucOverdrive (m : Nat) : Nat := 0x100 + 4 * m + 1
def Ev.pmuCompliance (m : Nat) : Nat := 0x100 + 4 * m + 2
def Ev.pmuOpen (m : Nat) : Nat := 0x100 + 4 * m + 3
def Ev.admitDenied (p : Nat) : Nat := 0x200 + 0x40 * p + 0x0
def Ev.portReact (p : Nat) : Nat := 0x200 + 0x40 * p + 0x1
def Ev.seqHalt (p : Nat) : Nat := 0x200 + 0x40 * p + 0x8
def Ev.seqIllegal (p : Nat) : Nat := 0x200 + 0x40 * p + 0x9
def Ev.seqStack (p : Nat) : Nat := 0x200 + 0x40 * p + 0xA
def Ev.beatStarve (p : Nat) : Nat := 0x200 + 0x40 * p + 0xB
def Ev.seqUnderrun (p : Nat) : Nat := 0x200 + 0x40 * p + 0xC
def Ev.streamPoison (p : Nat) : Nat := 0x200 + 0x40 * p + 0xD
def Ev.matchTimeout (p : Nat) : Nat := 0x200 + 0x40 * p + 0xE
def Ev.waitTimeout (p : Nat) : Nat := 0x200 + 0x40 * p + 0xF
def Ev.utilRate (p : Nat) : Nat := 0x200 + 0x40 * p + 0x10
def Ev.lockLow (p : Nat) : Nat := 0x200 + 0x40 * p + 0x11
def Ev.rxOverrun (p : Nat) : Nat := 0x200 + 0x40 * p + 0x12
def Ev.descErr (p : Nat) : Nat := 0x200 + 0x40 * p + 0x13
def Ev.apgProgErr (p : Nat) : Nat := 0x200 + 0x40 * p + 0x14
def Ev.apgEnd (p : Nat) : Nat := 0x200 + 0x40 * p + 0x15
def Ev.cdcLock (p : Nat) : Nat := 0x200 + 0x40 * p + 0x16
def Ev.cdcLockLoss (p : Nat) : Nat := 0x200 + 0x40 * p + 0x17
def Ev.cdcCodeErr (p : Nat) : Nat := 0x200 + 0x40 * p + 0x18
def Ev.cdcDispErr (p : Nat) : Nat := 0x200 + 0x40 * p + 0x19
def Ev.tsSeam (p : Nat) : Nat := 0x200 + 0x40 * p + 0x1A
def Ev.tcalStale (p : Nat) : Nat := 0x200 + 0x40 * p + 0x1B
def Ev.sjLimit (p : Nat) : Nat := 0x200 + 0x40 * p + 0x1C
def Ev.measDone (p : Nat) : Nat := 0x200 + 0x40 * p + 0x1D
def Ev.lcalErr (p : Nat) : Nat := 0x200 + 0x40 * p + 0x1E
def Ev.failFirst (p : Nat) : Nat := 0x200 + 0x40 * p + 0x1F
def Ev.failStop (p : Nat) : Nat := 0x200 + 0x40 * p + 0x20
def Ev.flogLost (p : Nat) : Nat := 0x200 + 0x40 * p + 0x21
def Ev.flogFull (p : Nat) : Nat := 0x200 + 0x40 * p + 0x22
def Ev.flpDramErr (p : Nat) : Nat := 0x200 + 0x40 * p + 0x23
def Ev.trgFire (p : Nat) : Nat := 0x200 + 0x40 * p + 0x24
def Ev.trgMissed (p : Nat) : Nat := 0x200 + 0x40 * p + 0x25
def Ev.trgTimeout (p : Nat) : Nat := 0x200 + 0x40 * p + 0x26
def Ev.acqDone (p : Nat) : Nat := 0x200 + 0x40 * p + 0x27
def Ev.acqPreShort (p : Nat) : Nat := 0x200 + 0x40 * p + 0x28
def Ev.acqDramErr (p : Nat) : Nat := 0x200 + 0x40 * p + 0x29
def Ev.acqCfgErr (p : Nat) : Nat := 0x200 + 0x40 * p + 0x2A
def Ev.mskViol (p : Nat) : Nat := 0x200 + 0x40 * p + 0x2B
def Ev.cecDone (p : Nat) : Nat := 0x200 + 0x40 * p + 0x2C
def Ev.cecFail (p : Nat) : Nat := 0x200 + 0x40 * p + 0x2D
def Ev.cecCollision (p : Nat) : Nat := 0x200 + 0x40 * p + 0x2E
def Ev.cecStranger (p : Nat) : Nat := 0x200 + 0x40 * p + 0x2F
def Ev.cecRecLost (p : Nat) : Nat := 0x200 + 0x40 * p + 0x30
def Ev.ddcDone (p : Nat) : Nat := 0x200 + 0x40 * p + 0x31
def Ev.ddcFail (p : Nat) : Nat := 0x200 + 0x40 * p + 0x32
def Ev.ddcArbLost (p : Nat) : Nat := 0x200 + 0x40 * p + 0x33
def Ev.ddcStranger (p : Nat) : Nat := 0x200 + 0x40 * p + 0x34
def Ev.ddcRecLost (p : Nat) : Nat := 0x200 + 0x40 * p + 0x35
def Ev.ddcStuck (p : Nat) : Nat := 0x200 + 0x40 * p + 0x36
def Ev.auxDone (p : Nat) : Nat := 0x200 + 0x40 * p + 0x37
def Ev.auxFail (p : Nat) : Nat := 0x200 + 0x40 * p + 0x38
def Ev.auxNoise (p : Nat) : Nat := 0x200 + 0x40 * p + 0x39
def Ev.auxHostreqEvt (p : Nat) : Nat := 0x200 + 0x40 * p + 0x3A
def Ev.auxRecLost (p : Nat) : Nat := 0x200 + 0x40 * p + 0x3B
def Ev.hpdLevel (p : Nat) : Nat := 0x200 + 0x40 * p + 0x3C
def Ev.hpdIrq (p : Nat) : Nat := 0x200 + 0x40 * p + 0x3D
def Ev.hpdOdd (p : Nat) : Nat := 0x200 + 0x40 * p + 0x3E
def Ev.hpdRecLost (p : Nat) : Nat := 0x200 + 0x40 * p + 0x3F
def Ev.mcEccCorr (c : Nat) : Nat := 0x300 + 0x20 * c + 0
def Ev.mcEccUncorr (c : Nat) : Nat := 0x300 + 0x20 * c + 1
def Ev.mcDevSuspect (c : Nat) : Nat := 0x300 + 0x20 * c + 2
def Ev.mcWcrcReplay (c : Nat) : Nat := 0x300 + 0x20 * c + 3
def Ev.mcWcrcFail (c : Nat) : Nat := 0x300 + 0x20 * c + 4
def Ev.mcPoisonFull (c : Nat) : Nat := 0x300 + 0x20 * c + 5
def Ev.mcRefForced (c : Nat) : Nat := 0x300 + 0x20 * c + 6
def Ev.mcRefUrgent (c : Nat) : Nat := 0x300 + 0x20 * c + 7
def Ev.mcTempDouble (c : Nat) : Nat := 0x300 + 0x20 * c + 8
def Ev.mcTempCrit (c : Nat) : Nat := 0x300 + 0x20 * c + 9
def Ev.mcRhThrottle (c : Nat) : Nat := 0x300 + 0x20 * c + 10
def Ev.mcDqsDrift (c : Nat) : Nat := 0x300 + 0x20 * c + 11
def Ev.mcRetrainDone (c : Nat) : Nat := 0x300 + 0x20 * c + 12
def Ev.mcRetrainFail (c : Nat) : Nat := 0x300 + 0x20 * c + 13
def Ev.mcElogLost (c : Nat) : Nat := 0x300 + 0x20 * c + 14
def Ev.refclkLoss : Nat := 0x380
def Ev.refclk2Loss : Nat := 0x381
def Ev.refSwitch : Nat := 0x382
def Ev.rootHoldover : Nat := 0x383
def Ev.rootUnlock : Nat := 0x384
def Ev.towpathMismatch : Nat := 0x385
def Ev.syncInMismatch : Nat := 0x386
def Ev.syncDrift : Nat := 0x387
def Ev.syncStep : Nat := 0x388
def Ev.tcqFull : Nat := 0x389
def Ev.tcqLate : Nat := 0x38A
def Ev.tcqError : Nat := 0x38B
def Ev.bootStepFail : Nat := 0x390
def Ev.bootAlternate : Nat := 0x391
def Ev.bootDegradedEvt : Nat := 0x392
def Ev.keeperRestart : Nat := 0x393
def Ev.keeperWdog : Nat := 0x394
def Ev.ledgerQueueOvf : Nat := 0x395
def Ev.keeperUpdateFail : Nat := 0x396
def Ev.qosC0Late : Nat := 0x3A0
def Ev.sramMarchDone : Nat := 0x3B0
def Ev.sramMarchFail : Nat := 0x3B1
def Ev.sramRepaired : Nat := 0x3B2
def Ev.sramUnrepaired : Nat := 0x3B3
def Ev.sramMarchSkip : Nat := 0x3B4
def Ev.sramWakeStall : Nat := 0x3B5
def Ev.sramRetRefused : Nat := 0x3B6
def Ev.mbxConflict : Nat := 0x3B8
def Ev.mbxDbToBmp : Nat := 0x3B9
def Ev.mbxDbToHost : Nat := 0x3BA
def Ev.capOver : Nat := 0x3C0
def Ev.sagDetect : Nat := 0x3C8
def Ev.sagPersist : Nat := 0x3C9
def Ev.thermWarn : Nat := 0x3CA
def Ev.thermTrip : Nat := 0x3CB
def Ev.thermSensorFail : Nat := 0x3CC
def Ev.avsLimit : Nat := 0x3CD
def Ev.tamper : Nat := 0x3D0
def Ev.seasonChange : Nat := 0x3D1
def Ev.vaultWiped : Nat := 0x3D2
def Ev.decryptFail : Nat := 0x3D3
def Ev.debugDenied : Nat := 0x3D4
def Ev.pcieLinkDown : Nat := 0x3E0
def Ev.hifReset : Nat := 0x3E1
def Ev.dmaError : Nat := 0x3E2
def Ev.pcieAerUncorr : Nat := 0x3E3
def Ev.bmpError : Nat := 0x3E8
def Ev.evqLost : Nat := 0x3F0
def Ev.faultHistSupp : Nat := 0x3F1

/-- Base classes of the sources of a fast channel (Table 16-2): 0 INFO, 1 WARN, 2 SEVERE, 3 FATAL. -/
def fcClasses : List Nat := [1, 0, 1, 1, 2, 0, 0, 1]
/-- Base classes of the sources of a utility channel (Table 16-2). -/
def ucClasses : List Nat := [1, 1, 1, 1]
/-- Base classes of a port's sources k = 0x08 to 0x3F (Table 16-3); k = 0 is WARN, 1 INFO, 2 to 7 reserved. -/
def portClasses : List Nat :=
  [0, 2, 2, 1, 2, 2, 1, 1, 1, 0, 2, 1, 1, 0, 0, 1, 0, 0, 0, 1, 1, 0, 1, 0, 0, 1, 1, 1, 0, 1, 0, 0, 0, 1, 1, 1, 0, 1, 0, 0, 1, 0, 1, 0, 0, 1, 1, 0, 1, 0, 0, 1, 0, 0, 1, 1]
/-- Base classes of a DRAM channel's sources (Table 13-13). -/
def mcClasses : List Nat := [0, 2, 1, 0, 2, 3, 0, 1, 1, 2, 0, 1, 0, 1, 1]
/-- The device-wide sources (Table 16-4) with their base classes. -/
def devClasses : List (Nat × Nat) := [
  (0x380, 1), (0x381, 1), (0x382, 0), (0x383, 2), (0x384, 3), (0x385, 3), (0x386, 1), (0x387, 1),
  (0x388, 0), (0x389, 1), (0x38A, 0), (0x38B, 1), (0x390, 1), (0x391, 0), (0x392, 2), (0x393, 0),
  (0x394, 2), (0x395, 1), (0x396, 1), (0x3A0, 1), (0x3B0, 0), (0x3B1, 1), (0x3B2, 0), (0x3B3, 2),
  (0x3B4, 1), (0x3B5, 0), (0x3B6, 0), (0x3B8, 1), (0x3B9, 0), (0x3BA, 0), (0x3C0, 1), (0x3C8, 0),
  (0x3C9, 2), (0x3CA, 1), (0x3CB, 3), (0x3CC, 1), (0x3CD, 1), (0x3D0, 2), (0x3D1, 0), (0x3D2, 0),
  (0x3D3, 1), (0x3D4, 1), (0x3E0, 1), (0x3E1, 0), (0x3E2, 1), (0x3E3, 1), (0x3E8, 0), (0x3F0, 1),
  (0x3F1, 0)]

/-- The base class of a source, or none for a reserved source (R430). -/
def srcBase (s : Nat) : Option Nat :=
  if s < 0x100 then fcClasses[s % 8]?
  else if s < 0x200 then ucClasses[s % 4]?
  else if s < 0x300 then
    let k := (s - 0x200) % 0x40
    if k = 0 then some 1 else if k = 1 then some 0 else if k < 8 then none else portClasses[k - 8]?
  else if s < 0x380 then mcClasses[(s - 0x300) % 0x20]?
  else if 0x460 ≤ s ∧ s < 0x480 then some 0
  else (devClasses.find? (fun x => x.1 = s)).map Prod.snd

/-- The first source and the number of sources that a page of a kind and instance shows (R431, Tables 16-2 to 16-4). -/
def pageSources : PageKind → Nat → Nat × Nat
  | .evg, g => (32 * g, 32)
  | .fch, n => (8 * n, 8)
  | .uch, m => (0x100 + 4 * m, 4)
  | .mc, c => (0x300 + 0x20 * c, 15)
  | .clk, _ => (0x380, 6)
  | .gtc, _ => (0x386, 6)
  | .boot, _ => (0x390, 7)
  | .qos, _ => (0x3A0, 1)
  | .srm, _ => (0x3B0, 7)
  | .mbx, _ => (0x3B8, 3)
  | .glb, _ => (0x3C0, 1)
  | .pwr, _ => (0x3C8, 6)
  | .vlt, _ => (0x3D0, 5)
  | .hif, _ => (0x3E0, 4)
  | .bmp, _ => (0x3E8, 1)
  | .evc, _ => (0x3F0, 2)
  | .prt, p => (0x200 + 0x40 * p + 0x0, 2)
  | .seq, p => (0x200 + 0x40 * p + 0x8, 9)
  | .lks, p => (0x200 + 0x40 * p + 0x11, 3)
  | .apg, p => (0x200 + 0x40 * p + 0x14, 2)
  | .cdc, p => (0x200 + 0x40 * p + 0x16, 4)
  | .tsa, p => (0x200 + 0x40 * p + 0x1A, 2)
  | .dds, p => (0x200 + 0x40 * p + 0x1C, 1)
  | .meas, p => (0x200 + 0x40 * p + 0x1D, 2)
  | .flp, p => (0x200 + 0x40 * p + 0x1F, 5)
  | .trg, p => (0x200 + 0x40 * p + 0x24, 3)
  | .acq, p => (0x200 + 0x40 * p + 0x27, 4)
  | .msk, p => (0x200 + 0x40 * p + 0x2B, 1)
  | .cec, p => (0x200 + 0x40 * p + 0x2C, 5)
  | .ddc, p => (0x200 + 0x40 * p + 0x31, 6)
  | .aux, p => (0x200 + 0x40 * p + 0x37, 5)
  | .hpd, p => (0x200 + 0x40 * p + 0x3C, 4)
  | .mcg, _ => (0, 0)

/-- The page number of a port page of port `p` that shows source offset `k` of the port (Table 16-3). -/
def portSrcPage (k : Nat) : Nat :=
  if k < 0x8 then 0x0 else if k < 0x11 then 0x1 else if k < 0x14 then 0x2 else if k < 0x16 then 0x3 else if k < 0x1A then 0x4 else if k < 0x1C then 0x5 else if k < 0x1D then 0x6 else if k < 0x1F then 0xF else if k < 0x24 then 0xA else if k < 0x27 then 0x7 else if k < 0x2B then 0x8 else if k < 0x2C then 0x9 else if k < 0x31 then 0xB else if k < 0x37 then 0xC else if k < 0x3C then 0xD else if k < 0x40 then 0xE else 0

/-- The page number of the block page that shows a source (R431); the sources SW0 to SW31 stand on their group page only. -/
def srcBlockPage (s : Nat) : Nat :=
  if s < 0x100 then 0x200 + s / 8
  else if s < 0x200 then 0x240 + (s - 0x100) / 4
  else if s < 0x300 then 0x100 + 0x40 * ((s - 0x200) / 0x40) + portSrcPage ((s - 0x200) % 0x40)
  else if s < 0x380 then 0x40 + (s - 0x300) / 0x20
  else if 0x380 ≤ s ∧ s < 0x386 then 0x1
  else if 0x386 ≤ s ∧ s < 0x38C then 0x2
  else if 0x390 ≤ s ∧ s < 0x397 then 0x3
  else if 0x3A0 ≤ s ∧ s < 0x3A1 then 0x45
  else if 0x3B0 ≤ s ∧ s < 0x3B7 then 0x50
  else if 0x3B8 ≤ s ∧ s < 0x3BB then 0x51
  else if 0x3C0 ≤ s ∧ s < 0x3C1 then 0x0
  else if 0x3C8 ≤ s ∧ s < 0x3CE then 0x70
  else if 0x3D0 ≤ s ∧ s < 0x3D5 then 0x52
  else if 0x3E0 ≤ s ∧ s < 0x3E4 then 0x60
  else if 0x3E8 ≤ s ∧ s < 0x3E9 then 0x61
  else if 0x3F0 ≤ s ∧ s < 0x3F2 then 0x4
  else 0x10 + s / 32

/-- The port of a channel or port source (R438), or none for a DRAM-channel or device-wide source. -/
def srcPort (s : Nat) : Option Nat :=
  if s < 0x100 then some (s / 64)
  else if s < 0x200 then some ((s - 0x100) / 64)
  else if s < 0x300 then some ((s - 0x200) / 0x40)
  else none

/-- A base-FATAL source: its enable and class are read-only (R435). -/
def srcFatal (s : Nat) : Bool := srcBase s == some 3

/-- PORT_REACT, whose REACT field is reserved (R438). -/
def srcIsReact (s : Nat) : Bool := decide (0x200 ≤ s ∧ s < 0x300 ∧ (s - 0x200) % 0x40 = 1)

end Sys2Proof.Machine
end

