-- ==== Sys2Proof/Machine/State.lean ====
section
/-! DEFINITION. The state of the block: everything the spec gives the TBX-3264, as plain data, and its value right after a cold
reset.  Registers of BAR0 stand in ONE register file keyed by byte address (`Dev.regs`); what follows is the state that no
register holds. -/
namespace Sys2Proof.Machine

/-- No command of this block ends in a fault: every row of the table has an effect, or is a report of something that the state
does not permit, which changes nothing (safe). -/
inductive Fault where
  deriving DecidableEq, Repr

/-- Refusals. -/
inductive Refusal where
  /-- Raised by an arm of `exec` whose command has no meaning yet (safe: the run stops). -/
  | notModelled (mnemonic : String)
  deriving DecidableEq, Repr

/-! ### Event fabric (16_events_and_faults.md) -/

/-- One event source (R430 to R444). -/
structure EvtSrc where
  /-- the condition its block reports (R433) -/
  cond : Bool
  force : Bool
  sticky : Bool
  en : Bool
  /-- escalation flag (R437) -/
  esc : Bool
  /-- EVG_CFGk -/
  cfg : Word
  /-- window count c, window start t_w (R437) -/
  c : Nat
  tw : Nat
  /-- occurrences since cold reset (Table 16-10) -/
  occ : Nat
  /-- 1 + number of the HCLK cycle of the last occurrence, and whether that occurrence was a latch (R433, R434) -/
  lastCyc : Nat
  wasLatch : Bool
  /-- GTC of its last ledger record, and latches suppressed since (R444) -/
  lastRec : Option Nat
  supp : Nat
  deriving DecidableEq, Repr

/-- A latch of class SEVERE or FATAL that waits for the Keeper to record it (R444). -/
structure FaultCand where
  src : Nat
  cls : Nat
  esc : Bool
  forced : Bool
  coinc : Bool
  react : Nat
  gtc : Nat
  deriving DecidableEq, Repr

/-- The fabric outside its registers. -/
structure Evt where
  src : List (Nat × EvtSrc)
  /-- the next event-queue entry carries GAP (R443) -/
  gap : Bool
  /-- 1 + HCLK cycle of the last SEVERE or FATAL occurrence of an enabled source, and how many that cycle had (R441, R444) -/
  sevCyc : Nat
  sevCnt : Nat
  cands : List FaultCand
  /-- GTC second of the last ledger record and records written in it (R444) -/
  capSec : Nat
  capCnt : Nat
  deriving DecidableEq, Repr

/-! ### Host interface (02_host_interface_and_registers.md) -/

/-- What a DMA engine holds beyond its registers (R43 to R46). -/
structure Dma where
  /-- phase bit of the completion ring -/
  phase : Bool
  /-- the descriptor in progress: its eight words, none while idle -/
  desc : Option (List Word)
  startGtc : Nat
  /-- a wipe of the vault has ended its decrypting load (R471); `ABORT` waits for the next 4 KiB boundary -/
  wiped : Bool
  aborting : Bool
  deriving DecidableEq, Repr

/-- Per-path latch and staging sets, message port, supervisor port (R47 to R62). -/
structure Hif where
  /-- words latched by a path's last read of the lowest word, by path and address -/
  latch : List (Nat × List Word)
  /-- staged words of a wide write, by path and base address -/
  staged : List (Nat × List Word)
  /-- key of a locked page, by page number -/
  keys : List (Nat × Nat)
  /-- MSI-X function mask -/
  fmask : Bool
  msgCnt : Nat
  linkUp : Bool
  linkWasUp : Bool
  d3hot : Bool
  bmpDenied : Bool
  bmpAlign : Bool
  bmpTrunc : Bool
  /-- words returned by the last read, and the last BMP status byte -/
  rdata : List Word
  bmpStatus : Nat
  deriving DecidableEq, Repr

/-! ### Time (03_time_base_and_clocks.md) -/

/-- SYNC link engines (R80 to R84). -/
structure Sync where
  /-- captures since the mode write -/
  n : Nat
  /-- errors of the last 64 captures, newest first -/
  errs : List Int
  lastCap : Option Nat
  /-- GTC of the next SYNC_OUT pulse, and how many follow it (none: without end) -/
  outNext : Option Nat
  outLeft : Option Nat
  /-- GTCs at which RELAY re-emits -/
  relay : List Nat
  /-- the pulse after the last capture has been reported missing (R82) -/
  missed : Bool
  deriving DecidableEq, Repr

/-- References and root PLL beyond `CLK_REF` and `CLK_STAT` (R65 to R68). -/
structure Clk where
  /-- the reference last in use: 1 REFCLK, 2 REFCLK2 -/
  lastRef : Nat
  /-- a write named an invalid reference, and takes effect when it becomes valid -/
  selWait : Bool
  deriving DecidableEq, Repr

/-- A timed command (Table 3-1). -/
structure TcqEntry where
  stamp : Nat
  tag : Nat
  notify : Bool
  addr : Nat
  data : List Word
  path : Nat
  late : Bool
  deriving DecidableEq, Repr

/-- The timed-command queue (R86 to R93). -/
structure Tcq where
  q : List TcqEntry
  /-- holding slots by pushing path: 0 host, 3 + p sequencer of port p -/
  held : List (Nat × TcqEntry)
  cpl : List (List Word)
  /-- 1 + HCLK cycle of the last dispatch -/
  lastDisp : Nat
  deriving DecidableEq, Repr

/-- A timing-affecting change that waits for its boundary (R89, R193). -/
structure PendCh where
  addr : Nat
  data : List Word
  path : Nat
  /-- the earliest GTC at which a boundary may apply it -/
  from_ : Nat
  /-- delivered while its unit was not in use: no boundary to wait for, only the first HCLK edge at or after `from_` (R89) -/
  bare : Bool
  /-- the timed command behind it: tag, notify, late -/
  cmd : Option (Nat × Bool × Bool)
  deriving DecidableEq, Repr

/-! ### Start-up and the Keeper (04_startup_reset_and_partial_service.md) -/

/-- One form run of a start-up step, or of one DRAM channel of DRAMTRAIN (R102, R103). -/
structure StepRun where
  /-- 0 normal, 1 alternate, 2 skipped -/
  form : Nat
  attempt : Nat
  /-- attempts made in this start -/
  made : Nat
  /-- recorded outcome (Table 4-3), none while running -/
  outcome : Option Nat
  deriving DecidableEq, Repr

/-- Start-up, Keeper and ledger queue. -/
structure Boot where
  /-- start-up steps that have recorded an outcome, 0 to 13 -/
  done : Nat
  /-- the running step: one run, four for DRAMTRAIN -/
  runs : List StepRun
  /-- outcomes of this start, by step code, and DRAMTRAIN outcomes at 16 + c -/
  outcomes : List (Nat × Nat)
  /-- the Keeper answers (heartbeats) -/
  keeperOn : Bool
  slotValid : List (Nat × Bool)
  slotVer : List (Nat × Nat)
  /-- slot written by an update and not yet run -/
  fresh : Option Nat
  /-- slot to fall back to while a trial runs -/
  prevSlot : Option Nat
  /-- bytes of the mailbox load taken so far -/
  mbxBytes : Nat
  /-- ledger writes that wait for the Keeper: address and bytes -/
  ledgerQ : List (Nat × List Byte)
  /-- pages whose unit is offline, by page number -/
  off : List (Nat × Bool)
  /-- resets in progress by unit, 0 to 3 the ports, 4 + 4p + e the sideband engines: 0 none, 1 running, 2 done but held until
  the Keeper is back (R117) -/
  resetting : List (Nat × Nat)
  /-- a warm reset runs, and one waits for a DRAM retrain (R118) -/
  warm : Bool
  warmWait : Bool
  deriving DecidableEq, Repr

/-! ### Vector sequencer (05_vector_sequencer.md) -/

/-- A segment on its way to the issue stage (R120, R126). -/
structure Seg where
  id : Nat
  /-- 0 resident, 1 streamed, 2 APG, 3 IDLE -/
  src : Nat
  pc : Nat
  raddr : Nat
  /-- vectors of one body, and copies of it (R147) -/
  count : Nat
  copies : Nat
  /-- vectors issued so far, over all copies -/
  issued : Nat
  wsm : Nat
  rxrec : Bool
  mark : Option Nat
  apc : Nat
  restart : Bool
  /-- decode edge; not-before times (true: from SEQ_TREF) and SYNCs (period, phase, earliest) of its first vector, with their pad source;
  local SETs that this vector brings (R137, R139) -/
  decode : Nat
  nb : List (Bool × Nat)
  sync : List (Nat × Nat × Nat)
  nbPad : Nat
  sets : List (Nat × Nat)
  deriving DecidableEq, Repr

/-- A beat of the run-ahead FIFO (R122, R126). -/
structure Beat where
  seg : Nat
  src : Nat
  pc : Nat
  /-- offset in the segment of the next vector to launch -/
  ofs : Nat
  /-- vectors not yet launched: Table 5-3 words, and under the APG source the compare words -/
  words : List Nat
  cmp : List Nat
  /-- the words of the whole beat, for pads (R145), and the vectors at issue -/
  all : List Nat
  n0 : Nat
  wsm : Nat
  /-- `SEQ_CMASK` at issue (R160) -/
  cmask : Nat
  issue : Nat
  nb : List (Bool × Nat)
  sync : List (Nat × Nat × Nat)
  nbPad : Nat
  mark : Option Nat
  sets : List (Nat × Nat)
  rxrec : Bool
  beatNo : Nat
  last : Bool
  deriving DecidableEq, Repr

/-- What the compares of a segment have given (R133, R143). -/
structure SegRes where
  fail : Bool
  /-- A(v) of its last vector once launched -/
  aLast : Option Nat
  /-- vectors launched whose results are still to come -/
  open_ : Nat
  deriving DecidableEq, Repr

/-- What the front end is doing (R123, R136 to R147, R152). -/
inductive FrontEnd where
  | off
  | run
  /-- holds the moored instruction at PC for the TX side, the RX side, or both -/
  | moor (tx rx : Bool)
  /-- WAIT_EVENT until the deadline, if any -/
  | event (deadline : Option Nat)
  /-- waits on the compare condition of the watched segment -/
  | cmp (seg target next cond : Nat)
  /-- waits on a MATCH unit: units run so far -/
  | match_ (seg units : Nat)
  /-- holds a TIMED SET until `SEQ_TREF` is fixed (R138) -/
  | timed
  deriving DecidableEq, Repr

/-- A span of the TX stream that the fetcher has taken (R151): first stream barge, length, passes, pinned or not, fetch number
of its first barge. -/
structure TxSpan where
  start : Nat
  barges : Nat
  reps : Nat
  pinned : Bool
  fetch0 : Nat
  deriving DecidableEq, Repr

/-- One direction's descriptor walk (R149 to R151). -/
structure Walk where
  idx : Nat
  /-- barges of the present pass done, passes done -/
  pos : Nat
  pass : Nat
  /-- the LAST span is done; the walk waits for a valid descriptor; it has reported the invalid one it stands on -/
  ended : Bool
  waiting : Bool
  bad : Bool
  deriving DecidableEq, Repr

/-- A port's sequencer and locks. -/
structure Seq where
  fe : FrontEnd
  /-- loop start, remaining count, call depth (R136) -/
  loops : List (Nat × Nat × Nat)
  calls : List Nat
  segs : List Seg
  fifo : List Beat
  nextSeg : Nat
  /-- segment of the most recent issuing instruction; none where it had no vectors (R133) -/
  lastSeg : Option Nat
  res : List (Nat × SegRes)
  /-- last decode edge, last issue edge, time the FIFO last made room -/
  decoded : Nat
  issuedAt : Nat
  roomAt : Nat
  beats : Nat
  /-- timing set of the beat issued last (R125) -/
  issueTs : Nat
  /-- c_s of R124 once it is fixed, decode edge of the first wait or HALT before that, and whether SEQ_TREF is fixed -/
  cs : Option Nat
  csWait : Option Nat
  tref : Bool
  /-- start of the next UI, number of vectors launched since the first, end of the last program vector, launch end after STOP
  (R157) -/
  nextUi : Nat
  n : Nat
  lastEnd : Nat
  stopAt : Option Nat
  /-- launching goes on after HALT or an error with the idle word only; the error record still lacks its GTC, and the earliest launch of
  the first missing vector (R158) -/
  idleOnly : Bool
  errPend : Bool
  errMin : Nat
  /-- the last beat launched: words and map, for pads; pads given in this wait; pad source 0 copies, 1 idle, 2 mooring -/
  padWords : List Nat
  padWsm : Nat
  padK : Nat
  padSrc : Nat
  /-- a wait runs, and it ends with a vector of this segment or a later one (R123) -/
  inWait : Bool
  waitSeg : Nat
  /-- not-before times, SYNCs, their pad source and local SETs for the next program vector (R137, R139) -/
  nb : List (Bool × Nat)
  sync : List (Nat × Nat × Nat)
  nbPad : Nat
  sets : List (Nat × Nat)
  moorOk : Bool
  /-- sequencer flags set by SET, and pulses that end at the next UI -/
  sflag : Nat
  pulses : Nat
  /-- timing set selected at the pins -/
  ts : Nat
  /-- TX lock: spans taken, barges fetched and freed, streamed vectors consumed, poisoned fetches with their address -/
  tx : Walk
  txSpans : List TxSpan
  txFetched : Nat
  txFreed : Nat
  txN : Nat
  txLow : Bool
  poison : List (Nat × Nat)
  /-- RX lock: recorded vectors launched, recorded vectors whose data is in, barges drained, and no room any more -/
  rx : Walk
  rxN : Nat
  rxDone : Nat
  rxDrained : Nat
  rxLow : Bool
  rxDead : Bool
  undeclared : Bool
  deriving DecidableEq, Repr

/-- Levels at the control balls that the block sees or drives (19_package_and_signals.md). -/
structure Pins where
  /-- TRIG_IN[3:0] at the core, TRIG_OUT[3:0] driven, RESET_N, TAMPER_N -/
  trigIn : Nat
  /-- changes of TRIG_IN balls that a port may still have to see at a later SQCLK edge, newest first: ball, time (R140) -/
  trigAt : List (Nat × Nat)
  trigOut : Nat
  tamperN : Bool
  /-- comparators of the utility channels: high of UCm in bit 2m, low in bit 2m + 1 (R313) -/
  ucCmp : Nat
  deriving DecidableEq, Repr

/-! ### Algorithmic pattern generator and codecs (06_algorithmic_generators_and_codecs.md) -/

/-- One UI of a lane sequence: its index, the bits emitted to it and their number, and the (X, Y) tag (R162, R163). -/
structure LaneUi where
  ui : Nat
  val : Nat
  nb : Nat
  x : Nat
  y : Nat
  deriving DecidableEq, Repr

/-- One of the APG's two streams with its packer. -/
structure ApgStream where
  /-- UIs waiting to be issued, by lane -/
  lanes : List (Nat × List LaneUi)
  /-- first UI after the end of each lane -/
  ends : List (Nat × Nat)
  /-- UIs that lane 0 has filled (R163) -/
  filled : Nat
  /-- next lane in turn; lane and UI that a raw serial string fills now -/
  rr : Nat
  curLane : Nat
  curUi : Nat
  /-- bits of a unit in progress; for the TMDS map, per lane, and the half character of 4:2:0 -/
  acc : List Bool
  tacc : List (Nat × List Bool)
  half : Option (Nat × Nat)
  /-- the map does not fit: emits nothing in this segment (R178) -/
  bad : Bool
  deriving DecidableEq, Repr

/-- A port's APG (R164 to R175). -/
structure Apg where
  order : Nat
  down : Bool
  swap : Bool
  k : Nat
  x : Nat
  y : Nat
  wrapped : Bool
  lfsr : List Nat
  crcTx : Nat
  crcCmp : Nat
  lc : List Nat
  upc : Nat
  /-- steps done of the BLOCK at `upc` -/
  step : Nat
  /-- END has stopped production, at this instruction -/
  ended : Option Nat
  /-- a saved point exists for RESUME (R165) -/
  saved : Bool
  tx : ApgStream
  cmp : ApgStream
  /-- numbers of UIs of the segment whose bits have all been produced, newest first, with the edge from which (R164) -/
  marks : List (Nat × Nat)
  /-- UIs issued of the segment, edge of the next production cycle, present segment, and whether APG_END has been raised for it -/
  out : Nat
  time : Nat
  seg : Option Nat
  endRaised : Bool
  /-- micro-instructions done in the cycle in progress (R164) -/
  slot : Nat
  deriving DecidableEq, Repr

/-! ### Channels (07_timing_generators.md, 08_formatters_and_drive.md, 10_compare_and_fail.md) -/

/-- One UI of a coded lane that waits for the end of its code group (R179): start and end of the UI, map entry, symbol, whether it
carries a program vector, timing set. -/
structure LaneJob where
  t : Nat
  wset : Nat
  sym : Nat
  prog : Bool
  ts : Nat
  n : Nat
  deriving DecidableEq, Repr

/-- CDR of a fast channel (R285). -/
structure Cdr where
  p : Int
  f : Int
  vote : Int
  n : Nat
  quiet : Nat
  frozen : Bool
  /-- f stands at its limit (R285) -/
  flim : Bool
  /-- decision of the UI before, where S0 sampled in it -/
  prev : Option Nat
  /-- a window is full: S0 strobe time of its last UI -/
  due : Option Int
  /-- a new δ waits: the time from which a boundary may apply it -/
  next : Option (Nat × Int)
  deriving DecidableEq, Repr

/-- Lane codec of a fast channel (R179 to R189). -/
structure Codec where
  /-- the coder's own state under its standard (disparity, scrambler, wire state); none at its initial state -/
  enc : Nat
  grp : List LaneJob
  /-- D-PHY and C-PHY bursts: 0 LP, 1 entry, 2 HS, 3 trail; UIs done in it; last HS bit; LP pairs counted from this vector -/
  burst : Nat
  cnt : Nat
  lastHs : Nat
  lpFrom : Nat
  lpSym : Nat
  /-- decoder: groups in a row for lock, error groups in a row; UIs of late, newest first: vector, payload, whether it gives expect
  bits, whether it carries a program vector with a compare (R188) -/
  good : Nat
  bad : Nat
  rx : List (Nat × Nat × Bool × Bool)
  deriving DecidableEq, Repr

/-- Eye monitor of a fast channel (R290 to R294). -/
structure Eye where
  /-- samples counted at the point, and its count -/
  samples : Nat
  count : Nat
  /-- a STOP waits for the row's end -/
  stopping : Bool
  deriving DecidableEq, Repr

/-- A fast or utility channel's pin. -/
structure Chan where
  /-- 0 off, 1 enable sequence, 2 following vectors, 3 disable sequence, 4 safe-state sequence -/
  phase : Nat
  /-- READY falls at the first boundary at or after this time (R246) -/
  offAt : Option Nat
  /-- driven since the enable; level last driven: ±2,048 for the outer symbols, split legs and wire states above 4,095 -/
  driven : Bool
  level : Int
  /-- the last UI was a driving one; the driver is on -/
  on : Bool
  /-- last edge placed on the drive path, and on each slicer's path (R196) -/
  lastDrv : Option Int
  lastStb : List (Nat × Int)
  /-- edges and strobes of the last vector: time and level, slicer and time -/
  edges : List (Int × Int)
  stbs : List (Nat × Int)
  /-- random-jitter generator (R212) -/
  rj : Nat
  drift : Int
  /-- the present vector is a forward-slip vector (R198) -/
  slip : Bool
  cdr : Cdr
  codec : Codec
  eye : Eye
  /-- LP legs: P, N levels, and the time of each leg's last transition (R233) -/
  lp : Nat × Nat
  lpLast : Nat × Nat
  /-- normalised levels of the last two UIs and the taps active in the last one, with its differential output once the next UI is
  known, in 1/2,048 of S/2 scaled by 65,536 (R228) -/
  aPrev : Int
  aCur : Int
  taps : Nat
  vOut : Int
  /-- level expected in the previous compared PAM3 UI of the run (R280) -/
  pam3 : Option Nat
  /-- utility: payload and wave set of the present utility UI -/
  uSym : Nat
  uWs : Nat
  /-- terminated by the automatic HS receive termination (R235) -/
  term : Bool
  deriving DecidableEq, Repr

/-- What one pin of a vector has to judge (R281). -/
structure PinJob where
  pin : Nat
  /-- slicers that strobe, as bits -/
  stb : Nat
  /-- those of them that R279 calls for -/
  cst : Nat
  /-- strobe times of S0 and of S3 -/
  at_ : Int
  at3 : Int
  cmp : Bool
  /-- 0 EDGE, 1 WINDOW, 2 PAM4, 3 PAM3, 4 SPLIT, 5 TRIO, 6 LP, 7 utility -/
  mode : Nat
  exp : Nat
  /-- expected from EXPV (role MASK) -/
  useV : Bool
  /-- role with expect data, or a masked UI, for the groups of a decoder (R188) -/
  part : Bool
  slip : Bool
  back : Bool
  tag : Option (Nat × Nat)
  deriving DecidableEq, Repr

/-- A launched vector whose outcome is still to come (R282). -/
structure CmpJob where
  n : Nat
  t : Nat
  a : Nat
  seg : Nat
  /-- the vector carries an address: a program vector -/
  prog : Bool
  pc : Nat
  ofs : Nat
  beat : Nat
  ts : Nat
  cmask : Nat
  rx : Option Nat
  pins : List PinJob
  /-- outcomes of decoded groups that end at this vector: pin, fail, compared bits, error bits -/
  dec : List (Nat × Bool × Nat × Nat)
  deriving DecidableEq, Repr

/-- A mask violation that waits for its decision at A(v) (R328, R329). -/
structure MskViol where
  n : Nat
  t : Nat
  a : Nat
  stream : Bool
  ch : Nat
  pos : Nat
  data : Nat
  count : Nat
  deriving DecidableEq, Repr

/-- A snapshot or a clear of the live counters, or both, and its boundary: the compares of vectors that launch before it count (R295). -/
structure SnapReq where
  snap : Bool
  clr : Bool
  bound : Nat
  deriving DecidableEq, Repr

/-- A port's fail processor (R295 to R304). -/
structure Flp where
  jobs : List CmpJob
  fails : List (Nat × Nat)
  bits : List (Nat × Nat)
  errs : List (Nat × Nat)
  /-- snapshots and clears that wait for their boundary, earliest boundary first -/
  snaps : List SnapReq
  /-- failing vectors since the port start, next record number, records staged -/
  failing : Nat
  seq : Nat
  staged : List (List Nat)
  /-- records lost since the last LOST record, GTC and number of the first of them -/
  lost : Nat
  lostGtc : Nat
  lostSeq : Nat
  /-- the same for records that the full ring lost (R298) -/
  rlost : Nat
  rlostGtc : Nat
  rlostSeq : Nat
  /-- evicted and flushed bitmap lines that wait to be written -/
  wq : List (Nat × Nat)
  /-- recorded vectors of late with their place in the stream, newest first -/
  recent : List (Nat × Nat)
  /-- decoded bits of late by vector and channel (Table 10-6) -/
  dbits : List (Nat × Nat × Nat)
  viols : List MskViol
  /-- bitmap cache: lines by address, least recently used first, with the bits to set -/
  lines : List (Nat × Nat)
  /-- frozen by STOP_ACT (R304) -/
  frozen : Bool
  /-- last recorded content per fast channel for a forward slip (R289), and the RX record -/
  prevRaw : List (Nat × Nat)
  /-- utility results of the present utility UI (R303) -/
  uRaw : Nat
  deriving DecidableEq, Repr

/-! ### Levels, PMU and measurement (09_levels_pmu_and_analog_dds.md) -/

/-- One level DAC (R255, R256): the code it stands at or left from, its target, and the time by which it has settled. -/
structure Ldac where
  cur : Nat
  tgt : Nat
  due : Option Nat
  deriving DecidableEq, Repr

/-- Levels and PMU of a channel. -/
structure Lvl where
  /-- the outputs follow their codes: the channel has been enabled since its reset (R254) -/
  follow : Bool
  ldac : List (Nat × Ldac)
  /-- tone offset in force, in codes (R271) -/
  tone : Int
  /-- PMU: the output switch closes at this time; range change began then; a stored write (R261, R264, R265) -/
  closeAt : Option Nat
  rangeAt : Option Nat
  stored : Option Word
  deriving DecidableEq, Repr

/-- A port's measurement scan (R267, R269). -/
structure Meas where
  stop : Bool
  /-- calibrations that want the ADC -/
  borrow : Nat
  /-- start of the entry in progress -/
  t : Nat
  deriving DecidableEq, Repr

/-- The calibration bus (R275): the ports whose requests wait, oldest first, and the port that holds it. -/
structure CalBus where
  queue : List Nat
  holder : Option Nat
  deriving DecidableEq, Repr

/-- Calibration, tracking and trims of a channel (R213 to R218). -/
structure Trim where
  /-- GTC and sensor temperature of the last trim or calibration -/
  at_ : Nat
  temp : Int
  /-- a trim is due: on entry to PERIODIC, or after stored results were loaded under PERIODIC -/
  due : Bool
  /-- correction that the last trim measured, approached like a tracking correction -/
  goal : Option Int
  /-- a recalibration runs (R215) -/
  recal : Bool
  deriving DecidableEq, Repr

/-! ### Trigger and acquisition (11_trigger_and_acquisition.md) -/

/-- A launched sample that the trigger engine has not decided (R307, R311, R314). -/
structure Smp where
  n : Nat
  t : Nat
  /-- end of its UI, before any seam -/
  end_ : Nat
  ts : Nat
  prog : Bool
  pc : Nat
  ofs : Nat
  /-- sequencer flags at its launch, and at the launch before -/
  sf : Nat
  sfp : Nat
  /-- A(v), received bits and forward slips by fast channel, pins that failed, units hit by decoded words -/
  a : Nat
  bits : Nat
  slips : Nat
  fails : Nat
  dec : Nat
  deriving DecidableEq, Repr

/-- An occurrence of an event unit that no decided sample has consumed: unit, rounded time, whether it bears an edge. -/
structure TrgHit where
  unit : Nat
  t : Nat
  edge : Bool
  deriving DecidableEq, Repr

/-- The record in progress (R316, R319, R325). -/
structure AcqRec where
  nT : Nat
  mask : Nat
  cause : Nat
  st : Nat
  forced : Bool
  preAvail : Nat
  preShort : Bool
  maskStop : Bool
  tT : Nat
  tStart : Nat
  prog : Bool
  ts : Nat
  pc : Nat
  ofs : Nat
  /-- DW11 to DW13 -/
  frac : Nat
  extra1 : Nat
  extra2 : Nat
  nextra : Nat
  deriving DecidableEq, Repr

/-- A write of the acquisition engine that waits (R323): a round with its run round number and DRAM address, or a descriptor with
its address, words and record number. -/
inductive AcqOut where
  | round (r addr : Nat)
  | desc (addr : Nat) (ws : List Nat)
  deriving DecidableEq, Repr

/-- A port's trigger and acquisition engines. -/
structure Acq where
  /-- `DEST` = BASIN in force since the port start (R307) -/
  basin : Bool
  /-- ARM waits for its first sample (R318) -/
  armAt : Option Nat
  /-- n_a, the record's number since arm, and records closed -/
  na : Nat
  k : Nat
  closed : Nat
  /-- trigger sequencer: state, `entered` + 1, t0 (R315) -/
  st : Nat
  entered : Nat
  t0 : Nat
  smps : List Smp
  /-- the last decided sample, and the next one to decide -/
  last : Option Smp
  next : Nat
  /-- launch times of earlier samples, newest first (R325) -/
  starts : List (Nat × Nat)
  /-- sequencer flags at the last launch -/
  sfPrev : Nat
  /-- input transitions, newest first: input (0 to 3 TRIG_IN, 16 + 2u + c comparators), rounded time, level -/
  trans : List (Nat × Nat × Bool)
  hits : List TrgHit
  /-- counts of the COUNT units, RAW windows by channel, GTC units that have hit since arm -/
  cnts : List (Nat × Nat)
  wins : List (Nat × Nat)
  gtcs : Nat
  /-- samples that FORCE and a mask violation fire at -/
  force : Option Nat
  mask : Option Nat
  open_ : Option AcqRec
  out : List AcqOut
  /-- a data round of the record in progress was lost (R323) -/
  derr : Bool
  /-- `ACQ_MISSED_GTC` holds the first miss since the last read -/
  missed : Bool
  /-- TRIG_OUT pulses: ball, rise, fall -/
  pulses : List (Nat × Nat × Nat)
  deriving DecidableEq, Repr

/-! ### Sideband engines (12_sideband_engines.md) -/

/-- I²C-over-AUX transaction in role SINK (R356): open, address byte of its last phase, a first byte has set the offset, offset and
segment pointer. -/
structure I2cAux where
  open_ : Bool
  phase : Nat
  got : Bool
  ofs : Nat
  seg : Nat
  deriving DecidableEq, Repr

/-- A sideband engine beyond its registers and rings. -/
structure Sb where
  /-- the command at the read pointer has begun; a CEC attempt or an AUX request of it is on the bus, or its DEFER delay runs -/
  busy : Bool
  run : Bool
  wait : Bool
  /-- attempts made, DEFER replies, stamp of the last attempt -/
  att : Nat
  defers : Nat
  t : Nat
  /-- commands queued behind the one in progress were flushed: read pointer after it (R342) -/
  skip : Option Nat
  /-- the next record carries GAP (R340) -/
  gap : Bool
  /-- AUX: request seen in MONITOR (COMM, address, length, bytes, stamp); the held host request has been released; DEFERs given by window,
  8 for I²C -/
  req : Option (Nat × Nat × Nat × List Nat × Nat)
  served : Bool
  dcnt : List (Nat × Nat)
  i2c : I2cAux
  /-- HPD: filtered level known since enable, level, falling edge of a low period, its unplug record is made, start of a driven pulse -/
  known : Bool
  line : Bool
  fall : Option Nat
  unplugged : Bool
  pulse : Option Nat
  deriving DecidableEq, Repr


/-! ### DRAM controllers (13_dram_controller.md, 14_arbitration_and_streaming_budget.md) -/

/-- A request for one line in a channel's queues (R376, R377). -/
structure DReq where
  cls : Nat
  req : Nat
  addr : Nat
  write : Bool
  /-- a partial write: an indivisible read-modify-write -/
  part : Bool
  /-- arrival, time spent behind other C0 requests, row hits that have passed it -/
  t : Nat
  own : Nat
  byp : Nat
  /-- its wait has been judged (R407); outstanding at the end of a guard interval (R510) -/
  seen : Bool
  guard : Bool
  deriving DecidableEq, Repr

/-- What a command slot has chosen (R377). -/
inductive DPick where
  | nothing
  | refresh (rank : Nat)
  | rfm (rank bank : Nat)
  /-- the row of the request is activated first -/
  | act (r : DReq)
  | serve (r : DReq)
  deriving DecidableEq, Repr

/-- A DRAM controller beyond its registers. -/
structure Mc where
  /-- poison list: line addresses (R368) -/
  poison : List Nat
  /-- error log, oldest first, and the number of the next record, counting lost ones (R370) -/
  elog : List (List Nat)
  elogSeq : Nat
  /-- devices at or above `DEV_MARK_N`, as bits (R371) -/
  suspect : Nat
  /-- failing write of the last alert and its consecutive alerts (R369) -/
  alert : Option (Nat × Nat)
  rq : List DReq
  wq : List DReq
  /-- open rows by bank: row, last access -/
  opens : List (Nat × (Nat × Nat))
  /-- ranks (128 + rank) and banks in a refresh, an RFM or a neighbour refresh: until when -/
  busy : List (Nat × Nat)
  /-- activations toward RFM by bank; RAAIMT and RAAMMT, 0 where the devices report none (R384) -/
  raa : List (Nat × Nat)
  raaImt : Nat
  raaMmt : Nat
  /-- ACTs of each class in the present window, and C0 led the last one (R383) -/
  acts : List Nat
  lead : Bool
  /-- ACTs and last ACT by bank and row in the tREFW window; offender rows, and whether one has held a requester (R385) -/
  rows : List (Nat × (Nat × Nat))
  offend : List (Nat × Bool)
  /-- debt before an urgent refresh, by rank; GTC at which rank 1 starts its own (R382) -/
  urgD : List (Nat × Nat)
  urg1 : Option Nat
  /-- same-bank refreshes done of a set of four, by rank; last service of a C0 request, by rank -/
  sbDone : List (Nat × Nat)
  c0At : List (Nat × Nat)
  /-- last command slot by subchannel; floors: time since which a C3 and a C4 request have gone without service (R395) -/
  slotT : List (Nat × Nat)
  floor3 : Option Nat
  floor4 : Option Nat
  pick : DPick
  /-- rank and subchannel combinations whose drift is beyond `OSC_LIM` (R389) -/
  drift : Nat
  deriving DecidableEq, Repr

/-- What the controllers share. -/
structure Dramc where
  /-- consecutive MR4 reads in DOUBLE with every rank in the normal range (R381) -/
  streak : Nat
  /-- lines that the present scrub pass has done (R371) -/
  scrub : Nat
  /-- LAZY: blocks below this number in every channel are initialised, and further initialised blocks by channel × 2³² + block -/
  sweep : Nat
  blocks : List (Nat × Bool)
  /-- time up to which each requester's waits are counted, and ticks short of a unit: DELAYED and THROTTLED (R402) -/
  waitTo : List (Nat × Nat)
  remD : List (Nat × Nat)
  remT : List (Nat × Nat)
  /-- a guard interval runs until then (R510) -/
  guard : Option Nat
  /-- speed grade in force since the last DRAMTRAIN (R364) -/
  speed : Nat
  /-- a wait beyond the limit has been recorded since `QOS_C0_WMAX` was read (R407) -/
  late : Bool
  deriving DecidableEq, Repr

/-! ### On-chip memories (15_onchip_memories.md) -/

/-- A march run (R418 to R424). -/
structure March where
  first : Nat
  last : Nat
  pres : Bool
  repair : Bool
  bg : Nat
  /-- bank in progress, the GTC at which it began, and the banks completed -/
  cur : Nat
  t : Nat
  done : List Nat
  /-- the window that yielded last, its yields, and whether it waits to be retried -/
  win : Nat
  yields : Nat
  yielded : Bool
  deriving DecidableEq, Repr

/-- Banks beyond their registers. -/
structure Srm where
  run : Option March
  /-- banks that wake from retention -/
  waking : List Nat
  /-- spare rows and columns in use, by bank: the positions they replace -/
  spares : List (Nat × (List Nat × List Nat))
  deriving DecidableEq, Repr

/-! ### Power and temperature (17_power_and_thermal.md) -/

/-- Sag governor, adaptive supply and sensors beyond their registers. -/
structure Pwr where
  /-- start of the sag in progress, and the time up to which `PWR_SAG_TIME` has counted it, in ticks -/
  sag : Option Nat
  upTo : Nat
  /-- the last request was clipped (R451) -/
  clip : Bool
  /-- failed sensors with their consecutive good readings (R453) -/
  failed : List (Nat × Nat)
  deriving DecidableEq, Repr

/-! ### Vault and JTAG (18_security_identity_and_seasons.md, 19_package_and_signals.md) -/

/-- A key slot: valid, locked, key (R466). -/
structure KeySlot where
  valid : Bool
  lock : Bool
  key : Nat
  deriving DecidableEq, Repr

/-- A sealed store: the slots, and the season code and tamper count whose wrapping key sealed it (R465). -/
structure SealStore where
  slots : List KeySlot
  season : Nat
  tampers : Nat
  deriving DecidableEq, Repr

/-- The vault outside its fuses and registers. -/
structure Vlt where
  slots : List KeySlot
  store : Option SealStore
  /-- live arm: its target -/
  arm : Option Nat
  /-- season change in progress: its target -/
  trans : Option Nat
  /-- TAMPER_N has been high for 1 µs since the last wipe -/
  ready : Bool
  /-- records written to the identity region -/
  recs : Nat
  /-- ports that an apply has marked (R469) -/
  applied : List Nat
  /-- the instruction in the TAP -/
  jtag : JtagInstr
  /-- serial number (R457) -/
  serial : Nat
  deriving DecidableEq, Repr


/-! ### The whole block -/

/-- Everything but the one-time fuses, the key store and the queue. -/
structure Dev where
  /-- the register file: BAR0 byte address of each register that does not hold its reset value -/
  regs : List (Nat × Word)
  /-- the values in force of timing-affecting registers (R193) -/
  live : List (Nat × Word)
  /-- global time counter in ticks, and whether it counts (R72) -/
  gtc : Gtc
  counting : Bool
  evt : Evt
  hif : Hif
  dma : List (Nat × Dma)
  clk : Clk
  sync : Sync
  tcq : Tcq
  pend : List PendCh
  boot : Boot
  /-- device DRAM, BAR4 on-chip memories, the ledger, and host memory as the block has written or been given it -/
  dram : List Host.Cell
  sram : List Host.Cell
  ledger : List Host.Cell
  hostMem : List Host.Cell
  /-- next index of the free values (the model's own field) -/
  fresh : Nat
  /-- sequencer and locks by port -/
  seq : List (Nat × Seq)
  /-- control balls -/
  pins : Pins
  /-- APG by port -/
  apg : List (Nat × Apg)
  /-- fast channels 0 to 31, utility channels at 32 + m -/
  chans : List (Nat × Chan)
  /-- fail processors by port -/
  flp : List (Nat × Flp)
  /-- levels and PMU by channel, numbered as `chans` -/
  lvls : List (Nat × Lvl)
  meas : List (Nat × Meas)
  calbus : CalBus
  /-- numbered as `chans` -/
  trims : List (Nat × Trim)
  /-- trigger and acquisition engines by port -/
  acq : List (Nat × Acq)
  /-- sideband engine e of port p at 4p + e: 0 CEC, 1 DDC, 2 AUX, 3 HPD -/
  sb : List (Nat × Sb)
  /-- DRAM controllers by channel -/
  mc : List (Nat × Mc)
  dramc : Dramc
  srm : Srm
  pwr : Pwr
  vlt : Vlt
  deriving DecidableEq, Repr

/-- One-time fuses (18_security_identity_and_seasons.md). -/
structure Vault where
  /-- season fuses blown: SPRING, SUMMER, AUTUMN, WINTER (R458); no commit has SPRING for its target, so its fuse stays as made -/
  spring : Bool
  summer : Bool
  autumn : Bool
  winter : Bool
  /-- tamper fuses blown, 0 to 32 (R463) -/
  tampers : Nat
  deriving DecidableEq, Repr

/-- The state of the block, with the commands that wait, first in first out. -/
structure State where
  dev : Dev
  vault : Vault
  pending : List Sys2Proof.Instr
  deriving DecidableEq, Repr

/-! ### Reset values -/

/-- A source after cold reset: enabled when its base class is SEVERE or FATAL (R435), configuration 0x0004_0000 with its base
class (Table 16-10). -/
def EvtSrc.reset (s : Nat) : EvtSrc :=
  let b := (srcBase s).getD 0
  { cond := false, force := false, sticky := false, en := decide (2 ≤ b), esc := false,
    cfg := BitVec.ofNat 32 (0x40000 + b * 0x10000), c := 0, tw := 0, occ := 0, lastCyc := 0, wasLatch := false,
    lastRec := none, supp := 0 }

def Evt.reset : Evt :=
  { src := [], gap := false, sevCyc := 0, sevCnt := 0, cands := [], capSec := 0, capCnt := 0 }

def Dma.reset : Dma := { phase := true, desc := none, startGtc := 0, wiped := false, aborting := false }

def Hif.reset : Hif :=
  { latch := [], staged := [], keys := [], fmask := false, msgCnt := 0, linkUp := false, linkWasUp := false, d3hot := false,
    bmpDenied := false, bmpAlign := false, bmpTrunc := false, rdata := [], bmpStatus := 0 }

def Sync.reset : Sync := { n := 0, errs := [], lastCap := none, outNext := none, outLeft := none, relay := [], missed := false }

def Clk.reset : Clk := { lastRef := 1, selWait := false }

def Tcq.reset : Tcq := { q := [], held := [], cpl := [], lastDisp := 0 }

def StepRun.start : StepRun := { form := 0, attempt := 1, made := 0, outcome := none }

def Boot.reset : Boot :=
  { done := 0, runs := [StepRun.start], outcomes := [], keeperOn := false, slotValid := [], slotVer := [], fresh := none,
    prevSlot := none, mbxBytes := 0, ledgerQ := [], off := [], resetting := [], warm := false, warmWait := false }

def Walk.reset : Walk := { idx := 0, pos := 0, pass := 0, ended := false, waiting := false, bad := false }

def SegRes.reset : SegRes := { fail := false, aLast := none, open_ := 0 }

def Seq.reset : Seq :=
  { fe := .off, loops := [], calls := [], segs := [], fifo := [], nextSeg := 0, lastSeg := none, res := [], decoded := 0,
    issuedAt := 0, roomAt := 0, beats := 0, issueTs := 0, cs := none, csWait := none, tref := false, nextUi := 0, n := 0,
    lastEnd := 0, stopAt := none, idleOnly := false, errPend := false, errMin := 0, padWords := [], padWsm := 0, padK := 0, padSrc := 0,
    inWait := false, waitSeg := 0, nb := [], sync := [], nbPad := 0, sets := [], moorOk := false, sflag := 0, pulses := 0, ts := 0,
    tx := Walk.reset, txSpans := [], txFetched := 0, txFreed := 0, txN := 0, txLow := false, poison := [], rx := Walk.reset,
    rxN := 0, rxDone := 0, rxDrained := 0, rxLow := false, rxDead := false, undeclared := false }

def Pins.reset : Pins := { trigIn := 0, trigAt := [], trigOut := 0, tamperN := true, ucCmp := 0 }

def ApgStream.reset : ApgStream :=
  { lanes := [], ends := [], filled := 0, rr := 0, curLane := 0, curUi := 0, acc := [], tacc := [], half := none, bad := false }

def Apg.reset : Apg :=
  { order := 0, down := false, swap := false, k := 0, x := 0, y := 0, wrapped := false, lfsr := [127, 127, 127, 127], crcTx := 0xFFFF,
    crcCmp := 0xFFFF, lc := [0, 0], upc := 0, step := 0, ended := none, saved := false, tx := ApgStream.reset,
    cmp := ApgStream.reset, marks := [], out := 0, time := 0, seg := none, endRaised := false, slot := 0 }

def Cdr.reset : Cdr :=
  { p := 0, f := 0, vote := 0, n := 0, quiet := 0, frozen := false, flim := false, prev := none, due := none, next := none }

def Codec.reset : Codec :=
  { enc := 0, grp := [], burst := 0, cnt := 0, lastHs := 0, lpFrom := 0, lpSym := 0, good := 0, bad := 0, rx := [] }

def Eye.reset : Eye := { samples := 0, count := 0, stopping := false }

def Chan.reset : Chan :=
  { phase := 0, offAt := none, driven := false, level := -2048, on := false, lastDrv := none, lastStb := [], edges := [],
    stbs := [], rj := 0, drift := 0, slip := false, cdr := Cdr.reset, codec := Codec.reset, eye := Eye.reset, lp := (0, 0),
    lpLast := (0, 0), aPrev := -2048, aCur := -2048, taps := 0, vOut := 0, pam3 := none, uSym := 0, uWs := 0, term := false }

def Flp.reset : Flp :=
  { jobs := [], fails := [], bits := [], errs := [], snaps := [], failing := 0, seq := 0, staged := [],
    lost := 0, lostGtc := 0, lostSeq := 0, rlost := 0, rlostGtc := 0, rlostSeq := 0, wq := [], recent := [], dbits := [],
    viols := [], lines := [], frozen := false, prevRaw := [], uRaw := 0 }

def Lvl.reset : Lvl := { follow := false, ldac := [], tone := 0, closeAt := none, rangeAt := none, stored := none }

def Meas.reset : Meas := { stop := false, borrow := 0, t := 0 }

def CalBus.reset : CalBus := { queue := [], holder := none }

def Trim.reset : Trim := { at_ := 0, temp := 0, due := false, goal := none, recal := false }

def Acq.reset : Acq :=
  { basin := false, armAt := none, na := 0, k := 0, closed := 0, st := 0, entered := 0, t0 := 0, smps := [], last := none, next := 0,
    starts := [], sfPrev := 0, trans := [], hits := [], cnts := [], wins := [], gtcs := 0, force := none, mask := none, open_ := none, out := [],
    derr := false, missed := false, pulses := [] }

def I2cAux.reset : I2cAux := { open_ := false, phase := 0, got := false, ofs := 0, seg := 0 }

def Sb.reset : Sb :=
  { busy := false, run := false, wait := false, att := 0, defers := 0, t := 0, skip := none, gap := false, req := none, served := false,
    dcnt := [], i2c := I2cAux.reset, known := false, line := false, fall := none, unplugged := false, pulse := none }


def Mc.reset : Mc :=
  { poison := [], elog := [], elogSeq := 0, suspect := 0, alert := none, rq := [], wq := [], opens := [], busy := [], raa := [],
    raaImt := 0, raaMmt := 0, acts := [0, 0, 0, 0, 0], lead := false, rows := [], offend := [], urgD := [], urg1 := none, sbDone := [],
    c0At := [], slotT := [], floor3 := none, floor4 := none, pick := .nothing, drift := 0 }

def Dramc.reset : Dramc :=
  { streak := 0, scrub := 0, sweep := 0, blocks := [], waitTo := [], remD := [], remT := [], guard := none, speed := 0, late := false }

def Srm.reset : Srm := { run := none, waking := [], spares := [] }

def Pwr.reset : Pwr := { sag := none, upTo := 0, clip := false, failed := [] }

def KeySlot.reset : KeySlot := { valid := false, lock := false, key := 0 }

def Vlt.reset : Vlt :=
  { slots := List.replicate 16 KeySlot.reset, store := none, arm := none, trans := none, ready := true, recs := 0, applied := [],
    jtag := .bypass, serial := 0 }


def Dev.reset : Dev :=
  { regs := [], live := [], gtc := 0, counting := false, evt := Evt.reset, hif := Hif.reset, dma := [], clk := Clk.reset, sync := Sync.reset,
    tcq := Tcq.reset, pend := [], boot := Boot.reset, dram := [], sram := [], ledger := [], hostMem := [], fresh := 0
    , seq := []
    , pins := Pins.reset
    , apg := []
    , chans := [], flp := []
    , lvls := [], meas := [], calbus := CalBus.reset, trims := [], acq := []
    , sb := []
    , mc := [], dramc := Dramc.reset
    , srm := Srm.reset
    , pwr := Pwr.reset
    , vlt := Vlt.reset
    }

def Vault.reset : Vault := { spring := false, summer := false, autumn := false, winter := false, tampers := 0 }

/-- The machine right after a cold reset: start-up stands in step POWER, nothing is online, and no command waits. -/
def State.reset : State := { dev := Dev.reset, vault := Vault.reset, pending := [] }

end Sys2Proof.Machine
end

