-- ==== Sys2Proof/Machine/Ops.lean ====
section
/-! DEFINITION. The named operations on the register file, the wide values and the memories. -/
namespace Sys2Proof.Machine

/-! ### Pages (R54, Table 2-9) -/

/-- The kinds of the sixteen pages of a port, by page offset. -/
def portKinds : List PageKind :=
  [.prt, .seq, .lks, .apg, .cdc, .tsa, .dds, .trg, .acq, .msk, .flp, .cec, .ddc, .aux, .hpd, .meas]

/-- Kind and instance of an assigned page, none for an unassigned page. -/
def pageOf (n : Nat) : Option (PageKind × Nat) :=
  if n = 0 then some (.glb, 0) else if n = 1 then some (.clk, 0) else if n = 2 then some (.gtc, 0)
  else if n = 3 then some (.boot, 0) else if n = 4 then some (.evc, 0)
  else if 0x10 ≤ n ∧ n ≤ 0x33 then some (.evg, n - 0x10)
  else if 0x40 ≤ n ∧ n ≤ 0x43 then some (.mc, n - 0x40)
  else if n = 0x44 then some (.mcg, 0) else if n = 0x45 then some (.qos, 0)
  else if n = 0x50 then some (.srm, 0) else if n = 0x51 then some (.mbx, 0) else if n = 0x52 then some (.vlt, 0)
  else if n = 0x60 then some (.hif, 0) else if n = 0x61 then some (.bmp, 0) else if n = 0x70 then some (.pwr, 0)
  else if 0x100 ≤ n ∧ n < 0x200 then
    let k := (n - 0x100) % 0x40
    if k < 16 then some ((portKinds[k]?).getD .prt, (n - 0x100) / 0x40) else none
  else if 0x200 ≤ n ∧ n < 0x220 then some (.fch, n - 0x200)
  else if 0x240 ≤ n ∧ n < 0x280 then some (.uch, n - 0x240)
  else none

/-- Block type of a kind of page (Table 2-9). -/
def blockType : PageKind → Nat
  | .glb => 0x0001 | .clk => 0x0002 | .gtc => 0x0003 | .boot => 0x0004 | .evc => 0x0005 | .evg => 0x0010
  | .mc => 0x0020 | .mcg => 0x0021 | .qos => 0x0022 | .srm => 0x0030 | .mbx => 0x0031 | .vlt => 0x0032
  | .hif => 0x0040 | .bmp => 0x0041 | .pwr => 0x0050 | .prt => 0x0100 | .seq => 0x0101 | .lks => 0x0102
  | .apg => 0x0103 | .cdc => 0x0104 | .tsa => 0x0105 | .dds => 0x0106 | .trg => 0x0107 | .acq => 0x0108
  | .msk => 0x0109 | .flp => 0x010A | .cec => 0x010B | .ddc => 0x010C | .aux => 0x010D | .hpd => 0x010E
  | .meas => 0x010F | .fch => 0x0200 | .uch => 0x0201

/-- Supervisor access to a kind of page: 0 none, 1 read only, 3 read and write (Table 2-9). -/
def bmpAccess : PageKind → Nat
  | .glb | .boot | .evc | .evg | .mbx | .pwr => 3
  | .vlt => 1
  | _ => 0

/-- Pages on which `RESET_REQ` acts (Table 4-10). -/
def resettable : PageKind → Bool
  | .glb | .prt | .cec | .ddc | .aux | .hpd | .fch | .uch | .mc => true
  | _ => false

/-- Pages on which a chapter gives `ENABLE` an effect (R210, R245, R334). -/
def hasEnable : PageKind → Bool
  | .dds | .fch | .uch | .cec | .ddc | .aux | .hpd => true
  | _ => false

/-- Pages on which a chapter gives `FREEZE` an effect (R304, R322). -/
def hasFreeze : PageKind → Bool
  | .acq | .flp => true
  | _ => false

/-- Pages with event sources (R431). -/
def hasEvents (k : PageKind) : Bool := decide (0 < (pageSources k 0).2)

/-- `PAGE_ID` (Table 2-10). -/
def pageId (k : PageKind) (i : Nat) : Nat := blockType k * 0x10000 + i * 0x100 + 1

/-- `PAGE_CAP` (R55). -/
def pageCap (k : PageKind) : Nat :=
  b2n (k != .hif) * 2 ^ 31 + b2n (hasEvents k) * 2 ^ 30 + b2n (resettable k) * 2 ^ 29 + b2n (bmpAccess k != 0) * 2 ^ 28

/-- Address of `PAGE_CTRL` of a page. -/
def pctl (page : Nat) : Nat := page * 0x1000 + 0x8
/-- Address of `PAGE_STAT` of a page. -/
def pstat (page : Nat) : Nat := page * 0x1000 + 0xC
/-- Address of `PAGE_LOCK` of a page. -/
def plock (page : Nat) : Nat := page * 0x1000 + 0x20

def F.ctlEnable : Fld := ⟨0, 0⟩
def F.ctlReset : Fld := ⟨1, 1⟩
def F.ctlFreeze : Fld := ⟨2, 2⟩
def F.stDrops : Fld := ⟨23, 16⟩
def F.stLockViol : Fld := ⟨5, 5⟩
def F.stLocked : Fld := ⟨4, 4⟩
def F.stParamZero : Fld := ⟨3, 3⟩
def F.stBadWrite : Fld := ⟨2, 2⟩
def F.stOffline : Fld := ⟨1, 1⟩
def F.stBusy : Fld := ⟨0, 0⟩
def F.lockKey : Fld := ⟨31, 16⟩
def F.lockFail : Fld := ⟨15, 8⟩
def F.lockLocked : Fld := ⟨0, 0⟩
/-- A whole word. -/
def F.all : Fld := ⟨31, 0⟩

/-- Page numbers of a port's pages. -/
def ppage (p off : Nat) : Nat := 0x100 + 0x40 * p + off

/-! ### The register map -/

/-- Find the row of a page map that covers an offset. -/
def findReg : List RegDef → Nat → Option RegDef
  | [], _ => none
  | r :: rs, o =>
    if r.off = o then some r
    else if r.off < o ∧ (o - r.off) % r.stride = 0 ∧ (o - r.off) / r.stride < r.cnt then some r
    else findReg rs o

/-- The register that stands at a BAR0 byte address. -/
def regDef (a : Nat) : Option RegDef :=
  match pageOf (a / 0x1000) with
  | none => none
  | some (k, _) => findReg (pageMap k) (a % 0x1000)

/-- What a register that is not listed holds: its reset value. -/
def resetWord (a : Nat) : Word :=
  match regDef a with
  | none => 0
  | some r => BitVec.ofNat 32 r.reset

namespace Dev

/-! ### The register file -/

/-- The value a register holds. -/
def get (d : Dev) (a : Nat) : Word := tget resetWord d.regs a

/-- Store a register. -/
def set (d : Dev) (a : Nat) (w : Word) : Dev := { d with regs := tset resetWord d.regs a w }

/-- One field of a register. -/
def rf (d : Dev) (a : Nat) (f : Fld) : Nat := fget (d.get a) f

/-- One field of a register as a Boolean. -/
def rb (d : Dev) (a : Nat) (f : Fld) : Bool := d.rf a f != 0

/-- Store one field of a register. -/
def wf (d : Dev) (a : Nat) (f : Fld) (v : Nat) : Dev := d.set a (fset (d.get a) f v)

/-- Add to a field that saturates at all ones. -/
def cnt (d : Dev) (a : Nat) (f : Fld) (k : Nat) : Dev :=
  d.wf a f (satAdd (2 ^ (f.hi + 1 - f.lo) - 1) (d.rf a f) k)

/-- The register as a number. -/
def rn (d : Dev) (a : Nat) : Nat := (d.get a).toNat

/-- Store a number in a register. -/
def setN (d : Dev) (a v : Nat) : Dev := d.set a (BitVec.ofNat 32 v)

/-- A wide value of `n` words from address `a`, lowest word first. -/
def wide (d : Dev) (a : Nat) : Nat → Nat
  | 0 => 0
  | n + 1 => d.rn a + 2 ^ 32 * d.wide (a + 4) n

/-- Store a wide value. -/
def setWide (d : Dev) (a : Nat) : Nat → Nat → Dev
  | 0, _ => d
  | n + 1, v => (d.setN a v).setWide (a + 4) n (v / 2 ^ 32)

/-- Return one register to its reset value. -/
def clr (d : Dev) (a : Nat) : Dev := d.set a (resetWord a)

/-- Value in force of a timing-affecting register (R193). -/
def lv (d : Dev) (a : Nat) : Word := tget resetWord d.live a

/-- One field of the value in force. -/
def lf (d : Dev) (a : Nat) (f : Fld) : Nat := fget (d.lv a) f

/-- Put a value in force. -/
def setLive (d : Dev) (a : Nat) (w : Word) : Dev := { d with live := tset resetWord d.live a w }

/-- A wide value in force. -/
def lwide (d : Dev) (a : Nat) : Nat → Nat
  | 0 => 0
  | n + 1 => (d.lv a).toNat + 2 ^ 32 * d.lwide (a + 4) n

/-- Key of a path's latch or staging set for a wide value (R59). -/
def pathKey (path base : Nat) : Nat := path * 2 ^ 22 + base

/-- Forget the latches and staging sets of the wide values that a reset returns: `keep` tells which pages it leaves alone (R59). -/
def dropSets (d : Dev) (keep : Nat → Bool) : Dev :=
  let f := fun (x : Nat × List Word) => keep (x.1 % 2 ^ 22 / 0x1000)
  { d with hif := { d.hif with latch := d.hif.latch.filter f, staged := d.hif.staged.filter f } }

/-- Return every register whose address lies in a page to its reset value. -/
def clrPage (d : Dev) (page : Nat) : Dev :=
  { d with regs := d.regs.filter (fun x => x.1 / 0x1000 != page), live := d.live.filter (fun x => x.1 / 0x1000 != page) }.dropSets
    (fun q => q != page)

/-! ### PAGE_STAT flags -/

def badWrite (d : Dev) (page : Nat) : Dev := d.wf (pstat page) F.stBadWrite 1
def paramZero (d : Dev) (page : Nat) : Dev := d.wf (pstat page) F.stParamZero 1
def lockViol (d : Dev) (page : Nat) : Dev := d.wf (pstat page) F.stLockViol 1
def setBusy (d : Dev) (page : Nat) (b : Bool) : Dev := d.wf (pstat page) F.stBusy (b2n b)

/-! ### Online and offline units (R62, R100, R113) -/

/-- The start-up step whose end brings a page online (Table 4-2); `sup` for the supervisor. -/
def onlineStep (k : PageKind) (sup : Bool) : Nat :=
  match k with
  | .clk | .gtc | .pwr => 3
  | .glb | .boot | .evc | .evg => if sup then 3 else 6
  | .hif | .bmp => 6
  | .srm | .mbx | .vlt => 8
  | .mc | .mcg | .qos => 10
  | _ => 13

/-- A page reads and writes as an offline page (R62, R100). -/
def offline (d : Dev) (sup : Bool) (page : Nat) : Bool :=
  match pageOf page with
  | none => false
  | some (k, _) => decide (d.boot.done < onlineStep k sup) || tget (fun _ => false) d.boot.off page

/-- Take the unit of a page off line: the drop count restarts (Table 2-10, `OFFLINE_DROPS`). -/
def goOffline (d : Dev) (page : Nat) : Dev :=
  let d := d.wf (pstat page) F.stDrops 0
  { d with boot := { d.boot with off := tset (fun _ => false) d.boot.off page true } }

/-- Bring the unit of a page back. -/
def goOnline (d : Dev) (page : Nat) : Dev :=
  { d with boot := { d.boot with off := tset (fun _ => false) d.boot.off page false } }

/-- The pages of port `p`: its sixteen port pages, eight `FCH` pages and sixteen `UCH` pages (Table 4-10). -/
def portPages (p : Nat) : List Nat :=
  (List.range 16).map (fun k => 0x100 + 0x40 * p + k) ++ (List.range 8).map (fun k => 0x200 + 8 * p + k)
    ++ (List.range 16).map (fun k => 0x240 + 16 * p + k)

/-! ### Time -/

/-- The GTC as a number. -/
def now (d : Dev) : Nat := d.gtc.toNat

/-- Ticks of one HCLK cycle (R4). -/
def hclk : Nat := 131072

/-- 1 + the number of the present HCLK cycle. -/
def cycNo (d : Dev) : Nat := d.now / hclk + 1

/-- The next free value (the model's own counter); the caller advances it with `burn`. -/
def burn (d : Dev) : Dev := { d with fresh := d.fresh + 1 }

/-- Ticks of a microsecond (R4: 52,428,800). -/
def usTicks : Nat := 52428800

/-- The sequencer of port `p` is in a state other than IDLE ("running" in R17 and R73). -/
def running (d : Dev) (p : Nat) : Bool := d.rb (R.seqStat p) F.seqStatState

/-- Some port's sequencer runs. -/
def anyRunning (d : Dev) : Bool := [0, 1, 2, 3].any d.running

/-! ### Memories -/

/-- Host memory: write bytes. -/
def hostWrite (d : Dev) (a : Nat) (bs : List Byte) : Dev := { d with hostMem := mwrite d.hostMem a bs }
/-- On-chip memory by BAR4 offset: write bytes. -/
def sramWrite (d : Dev) (a : Nat) (bs : List Byte) : Dev := { d with sram := mwrite d.sram a bs }
/-- On-chip memory: a 32-bit word. -/
def sramWord (d : Dev) (a : Nat) : Nat := mnat d.sram a 4
/-- On-chip memory: store a 32-bit word. -/
def sramPut (d : Dev) (a v : Nat) : Dev := { d with sram := mputNat d.sram a 4 v }

/-- Words as little-endian bytes. -/
def wordsBytes (ws : List Nat) : List Byte := (ws.map (leBytes 4)).flatten

end Dev
end Sys2Proof.Machine
end

