-- ==== Sys2Proof/Machine/DramMap.lean ====
section
/-! DEFINITION. The DRAM address map (13_dram_controller.md, R362 to R375): channels in use, populated memory, the fields of a line,
and the move of content under a changed map. -/
namespace Sys2Proof.Machine

/-- The place of a line in a channel (Table 13-5). -/
structure LinePos where
  sc : Nat
  bg : Nat
  ba : Nat
  rank : Nat
  row : Nat
  col : Nat
  deriving DecidableEq, Repr

/-- Fields of line number `L` under a map order, 0 LINEAR, 1 STRIPE, 2 HASH (R374). -/
def linePos (order ranks L : Nat) : LinePos :=
  let rank := if ranks = 2 then L / 4096 % 2 else 0
  let row := if ranks = 2 then L / 8192 else L / 4096
  let ba := nbits L 11 10
  if order = 0 then ⟨nbits L 6 6, nbits L 9 7, ba, rank, row, nbits L 5 0⟩
  else if order = 1 then ⟨nbits L 0 0, nbits L 3 1, ba, rank, row, nbits L 9 4⟩
  else ⟨nbits L 0 0, nbits L 3 1 ^^^ nbits row 2 0, ba ^^^ nbits row 4 3, rank, row, nbits L 9 4⟩

/-- The line number at a place: the inverse of `linePos`. -/
def lineAt (order ranks : Nat) (x : LinePos) : Nat :=
  let top := (if ranks = 2 then x.rank + 2 * x.row else x.row) * 4096
  if order = 0 then top + x.ba * 1024 + x.bg * 128 + x.sc * 64 + x.col
  else if order = 1 then top + x.ba * 1024 + x.col * 16 + x.bg * 2 + x.sc
  else top + (x.ba ^^^ nbits x.row 4 3) * 1024 + x.col * 16 + (x.bg ^^^ nbits x.row 2 0) * 2 + x.sc

/-- The bank of a place within its channel: rank, subchannel, bank group and bank. -/
def bankKey (x : LinePos) : Nat := ((x.rank * 2 + x.sc) * 8 + x.bg) * 4 + x.ba

/-- Channel (the `k`-th of `chans`) and channel address of a device address (R372, R373). -/
def mapAddr (ilv cch : Nat) (chans : List Nat) (a : Nat) : Option (Nat × Nat) :=
  if ilv = 2 then
    if cch = 0 then none
    else
      let c := a / cch
      if chans.contains c then some (c, a % cch) else none
  else
    let g := if ilv = 1 then 4096 else 256
    let u := a / g
    let n := chans.length
    match chans[u % n]? with
    | some c => some (c, u / n * g + a % g)
    | none => none

/-- The device address of a channel address. -/
def unmapAddr (ilv cch : Nat) (chans : List Nat) (c ca : Nat) : Nat :=
  if ilv = 2 then c * cch + ca
  else
    let g := if ilv = 1 then 4096 else 256
    (ca / g * chans.length + chans.findIdx (· == c)) * g + ca % g

namespace Dev

def mcOf (d : Dev) (c : Nat) : Mc := tget (fun _ => Mc.reset) d.mc c
def putMc (d : Dev) (c : Nat) (m : Mc) : Dev := { d with mc := tset (fun _ => Mc.reset) d.mc c m }

/-- A DRAM channel is in use: populated, trained and not excluded (R372). -/
def mcInUse (d : Dev) (c : Nat) : Bool := decide (0 < d.rf (R.mcStat c) F.mcStatRanks) && !d.rb (R.mcStat c) F.mcStatExcluded

/-- Channels in use, ascending. -/
def mcUse (d : Dev) : List Nat := [0, 1, 2, 3].filter d.mcInUse

/-- Bytes of a channel (R363). -/
def mcCch (d : Dev) : Nat := d.rn R.mcgCch * 2 ^ 16

def mcLazy (d : Dev) : Bool := d.rb R.mcgInitStat F.mcgInitStatMode

/-- Bytes of a channel that requesters see: less the LAZY reservation (R387). -/
def mcAvail (d : Dev) : Nat := d.mcCch - (if d.mcLazy then d.mcCch / 32768 else 0)

def mcIlv (d : Dev) : Nat := d.rf R.mcgMap F.mcgMapIlv

/-- Ranks per channel: the same in every channel in use (R363). -/
def mcRanks (d : Dev) : Nat := match d.mcUse with | c :: _ => d.rf (R.mcStat c) F.mcStatRanks | [] => 1

/-- Channel and channel address of a populated device address. -/
def mcAddr (d : Dev) (a : Nat) : Option (Nat × Nat) :=
  match mapAddr d.mcIlv d.mcCch d.mcUse a with
  | some (c, ca) => if ca < d.mcAvail then some (c, ca) else none
  | none => none

/-- Channel and place of a populated line. -/
def mcPlace (d : Dev) (a : Nat) : Option (Nat × LinePos) :=
  (d.mcAddr a).map (fun x => (x.1, linePos (d.rf R.mcgMap F.mcgMapOrder) d.mcRanks (x.2 / 64)))

/-- Populated bytes of DRAM (`MCG_CAP`). -/
def dramBytes (d : Dev) : Nat := d.rn R.mcgCap * 2 ^ 16

/-- Every byte of a range is populated (R372, R373). -/
def dramOk (d : Dev) (a n : Nat) : Bool :=
  if d.mcIlv = 2 then
    let lo := a / (max 1 d.mcCch)
    let hi := (a + n - 1) / (max 1 d.mcCch)
    decide (0 < d.mcCch) && decide (hi < 4) &&
      [0, 1, 2, 3].all (fun c => !(decide (lo ≤ c) && decide (c ≤ hi)) ||
        (d.mcInUse c && (decide (a + n ≤ c * d.mcCch + d.mcAvail) || (decide (c < hi) && decide (d.mcAvail = d.mcCch)))))
  else decide (a + n ≤ d.dramBytes)

/-- DRAM channels that a range of device addresses lies in (R373). -/
def dramChans (d : Dev) (a n : Nat) : List Nat :=
  if d.mcIlv = 2 then
    d.mcUse.filter (fun c => decide (a < (c + 1) * d.mcCch) && decide (c * d.mcCch < a + max 1 n))
  else d.mcUse

/-! ### Changed maps (R375) -/

/-- Content that no device address reaches under the present map is kept from here up, by its place. -/
def hiddenBase : Nat := 2 ^ 48

/-- The place of a byte as one number. -/
def placeKey (c : Nat) (x : LinePos) (b : Nat) : Nat :=
  ((((c * 2 + x.rank) * 2 ^ 17 + x.row) * 64 + (x.sc * 8 + x.bg) * 4 + x.ba) * 64 + x.col) * 64 + b

def keyPlace (k : Nat) : Nat × LinePos × Nat :=
  let b := k % 64
  let col := k / 64 % 64
  let bk := k / 4096 % 64
  let r := k / 2 ^ 18
  (r / 2 ^ 18, ⟨bk / 32, bk / 4 % 8, bk % 4, r / 2 ^ 17 % 2, r % 2 ^ 17, col⟩, b)

/-- The place key of an address of the store. -/
def placeOf (d : Dev) (a : Nat) : Nat :=
  if hiddenBase ≤ a then a - hiddenBase
  else match d.mcPlace a with | some (c, x) => placeKey c x (a % 64) | none => a

/-- The address of the store at which a place is found under the present map. -/
def addrOf (d : Dev) (k : Nat) : Nat :=
  let (c, x, b) := keyPlace k
  let ca := lineAt (d.rf R.mcgMap F.mcgMapOrder) d.mcRanks x * 64 + b
  if d.mcInUse c && decide (ca < d.mcAvail) then unmapAddr d.mcIlv d.mcCch d.mcUse c ca else hiddenBase + k

/-- Content and poison lists under the map of `d`, taken from the state `o` with the old map: nothing moves in the devices. -/
def remap (o d : Dev) : Dev :=
  let f := fun a => d.addrOf (o.placeOf a)
  let d := { d with dram := o.dram.foldl (fun m x => mset m (f x.1) x.2) [] }
  [0, 1, 2, 3].foldl (fun (d : Dev) c => d.putMc c { d.mcOf c with poison := (o.mcOf c).poison.map f }) d

end Dev
end Sys2Proof.Machine
end

