-- ==== Sys2Proof/Machine/Events.lean ====
section
/-! DEFINITION. The event fabric (16_events_and_faults.md): occurrences, latches, escalation, first fault, event queue, MSI-X,
candidates for the ledger, and the terms of FAULT_N.  Reactions are asked for here and carried out in Reactions.lean. -/
namespace Sys2Proof.Machine
namespace Dev

def esrc (d : Dev) (s : Nat) : EvtSrc := tget EvtSrc.reset d.evt.src s
def setEsrc (d : Dev) (s : Nat) (e : EvtSrc) : Dev := { d with evt := { d.evt with src := tset EvtSrc.reset d.evt.src s e } }

def F.cfgEscN : Fld := ⟨31, 24⟩
def F.cfgEscW : Fld := ⟨23, 19⟩
def F.cfgEvq : Fld := ⟨18, 18⟩
def F.cfgClass : Fld := ⟨17, 16⟩
def F.cfgReact : Fld := ⟨14, 12⟩
def F.cfgRport : Fld := ⟨11, 10⟩
def F.cfgMsi : Fld := ⟨8, 8⟩
def F.cfgReactSev : Fld := ⟨7, 7⟩
def F.cfgVector : Fld := ⟨5, 0⟩

/-- The unit behind a source is offline (R433). -/
def srcOffline (d : Dev) (s : Nat) : Bool := d.offline true (srcBlockPage s)

/-- The effective raw state: the condition or the force bit, 0 while the unit is offline (R433). -/
def effRaw (d : Dev) (s : Nat) : Bool :=
  let e := d.esrc s
  (srcBase s).isSome && !d.srcOffline s && (e.cond || e.force)

/-- The class of a source by its configuration; FATAL for base-FATAL sources (R435, R437). -/
def srcClass (d : Dev) (s : Nat) : Nat := if srcFatal s then 3 else fget (d.esrc s).cfg F.cfgClass

/-- The effective class (R437). -/
def effClass (d : Dev) (s : Nat) : Nat := if (d.esrc s).esc then max (d.srcClass s) 2 else d.srcClass s

/-- The source is enabled; base-FATAL sources always (R435). -/
def srcEn (d : Dev) (s : Nat) : Bool := srcFatal s || (d.esrc s).en

/-- The source counts toward FAULT_N (R440). -/
def sevHeld (d : Dev) (s : Nat) : Bool := d.srcEn s && (d.esrc s).sticky && decide (2 ≤ d.effClass s)

/-- The source holds its sticky bit with effective class FATAL (R439). -/
def fatalHeld (d : Dev) (s : Nat) : Bool := d.srcEn s && (d.esrc s).sticky && decide (d.effClass s = 3)

/-- Numbers of the sources that differ from their reset value: no other source is sticky. -/
def srcTouched (d : Dev) : List Nat := d.evt.src.map Prod.fst

/-- How many sources count under R440. -/
def sevCount (d : Dev) : Nat := (d.srcTouched.filter d.sevHeld).length

/-- Some enabled source holds effective class FATAL (R439). -/
def anyFatal (d : Dev) : Bool := d.srcTouched.any d.fatalHeld

/-- FAULT_N is driven low (R440). -/
def faultN (d : Dev) : Bool :=
  decide (d.rf R.bootStat F.bootStatState ≠ 1) || d.rb R.evcCtrl F.evcCtrlFaultnLow || decide (0 < d.sevCount)

/-! ### MSI-X (R47, R48, R442) -/

/-- Send the message of a vector: a 32-bit write of its data to its address. -/
def msixSend (d : Dev) (v : Nat) : Dev :=
  let a := d.rn (R.msixAddrLo v) + 2 ^ 32 * d.rn (R.msixAddrHi v)
  let d := d.hostWrite a (leBytes 4 (d.rn (R.msixData v)))
  { d with hif := { d.hif with msgCnt := d.hif.msgCnt + 1 } }

/-- The vector is masked by its entry or by the function mask, or the function cannot send now. -/
def msixMasked (d : Dev) (v : Nat) : Bool :=
  d.rb (R.msixVctrl v) F.msixVctrlMask || d.hif.fmask || d.hif.d3hot || !d.hif.linkUp

def msixPending (d : Dev) (v : Nat) : Bool := nbit (d.rn (R.msixPba (v / 32))) (v % 32)

def setMsixPending (d : Dev) (v : Nat) (b : Bool) : Dev := d.wf (R.msixPba (v / 32)) ⟨v % 32, v % 32⟩ (b2n b)

/-- Assert a vector: one message, or its pending bit while masked (R48). -/
def msixAssert (d : Dev) (v : Nat) : Dev :=
  if d.msixMasked v then d.setMsixPending v true else d.msixSend v

/-- Send what was pending on a vector that is no longer masked (R48). -/
def msixRelease (d : Dev) (v : Nat) : Dev :=
  if d.msixPending v && !d.msixMasked v then (d.setMsixPending v false).msixSend v else d

/-! ### The event queue (R443) -/

/-- BAR4 offset of event-queue entry `j`. -/
def evqAddr (j : Nat) : Nat := 0x800000 + 16 * (j % 4096)

/-- The event-queue bank takes no entries: offline, or under a destructive march (R443). -/
def evqDown (d : Dev) : Bool :=
  d.rb (R.srmBank 64) F.srmBankFaulty ||
    (d.rb (R.srmBank 64) F.srmBankMarching && !d.rb R.srmMarchCtrl F.srmMarchCtrlMode)

/-- Source number and stamp of the entry before position `j`. -/
def evqKey (d : Dev) (j : Nat) : Nat × Nat :=
  (d.sramWord (evqAddr j) % 2048, mnat d.sram (evqAddr j + 4) 8 + 2 ^ 64 * mnat d.sram (evqAddr j + 12) 2)

/-- Place an entry so that entries of one HCLK cycle stand in ascending source order: entries of the same cycle with a larger
source number move up one place. -/
def evqPlace (d : Dev) (src gtc : Nat) (bs : List Byte) : Nat → Nat → Dev
  | 0, j => d.sramWrite (evqAddr j) bs
  | k + 1, j =>
    let key := d.evqKey (j + 4095)
    if key.2 = gtc ∧ src < key.1 then
      evqPlace (d.sramWrite (evqAddr j) (mread d.sram (evqAddr (j + 4095)) 16)) src gtc bs k (j + 4095)
    else d.sramWrite (evqAddr j) bs

/-- Entries written and not yet read. -/
def evqHeld (d : Dev) : Nat := (d.rn R.evcEvqWptr + 2 ^ 32 - d.rn R.evcEvqRptr) % 2 ^ 32

/-- Write one entry, or lose it; the answer says whether it was lost. -/
def evqWrite (d : Dev) (cls : Nat) (escd forced : Bool) (react src c : Nat) : Dev × Bool :=
  if d.evqDown || decide (4096 ≤ d.evqHeld) then
    (({ d with evt := { d.evt with gap := true } }).cnt R.evcEvqLost F.all 1, true)
  else
    let w0 := cls * 2 ^ 30 + b2n escd * 2 ^ 29 + b2n forced * 2 ^ 28 + b2n d.evt.gap * 2 ^ 27 + react * 2 ^ 24 + src
    let bs := leBytes 4 w0 ++ leBytes 8 d.now ++ leBytes 2 (d.now / 2 ^ 64) ++ leBytes 2 c
    let j := d.rn R.evcEvqWptr
    let n := min d.evqHeld 63
    let d := d.evqPlace src d.now bs n j
    (({ d with evt := { d.evt with gap := false } }).setN R.evcEvqWptr ((j + 1) % 2 ^ 32), false)

/-! ### First fault (R441) -/

/-- Offer a candidate to the first-fault record; candidates of the record's own HCLK cycle compete with it.
`NCOINC` counts them where there is more than one. -/
def firstFault (d : Dev) (src cls : Nat) (escd forced : Bool) : Dev :=
  let w0 := 2 ^ 31 + cls * 2 ^ 28 + b2n escd * 2 ^ 27 + b2n forced * 2 ^ 26 + src
  let put := fun (d : Dev) (w n : Nat) =>
    (((d.setN R.evcFf0 w).setN R.evcFf1 d.now).setN R.evcFf2 (d.now / 2 ^ 32)).setN R.evcFf3
      (n * 2 ^ 16 + d.now / 2 ^ 64 % 2 ^ 16)
  if !d.rb R.evcFf0 F.evcFf0Valid then put d w0 0
  else
    let t := d.rn R.evcFf1 + 2 ^ 32 * d.rn R.evcFf2 + 2 ^ 64 * (d.rn R.evcFf3 % 2 ^ 16)
    if t / hclk + 1 = d.cycNo then
      let n := max 2 (d.rf R.evcFf3 F.evcFf3Ncoinc + 1)
      let oc := d.rf R.evcFf0 F.evcFf0Class
      let win := decide (oc < cls) || (decide (oc = cls) && decide (src < d.rf R.evcFf0 F.evcFf0Source))
      put d ((if win then w0 else d.rn R.evcFf0 - b2n (d.rb R.evcFf0 F.evcFf0Coincident) * 2 ^ 30) + 2 ^ 30) n
    else d

/-! ### Occurrences -/

/-- What an occurrence asks for: reaction bits (bit 0 STOP_PORT, 1 SAFE_PORT, 2 FREEZE_ACQ) and the ports they act on. -/
abbrev React := Nat × List Nat

/-- The consequences of a latch of an enabled source beyond its reactions: queue entry, message, ledger candidate
(R442, R443, R444). -/
def latchOut (d : Dev) (s cls : Nat) (escd forced : Bool) (react c : Nat) (coinc : Bool) : Dev × Bool :=
  let cfg := (d.esrc s).cfg
  let r := if d.rb R.evcCtrl F.evcCtrlEvqEn && decide (fget cfg F.cfgEvq = 1) && decide (s ≠ Ev.evqLost)
    then d.evqWrite cls escd forced react s c else (d, false)
  let d := r.1
  let d := if fget cfg F.cfgMsi = 1 then d.msixAssert (fget cfg F.cfgVector) else d
  let d := if 2 ≤ cls ∧ s ≠ Ev.faultHistSupp then
      { d with evt := { d.evt with cands := d.evt.cands ++ [⟨s, cls, escd, forced, coinc, react, d.now⟩] } }
    else d
  (d, r.2)

/-- Reaction bits and targets of an occurrence of class `cls` (R438). -/
def reactOf (d : Dev) (s cls : Nat) : React :=
  let cfg := (d.esrc s).cfg
  if cls = 3 then (7, [0, 1, 2, 3])
  else if srcIsReact s then (0, [])
  else
    let bits := fget cfg F.cfgReact
    let bits := if fget cfg F.cfgReactSev = 1 ∧ cls < 2 then 0 else bits
    (bits, if bits = 0 then [] else [(srcPort s).getD (fget cfg F.cfgRport)])

/-- One occurrence of a source in the present HCLK cycle, with no more than its own bookkeeping; answers the reactions it asks
for and whether its queue entry was lost (R433, R434, R437, R438, R441 to R444). -/
def occurOne (s : Nat) (d : Dev) : Dev × React × Bool :=
  if (srcBase s).isNone || decide (d.boot.done < 3) || d.srcOffline s then (d, (0, []), false)
  else
    let e := d.esrc s
    if e.lastCyc = d.cycNo then (d, (0, []), false)
    else
      let w := 52428800 * 2 ^ fget e.cfg F.cfgEscW
      let fresh := decide (e.c = 0) || decide (w ≤ d.now - e.tw)
      let c := if fresh then 1 else satAdd 255 e.c 1
      let n := fget e.cfg F.cfgEscN
      let up := decide (n ≠ 0 ∧ n ≤ c)
      let cls := if up then max (d.srcClass s) 2 else d.srcClass s
      let escd := up && !e.esc
      let latch := !e.sticky || escd
      let forced := !e.cond && e.force
      let e' := { e with c := c, tw := if fresh then d.now else e.tw, esc := e.esc || up, sticky := true,
                         occ := satAdd 0xFFFFFF e.occ 1, lastCyc := d.cycNo, wasLatch := latch }
      let d := d.setEsrc s e'
      if !d.srcEn s then (d, (0, []), false)
      else
        let react := d.reactOf s cls
        let same := decide (d.evt.sevCyc = d.cycNo)
        let coinc := same && decide (0 < d.evt.sevCnt)
        let d := if 2 ≤ cls then
            let d := d.firstFault s cls escd forced
            let cands := if coinc then
                d.evt.cands.map (fun x => if x.gtc / hclk + 1 = d.cycNo then { x with coinc := true } else x)
              else d.evt.cands
            { d with evt := { d.evt with sevCyc := d.cycNo, sevCnt := if same then d.evt.sevCnt + 1 else 1,
                                         cands := cands } }
          else d
        if latch then
          let r := d.latchOut s cls escd forced react.1 c coinc
          (r.1, react, r.2)
        else (d, react, false)

/-- One occurrence with EVQ_LOST raised where its queue entry was lost; the reactions asked for come in order. -/
def occurBook (s : Nat) (d : Dev) : Dev × List React :=
  let r := d.occurOne s
  if r.2.2 then
    let q := r.1.occurOne Ev.evqLost
    (q.1, [r.2.1, q.2.1])
  else (r.1, [r.2.1])

/-- The block reports a level condition; the answer says whether this is an occurrence (R433). -/
def condSet (s : Nat) (b : Bool) (d : Dev) : Dev × Bool :=
  let was := d.effRaw s
  let d := d.setEsrc s { d.esrc s with cond := b }
  (d, !was && d.effRaw s)

end Dev
end Sys2Proof.Machine
end

