-- ==== Sys2Proof/Machine/Grid.lean ====
section
/-! DEFINITION. The grid of UI boundaries of a timing set, spread-spectrum displacement, the port DDS, injected jitter and the
grids of the device clocks (07_timing_generators.md, R192 to R212). -/
namespace Sys2Proof.Machine
namespace Dev

/-! ### Device clock edges (R4, R71) -/

/-- Ticks of one SQCLK cycle. -/
def sqclk : Nat := 65536
/-- Ticks of one PCLK cycle. -/
def pclk : Nat := 32768

/-- The first edge at or after `t` of the device clock with `c` ticks per cycle, on the grid that `GTC_PHASE` places. -/
def edgeAt (d : Dev) (c t : Nat) : Nat :=
  let ph := d.rn R.gtcPhase % c
  t + (ph + c - t % c) % c

/-! ### The grid (R191, R192) -/

/-- P_fx of a timing set in force: the period in 2⁻²⁴ tick. -/
def tsPfx (d : Dev) (p s : Nat) : Nat := (d.lv (R.tsPer1 p s)).toNat * 2 ^ 24 + d.lf (R.tsPer0 p s) F.tsPer0Frac

/-- `PERIOD_INT` in force. -/
def tsInt (d : Dev) (p s : Nat) : Nat := (d.lv (R.tsPer1 p s)).toNat

/-- The epoch in force. -/
def tsEpoch (d : Dev) (p s : Nat) : Nat := d.lwide (R.tsEpoch0 p s) 3

/-- Spread-spectrum displacement at nominal time `τ` (R207). -/
def sscDisp (d : Dev) (p s : Nat) (τ : Int) : Int :=
  let sp : Int := d.lf (R.tsSsc p s) F.tsSscSpread
  let T : Int := (d.lv (R.tsSscp p s)).toNat
  if sp = 0 ∨ T = 0 then 0
  else
    let m := τ % T
    let c := τ / T
    -- 4T·Q(m): 4m² in the first half, 8mT - 4m² - 2T² in the second
    let q := if 2 * m ≤ T then 4 * m * m else 8 * m * T - 4 * m * m - 2 * T * T
    let num := sp * (2 * T * T * c + q)
    let den := 2 ^ 26 * T
    (2 * num + den) / (2 * den)

/-- g(k) (R192). -/
def gridPt (d : Dev) (p s : Nat) (k : Int) : Int := d.tsEpoch p s + (k * d.tsPfx p s + 2 ^ 23) / 2 ^ 24

/-- b(k): the k-th UI boundary (R192). -/
def bound (d : Dev) (p s : Nat) (k : Int) : Int :=
  let g := d.gridPt p s k
  g + d.sscDisp p s (g - d.tsEpoch p s)

/-- The smallest index in (lo, lo + n] whose boundary is at or after `t`, by bisection; `lo + n` is known to be such an index. -/
def bisect (d : Dev) (p s : Nat) (t : Int) : Nat → Int → Nat → Int
  | 0, lo, n => lo + n
  | f + 1, lo, n =>
    if n ≤ 1 then lo + n
    else
      let h := n / 2
      if t ≤ d.bound p s (lo + h) then bisect d p s t f lo h else bisect d p s t f (lo + h) (n - h)

/-- The smallest k with b(k) at or after `t`.  Spread lengthens a UI by at most 0.5 %, so k lies close below `t`'s nominal index;
before the epoch the displacement is negative and k lies close above it. -/
def kAt (d : Dev) (p s : Nat) (t : Int) : Int :=
  let pf : Int := d.tsPfx p s
  if pf = 0 then 0
  else
    let k0 := (t - d.tsEpoch p s) * 2 ^ 24 / pf
    let slack : Int := if d.lf (R.tsSsc p s) F.tsSscSpread = 0 then 2 else (k0.natAbs : Int) / 64 + 4
    d.bisect p s t 96 (k0 - slack) (2 * slack.toNat)

/-- The first UI boundary of timing set `s` at or after `t`. -/
def boundAt (d : Dev) (p s t : Nat) : Nat := (d.bound p s (d.kAt p s t)).toNat

/-- The first UI boundary after `t`. -/
def boundAfter (d : Dev) (p s t : Nat) : Nat := d.boundAt p s (t + 1)

/-! ### The DDS (R209, R210) -/

/-- Rational approximation of sin on the first quadrant scaled by 2⁶⁰, by its series: `x` is the angle in units of 2⁻⁶⁰ rad. -/
def sinSeries : Nat → Nat → Int → Int → Int → Int
  | 0, _, _, _, acc => acc
  | f + 1, i, x2, term, acc =>
    let t := -(term * x2 / 2 ^ 60) / (((2 * i) * (2 * i + 1) : Nat) : Int)
    sinSeries f (i + 1) x2 t (acc + t)

/-- q(i) = round(131,071 sin(π(2i + 1) / 16,384)) (R210); π = 3,622,009,729,038,561,421 / 2⁶⁰ to 60 bits. -/
def ddsQuarter (i : Nat) : Int :=
  let x : Int := (3622009729038561421 * (2 * i + 1) : Nat) / 16384
  let s := sinSeries 14 1 (x * x / 2 ^ 60) x x
  (2 * 131071 * s + 2 ^ 60) / 2 ^ 61

/-- φ(n) for the tuning word and phase offset in force (R209). -/
def ddsPhase (d : Dev) (p : Nat) (n : Int) : Nat :=
  wrapInt 48 ((d.lwide (R.ddsFtw0 p) 2 : Int) * n + (d.lv (R.ddsPhofs p)).toNat * 2 ^ 32)

/-- s(n): 0 while `PAGE_CTRL.ENABLE` of the page is 0 (R210). -/
def ddsSample (d : Dev) (p : Nat) (n : Int) : Int :=
  if !d.rb (pctl (ppage p 6)) F.ctlEnable then 0
  else
    let φ := d.ddsPhase p n
    let a := φ / 2 ^ 46
    let i := nbits φ 45 34
    if a = 0 then ddsQuarter i else if a = 1 then ddsQuarter (4095 - i)
    else if a = 2 then -ddsQuarter i else -ddsQuarter (4095 - i)

/-- E_d in force. -/
def ddsEpoch (d : Dev) (p : Nat) : Nat := d.lwide (R.ddsEpoch0 p) 3

/-- Index of the DDS sample current at `t`. -/
def ddsIndex (d : Dev) (p t : Nat) : Int := ((t : Int) - d.ddsEpoch p) / 32768

/-- Some tone of the port is on (R270). -/
def toneOn (d : Dev) (p : Nat) : Bool :=
  (List.range 8).any (fun c => fget (d.lv (R.fchTone (8 * p + c))) F.fchToneEn == 1) ||
    (List.range 16).any (fun u => fget (d.lv (R.uchTone (16 * p + u))) F.uchToneEn == 1)

/-! ### Sinusoidal and random jitter (R211, R212) -/

/-- A_eff of a timing set (R211). -/
def sjAmp (d : Dev) (p s : Nat) : Nat :=
  let a := d.lf (R.tsSj p s) F.tsSjSjAmp
  if d.lwide (R.ddsFtw0 p) 2 ≤ 2 ^ 43 then a else min a (d.tsInt p s / 2)

/-- Division rounded to the nearest, halves away from zero. -/
def divAway (x : Int) (y : Nat) : Int :=
  if 0 ≤ x then (2 * x + y) / (2 * y) else -((-2 * x + y) / (2 * y))

/-- J_sj of the UI that starts at `b` (R211). -/
def sjTerm (d : Dev) (p s b : Nat) : Int :=
  let e := (b : Int) - d.ddsEpoch p
  let n := e / 32768
  let f := e % 32768
  let s0 := d.ddsSample p n
  let v := 32768 * s0 + (d.ddsSample p (n + 1) - s0) * f
  divAway (d.sjAmp p s * v) (131071 * 32768)

/-- One step of the 63-bit Fibonacci LFSR x⁶³ + x⁶² + 1, run as in R171: the bit fed back at bit 0 is the output. -/
def rjBit (x : Nat) : Nat × Nat :=
  let b := b2n (nbit x 62 != nbit x 61)
  (b, x * 2 % 2 ^ 63 + b)

/-- Draw `n` bits, LSB first. -/
def rjDraw : Nat → Nat → Nat → Nat × Nat
  | 0, _, x => (0, x)
  | n + 1, w, x =>
    let r := rjBit x
    let q := rjDraw n (2 * w) r.2
    (r.1 * w + q.1, q.2)

/-- Sum of `n` 16-bit draws. -/
def rjSum : Nat → Nat → Nat × Nat
  | 0, x => (0, x)
  | n + 1, x =>
    let r := rjDraw 16 1 x
    let q := rjSum n r.2
    (r.1 + q.1, q.2)

/-- J_rj of one edge, and the generator after its 192 draws (R212). -/
def rjTerm (sigma x : Nat) : Int × Nat :=
  let r := rjSum 12 x
  (divAway ((sigma : Int) * ((r.1 : Int) - 6 * 65535)) 65536, r.2)

/-- The seed loaded at port start and port reset (R212). -/
def rjSeed (d : Dev) (p n : Nat) : Nat := (d.rn (R.tsaRjSeed p) % 2 ^ 31) * 2 ^ 32 + 32 + n % 32

end Dev
end Sys2Proof.Machine
end

