-- ==== Sys2Proof/Machine/SeqCore.lean ====
section
/-! DEFINITION. A port's sequencer as the other units see it (05_vector_sequencer.md): its record, what `SEQ_STAT` and the lock
registers show of it, instruction fields and their legality, ends by STOP or by an error, and the streams' layout. -/
namespace Sys2Proof.Machine
namespace Dev

def seqOf (d : Dev) (p : Nat) : Seq := tget (fun _ => Seq.reset) d.seq p

/-- Ticks from issue to the earliest launch (R122). -/
def issueLead : Nat := 262144
/-- Ticks from a decode or decision to the earliest launch of what follows (R122). -/
def decodeLead : Nat := 327680

/-- Barges in the TX lock. -/
def txFill (s : Seq) : Nat := s.txFetched - s.txFreed

/-- The sequencer is waiting (R123), as far as its record tells between launches. -/
def seqWaiting (s : Seq) : Bool :=
  s.inWait || (match s.fe with | .moor _ _ | .event _ | .cmp _ _ _ _ | .timed => true | _ => false)

/-- Store a port's record and show it in `SEQ_STAT` and `SEQ_SFLAG`. -/
def putSeq (d : Dev) (p : Nat) (s : Seq) : Dev :=
  let d := { d with seq := tset (fun _ => Seq.reset) d.seq p s }
  let a := R.seqStat p
  let moored := match s.fe with | .moor _ _ => true | _ => false
  let deciding := match s.fe with | .cmp _ _ _ _ | .match_ _ _ => true | _ => false
  let d := (((d.wf a F.seqStatTs s.ts).wf a F.seqStatLoopDepth s.loops.length).wf a F.seqStatCallDepth s.calls.length).wf
    a F.seqStatFifo s.fifo.length
  let d := ((d.wf a F.seqStatMoored (b2n moored)).wf a F.seqStatDeciding (b2n deciding)).wf a F.seqStatWaiting
    (b2n (seqWaiting s))
  d.setN (R.seqSflag p) ((s.sflag ||| s.pulses) % 256)

/-- The state code of `SEQ_STAT`: 0 IDLE, 1 FILLING, 2 RUNNING, 3 HALTED, 4 FAULTED. -/
def seqState (d : Dev) (p : Nat) : Nat := d.rf (R.seqStat p) F.seqStatState
def setSeqState (d : Dev) (p v : Nat) : Dev := d.wf (R.seqStat p) F.seqStatState v

/-- The front end's program counter. -/
def pc (d : Dev) (p : Nat) : Nat := d.rn (R.seqPc p)
def setPc (d : Dev) (p v : Nat) : Dev := d.setN (R.seqPc p) (v % 16384)

/-! ### Instructions (R132, R134) -/

/-- Instruction `k` of a port's program bank, 128 bits (R132). -/
def instrAt (d : Dev) (p k : Nat) : Nat := mnat d.sram (p * 0x200000 + 0x180000 + 16 * (k % 16384)) 16

def I.op (w : Nat) : Nat := nbits w 127 124
def I.moor (w : Nat) : Bool := nbit w 123
def I.mark (w : Nat) : Option Nat := if nbit w 122 then some (nbits w 121 119) else none
def I.flow (w : Nat) : Nat := nbits w 118 116
def I.wsm (w : Nat) : Nat := nbits w 115 112
def I.cond (w : Nat) : Nat := nbits w 111 108
def I.pad (w : Nat) : Nat := nbits w 107 106
def I.src (w : Nat) : Nat := nbits w 105 104
def I.rxrec (w : Nat) : Bool := nbit w 103
def I.csel (w : Nat) : Nat := nbits w 102 101
def I.bit100 (w : Nat) : Bool := nbit w 100
def I.apc (w : Nat) : Nat := nbits w 99 96
def I.count (w : Nat) : Nat := nbits w 95 64
def I.target (w : Nat) : Nat := nbits w 61 48
def I.limit (w : Nat) : Nat := nbits w 47 32
def I.raddr (w : Nat) : Nat := nbits w 17 0
def I.timeout (w : Nat) : Nat := nbits w 31 0
def I.setMode (w : Nat) : Nat := nbits w 111 110
def I.ltgt (w : Nat) : Nat := nbits w 109 104
def I.addr (w : Nat) : Nat := nbits w 101 80
def I.offset (w : Nat) : Nat := nbits w 79 32
def I.data (w : Nat) : Nat := nbits w 31 0
def I.time (w : Nat) : Nat := nbits w 79 0
def I.period (w : Nat) : Nat := nbits w 95 48
def I.phase (w : Nat) : Nat := nbits w 47 0

/-- Bits [hi:lo] as a mask. -/
def bits (hi lo : Nat) : Nat := 2 ^ (hi + 1) - 2 ^ lo

/-- The bits that an instruction's opcode uses (Tables 5-4 and 5-5); every other bit is reserved. -/
def I.used (w : Nat) : Nat :=
  let op := I.op w
  let jif := I.flow w = 2
  let jmp := I.flow w = 1 ∨ I.flow w = 2 ∨ I.flow w = 3
  let c := bits 111 106 + bits 102 101
  let iss := bits 127 112 + bits 95 64 + (if jif then c else 0) + (if jmp then bits 61 48 else 0)
  if op = 1 then iss + bits 105 103 + (if I.src w = 0 then bits 17 0 else 0)
  else if op = 2 then iss + bits 103 103 + bits 100 96
  else if op = 3 then iss
  else if op = 4 then bits 127 124 + bits 102 100 + bits 95 64 + bits 61 48
  else if op = 6 ∨ op = 8 then bits 127 124 + bits 61 48
  else if op = 9 then bits 127 124 + c + bits 61 48
  else if op = 10 then bits 127 119 + bits 115 106 + bits 95 64 + bits 61 32 + bits 17 0
  else if op = 11 then bits 127 124 + bits 111 111 + bits 107 106 + bits 79 0
  else if op = 12 then bits 127 124 + bits 111 106 + bits 100 100 + bits 61 48 + bits 31 0
  else if op = 13 then bits 127 124 + bits 111 104 + bits 101 82 + bits 79 0
  else if op = 14 then bits 127 124 + bits 107 106 + bits 95 0
  else bits 127 124

/-- The port's own 16 pages and its own `FCH` and `UCH` pages (R134). -/
def ownPage (p page : Nat) : Bool :=
  (decide (0x100 + 0x40 * p ≤ page) && decide (page < 0x110 + 0x40 * p)) ||
  (decide (0x200 + 8 * p ≤ page) && decide (page < 0x208 + 8 * p)) ||
  (decide (0x240 + 16 * p ≤ page) && decide (page < 0x250 + 16 * p))

/-- A legal instruction of port `p` (R134). -/
def I.legal (p w : Nat) : Bool :=
  let op := I.op w
  let iss := op = 1 ∨ op = 2 ∨ op = 3
  let usesCond := op = 9 ∨ op = 10 ∨ (iss ∧ I.flow w = 2)
  let usesPad := usesCond ∨ op = 11 ∨ op = 12 ∨ op = 14
  decide (op ≠ 0) && decide (w &&& I.used w = w) &&
    !(decide iss && decide (6 ≤ I.flow w)) &&
    !(decide usesCond && decide (8 ≤ I.cond w)) &&
    !(decide (op = 10) && (decide (2 ≤ I.cond w) || decide (262144 < I.raddr w + I.count w))) &&
    !(decide usesPad && decide (2 ≤ I.pad w)) &&
    !(decide (op = 1) && (decide (2 ≤ I.src w) || (decide (I.src w = 0) && decide (262144 < I.raddr w + I.count w)))) &&
    !(decide (op = 12) && decide (9 ≤ I.cond w)) &&
    !(decide (op = 14) && (decide (I.period w = 0) || decide (I.period w ≤ I.phase w))) &&
    !(decide (op = 13) &&
      (decide (I.setMode w = 3) || (decide (I.setMode w ≠ 0) && decide (I.ltgt w ≠ 0)) || decide (0xE ≤ I.ltgt w) ||
        (decide (I.setMode w = 0) && decide (I.addr w ≠ 0)) || (decide (I.setMode w ≠ 2) && decide (I.offset w ≠ 0)) ||
        (decide (I.setMode w ≠ 0) && !ownPage p (I.addr w / 0x1000))))

/-! ### Ends (R157, R158) -/

/-- c_s is fixed at a wait or HALT once nothing is left to issue before it (R124). -/
def fixCs (s : Seq) : Seq :=
  match s.cs, s.csWait with
  | none, some e => if s.segs.isEmpty then { s with cs := some (if 0 < s.beats then s.issuedAt else e + sqclk) } else s
  | _, _ => s

/-- Renumber a stream at the end of a segment of `n` UIs. -/
def streamShift (n : Nat) (s : ApgStream) : ApgStream :=
  { s with lanes := s.lanes.map (fun l => (l.1, (l.2.filter (fun e => decide (n ≤ e.ui))).map (fun e => { e with ui := e.ui - n }))),
           ends := s.ends.map (fun e => (e.1, e.2 - n)), filled := s.filled - n, curUi := s.curUi - n }

/-- The APG segment in progress ends here: what it has produced and not issued stays queued (R165). -/
def apgCut (d : Dev) (p : Nat) : Dev :=
  let a := tget (fun _ => Apg.reset) d.apg p
  if a.seg.isNone then d
  else
    let x := { a with seg := none, tx := streamShift a.out a.tx, cmp := streamShift a.out a.cmp, out := 0, marks := [] }
    { d with apg := tset (fun _ => Apg.reset) d.apg p x }.wf (R.apgStat p) F.apgStatState (if a.ended.isSome then 3 else 2)

/-- The front end stops with an error: the record is written, and the GTC follows when the first vector is missing (R158).
`keepSegs`: what earlier instructions queued still issues.  `em`: the first missing vector could launch no earlier (R122).  Where nothing was issued before it, the run's first UI follows the error as
it follows HALT (R124). -/
def seqFault (d : Dev) (p cause pcv vofs : Nat) (keepSegs : Bool) (em : Nat) : Dev :=
  if d.seqState p = 0 ∨ 4 ≤ d.seqState p then d
  else
    let d := if keepSegs then d else d.apgCut p
    let s := d.seqOf p
    let e := if keepSegs then s.decoded else s.decoded + sqclk
    let cw := if s.cs.isNone && s.csWait.isNone then some e else s.csWait
    let s := fixCs { s with fe := .off, segs := if keepSegs then s.segs else [], idleOnly := true, errPend := true, errMin := em, csWait := cw }
    let d := (d.putSeq p s).setSeqState p 4
    let d := d.set (R.seqErr p) (fset (fset 0 F.seqErrCause cause) F.seqErrPc pcv)
    d.setN (R.seqErrVofs p) vofs

/-- Clear the error record (R158). -/
def seqErrClear (d : Dev) (p : Nat) : Dev :=
  let d := (d.setN (R.seqErr p) 0).setN (R.seqErrVofs p) 0
  d.setWide (R.seqErrGtc0 p) 3 0

/-- Show the lock fills (`LKS_TX_FILL`, `LKS_RX_FILL`): the lowest values count from the first launch of the run (R152). -/
def lksShow (d : Dev) (p : Nat) : Dev :=
  let s := d.seqOf p
  let fill := txFill s
  let d := d.wf (R.lksTxFill p) F.lksTxFillFill fill
  let d := if s.tref && decide (fill < d.rf (R.lksTxFill p) F.lksTxFillLowest) then
      d.wf (R.lksTxFill p) F.lksTxFillLowest fill else d
  if s.tref && decide (fill < d.rf (R.lksTxWeir p) F.lksTxWeirL) && !s.txLow then d.putSeq p { s with txLow := true } else d

/-- STOP at time `t` (R157): the front end and issue stage end at once, launch ends 262,144 ticks later, the locks are emptied, and the state
is IDLE.  The admission is returned by the caller. -/
def seqHalt (d : Dev) (p t : Nat) : Dev :=
  if d.seqState p = 0 then d
  else
    let d := d.apgCut p
    let s := d.seqOf p
    let s := { s with fe := .off, segs := [], nb := [], sync := [], sets := [], tx := Walk.reset,
                      txSpans := [], txFetched := 0, txFreed := 0, poison := [], rx := Walk.reset, txLow := false, rxLow := false, rxDead := false, idleOnly := true,
                      stopAt := if s.tref then some (t + issueLead) else none, inWait := s.inWait && s.tref,
                      fifo := if s.tref then s.fifo else [] }
    let d := (d.putSeq p s).setSeqState p 0
    ((d.wf (R.lksTxFill p) F.lksTxFillFill 0).wf (R.lksRxFill p) F.lksRxFillFree 128).wf (R.ddsStat p) F.ddsStatSjLimited 0

/-! ### Stream layout (R155) -/

/-- The format of a stream: channel mask, bits per UI, utility track, and K. -/
structure Fmt where
  chmask : Nat
  bpu : Nat
  utrack : Bool
  k : Nat

def txFmt (d : Dev) (p : Nat) : Fmt :=
  ⟨d.rf (R.lksTxFmt p) F.lksTxFmtChmask, d.rf (R.lksTxFmt p) F.lksTxFmtBpu + 1, d.rb (R.lksTxFmt p) F.lksTxFmtUtrack,
   d.rn (R.seqUdiv p)⟩
def rxFmt (d : Dev) (p : Nat) : Fmt :=
  ⟨d.rf (R.lksRxFmt p) F.lksRxFmtChmask, d.rf (R.lksRxFmt p) F.lksRxFmtBpu + 1, d.rb (R.lksRxFmt p) F.lksRxFmtUtrack,
   d.rn (R.seqUdiv p)⟩

/-- n_fc. -/
def Fmt.nfc (f : Fmt) : Nat := popCount 8 f.chmask
/-- UIs per unit. -/
def Fmt.ui (f : Fmt) : Nat := 512 / f.bpu
/-- Utility units before round `r`. -/
def Fmt.uu (f : Fmt) (r : Nat) : Nat := if f.utrack then ceilDiv (r * f.ui) (32 * f.k) else 0
/-- Byte offset of round `r`. -/
def Fmt.off (f : Fmt) (r : Nat) : Nat := 64 * (r * f.nfc + f.uu r)
/-- Bit position in the stream of channel `c`'s UI of vector `n`. -/
def Fmt.fastBit (f : Fmt) (n c : Nat) : Nat :=
  let r := n / f.ui
  8 * (f.off r + 64 * ((f.uu (r + 1) - f.uu r) + popCount c f.chmask)) + n % f.ui * f.bpu
/-- Bit position of the utility entry of vector `n`. -/
def Fmt.utilBit (f : Fmt) (n : Nat) : Nat :=
  let j := n / (32 * f.k)
  let r := 32 * f.k * j / f.ui
  8 * (f.off r + 64 * (j - f.uu r)) + n / f.k % 32 * 16
/-- The format carries nothing. -/
def Fmt.empty (f : Fmt) : Bool := f.chmask == 0 && !f.utrack

/-! ### On-chip areas of a port's locks (Table 15-2) -/

def txSlot (p f : Nat) : Nat := p * 0x200000 + 0x100000 + f % 128 * 2048
def rxSlot (p f : Nat) : Nat := p * 0x200000 + 0x140000 + f % 128 * 2048

end Dev
end Sys2Proof.Machine
end

