-- ==== Sys2Proof/Machine/Cores.lean ====
section
/-! DEFINITION. What a reaction can do to a port (R438, Table 16-7), without the events that follow: stop its sequencer (R157) and
return its admission (R400), force its channels into safe state (R247), and freeze its acquisition and fail processing (R304, R322). -/
namespace Sys2Proof.Machine
namespace Dev

/-! ### Stop -/

/-- Return the admission of a port (R400). -/
def qosReturn (d : Dev) (p : Nat) : Dev :=
  let a := d.rf (R.qosAdm p) F.qosAdmRx + d.rf (R.qosAdm p) F.qosAdmTx
  let d := d.setN (R.qosAdm p) 0
  if d.rf R.mcgMap F.mcgMapIlv = 2 then
    (d.setN (R.qosChUsed p) (d.rn (R.qosChUsed p) - a)).setN R.qosUsed (d.rn R.qosUsed - a)
  else d.setN R.qosUsed (d.rn R.qosUsed - a)

/-- Enabled fast channels of a port. -/
def enabledFc (d : Dev) (p : Nat) : Nat :=
  ((List.range 8).filter (fun c => d.rb (pctl (0x200 + 8 * p + c)) F.ctlEnable)).length

/-- The aggregate symbol rate of some ports exceeds 409.6 GBd (R31): Σ n / P > 1 / 128, with P in ticks. -/
def overCap (d : Dev) (ports : List Nat) : Bool :=
  let per := fun p => d.tsPfx p (if d.seqState p < 2 then d.rf (R.seqCtrl p) F.seqCtrlStartTs else (d.seqOf p).ts)
  let prod := ports.foldl (fun x p => x * per p) 1
  let sum := ports.foldl (fun x p => x + d.enabledFc p * 2 ^ 31 * (prod / per p)) 0
  decide (prod < sum)

/-- `CAP_OVER` falls where the running aggregate is no longer above the cap (R32, R33). -/
def capFall (d : Dev) : Dev :=
  if d.rb R.glbProfile F.glbProfileCapOver && !d.overCap ([0, 1, 2, 3].filter d.running) then d.wf R.glbProfile F.glbProfileCapOver 0 else d

/-- The sequencer stops at time `t` as if `SEQ_CTRL.STOP` were written then (R157). -/
def seqStopAt (d : Dev) (p t : Nat) : Dev :=
  if d.seqState p = 0 then d else ((d.seqHalt p t).qosReturn p).capFall

/-- The sequencer stops now. -/
def seqStop (d : Dev) (p : Nat) : Dev := d.seqStopAt p d.now

/-! ### Channels -/

/-- Fast channel `n`, or utility channel `m` at 32 + m. -/
def chan (d : Dev) (i : Nat) : Chan := tget (fun _ => Chan.reset) d.chans i
def putChan (d : Dev) (i : Nat) (c : Chan) : Dev := { d with chans := tset (fun _ => Chan.reset) d.chans i c }

def lvl (d : Dev) (i : Nat) : Lvl := tget (fun _ => Lvl.reset) d.lvls i
def putLvl (d : Dev) (i : Nat) (l : Lvl) : Dev := { d with lvls := tset (fun _ => Lvl.reset) d.lvls i l }

/-- Page of channel `i`. -/
def chPage (i : Nat) : Nat := if i < 32 then 0x200 + i else 0x240 + (i - 32)

/-- Numbers of a port's channels. -/
def portChans (p : Nat) : List Nat := (List.range 8).map (8 * p + ·) ++ (List.range 16).map (32 + 16 * p + ·)

/-- READY falls: no compliance fault is in progress any more (R231), and an eye scan pauses (R294). -/
def readyFall (d : Dev) (i : Nat) : Dev :=
  if i < 32 then
    let d := (d.wf (R.fchDrvStat i) F.fchDrvStatReady 0).wf (R.fchDrvStat i) F.fchDrvStatCmplLive 0
    let d := if d.rf (R.fchEyeStat i) F.fchEyeStatState = 1 then d.wf (R.fchEyeStat i) F.fchEyeStatState 2 else d
    (d.condSet (Ev.drvCompliance i) false).1
  else d.wf (R.uchDrvStat (i - 32)) F.uchDrvStatReady 0

/-- The PMU's output switch opens and its detector is idle (R259). -/
def pmuOff (d : Dev) (m : Nat) : Dev :=
  let d := ((d.wf (R.uchPmuStat m) F.uchPmuStatOn 0).wf (R.uchPmuStat m) F.uchPmuStatComplLive 0).wf
    (R.uchPmuStat m) F.uchPmuStatOpenLive 0
  let d := (d.condSet (Ev.pmuCompliance m) false).1
  let d := (d.condSet (Ev.pmuOpen m) false).1
  d.putLvl (32 + m) { d.lvl (32 + m) with closeAt := none }

/-- One channel enters safe state: at the end of Table 8-12 (R247). -/
def safeChan (d : Dev) (i : Nat) : Dev :=
  let d := d.wf (pctl (chPage i)) F.ctlEnable 0
  let d := d.readyFall i
  let d := if i < 32 then
      ((d.wf (R.fchDrvStat i) F.fchDrvStatSafe 1).wf (R.fchDrvStat i) F.fchDrvStatHsOn 0).wf (R.fchDrvStat i) F.fchDrvStatLpOn 0
    else (d.wf (R.uchDrvStat (i - 32)) F.uchDrvStatSafe 1).pmuOff (i - 32)
  d.putChan i { d.chan i with phase := 4, offAt := none, driven := false, on := false, edges := [], stbs := [] }

/-- Every channel of a port enters safe state (R247). -/
def safeState (d : Dev) (p : Nat) : Dev := ((portChans p).foldl safeChan d).capFall

/-! ### Acquisition (R309, R310, R319 to R322, R325) -/

def acqOf (d : Dev) (p : Nat) : Acq := tget (fun _ => Acq.reset) d.acq p
def putAcq (d : Dev) (p : Nat) (a : Acq) : Dev := { d with acq := tset (fun _ => Acq.reset) d.acq p a }

/-- State code of Table 11-3. -/
def acqState (d : Dev) (p : Nat) : Nat := d.rf (R.acqStat p) F.acqStatState
def setAcqState (d : Dev) (p v : Nat) : Dev := d.wf (R.acqStat p) F.acqStatState v

/-- U, Rb and Ls (R309). -/
def acqU (d : Dev) (p : Nat) : Nat := (d.rxFmt p).ui
def acqRb (d : Dev) (p : Nat) : Nat :=
  let f := d.rxFmt p
  64 * (f.nfc + (if f.utrack then f.ui / (32 * f.k) else 0))
def acqLs (d : Dev) (p : Nat) : Nat := ceilDiv (d.rn (R.acqPre p) + d.rn (R.acqPost p) + 1) (d.acqU p) + 1

/-- DRAM address of run round `r` in the slot of record `k`. -/
def acqRoundAddr (d : Dev) (p k r : Nat) : Nat :=
  d.wide (R.acqBaseLo p) 2 + k % (max 1 (d.rn (R.acqNslot p))) * (d.acqLs p * d.acqRb p) + r % d.acqLs p * d.acqRb p
/-- DRAM address of the descriptor of record `k`. -/
def acqDescAddr (d : Dev) (p k : Nat) : Nat := d.wide (R.acqDescBaseLo p) 2 + 64 * (k % (max 1 (d.rn (R.acqNslot p))))

/-- The words of a record's descriptor (Table 11-4); DERR is added as it is written. -/
def recWords (r : AcqRec) (k e : Nat) (trunc : Bool) : List Nat :=
  [2 ^ 31 + b2n r.preShort * 2 ^ 30 + b2n trunc * 2 ^ 29 + b2n r.maskStop * 2 ^ 28 + b2n (!r.prog) * 2 ^ 27 +
      b2n r.forced * 2 ^ 26 + r.mask * 2 ^ 16 + r.st * 2 ^ 14 + r.nextra * 2 ^ 12 + r.cause * 2 ^ 8,
    k % 2 ^ 32, r.preAvail, e - r.nT, r.nT % 2 ^ 32, r.nT / 2 ^ 32, r.tT % 2 ^ 32, r.tT / 2 ^ 32 % 2 ^ 32,
    r.tStart / 2 ^ 64 % 2 ^ 16 * 2 ^ 16 + r.tT / 2 ^ 64 % 2 ^ 16, r.tStart % 2 ^ 32, r.tStart / 2 ^ 32 % 2 ^ 32, r.frac, r.extra1,
    r.extra2, if r.prog then r.ts * 2 ^ 28 + r.pc else 0, if r.prog then r.ofs else 0]

/-- First undecided sample n_f. -/
def firstUndecided (d : Dev) (p : Nat) : Nat := match (d.acqOf p).smps with | x :: _ => x.n | [] => (d.seqOf p).n

/-- A record closes at sample `e` (R310, R320): the rounds up to that of `e` that decisions have not queued yet, and its descriptor,
wait to be written. -/
def closeOut (d : Dev) (p : Nat) (r : AcqRec) (e : Nat) (trunc : Bool) : Dev :=
  let a := d.acqOf p
  let rnd := e / d.acqU p
  let first := d.firstUndecided p / d.acqU p
  let rounds := (List.range (rnd + 1 - first)).map (fun i => AcqOut.round (first + i) (d.acqRoundAddr p a.k (first + i)))
  let out := a.out ++ rounds ++ [AcqOut.desc (d.acqDescAddr p a.k) (recWords r a.k e trunc)]
  d.putAcq p { a with open_ := none, out := out, closed := a.closed + 1, k := a.k + 1, force := none, mask := none,
                      na := d.acqU p * (rnd + 1) }

/-- The state that follows a closed record: DONE after `ACQ_NREC` records or a mask stop, else REARM (R320, R330). -/
def afterClose (d : Dev) (p : Nat) (maskStop : Bool) : Nat :=
  if maskStop || (!d.rb (R.acqCfg p) F.acqCfgRing && decide (d.rn (R.acqNrec p) ≤ (d.acqOf p).closed)) then 6 else 3

/-- Launch time of sample `n` among the recent ones. -/
def startOf (a : Acq) (n : Nat) : Nat := ((a.starts.find? (fun x => x.1 == n)).map Prod.snd).getD 0

/-- The acquisition engine is frozen (R322). -/
def acqFreeze (d : Dev) (p : Nat) : Dev :=
  let d := d.wf (pctl (ppage p 8)) F.ctlFreeze 1
  let st := d.acqState p
  let a := d.acqOf p
  let nf := d.firstUndecided p
  if st = 2 then
    match a.open_ with
    | some r => (d.closeOut p r (max r.nT (nf - 1)) true).setAcqState p 5
    | none => d.setAcqState p 5
  else if st = 1 then
    let d := match a.last with
      | some x =>
        if nf ≤ a.na ∨ x.n + 1 ≠ nf then d
        else
          let pre := min (d.rn (R.acqPre p)) (x.n - a.na)
          let r : AcqRec :=
            { nT := x.n, mask := 0, cause := 0xB, st := a.st, forced := false, preAvail := pre, preShort := decide (pre < d.rn (R.acqPre p)),
              maskStop := false, tT := x.t, tStart := startOf a (x.n - pre), prog := x.prog, ts := x.ts, pc := x.pc, ofs := x.ofs,
              frac := 0, extra1 := 0, extra2 := 0, nextra := 0 }
          d.closeOut p r x.n false
      | none => d
    (d.putAcq p { d.acqOf p with armAt := none }).setAcqState p 5
  else if st = 3 ∨ st = 4 then d.setAcqState p 5
  else d

/-- The fail processor is frozen (R304). -/
def flpFreeze (d : Dev) (p : Nat) : Dev := (d.wf (pctl (ppage p 0xA)) F.ctlFreeze 1).wf (R.flpStat p) F.flpStatFrozen 1

end Dev
end Sys2Proof.Machine
end

