-- ==== Sys2Proof/Machine/Reactions.lean ====
section
/-! DEFINITION. Occurrences with their reactions (R438, R439): `raise` is what every chapter calls when its rule raises an event. -/
namespace Sys2Proof.Machine
namespace Dev

/-- The reactions of one occurrence act on port `p` (Table 16-7). -/
def reactOn (d : Dev) (bits p : Nat) : Dev :=
  let d := if nbit bits 0 then d.seqStop p else d
  let d := if nbit bits 1 then d.safeState p else d
  if nbit bits 2 then (d.acqFreeze p).flpFreeze p else d

/-- What begins at t₀, the HCLK edge after the present cycle (R438). -/
def atNextEdge (f : Dev → Dev) (d : Dev) : Dev :=
  { f { d with gtc := BitVec.ofNat _ (d.edgeAt hclk (d.now + 1)) } with gtc := d.gtc }

/-- Occurrences nested `f` deep: a reaction raises PORT_REACT of each port it acts on, which may escalate to FATAL itself.  A source
occurs once per HCLK cycle, so two levels below the first hold every case. -/
def raiseF : Nat → Nat → Dev → Dev
  | 0, s, d => (d.occurBook s).1
  | f + 1, s, d =>
    let r := d.occurBook s
    r.2.foldl (fun d re =>
      if re.1 = 0 then d
      else atNextEdge (fun d =>
        re.2.foldl (fun d p => if d.offline true (ppage p 0) then d else raiseF f (Ev.portReact p) (d.reactOn re.1 p)) d) d) r.1

/-- The block reports a pulse condition of source `s` (R433). -/
def raise (d : Dev) (s : Nat) : Dev := raiseF 2 s d

/-- The block reports that a level condition is now `b`. -/
def setCond (d : Dev) (s : Nat) (b : Bool) : Dev :=
  let r := d.condSet s b
  if r.2 then r.1.raise s else r.1

end Dev
end Sys2Proof.Machine
end

