-- ==== Sys2Proof/Machine/DramData.lean ====
section
/-! DEFINITION. Reads and writes of device DRAM as requesters see them (13_dram_controller.md): the error log, the poison lists and
the uninitialised blocks of LAZY (R368, R370, R376, R387). -/
namespace Sys2Proof.Machine
namespace Dev

/-- Words of an error-log record (Table 13-3). -/
def elogWords (d : Dev) (ty cls req devs nsym a seq : Nat) : List Nat :=
  let x := match d.mcPlace a with | some (_, x) => x | none => ⟨0, 0, 0, 0, 0, 0⟩
  let g := d.now / 32768 * 32768
  [ty * 2 ^ 28 + cls % 16 * 2 ^ 24 + req % 256 * 2 ^ 16 + devs % 32 * 2 ^ 11 + nsym % 32 * 64 + x.sc * 32 + x.rank * 16,
   x.bg * 2 ^ 29 + x.ba * 2 ^ 27 + x.row * 2 ^ 10 + x.col * 16,
   a / 64 * 64 % 2 ^ 32, a / 2 ^ 32 % 64, g % 2 ^ 32, g / 2 ^ 32 % 2 ^ 32, g / 2 ^ 64 % 2 ^ 16, seq]

/-- Write a record to the error log of channel `c`; a full log loses it (R370). -/
def elogPut (d : Dev) (c ty cls req devs nsym a : Nat) : Dev :=
  let m := d.mcOf c
  let full := 16 ≤ m.elog.length
  let ws := d.elogWords ty cls req devs nsym a m.elogSeq
  let d := d.putMc c { m with elog := if full then m.elog else m.elog ++ [ws], elogSeq := (m.elogSeq + 1) % 2 ^ 32 }
  let d := d.wf (R.mcElogStat c) F.mcElogStatHeld (d.mcOf c).elog.length
  if full then (d.cnt (R.mcElogStat c) F.mcElogStatLost 1).raise (Ev.mcElogLost c) else d

/-- Show the fill of the poison list. -/
def poisonShow (d : Dev) (c : Nat) : Dev := d.wf (R.mcStat c) F.mcStatPoisoned (d.mcOf c).poison.length

/-- A line enters the poison list, or is lost to a full one (R368). -/
def poisonAdd (d : Dev) (c line : Nat) : Dev :=
  let m := d.mcOf c
  if m.poison.contains line then d
  else if 16 ≤ m.poison.length then d.raise (Ev.mcPoisonFull c)
  else (d.putMc c { m with poison := m.poison ++ [line] }).poisonShow c

/-- Channel of a listed line. -/
def poisonOf (d : Dev) (line : Nat) : Option Nat := [0, 1, 2, 3].find? (fun c => (d.mcOf c).poison.contains line)

/-- A listed line is read: uncorrectable without an access (R368). -/
def poisonRead (d : Dev) (c cls req line : Nat) : Dev :=
  ((d.cnt (R.mcEccCnt c) F.mcEccCntUncorr 1).elogPut c 3 cls req 0 0 line).raise (Ev.mcEccUncorr c)

/-- Lines that a range of bytes touches. -/
def lineCount (a n : Nat) : Nat := if n = 0 then 0 else (a + n - 1) / 64 - a / 64 + 1

/-- A block is initialised (R387). -/
def blockInit (d : Dev) (c blk : Nat) : Bool :=
  !d.mcLazy || decide (blk < d.dramc.sweep) || tget (fun _ => false) d.dramc.blocks (c * 2 ^ 32 + blk)

/-- Some byte of the range lies in an uninitialised block: status NOINIT (R387). -/
def dramNoinit (d : Dev) (a n : Nat) : Bool :=
  d.mcLazy && (List.range (n / 256 + 2)).any (fun i =>
    let b := a / 256 * 256 + 256 * i
    decide (b < a + n) && (match d.mcAddr b with | some (c, ca) => !d.blockInit c (ca / 4096) | none => false))

/-- The first write to a block initialises it (R387). -/
def blockMark (d : Dev) (a n : Nat) : Dev :=
  if !d.mcLazy then d
  else (List.range (n / 256 + 2)).foldl (fun (d : Dev) i =>
    let b := a / 256 * 256 + 256 * i
    match d.mcAddr b with
    | some (c, ca) =>
      if b < a + n ∧ !d.blockInit c (ca / 4096) then
        { d with dramc := { d.dramc with blocks := tset (fun _ => false) d.dramc.blocks (c * 2 ^ 32 + ca / 4096) true } }
      else d
    | none => d) d

/-- Full-line writes take their lines off the poison list (R368). -/
def dramFull (d : Dev) (a : Nat) (bs : List Byte) : Dev :=
  let n := bs.length
  let d := { d.blockMark a n with dram := mwrite d.dram a bs }
  [0, 1, 2, 3].foldl (fun (d : Dev) c =>
    let m := d.mcOf c
    let keep := m.poison.filter (fun l => !(decide (a ≤ l) && decide (l < a + n)))
    if keep.length = m.poison.length then d else (d.putMc c { m with poison := keep }).poisonShow c) d

/-- A write within one line: merged with it, unless its merge read is uncorrectable (Table 13-2, R376). -/
def dramPart (d : Dev) (cls req a : Nat) (bs : List Byte) : Dev :=
  if bs.isEmpty then d
  else match d.poisonOf (a / 64 * 64) with
    | some c => d.poisonRead c cls req (a / 64 * 64)
    | none => { d.blockMark a bs.length with dram := mwrite d.dram a bs }

/-- Write device DRAM for a requester: full lines, and the parts of lines at both ends. -/
def dramWrite (d : Dev) (cls req a : Nat) (bs : List Byte) : Dev :=
  let n := bs.length
  let h := if a % 64 = 0 then 0 else min n (64 - a % 64)
  let m := (n - h) / 64 * 64
  let d := d.dramPart cls req a (bs.take h)
  let d := if m = 0 then d else d.dramFull (a + h) ((bs.drop h).take m)
  d.dramPart cls req (a + h + m) (bs.drop (h + m))

/-- Read device DRAM for a requester: listed lines answer as uncorrectable; whether one did, and the bytes. -/
def dramRead (d : Dev) (cls req a n : Nat) : Dev × Bool × List Byte :=
  let ls := (List.range (lineCount a n)).map (fun i => (a / 64 + i) * 64)
  let r := ls.foldl (fun (x : Dev × Bool) l =>
    match x.1.poisonOf l with
    | some c => (x.1.poisonRead c cls req l, true)
    | none => x) (d, false)
  (r.1, r.2, mread d.dram a n)

end Dev
end Sys2Proof.Machine
end

