-- ==== Sys2Proof/Machine/TimeBase.lean ====
section
/-! DEFINITION. Time base, clocks and the towpath (03_time_base_and_clocks.md): references and root PLL, the GTC and its steps,
the SYNC links, and the timed-command queue. -/
namespace Sys2Proof.Machine
namespace Dev

/-! ### References and the root PLL (R65 to R68) -/

/-- The valid bit of reference `r` (0 REFCLK, 1 REFCLK2). -/
def F.refOk (r : Nat) : Fld := ⟨8 + r, 8 + r⟩

def refOk (d : Dev) (r : Nat) : Bool := d.rb R.clkRef (F.refOk r)

/-- Take reference `r` as the active one (R66): a change of reference is counted. -/
def useRef (d : Dev) (r : Nat) : Dev :=
  let d := if d.clk.lastRef = r + 1 then d else d.cnt R.clkStat F.clkStatSwitchCnt 1
  let d := d.wf R.clkRef F.clkRefActive (r + 1)
  { d with clk := { lastRef := r + 1, selWait := d.clk.selWait && (d.rf R.clkRef F.clkRefSel != r) } }

/-- The level condition of a reference's loss event holds after start-up step ROOT (Table 16-6). -/
def refLossCond (d : Dev) (r : Nat) : Dev :=
  d.setCond (Ev.refclkLoss + r) (decide (2 ≤ d.boot.done) && !d.refOk r)

/-- A reference is lost (R65, R67). -/
def refLost (d : Dev) (r : Nat) : Dev :=
  if !d.refOk r then d else
  let d := d.wf R.clkRef (F.refOk r) 0
  let d := d.refLossCond r
  if d.rf R.clkRef F.clkRefActive = r + 1 then
    if d.rb R.clkRef F.clkRefFailover && d.refOk (1 - r) then (d.useRef (1 - r)).raise Ev.refSwitch
    else
      let d := d.wf R.clkRef F.clkRefActive 0
      if d.rb R.clkStat F.clkStatRootLock then (d.wf R.clkStat F.clkStatHoldover 1).setCond Ev.rootHoldover true else d
  else d

/-- A valid reference returns (R66, R67): holdover ends, or a stored `SEL` takes effect. -/
def refReturn (d : Dev) (r : Nat) : Dev :=
  if d.refOk r then d else
  let d := d.wf R.clkRef (F.refOk r) 1
  let d := d.refLossCond r
  if d.rb R.clkStat F.clkStatHoldover then
    ((d.wf R.clkStat F.clkStatHoldover 0).useRef r).setCond Ev.rootHoldover false
  else if d.clk.selWait && decide (d.rf R.clkRef F.clkRefSel = r) && decide (d.rf R.clkRef F.clkRefActive ≠ 0) then d.useRef r
  else d

/-- What a write of `CLK_REF` that changed `SEL` does (R66 and the field's text). -/
def refSelect (d : Dev) (old : Word) : Dev :=
  let sel := d.rf R.clkRef F.clkRefSel
  if fget old F.clkRefSel = sel then d
  else if d.refOk sel then
    if d.rf R.clkRef F.clkRefActive = sel + 1 ∨ d.rf R.clkRef F.clkRefActive = 0 then { d with clk := { d.clk with selWait := false } }
    else d.useRef sel
  else { d with clk := { d.clk with selWait := true } }

/-- The root PLL loses lock: FATAL (R68).  The GTC keeps counting. -/
def pllLost (d : Dev) : Dev :=
  if !d.rb R.clkStat F.clkStatRootLock then d
  else
    let d := d.wf R.clkStat F.clkStatRootLock 0
    let d := (d.wf R.clkStat F.clkStatHoldover 0).setCond Ev.rootHoldover false
    d.setCond Ev.rootUnlock true

/-! ### The GTC (R72 to R75) -/

/-- Advance the GTC by `n` ticks while it counts (R72). -/
def advance (d : Dev) (n : Nat) : Dev := if d.counting then { d with gtc := d.gtc + BitVec.ofNat 80 n } else d

/-- Add a signed step to the GTC and, modulo 524,288, to `GTC_PHASE`; every commit raises SYNC_STEP (R73). -/
def gtcStep (d : Dev) (v : Nat) : Dev :=
  let d := { d with gtc := d.gtc + BitVec.ofNat 80 v }
  let d := d.setN R.gtcPhase ((d.rn R.gtcPhase + v) % 524288)
  d.raise Ev.syncStep

/-- The towpath check: a replica that disagrees raises TOWPATH_MISMATCH (R75). -/
def towpath (d : Dev) (agree : Bool) : Dev := if agree || !d.counting then d else d.raise Ev.towpathMismatch

/-! ### SYNC links (R80 to R84) -/

/-- Ticks between pulses: `SYNC_PERIOD` × 65,536 (R80). -/
def syncTicks (d : Dev) : Nat := d.rn R.syncPeriod * 65536

/-- Mean of errors, to the nearest with halves away from zero (R81). -/
def meanErr (es : List Int) : Int :=
  let n : Int := es.length
  let s : Int := es.foldl (· + ·) 0
  if n = 0 then 0 else if 0 ≤ s then (2 * s + n) / (2 * n) else -((-2 * s + n) / (2 * n))

/-- Saturate to 32 bits signed (R81). -/
def sat32s (x : Int) : Int := max (-(2 ^ 31 : Int)) (min (2 ^ 31 - 1) x)

/-- A legal write of `SYNC_CTRL` (R80, R83): RELAY excludes `OUT_ARM`; arming needs `SYNC_OUT_AT` at least 1 µs ahead. -/
def syncLegal (d : Dev) (w : Word) : Bool :=
  let arm := fget w F.syncCtrlOutArm = 1
  !(decide arm && decide (fget w F.syncCtrlInMode = 3)) &&
    !(decide arm && decide (d.wide R.syncOutAt0 3 < d.now + usTicks))

/-- Effects of a write of `SYNC_CTRL`: the train is armed or ended (R80), and capture restarts in the mode written (R83, R84). -/
def syncWrite (d : Dev) : Dev :=
  let mode := d.rf R.syncCtrl F.syncCtrlInMode
  let armed := d.rb R.syncCtrl F.syncCtrlOutArm
  let left := if d.rb R.syncCtrl F.syncCtrlOutCont then none else some (d.rf R.syncCtrl F.syncCtrlOutRepeat)
  let s := { d.sync with n := 0, errs := [], lastCap := none, missed := false, relay := [],
                         outNext := if armed then some (d.wide R.syncOutAt0 3) else none, outLeft := if armed then left else none }
  let d := { d with sync := s }
  let d := ((d.wf R.syncStat ⟨4, 1⟩ 0).wf R.syncStat F.syncStatCapCnt 0).wf R.syncStat F.syncStatOutBusy (b2n armed)
  d.wf R.syncStat F.syncStatAlignBusy (b2n (mode == 2))

/-- A SYNC_OUT pulse rises at its GTC time; the train ends after the last one (R80). -/
def syncPulse (d : Dev) : Dev :=
  match d.sync.outNext with
  | none => d
  | some t =>
    if d.now + hclk ≤ t then d
    else match d.sync.outLeft with
      | some 0 =>
        let d := { d with sync := { d.sync with outNext := none, outLeft := none } }
        (d.wf R.syncCtrl F.syncCtrlOutArm 0).wf R.syncStat F.syncStatOutBusy 0
      | l => { d with sync := { d.sync with outNext := some (t + d.syncTicks), outLeft := l.map (· - 1) } }

/-- ALIGN ends: the mode returns to OFF. -/
def alignEnd (d : Dev) : Dev := (d.wf R.syncCtrl F.syncCtrlInMode 0).wf R.syncStat F.syncStatAlignBusy 0

/-- SYNC_IN_MISMATCH, which also ends an alignment (R82). -/
def syncMismatch (d : Dev) : Dev :=
  let d := if d.rf R.syncCtrl F.syncCtrlInMode = 2 then d.alignEnd.wf R.syncStat F.syncStatAlignFail 1 else d
  d.raise Ev.syncInMismatch

/-- The 64th ALIGN capture: step the GTC by the mean error, or block while a port runs (R83). -/
def alignFinish (d : Dev) : Dev :=
  let e := meanErr d.sync.errs
  let v := wrapInt 80 (-e)
  let run := d.anyRunning
  let d := d.alignEnd.setWide R.gtcStep0 3 v
  if run then d.wf R.syncStat F.syncStatAlignBlocked 1
  else (d.wf R.syncStat F.syncStatStepped 1).gtcStep v

/-- A rising edge at SYNC_IN, at GTC value `t` (R81, R83). -/
def syncCapture (d : Dev) (t : Nat) : Dev :=
  let mode := d.rf R.syncCtrl F.syncCtrlInMode
  if mode = 0 then d else
  let cap := (t + 16) / 32 * 32 % 2 ^ 80
  let d := (d.setWide R.syncInCap0 3 cap).cnt R.syncStat F.syncStatCapCnt 1
  let bad := match d.sync.lastCap with
    | none => false
    | some c => decide (1024 < ((cap : Int) - c - d.syncTicks).natAbs)
  let i := d.sync.n
  let d := { d with sync := { d.sync with lastCap := some cap, n := i + 1, missed := false } }
  let d := if mode = 3 then
      { d with sync := { d.sync with relay := d.sync.relay ++ [cap + 1048576] } }.wf R.syncStat F.syncStatOutBusy 1
    else
      let e := sext 80 (wrapInt 80 ((cap : Int) - (d.wide R.syncExp0 3 + i * d.syncTicks + d.rn R.syncCableDly)))
      let d := { d with sync := { d.sync with errs := (e :: d.sync.errs).take 64 } }
      d.setN R.syncErr (wrapInt 32 (sat32s (meanErr d.sync.errs)))
  if bad then d.syncMismatch
  else if mode = 1 ∧ d.rn R.syncDriftLim ≠ 0 ∧ d.rn R.syncDriftLim < (sext 32 (d.rn R.syncErr)).natAbs then d.raise Ev.syncDrift
  else if mode = 2 ∧ d.sync.n = 64 then d.alignFinish
  else d

/-- No capture arrived in time after the last one (R82). -/
def syncMissing (d : Dev) : Dev :=
  let mode := d.rf R.syncCtrl F.syncCtrlInMode
  match d.sync.lastCap with
  | none => d
  | some c =>
    if !d.sync.missed && (decide (mode = 2) || (decide (mode = 1) && decide (d.rn R.syncDriftLim ≠ 0)))
        && decide (c + d.syncTicks + 1024 < d.now) then
      { d with sync := { d.sync with missed := true } }.syncMismatch
    else d

/-- A capture is re-emitted at its relay time (R83). -/
def relayPulse (d : Dev) : Dev :=
  match d.sync.relay with
  | [] => d
  | t :: ts =>
    if d.now + hclk ≤ t then d
    else { d with sync := { d.sync with relay := ts } }.wf R.syncStat F.syncStatOutBusy (b2n (!ts.isEmpty))

/-! ### The timed-command queue (R86 to R93) -/

/-- Timing-affecting registers: those that their chapters mark so. -/
def timingAff (a : Nat) : Bool :=
  let o := a % 0x1000
  match pageOf (a / 0x1000) with
  | some (.tsa, _) => decide (0x100 ≤ o) && decide (o < 0x500) && decide (o % 0x40 < 0x24)
  | some (.dds, _) => decide (0x44 ≤ o) && decide (o < 0x5C)
  | some (.seq, _) => decide (0x100 ≤ o) && decide (o < 0x200) && decide (o % 0x10 < 0xC)
  | some (.fch, _) => decide (o = 0x40) || decide (o = 0x44) || decide (0x60 ≤ o ∧ o ≤ 0x68) || decide (o = 0x74) || (decide (0x100 ≤ o) && decide (o < 0x380))
  | some (.uch, _) =>
    decide (o = 0x40) || decide (o = 0x44) || decide (o = 0x48) || decide (o = 0x58) || decide (o = 0x5C) || decide (o = 0x64) ||
      (decide (0x100 ≤ o) && decide (o < 0x280))
  | _ => false

/-- Ticks of 128 HCLK cycles: the lead of a timing-affecting delivery (R89). -/
def leadTicks : Nat := 16777216

/-- Show the queue in `TCQ_STAT`, with the level condition of TCQ_FULL (R91). -/
def tcqShow (d : Dev) : Dev :=
  let held := d.tcq.held.foldl (fun n x => n + 2 ^ (if x.1 = 0 then 0 else x.1 - 2)) 0
  let d := ((d.wf R.tcqStat F.tcqStatFill d.tcq.q.length).wf R.tcqStat F.tcqStatCplCnt d.tcq.cpl.length).wf
    R.tcqStat F.tcqStatHeld held
  d.setCond Ev.tcqFull (decide (held ≠ 0))

/-- When a path's write takes effect on the register fabric: a SET of a sequencer at the HCLK edge after its decode (R138). -/
def fabricTime (d : Dev) (path : Nat) : Nat :=
  if 3 ≤ path ∧ path ≤ 6 then max d.now (d.edgeAt hclk ((d.seqOf (path - 3)).decoded + 1)) else d.now

/-- Lateness of an entry judged as it enters the queue at `t` (R90). -/
def tcqLate (e : TcqEntry) (t : Nat) : Bool :=
  if timingAff e.addr then decide (e.stamp < t + leadTicks) else decide (e.stamp < t)

/-- Put an entry into the queue, ordered by stamp and then by push (R87). -/
def tcqEnter (d : Dev) (e : TcqEntry) (t : Nat) : Dev :=
  { d with tcq := { d.tcq with q := insertBy TcqEntry.stamp { e with late := tcqLate e t } d.tcq.q } }

/-- Held entries enter while there is room, sequencers A to D before the host (R87, R91). -/
def tcqAdmit (d : Dev) : Dev :=
  ([3, 4, 5, 6, 0] : List Nat).foldl (fun d k =>
    match d.tcq.held.find? (fun x => x.1 = k) with
    | none => d
    | some x => if d.tcq.q.length < 256 then
        ({ d with tcq := { d.tcq with held := d.tcq.held.filter (fun y => y.1 != k) } }).tcqEnter x.2 d.now
      else d) d

/-- The entry that eight words spell (Table 3-1); none for a reserved encoding or a target among the queue's own registers. -/
def tcqParse (path : Nat) (ws : List Nat) : Option TcqEntry :=
  let w := fun i => (ws[i]?).getD 0
  let addr := w 3 % 2 ^ 22
  let n := nbits (w 3) 23 22
  if nbits (w 3) 30 24 ≠ 0 ∨ n = 0 ∨ addr % 4 ≠ 0 ∨ w 7 ≠ 0 ∨ (0x2100 ≤ addr ∧ addr < 0x3000) then none
  else some { stamp := w 0 + 2 ^ 32 * w 1 + 2 ^ 64 * (w 2 % 2 ^ 16), tag := w 2 / 2 ^ 16, notify := nbit (w 3) 31, addr := addr,
              data := [BitVec.ofNat 32 (w 4), BitVec.ofNat 32 (w 5), BitVec.ofNat 32 (w 6)].take n, path := path, late := false }

/-- A push by a path: into the queue, a holding slot, or refused (R86, R91). -/
def tcqPush (d : Dev) (path : Nat) (ws : List Nat) : Dev :=
  match tcqParse path ws with
  | none => (d.badWrite 2).cnt R.tcqDropCnt F.tcqDropCntRefused 1
  | some e =>
    if d.tcq.q.length < 256 then (d.tcqEnter e (d.fabricTime path)).tcqShow
    else if d.tcq.held.any (fun x => x.1 == path) then
      (d.cnt R.tcqDropCnt F.tcqDropCntRefused 1).raise Ev.tcqError
    else { d with tcq := { d.tcq with held := d.tcq.held ++ [(path, e)] } }.tcqShow

/-- A command ends with a status (Table 3-2) at GTC `t` (R92). -/
def tcqEnd (d : Dev) (status tag : Nat) (notify : Bool) (t : Nat) : Dev :=
  let d := if status ≠ 0 ∨ notify then
      if d.tcq.cpl.length < 16 then
        let r := [status * 2 ^ 24 + tag, t, t / 2 ^ 32, t / 2 ^ 64 % 2 ^ 16].map (BitVec.ofNat 32)
        { d with tcq := { d.tcq with cpl := d.tcq.cpl ++ [r] } }
      else d.cnt R.tcqDropCnt F.tcqDropCntCplLost 1
    else d
  let d := if status = 1 then d.raise Ev.tcqLate else if 2 ≤ status then d.raise Ev.tcqError else d
  d.tcqShow

/-- Remove every pending and held entry that `p` holds for, with no completion (R93). -/
def tcqRemove (d : Dev) (p : TcqEntry → Bool) : Dev :=
  let d := { d with tcq := { d.tcq with q := d.tcq.q.filter (fun e => !p e), held := d.tcq.held.filter (fun x => !p x.2) } }
  d.tcqAdmit.tcqShow

/-- Take the oldest completion record off the FIFO (R92): its words, or 0xFFFF_FFFF with zeros. -/
def tcqPop (d : Dev) : Dev × List Word :=
  match d.tcq.cpl with
  | [] => (d, [0xFFFFFFFF, 0, 0, 0])
  | r :: rs => ({ d with tcq := { d.tcq with cpl := rs } }.tcqShow, r)

end Dev
end Sys2Proof.Machine
end

