-- ==== Sys2Proof/Machine/Boot.lean ====
section
/-! DEFINITION. Start-up steps with their policies and histories, the ledger, and the Keeper (04_startup_reset_and_partial_service.md).
What a step does to the unit it brings up stands in StartUp.lean. -/
namespace Sys2Proof.Machine
namespace Dev

/-! ### The ledger (R108, R117)

DESIGN CHOICE (log 12): the spec gives the regions of the ledger but no layout inside the start block; the model keeps policies at
4(c - 1), histories at 0x80 + 8i, the ledger-backed registers and the start count as eight-byte items (the value, then 1) from 0x100
up, and the BEGUN marks of R105 from 0x180 up. -/

def ledHist (i : Nat) : Nat := 0x80 + 8 * i
def ledPolicy (c : Nat) : Nat := 4 * (c - 1)
def ledSsid : Nat := 0x100
def ledEvcCfg : Nat := 0x108
def ledMcgCfg : Nat := 0x110
def ledCalval : Nat := 0x118
def ledStartNo : Nat := 0x120
/-- BEGUN mark of history `i`: 0 none, else 1 + the form begun. -/
def ledBegun (i : Nat) : Nat := 0x180 + 4 * i
/-- Start records, 32 bytes each, the last 64 (Table 4-9). -/
def ledStart (n : Nat) : Nat := 0x8000 + 32 * (n % 64)
/-- The 2,048 slots of fault records, in rotation from slot 0: record number 1 stands in slot 0 (R444, log 12). -/
def ledFault (n : Nat) : Nat := 0x10000 + 32 * (n % 2048)
/-- Keeper slot A or B (Table 4-7). -/
def ledKeeper (slot : Nat) : Nat := if slot = 0 then 0x180000 else 0x280000

/-- The ledger can be used in this start (Table 4-5). -/
def ledgerOk (d : Dev) : Bool := !d.rb R.bootDegraded F.bootDegradedLedger

/-- A ledger write by the Keeper: it queues, up to 64, while the Keeper does not run, and is lost beyond that (R105, R117). -/
def ledgerWrite (d : Dev) (a : Nat) (bs : List Byte) : Dev :=
  if !d.ledgerOk then d
  else if d.boot.keeperOn then { d with ledger := mwrite d.ledger a bs }
  else if d.boot.ledgerQ.length < 64 then { d with boot := { d.boot with ledgerQ := d.boot.ledgerQ ++ [(a, bs)] } }
  else d.raise Ev.ledgerQueueOvf

/-- A ledger write of one word. -/
def ledgerPut (d : Dev) (a v : Nat) : Dev := d.ledgerWrite a (leBytes 4 v)

/-- A word of the ledger. -/
def ledgerWord (d : Dev) (a : Nat) : Nat := mnat d.ledger a 4

/-- Store a ledger-backed item. -/
def ledgerItem (d : Dev) (a v : Nat) : Dev := d.ledgerWrite a (leBytes 4 v ++ leBytes 4 1)

/-- A ledger-backed item, none where it has never been stored. -/
def ledgerLoad (d : Dev) (a : Nat) : Option Nat := if d.ledgerWord (a + 4) = 1 then some (d.ledgerWord a) else none

/-- Fault records that wait in the ledger queue while the Keeper does not run. -/
def queuedFaults (d : Dev) : Nat :=
  if d.boot.keeperOn then 0 else (d.boot.ledgerQ.filter (fun x => decide (0x10000 ≤ x.1 ∧ x.1 < 0x20000))).length

/-- The queued ledger writes drain when the Keeper is back. -/
def ledgerDrain (d : Dev) : Dev :=
  { d with ledger := d.boot.ledgerQ.foldl (fun m x => mwrite m x.1 x.2) d.ledger, boot := { d.boot with ledgerQ := [] } }

/-- The ledger word at `BOOT_LWIN_ADDR`; the read advances the address, wrapping at 4 MiB (Table 4-6). -/
def ledgerWindow (d : Dev) : Dev × Word :=
  let a := d.rn R.bootLwinAddr
  (d.setN R.bootLwinAddr ((a + 4) % 0x400000), BitVec.ofNat 32 (d.ledgerWord a))

/-! ### Policies and histories (R102, R105, R106) -/

/-- Steps that may take ALTERNATE or SKIP, by code (Table 4-4): bit 0 RETRY, 1 SKIP, 2 ALTERNATE. -/
def permitted (c : Nat) : Nat :=
  if c = 2 ∨ c = 7 ∨ c = 10 then 5 else if c = 4 ∨ c = 5 ∨ c = 6 ∨ c = 8 then 3
  else if c = 9 ∨ c = 11 ∨ c = 12 then 7 else 1

def policyReg (c : Nat) : Nat := R.bootPolicy1 + 4 * (c - 1)
def F.polAttempts : Fld := ⟨10, 8⟩
def F.polPreferAlt : Fld := ⟨7, 7⟩
def F.polThresh : Fld := ⟨5, 4⟩
def F.polAction : Fld := ⟨1, 0⟩

/-- A legal policy word of step `c` (Table 4-4, R106, and the field table). -/
def policyLegal (d : Dev) (c : Nat) (w : Word) : Bool :=
  let act := fget w F.polAction
  nbit (permitted c) act && decide (act ≠ 3) && !(decide (fget w F.polPreferAlt = 1) && decide (act ≠ 2)) &&
    !(decide (2 ≤ c ∧ c ≤ 6) && decide (3 < fget w F.polAttempts)) &&
    decide (d.rf R.bootStat F.bootStatState ≠ 2) && decide (d.rf R.bootStat F.bootStatState ≠ 3)

/-- Index in `BOOT_HIST` of step `c`, channel `ch` for DRAMTRAIN (Table 4-6). -/
def histIx (c ch : Nat) : Nat := if c = 9 ∧ ch ≠ 0 then 12 + ch else c - 1

def fNorm (d : Dev) (i : Nat) : Nat := d.rf (R.bootHist i) F.bootHistFNorm
def fAlt (d : Dev) (i : Nat) : Nat := d.rf (R.bootHist i) F.bootHistFAlt

/-- Both words of a history go to the ledger; before step KEEPER has ended they wait in the `BOOT` page (R105). -/
def saveHist (d : Dev) (i : Nat) : Dev :=
  if d.boot.done < 7 then d
  else d.ledgerWrite (ledHist i) (leBytes 4 (d.rn (R.bootHist i)) ++ leBytes 4 (d.rn (R.bootHistb i)))

/-- The BEGUN mark of a run in the ledger, from KEEPER onward (R105). -/
def markBegun (d : Dev) (c i : Nat) (r : StepRun) : Dev :=
  if c < 7 then d else d.ledgerPut (ledBegun i) (if r.outcome.isSome then 0 else r.form + 1)

/-- A write of 1 to `CLEAR_HIST`: both counts of the step's histories, all four channels for DRAMTRAIN (R106). -/
def clearHist (d : Dev) (c : Nat) : Dev :=
  (if c = 9 then [8, 13, 14, 15] else [c - 1]).foldl (fun d i =>
    ((d.wf (R.bootHist i) F.bootHistFNorm 0).wf (R.bootHist i) F.bootHistFAlt 0).saveHist i) d

/-- A legal `BOOT_POLICYn` write takes effect: stored in the ledger, histories cleared where asked (R106). -/
def policyStore (d : Dev) (c : Nat) (clear : Bool) : Dev :=
  let d := d.ledgerPut (ledPolicy c) (d.rn (policyReg c) % 2 ^ 31)
  let d := d.wf (policyReg c) ⟨31, 31⟩ 0
  if clear then d.clearHist c else d

/-! ### Running a step (R100, R102) -/

/-- The form a run starts with (R102): 0 normal, 1 alternate, 2 skip. -/
def firstForm (action thresh : Nat) (preferAlt : Bool) (fn fa : Nat) : Nat :=
  if preferAlt || (decide (action ≠ 0) && decide (thresh ≠ 0) && decide (thresh ≤ fn)) then
    if action = 2 then (if 2 ≤ fa then 2 else 1) else 2
  else 0

/-- One attempt of a run ends (R102): the run after it, and the changes of `F_NORM` and `F_ALT`. -/
def stepAttempt (action attempts fn fa : Nat) (r : StepRun) (ok : Bool) : StepRun × Nat × Nat :=
  let r := { r with made := r.made + 1 }
  if r.outcome.isSome then (r, fn, fa)
  else if r.form = 0 then
    if ok then ({ r with outcome := some 1 }, 0, 0)
    else if r.attempt < attempts then ({ r with attempt := r.attempt + 1 }, fn, fa)
    else
      let fn := satAdd 255 fn 1
      if action = 2 then
        if 2 ≤ fa then ({ r with form := 2, outcome := some 3 }, fn, fa)
        else ({ r with form := 1, attempt := 1 }, fn, fa)
      else if action = 1 then ({ r with form := 2, outcome := some 3 }, fn, fa)
      else ({ r with outcome := some 4 }, fn, fa)
  else if r.form = 1 then
    if ok then ({ r with outcome := some 2 }, fn, 0)
    else if r.attempt < attempts then ({ r with attempt := r.attempt + 1 }, fn, fa)
    else ({ r with outcome := some 4 }, fn, satAdd 255 fa 1)
  else ({ r with outcome := some 3 }, fn, fa)

/-- Channels of the running step: four for DRAMTRAIN, of which only the populated ones run (R103); one for any other step. -/
def stepChans (d : Dev) (c : Nat) : List Nat :=
  if c = 9 then [0, 1, 2, 3].filter (fun ch => nbit (d.rf R.mcgCfg F.mcgCfgPop) ch) else [0]

/-- Begin step `c`: choose each run's form from policy and history (R102). -/
def beginStep (d : Dev) (c : Nat) : Dev :=
  let w := d.get (policyReg c)
  let mk := fun ch =>
    let i := histIx c ch
    let f := firstForm (fget w F.polAction) (fget w F.polThresh) (decide (fget w F.polPreferAlt = 1)) (d.fNorm i) (d.fAlt i)
    ({ form := f, attempt := 1, made := 0, outcome := if f = 2 then some 3 else none } : StepRun)
  let runs := (List.range (if c = 9 then 4 else 1)).map (fun ch =>
    if ch ∈ d.stepChans c then mk ch else { form := 2, attempt := 0, made := 0, outcome := some 0 })
  let d := { d with boot := { d.boot with runs := runs } }
  let form := ((runs.head?).map StepRun.form).getD 0
  (((d.wf R.bootStat F.bootStatStep c).wf R.bootStat F.bootStatForm form).wf R.bootStat F.bootStatAttempt 1).wf
    R.bootStat F.bootStatOutcome 0

/-- Record the outcome of a finished run in its history (Table 4-8). -/
def recordRun (d : Dev) (c ch : Nat) (r : StepRun) : Dev :=
  match r.outcome with
  | none => d
  | some 0 => d
  | some o =>
    let i := histIx c ch
    let d := ((d.wf (R.bootHist i) F.bootHistLastOutcome o).wf (R.bootHist i) F.bootHistLastAttempts r.made).wf
      (R.bootHist i) F.bootHistStep c
    let d := (d.setN (R.bootHistb i) (d.rn R.bootStartNo)).saveHist i
    let d := { d with boot := { d.boot with outcomes := d.boot.outcomes ++ [(if c = 9 then 16 + ch else c, o)] } }
    if o = 2 then d.raise Ev.bootAlternate else d

/-- One attempt ends for every run of the step that is still going: `oks` gives its result per channel.  Each failed attempt
raises BOOT_STEP_FAIL. -/
def attemptsEnd (d : Dev) (oks : List Bool) : Dev :=
  let c := d.rf R.bootStat F.bootStatStep
  let w := d.get (policyReg c)
  (List.range d.boot.runs.length).foldl (fun d ch =>
    match d.boot.runs[ch]? with
    | none => d
    | some r =>
      if r.outcome.isSome then d
      else
        let ok := (oks[ch]?).getD false
        let i := histIx c ch
        let x := stepAttempt (fget w F.polAction) (fget w F.polAttempts) (d.fNorm i) (d.fAlt i) r ok
        let d := (d.wf (R.bootHist i) F.bootHistFNorm x.2.1).wf (R.bootHist i) F.bootHistFAlt x.2.2
        let d := { d with boot := { d.boot with runs := lset d.boot.runs ch x.1 } }
        let d := if ch = 0 then
            (d.wf R.bootStat F.bootStatForm x.1.form).wf R.bootStat F.bootStatAttempt x.1.attempt
          else d
        let d := (d.recordRun c ch x.1).markBegun c i x.1
        if ok then d else d.raise Ev.bootStepFail) d

/-- Every run of the step has its outcome. -/
def stepOver (d : Dev) : Bool := d.boot.runs.all (fun r => r.outcome.isSome)

/-- Outcome of run `ch` of the step that has just ended. -/
def runOutcome (d : Dev) (ch : Nat) : Nat := ((d.boot.runs[ch]?).bind StepRun.outcome).getD 0

/-- Mark a bit of `BOOT_DEGRADED`, and `ANY` with it. -/
def degrade (d : Dev) (bit : Nat) : Dev := (d.wf R.bootDegraded ⟨bit, bit⟩ 1).wf R.bootDegraded F.bootDegradedAny 1

/-! ### The Keeper (R109 to R111, R117) -/

def slotOk (d : Dev) (s : Nat) : Bool := tget (fun _ => false) d.boot.slotValid s
def setSlot (d : Dev) (s : Nat) (ok : Bool) : Dev :=
  let d := { d with boot := { d.boot with slotValid := tset (fun _ => false) d.boot.slotValid s ok } }
  d.wf R.bootKeeper F.bootKeeperBValid (b2n (d.slotOk 1))

/-- An update in progress fails: the target slot is invalid, the running slot unchanged (R109). -/
def updateFail (d : Dev) (target reason : Nat) : Dev :=
  let d := (d.wf R.bootKupdStat F.bootKupdStatState 6).wf R.bootKupdStat F.bootKupdStatReason reason
  (d.setSlot target false).raise Ev.keeperUpdateFail

/-- The slot that an update writes: the one not running, or slot A from the mailbox (R109, R111). -/
def updateSlot (d : Dev) : Nat :=
  if d.rb R.bootKupdCtrl F.bootKupdCtrlSrc then 0 else 1 - d.rf R.bootKeeper F.bootKeeperSlot

def updating (d : Dev) : Bool := d.rf R.bootKupdStat F.bootKupdStatState == 1

/-- `START` = 1: an update begins, and its target is invalid until it is verified. -/
def updateStart (d : Dev) : Dev :=
  let d := (d.wf R.bootKupdStat F.bootKupdStatState 1).wf R.bootKupdStat F.bootKupdStatReason 0
  let d := { d with boot := { d.boot with mbxBytes := 0, fresh := none } }
  d.setSlot d.updateSlot false

/-- A legal write of `BOOT_KUPD_CTRL`. -/
def kupdLegal (d : Dev) (w : Word) : Bool :=
  let st := d.rf R.bootKupdStat F.bootKupdStatState
  let rec_ := d.rf R.bootStat F.bootStatState = 3
  let n := fget w F.bootKupdCtrlChunkLen
  !(decide (fget w F.bootKupdCtrlStart = 1) && (decide (st = 1) || decide (st = 3))) &&
    !(decide (fget w F.bootKupdCtrlSrc = 1) && !decide rec_) && decide (n ≤ 65536) && decide (n % 4 = 0)

/-- A mailbox chunk is announced: it is consumed into slot A and flagged (R111). -/
def chunkTake (d : Dev) : Dev :=
  if d.updating && d.rb R.bootKupdCtrl F.bootKupdCtrlSrc then
    let n := d.rf R.bootKupdCtrl F.bootKupdCtrlChunkLen
    let d := { d with ledger := mwrite d.ledger (ledKeeper 0 + d.boot.mbxBytes) (mread d.sram 0x810000 n) }
    ({ d with boot := { d.boot with mbxBytes := d.boot.mbxBytes + n } }).wf R.bootKupdStat F.bootKupdStatChunkTaken 1
  else d

/-- The update ends: `reason` 0 when the image passed its checks, else the failure (R109). -/
def updateEnd (d : Dev) (reason version : Nat) : Dev :=
  if !d.updating then d
  else
    let mbx := d.rb R.bootKupdCtrl F.bootKupdCtrlSrc
    let n := if mbx then d.boot.mbxBytes else d.rn R.bootKupdLen
    let reason := if n = 0 ∨ 0x80000 < n then 2 else if !d.ledgerOk && !mbx then 4 else reason
    let t := d.updateSlot
    if reason ≠ 0 then d.updateFail t reason
    else
      let d := if mbx then d
        else { d with ledger := mwrite d.ledger (ledKeeper t) (mread d.dram (d.wide R.bootKupdSrcLo 2) n) }
      let d := (d.setSlot t true).wf R.bootKupdStat F.bootKupdStatState 2
      { d with boot := { d.boot with fresh := some t, slotVer := tset (fun _ => 0) d.boot.slotVer t version } }

/-- The Keeper runs from slot `s`. -/
def runSlot (d : Dev) (s : Nat) : Dev :=
  (d.wf R.bootKeeper F.bootKeeperSlot s).wf R.bootKeeper F.bootKeeperVersion (tget (fun _ => 0) d.boot.slotVer s)

/-- A Keeper restart begins (R110, R117, R27): from the slot an update wrote, if one was; an update from DRAM that was in progress
is aborted; still-water tracking stops, so every port's `TIMING_ACTIVE` reads PERIODIC. -/
def keeperRestart (d : Dev) : Dev :=
  let d := if d.updating then d.updateFail d.updateSlot 5 else d
  let d := { d with boot := { d.boot with keeperOn := false } }
  let d := match d.boot.fresh with
    | none => d
    | some s =>
      let d := { d with boot := { d.boot with fresh := none, prevSlot := some (d.rf R.bootKeeper F.bootKeeperSlot) } }
      (d.runSlot s).wf R.bootKupdStat F.bootKupdStatState 3
  let d := ([0, 1, 2, 3] : List Nat).foldl (fun d p => d.wf (R.prtProfile p) F.prtProfileTimingActive 1) d
  d.raise Ev.keeperRestart

/-- The trial of a new image fails: back to the previous slot (R110). -/
def keeperRevert (d : Dev) : Dev :=
  let d := match d.boot.prevSlot with | none => d | some s => d.runSlot s
  let d := { d with boot := { d.boot with prevSlot := none } }
  ((d.wf R.bootKupdStat F.bootKupdStatState 5).raise Ev.keeperUpdateFail).keeperRestart

/-- The trial of a new image ends (R110). -/
def trialEnd (d : Dev) (ok : Bool) : Dev :=
  if d.rf R.bootKupdStat F.bootKupdStatState ≠ 3 then d
  else if ok then { d.wf R.bootKupdStat F.bootKupdStatState 4 with boot := { d.boot with prevSlot := none } }
  else d.keeperRevert

/-- The watchdog finds no heartbeat for 100 ms (R117); during a trial this is a missed heartbeat (R110). -/
def keeperWatchdog (d : Dev) : Dev :=
  if !d.boot.keeperOn then d
  else
    let d := d.raise Ev.keeperWdog
    if d.rf R.bootKupdStat F.bootKupdStatState = 3 then d.keeperRevert else d.keeperRestart

end Dev
end Sys2Proof.Machine
end

