-- ==== Sys2Proof/Config.lean ====
section
/-! DEFINITION. The free values: constants without a body, for what the spec leaves open or takes from a standard that it does not
reproduce.  Nothing can be proved of their values. -/
namespace Sys2Proof.Config

/-- Output bits of one code group of a lane codec, by codec mode, `LANE`, `SCR_EN`, coder state and input word (R181: the coding
rules are those of the standards of Table 6-8). -/
opaque encodeBits (mode lane : Nat) (scr : Bool) (state w : Nat) : Nat

/-- Coder state after that group. -/
opaque encodeNext (mode lane : Nat) (scr : Bool) (state w : Nat) : Nat

/-- The leader sequence of the D-PHY specification, 8 bits (R183). -/
opaque dphyLeader : Nat

/-- A value that the spec leaves open, by the index of its use. -/
opaque freeValue : Nat → Nat

end Sys2Proof.Config
end

