-- ==== Sys2Proof/Machine/Levels.lean ====
section
/-! DEFINITION. Level DACs, level sets, tones and PMUs as far as other units move them (09_levels_pmu_and_analog_dds.md R251 to R265,
R270, R271). -/
namespace Sys2Proof.Machine
namespace Dev

/-- Ticks of one ACLK cycle (R4: 10 ns). -/
def aclk : Nat := 524288

/-- Address of a channel's page. -/
def chBase (i : Nat) : Nat := chPage i * 0x1000

/-- Level set in force (R257). -/
def lvlSet (d : Dev) (i : Nat) : Nat :=
  if i < 32 then d.rf (R.fchLvlStat i) F.fchLvlStatSet else d.rf (R.uchLvlStat (i - 32)) F.uchLvlStatSet

/-- The eye monitor of a fast channel scans or pauses: TH_S3 roves (R291). -/
def eyeRoves (d : Dev) (i : Nat) : Bool :=
  i < 32 && (d.rf (R.fchEyeStat i) F.fchEyeStatState == 1 || d.rf (R.fchEyeStat i) F.fchEyeStatState == 2)

/-- The code that the registers in force give LDAC `j` of a channel, before any tone (R255, R257, R290). -/
def ldacCode (d : Dev) (i j : Nat) : Nat :=
  if i < 32 then
    if j = 7 ∧ d.eyeRoves i then
      d.rf (R.fchEyeV i) F.fchEyeVV0 + d.rf (R.fchEyeStat i) F.fchEyeStatRow * d.rf (R.fchEyeV i) F.fchEyeVVstep
    else (d.lv (chBase i + 0x300 + 0x20 * d.lvlSet i + 4 * j)).toNat % 2 ^ 16
  else if j < 5 then (d.lv (chBase i + 0x200 + 0x20 * d.lvlSet i + 4 * j)).toNat % 2 ^ 16
  else if j = 5 then (d.lv (R.uchClampLvl (i - 32))).toNat % 2 ^ 16
  else if j = 6 then (d.lv (R.uchClampLvl (i - 32))).toNat / 2 ^ 16
  else (d.lv (R.uchPmuCtrl (i - 32))).toNat % 2 ^ 16

/-- Least and greatest code inside the operating range of an LDAC (Table 9-1, R253). -/
def ldacRange (d : Dev) (i j : Nat) : Nat × Nat :=
  if i < 32 then
    if j = 0 then (if d.lf (R.fchDrvCfg i) F.fchDrvCfgMode = 1 then (5120, 51200) else (5243, 62914))
    else if j = 1 then (0, 52428) else if j = 2 then (0, 16384) else if j = 3 then (0, 29491) else (0, 65535)
  else if j = 7 ∧ d.lf (R.uchPmuCtrl (i - 32)) F.uchPmuCtrlPmode ≠ 1 then (0, 65535)
  else (6554, 62259)

/-- The LDAC that carries a channel's tone (R270). -/
def toneSel (d : Dev) (i : Nat) : Nat := if i < 32 then 1 else d.lf (R.uchTone (i - 32)) F.uchToneSel

/-- Target of an LDAC: code plus tone, limited to its range; and whether it was limited (R253, R255, R270). -/
def ldacTarget (d : Dev) (i j : Nat) : Nat × Bool :=
  let x : Int := d.ldacCode i j + (if d.toneSel i = j then (d.lvl i).tone else 0)
  let r := d.ldacRange i j
  if x < r.1 then (r.1, true) else if (r.2 : Int) < x then (r.2, true) else (x.toNat, false)

/-- The LDAC record; one that has never moved stands at its reset code. -/
def ldacOf (d : Dev) (i j : Nat) : Ldac :=
  let c := (resetWord (if i < 32 then chBase i + 0x300 + 4 * j else if j < 5 then chBase i + 0x200 + 4 * j
    else if j = 7 then R.uchPmuCtrl (i - 32) else R.uchClampLvl (i - 32))).toNat
  let c := if i < 32 ∨ j < 5 ∨ j = 5 ∨ j = 7 then c % 2 ^ 16 else c / 2 ^ 16
  (((d.lvl i).ldac.find? (fun x => x.1 == j)).map Prod.snd).getD { cur := c, tgt := c, due := none }

def putLdac (d : Dev) (i j : Nat) (x : Ldac) : Dev :=
  let l := d.lvl i
  d.putLvl i { l with ldac := insertBy Prod.fst (j, x) (l.ldac.filter (fun y => y.1 != j)) }

/-- Bits `CLIP` and `SETTLING` of an LDAC in the level status. -/
def setClip (d : Dev) (i j : Nat) (b : Bool) : Dev :=
  d.wf (if i < 32 then R.fchLvlStat i else R.uchLvlStat (i - 32)) ⟨16 + j, 16 + j⟩ (b2n b)
def setSettling (d : Dev) (i j : Nat) (b : Bool) : Dev :=
  d.wf (if i < 32 then R.fchLvlStat i else R.uchLvlStat (i - 32)) ⟨8 + j, 8 + j⟩ (b2n b)

/-- Settling time in ticks for a step of `Δ` codes (R256: 0.5 µs + 1.5 µs × Δ / 65,535). -/
def settleTicks (Δ : Nat) : Nat := 26214400 + ceilDiv (78643200 * Δ) 65535

/-- The output of an LDAC now: between start and target while it settles (R256).  The spec states no more than that the output lies
between the two, so a point between them is a free value. -/
def ldacPresent (d : Dev) (x : Ldac) : Nat :=
  match x.due with
  | none => x.cur
  | some _ => min x.cur x.tgt + Config.freeValue d.fresh % (max x.cur x.tgt - min x.cur x.tgt + 1)

/-- An LDAC's target is taken anew at the first ACLK edge at or after `t` (R255, R256). -/
def ldacMove (d : Dev) (i t j : Nat) : Dev :=
  let x := d.ldacOf i j
  let r := d.ldacTarget i j
  let d := d.setClip i j r.2
  if x.tgt = r.1 then d
  else
    let now := d.ldacPresent x
    let Δ := max now r.1 - min now r.1
    let d := d.burn.putLdac i j { cur := now, tgt := r.1, due := some (d.edgeAt aclk t + settleTicks Δ) }
    d.setSettling i j true

/-- A change that takes effect at `t` on the levels of a channel; before its first enable the outputs hold their reset codes
(R254). -/
def levelsAt (d : Dev) (i t : Nat) : Dev :=
  if (d.lvl i).follow then (List.range 8).foldl (fun d j => d.ldacMove i t j) d else d

/-- LDAC_SETTLED (R256): the output stands at its target. -/
def ldacSettled (d : Dev) (i j : Nat) : Dev :=
  let x := d.ldacOf i j
  if x.due.isSome ∧ i < 96 ∧ j < 8 then (d.putLdac i j { x with cur := x.tgt, due := none }).setSettling i j false else d

/-- Put a level set in force on a channel (R257, R258). -/
def takeSet (d : Dev) (i s t : Nat) : Dev :=
  if d.lvlSet i = s then d
  else
    (d.wf (if i < 32 then R.fchLvlStat i else R.uchLvlStat (i - 32)) ⟨25, 24⟩ s).levelsAt i t

/-- Channels whose levels a live register change can move. -/
def levelReg (addr : Nat) : Option Nat :=
  let o := addr % 0x1000
  match pageOf (addr / 0x1000) with
  | some (.fch, n) => if 0x300 ≤ o ∧ o < 0x380 then some n else none
  | some (.uch, m) => if o = 0x58 ∨ o = 0x5C ∨ (0x200 ≤ o ∧ o < 0x280) then some (32 + m) else none
  | _ => none

/-! ### The PMU (R259, R261, R264, R265) -/

/-- Owner code of a utility channel (R14, Table 1-3). -/
def ucOwner (d : Dev) (m : Nat) : Nat :=
  let p := m / 16
  let u := m % 16
  nbits (d.rn (if u < 8 then R.prtUcown0 p else R.prtUcown1 p)) (4 * (u % 8) + 3) (4 * (u % 8))

/-- Code of owner PMU (Table 1-3). -/
def ownPmu : Nat := 8

def pmuMode (d : Dev) (m : Nat) : Nat := d.lf (R.uchPmuCtrl m) F.uchPmuCtrlPmode

/-- Every condition of R259 holds. -/
def pmuMayForce (d : Dev) (m : Nat) : Bool :=
  d.ucOwner m == ownPmu && d.rb (pctl (0x240 + m)) F.ctlEnable && (d.pmuMode m == 1 || d.pmuMode m == 2)

def pmuOn (d : Dev) (m : Nat) : Bool := d.rb (R.uchPmuStat m) F.uchPmuStatOn
def rangeBusy (d : Dev) (m : Nat) : Bool := d.rb (R.uchPmuStat m) F.uchPmuStatRangeBusy

/-- The PMU forces or stops as R259 now gives it: starting takes until the output switch closes 2 µs later (R261). -/
def pmuJudge (d : Dev) (m t : Nat) : Dev :=
  if d.pmuMayForce m then
    if d.pmuOn m || (d.lvl (32 + m)).closeAt.isSome then d
    else d.putLvl (32 + m) { d.lvl (32 + m) with closeAt := some (d.edgeAt aclk t + 2 * usTicks) }
  else if d.pmuOn m || (d.lvl (32 + m)).closeAt.isSome then d.pmuOff m
  else d

/-- A `UCH_PMU_CTRL` value takes effect at `t` (R261, R264, R265). -/
def pmuApply (d : Dev) (m t : Nat) (w : Word) : Dev :=
  if d.rangeBusy m then d.putLvl (32 + m) { d.lvl (32 + m) with stored := some w }
  else
    let old := d.lf (R.uchPmuCtrl m) F.uchPmuCtrlIrange
    let new := fget w F.uchPmuCtrlIrange
    let d := d.setLive (R.uchPmuCtrl m) w
    let d := if old = new then d
      else if d.pmuOn m && d.pmuMayForce m then
        (d.wf (R.uchPmuStat m) F.uchPmuStatRangeBusy 1).putLvl (32 + m) { d.lvl (32 + m) with rangeAt := some (d.edgeAt aclk t) }
      else d.wf (R.uchPmuStat m) F.uchPmuStatRange new
    (d.pmuJudge m t).levelsAt (32 + m) t

/-- PMU_SWITCH_CLOSE (R261). -/
def pmuSwitchClose (d : Dev) (m : Nat) : Dev :=
  if m < 64 ∧ (d.lvl (32 + m)).closeAt.isSome then
    let d := d.putLvl (32 + m) { d.lvl (32 + m) with closeAt := none }
    if d.pmuMayForce m then d.wf (R.uchPmuStat m) F.uchPmuStatOn 1 else d
  else d

/-- RANGE_CHANGE_END (R264, R265): the new range is in force, and a stored write applies. -/
def rangeChangeEnd (d : Dev) (m : Nat) : Dev :=
  if m < 64 ∧ d.rangeBusy m then
    let d := (d.wf (R.uchPmuStat m) F.uchPmuStatRangeBusy 0).wf (R.uchPmuStat m) F.uchPmuStatRange
      (d.lf (R.uchPmuCtrl m) F.uchPmuCtrlIrange)
    -- the detector restarts its count: a condition that persists starts a fresh fault
    let d := (d.wf (R.uchPmuStat m) F.uchPmuStatComplLive 0).setCond (Ev.pmuCompliance m) false
    let d := (d.wf (R.uchPmuStat m) F.uchPmuStatOpenLive 0).setCond (Ev.pmuOpen m) false
    let l := d.lvl (32 + m)
    let d := d.putLvl (32 + m) { l with rangeAt := none, stored := none }
    match l.stored with
    | some w => d.pmuApply m d.now w
    | none => d
  else d

/-- `RANGE` of `UCH_PMU_STAT` as it reads: the force loop hands over 5 µs into a change (Table 9-5). -/
def pmuStatRead (d : Dev) (m : Nat) : Word :=
  let w := d.get (R.uchPmuStat m)
  match (d.lvl (32 + m)).rangeAt with
  | some t => if t + 5 * usTicks ≤ d.now then fset w F.uchPmuStatRange (d.lf (R.uchPmuCtrl m) F.uchPmuCtrlIrange) else w
  | none => w

/-- PMU_FAULT_START (R263): `rows` holds the conditions of Table 9-4 that start a fault in this cycle, row 1 in bit 0. -/
def pmuFaultStart (d : Dev) (m rows : Nat) : Dev :=
  let fi := d.pmuMode m = 2
  let rows := rows % 16 &&& (if fi then 7 else 9)
  if 64 ≤ m ∨ rows = 0 ∨ !d.pmuOn m ∨ d.rangeBusy m then d
  else
    let kind := if nbit rows 0 then 1 else if nbit rows 1 then 2 else if nbit rows 2 then 3 else 4
    let d := d.wf (R.uchPmuStat m) F.uchPmuStatKind kind
    let opens := b2n (nbit rows 0) + b2n (nbit rows 1)
    let compl := b2n (nbit rows 2) + b2n (nbit rows 3)
    let d := (d.cnt (R.uchPmuCnt m) F.uchPmuCntOpen opens).cnt (R.uchPmuCnt m) F.uchPmuCntCompl compl
    let d := if 0 < opens then (d.wf (R.uchPmuStat m) F.uchPmuStatOpenLive 1).setCond (Ev.pmuOpen m) true else d
    if 0 < compl then (d.wf (R.uchPmuStat m) F.uchPmuStatComplLive 1).setCond (Ev.pmuCompliance m) true else d

/-- PMU_FAULT_END (R263): `opens`, `compl`: which kind of fault has ended. -/
def pmuFaultEnd (d : Dev) (m : Nat) (opens compl : Bool) : Dev :=
  if 64 ≤ m ∨ d.rangeBusy m then d
  else
    let d := if opens then (d.wf (R.uchPmuStat m) F.uchPmuStatOpenLive 0).setCond (Ev.pmuOpen m) false else d
    if compl then (d.wf (R.uchPmuStat m) F.uchPmuStatComplLive 0).setCond (Ev.pmuCompliance m) false else d

/-! ### Clamps (R242) -/

/-- Clamp high, clamp low and current limit of `UCH_DRV_STAT`. -/
def F.uchDrvOver : Fld := ⟨29, 27⟩

/-- The clamps are connected: `CLAMP_EN` = 1 in force and an owner. -/
def clampsOn (d : Dev) (m : Nat) : Bool := d.lf (R.uchDrvCfg m) F.uchDrvCfgClampEn == 1 && d.ucOwner m != 0

/-- Some overdrive conditions end (bit 2 clamp high, 1 clamp low, 0 current limit). -/
def overdriveLeft (d : Dev) (m what : Nat) : Dev :=
  let live := d.rf (R.uchDrvStat m) F.uchDrvOver
  let left := live - (live &&& what)
  (d.wf (R.uchDrvStat m) F.uchDrvOver left).setCond (Ev.ucOverdrive m) (left != 0)

/-- A clamp that is released conducts no more. -/
def clampJudge (d : Dev) (m : Nat) : Dev := if d.clampsOn m then d else d.overdriveLeft m 6

/-! ### Tones (R270, R271) -/

/-- The tone of a channel in codes at sample index `n`: none while the tone or the DDS is off, or in current mode. -/
def toneOffset (d : Dev) (i : Nat) (n : Int) : Int :=
  let p := if i < 32 then i / 8 else (i - 32) / 16
  let en := if i < 32 then d.lf (R.fchTone i) F.fchToneEn == 1 && d.lf (R.fchDrvCfg i) F.fchDrvCfgMode == 0
    else d.lf (R.uchTone (i - 32)) F.uchToneEn == 1
  let amp := if i < 32 then d.lf (R.fchTone i) F.fchToneAmp else d.lf (R.uchTone (i - 32)) F.uchToneAmp
  if en && d.rb (pctl (ppage p 6)) F.ctlEnable then divAway ((amp : Int) * d.ddsSample p n) 131071 else 0

/-- The tone edge t_m at or before now: the latest one (R271). -/
def toneEdge (d : Dev) (p : Nat) : Nat :=
  let per := d.rn (R.measToneDiv p) * aclk
  let m := ((d.now : Int) - d.ddsEpoch p) / (max 1 per : Nat)
  d.edgeAt aclk ((d.ddsEpoch p : Int) + m * per).toNat

/-- TONE_SAMPLE (R271): every tone of the port takes the DDS value. -/
def toneSample (d : Dev) (p : Nat) : Dev :=
  if 4 ≤ p then d
  else
    let t := d.toneEdge p
    let n := d.ddsIndex p t
    (portChans p).foldl (fun d i =>
      let x := d.toneOffset i n
      if (d.lvl i).tone = x then d else (d.putLvl i { d.lvl i with tone := x }).levelsAt i t) d

end Dev
end Sys2Proof.Machine
end

