-- ==== Sys2Proof/Machine/SeqFront.lean ====
section
/-! DEFINITION. The front end of a port's sequencer (05_vector_sequencer.md, R123, R124, R133 to R147, R152): decode edges,
control flow, stacks, waits, SETs, and the decision of compare conditions. -/
namespace Sys2Proof.Machine
namespace Dev

/-! ### Timing sets in use (R193, R211) -/

/-- A timing-set SET to set `s` waits in the issue stage or the run-ahead FIFO (R193). -/
def setPending (d : Dev) (p s : Nat) : Bool :=
  let q := d.seqOf p
  let has := fun (l : List (Nat × Nat)) => l.any (fun x => x.1 == 8 && x.2 % 16 == s)
  has q.sets || q.segs.any (fun g => g.issued == 0 && has g.sets) ||
    q.fifo.any (fun b => b.words.length == b.n0 && has b.sets)

/-- A timing set is in use (R193). -/
def setInUse (d : Dev) (p s : Nat) : Bool :=
  d.running p && ((d.seqState p == 1 && d.rf (R.seqCtrl p) F.seqCtrlStartTs == s) ||
    (decide (2 ≤ d.seqState p) && (d.seqOf p).ts == s) || d.setPending p s)

/-- Judge the sinusoidal-jitter limit (R211): the event is raised as the limitation begins. -/
def sjJudge (d : Dev) (p : Nat) : Dev :=
  let lim := (List.range 16).any (fun s => d.setInUse p s && (fget (d.lv (R.tsSj p s)) F.tsSjSjDrv == 1 ||
    fget (d.lv (R.tsSj p s)) F.tsSjSjStb == 1) && decide (d.sjAmp p s < d.lf (R.tsSj p s) F.tsSjSjAmp))
  let was := d.rb (R.ddsStat p) F.ddsStatSjLimited
  let d := d.wf (R.ddsStat p) F.ddsStatSjLimited (b2n lim)
  if lim && !was then d.raise (Ev.sjLimit p) else d

/-! ### Waits and the start reserve (R123, R124) -/

/-- The front end enters a wait or reaches HALT at decode edge `e`, before c_s is fixed (R124). -/
def markWait (s : Seq) (e : Nat) : Seq :=
  fixCs (if s.cs.isNone && s.csWait.isNone then { s with csWait := some e } else s)

/-- A wait begins (R123); pads come from `src`: 0 copies of the last beat, 1 the idle word, 2 the idle word of a mooring stall. -/
def beginWait (s : Seq) (e src : Nat) : Seq :=
  { markWait s e with inWait := true, waitSeg := s.nextSeg, padSrc := src }

/-! ### Decoding -/

/-- The next decode edge: one instruction per SQCLK edge (R120). -/
def decodeEdge (s : Seq) : Nat := s.decoded + sqclk

/-- Decode the instruction at PC if it is a legal one of opcode `op` and the front end runs: its word, its decode edge, and the
record with that edge. -/
def fetchOp (d : Dev) (p op : Nat) : Option (Nat × Nat × Seq) :=
  let s := d.seqOf p
  let w := d.instrAt p (d.pc p)
  if p < 4 ∧ d.seqState p = 2 ∧ s.fe = .run ∧ I.op w = op ∧ I.legal p w then
    let e := decodeEdge s
    some (w, e, { s with decoded := e })
  else none

/-- The instruction at PC is illegal (R134): cause ILLEGAL. -/
def illegalInstr (d : Dev) (p : Nat) : Dev :=
  let s := d.seqOf p
  if p < 4 ∧ d.seqState p = 2 ∧ s.fe = .run ∧ !I.legal p (d.instrAt p (d.pc p)) then
    let d := d.putSeq p { s with decoded := decodeEdge s }
    (d.seqFault p 1 (d.pc p) 0 true (decodeEdge s + decodeLead)).raise (Ev.seqIllegal p)
  else d

/-- A stack error (R136): cause STACK. -/
def stackError (d : Dev) (p : Nat) : Dev := (d.seqFault p 2 (d.pc p) 0 true ((d.seqOf p).decoded + decodeLead)).raise (Ev.seqStack p)

/-! ### Stacks (R136) -/

/-- CALL: the pushed record, none for a stack error. -/
def callPush (s : Seq) (ret : Nat) : Option Seq :=
  if s.calls.length < 16 then some { s with calls := ret :: s.calls } else none

/-- A loop opened at the current call depth is the innermost one. -/
def loopHere (s : Seq) : Bool :=
  match s.loops with | [] => false | (_, _, dep) :: _ => dep == s.calls.length

/-- RET: the record and the return address. -/
def retPop (s : Seq) : Option (Seq × Nat) :=
  match s.calls with
  | [] => none
  | r :: cs => if loopHere s then none else some ({ s with calls := cs }, r)

/-- ENDLOOP: the record and the next PC. -/
def loopEnd (s : Seq) (next : Nat) : Option (Seq × Nat) :=
  match s.loops with
  | [] => none
  | (start, left, dep) :: ls =>
    if dep ≠ s.calls.length then none
    else if 1 < left then some ({ s with loops := (start, left - 1, dep) :: ls }, start)
    else some ({ s with loops := ls }, next)

/-! ### Conditions (R133, R142) -/

/-- The port's trigger engine has triggered since it was armed (R324). -/
def triggered (d : Dev) (p : Nat) : Bool := d.rb (R.acqStat p) F.acqStatTriggered

/-- A condition that is decided at decode: codes 0x2 to 0x7; CNT_DEC_NZ stores the decremented counter. -/
def condNow (d : Dev) (p cond csel : Nat) : Dev × Bool :=
  let c := d.rn (R.seqCnt p csel)
  let hf := nbit (d.rn (R.seqHflag p)) csel
  if cond = 2 then (d, c == 0) else if cond = 3 then (d, c != 0)
  else if cond = 4 then
    let c := (c + 2 ^ 32 - 1) % 2 ^ 32
    (d.setN (R.seqCnt p csel) c, c != 0)
  else if cond = 5 then (d, hf) else if cond = 6 then (d, !hf)
  else (d, d.triggered p)

def segRes (s : Seq) (g : Nat) : SegRes := tget (fun _ => SegRes.reset) s.res g
def setSegRes (s : Seq) (g : Nat) (r : SegRes) : Seq := { s with res := tset (fun _ => SegRes.reset) s.res g r }

/-- A conditional jump to `target`, else `next`, decided now or held until the watched segment's compares are in (R133, R144). -/
def condJump (d : Dev) (p : Nat) (s : Seq) (watch : Option Nat) (cond csel target next pad e : Nat) : Dev :=
  if cond < 2 then
    match watch with
    | none => (d.putSeq p s).setPc p (if cond = 1 then target else next)
    | some g => d.putSeq p { beginWait s e pad with fe := .cmp g target next cond }
  else
    let r := (d.putSeq p s).condNow p cond csel
    r.1.setPc p (if r.2 then target else next)

/-! ### Issuing instructions (R126, R135, R152) -/

/-- A moored instruction stalls where a lock went below its low weir since the last one (R152); the answer is none when the
instruction may be decoded now. -/
def moorStall (d : Dev) (p w e : Nat) (s : Seq) : Option Dev :=
  if I.moor w && !s.moorOk && (s.txLow || s.rxLow) then
    let s' := { beginWait s e 2 with fe := .moor s.txLow s.rxLow, txLow := false, rxLow := false }
    some ((d.putSeq p s').raise (Ev.lockLow p))
  else none

/-- The record after a moored instruction has been decoded. -/
def moorPass (w : Nat) (s : Seq) : Seq :=
  if I.moor w then { s with moorOk := false, txLow := false, rxLow := false } else s

/-- Queue a segment (R120): it takes the pending not-before time, SYNC and local SETs to its first vector (R137, R139). -/
def pushSeg (s : Seq) (w src count copies e pcv : Nat) : Seq :=
  if count = 0 then { s with lastSeg := none }
  else
    let g : Seg :=
      { id := s.nextSeg, src := src, pc := pcv, raddr := I.raddr w, count := count, copies := copies, issued := 0,
        wsm := I.wsm w, rxrec := I.rxrec w && decide (src < 3) && decide (I.op w ≠ 10), mark := I.mark w, apc := I.apc w,
        restart := I.bit100 w, decode := e, nb := s.nb, sync := s.sync, nbPad := s.nbPad, sets := s.sets }
    { s with segs := s.segs ++ [g], nextSeg := s.nextSeg + 1, lastSeg := some s.nextSeg, nb := [], sync := [], sets := [] }

/-- `FLOW` of an issuing instruction (R135); none for a stack error. -/
def doFlow (d : Dev) (p w e : Nat) (s : Seq) : Dev :=
  let next := (d.pc p + 1) % 16384
  let go := fun (s : Seq) (t : Nat) => (d.putSeq p s).setPc p t
  match I.flow w with
  | 0 => go s next
  | 1 => go s (I.target w)
  | 2 => d.condJump p s s.lastSeg (I.cond w) (I.csel w) (I.target w) next (I.pad w) e
  | 3 => match callPush s next with | some s => go s (I.target w) | none => d
  | 4 => match retPop s with | some r => go r.1 r.2 | none => d
  | _ => match loopEnd s next with | some r => go r.1 r.2 | none => d

/-- The `FLOW` of an issuing instruction is a stack error (R136). -/
def flowBad (w : Nat) (s : Seq) : Bool :=
  match I.flow w with
  | 3 => (callPush s 0).isNone
  | 4 => (retPop s).isNone
  | 5 => (loopEnd s 0).isNone
  | _ => false

/-- ISSUE, APG_RUN, IDLE: mooring, room in the segment queue, then the segment and its flow.  A stack error in the flow stops the
instruction before it issues (DEDUCED, log 21). -/
def issueOp (d : Dev) (p op : Nat) : Dev :=
  match d.fetchOp p op with
  | none => d
  | some (w, e, s) =>
    if 2 ≤ s.segs.length ∧ I.count w ≠ 0 ∧ flowBad w s = false then d
    else match d.moorStall p w e s with
    | some d => d
    | none =>
      let s := moorPass w s
      if flowBad w s then (d.putSeq p s).stackError p
      else
        let src := if op = 1 then I.src w else op
        d.doFlow p w e (pushSeg s w src (I.count w) 1 e (d.pc p))

/-! ### Other instructions -/

/-- LOOP (R136). -/
def loopOp (d : Dev) (p : Nat) : Dev :=
  match d.fetchOp p 4 with
  | none => d
  | some (w, _, s) =>
    let n := if I.bit100 w then d.rn (R.seqCnt p (I.csel w)) else I.count w
    if n = 0 then (d.putSeq p s).setPc p (I.target w + 1)
    else if 8 ≤ s.loops.length then (d.putSeq p s).stackError p
    else
      let pc1 := (d.pc p + 1) % 16384
      (d.putSeq p { s with loops := (pc1, n, s.calls.length) :: s.loops }).setPc p pc1

/-- ENDLOOP (R136). -/
def endloopOp (d : Dev) (p : Nat) : Dev :=
  match d.fetchOp p 5 with
  | none => d
  | some (_, _, s) =>
    match loopEnd s (d.pc p + 1) with
    | none => (d.putSeq p s).stackError p
    | some r => (d.putSeq p r.1).setPc p r.2

/-- CALL (R136). -/
def callOp (d : Dev) (p : Nat) : Dev :=
  match d.fetchOp p 6 with
  | none => d
  | some (w, _, s) =>
    match callPush s ((d.pc p + 1) % 16384) with
    | none => (d.putSeq p s).stackError p
    | some s => (d.putSeq p s).setPc p (I.target w)

/-- RET (R136). -/
def retOp (d : Dev) (p : Nat) : Dev :=
  match d.fetchOp p 7 with
  | none => d
  | some (_, _, s) =>
    match retPop s with
    | none => (d.putSeq p s).stackError p
    | some r => (d.putSeq p r.1).setPc p r.2

/-- JUMP. -/
def jumpOp (d : Dev) (p : Nat) : Dev :=
  match d.fetchOp p 8 with
  | none => d
  | some (w, _, s) => (d.putSeq p s).setPc p (I.target w)

/-- JUMP_IF (R133, R142). -/
def jumpIfOp (d : Dev) (p : Nat) : Dev :=
  match d.fetchOp p 9 with
  | none => d
  | some (w, e, s) =>
    d.condJump p s s.lastSeg (I.cond w) (I.csel w) (I.target w) ((d.pc p + 1) % 16384) (I.pad w) e

/-- Vectors per beat of a period (R125). -/
def beatSize (period24 : Nat) : Nat :=
  if 65536 * 2 ^ 24 ≤ period24 then 1 else if 32768 * 2 ^ 24 ≤ period24 then 2 else if 16384 * 2 ^ 24 ≤ period24 then 4
  else if 8192 * 2 ^ 24 ≤ period24 then 8 else if 4096 * 2 ^ 24 ≤ period24 then 16 else 32

/-- Copies of the body in one MATCH unit (R147). -/
def matchCopies (b count : Nat) : Nat :=
  let n := ceilDiv count b
  if 4 ≤ n then 1 else ceilDiv 4 n

def setMatchLast (d : Dev) (p units : Nat) (held : Bool) : Dev :=
  d.setN (R.seqMatchLast p) (b2n held * 2 ^ 31 + units % 2 ^ 16)

/-- MATCH (R147): the first unit is queued; the wait begins when a unit ends (R123, `unitEnd`). -/
def matchOp (d : Dev) (p : Nat) : Dev :=
  match d.fetchOp p 10 with
  | none => d
  | some (w, e, s) =>
    if 2 ≤ s.segs.length ∧ I.count w ≠ 0 ∧ I.limit w ≠ 0 then d
    else match d.moorStall p w e s with
    | some d => d
    | none =>
      let s := moorPass w s
      if I.count w = 0 ∨ I.limit w = 0 then
        ((d.putSeq p { s with lastSeg := none }).setMatchLast p 0 false).setPc p (d.pc p + 1)
      else
        let r := matchCopies (beatSize (d.tsPfx p s.issueTs)) (I.count w)
        let g := s.nextSeg
        let s := pushSeg s w 0 (I.count w) r e (d.pc p)
        d.putSeq p { s with fe := .match_ g 1 }

/-- Add one to `SEQ_WAIT_LATE` (R139). -/
def waitLate (d : Dev) (p : Nat) : Dev := d.cnt (R.seqWaitLate p) F.all 1

/-- The first launch that R124 gives, for the starting timing set. -/
def firstLaunch (d : Dev) (p : Nat) (s : Seq) (cs : Nat) : Nat :=
  d.boundAt p s.ts (max (d.wide (R.seqStartAt0 p) 3) (cs + issueLead))

/-- `SEQ_TREF` once it is fixed: the register after the first launch, and the value that c_s and `SEQ_START_AT` give before (R124). -/
def trefFixed (d : Dev) (p : Nat) (s : Seq) : Option Nat :=
  if s.tref then some (d.wide (R.seqTref0 p) 3) else s.cs.map (d.firstLaunch p s)

/-- WAIT_TIME (R139). -/
def waitTimeOp (d : Dev) (p : Nat) : Dev :=
  match d.fetchOp p 11 with
  | none => d
  | some (w, e, s) =>
    let rel := nbit w 111
    let late := if rel then (match d.trefFixed p s with | none => false | some t => decide (t + I.time w < e + decodeLead))
      else decide (I.time w < e + decodeLead)
    let d := if late then d.waitLate p else d
    (d.putSeq p { s with nb := s.nb ++ [(rel, I.time w)], nbPad := I.pad w }).setPc p (d.pc p + 1)

/-- SYNC (R139): T is found once the last vector before it has ended. -/
def syncOp (d : Dev) (p : Nat) : Dev :=
  match d.fetchOp p 14 with
  | none => d
  | some (w, e, s) =>
    (d.putSeq p { s with sync := s.sync ++ [(I.period w, I.phase w, e + decodeLead)], nbPad := I.pad w }).setPc p (d.pc p + 1)

/-- The SQCLK edge at which a TRIG_IN change at `t` is first seen: the second after it (R140). -/
def trigSeenAt (d : Dev) (t : Nat) : Nat := d.edgeAt sqclk (t + 1) + sqclk

/-- Level of TRIG_IN[k] that a port sees at SQCLK edge `E`: each change not yet seen is undone (R140). -/
def trigSeen (d : Dev) (k E : Nat) : Bool :=
  nbit d.pins.trigIn k != decide ((d.pins.trigAt.filter (fun x => x.1 == k && decide (E < d.trigSeenAt x.2))).length % 2 = 1)

/-- The changes still kept once ball `k` changes at `t`: those that are seen after `t`. -/
def trigChanges (d : Dev) (k t : Nat) : List (Nat × Nat) :=
  (k, t) :: d.pins.trigAt.filter (fun x => decide (t < d.trigSeenAt x.2))

/-- The condition of WAIT_EVENT as it is sampled at SQCLK edge `E` (Table 5-5, R140). -/
def eventCond (d : Dev) (p w E : Nat) : Bool :=
  let ev := nbits w 111 108
  let c := if ev < 4 then d.trigSeen ev E else if ev = 4 then d.triggered p else nbit (d.rn (R.seqHflag p)) (ev - 5)
  c != nbit w 100

/-- WAIT_EVENT (R140): decoded, or sampled again while the front end holds it.  Where the condition holds at edge E, the next
instruction is decoded at E. -/
def waitEventOp (d : Dev) (p : Nat) : Dev :=
  let go := fun (d : Dev) (w : Nat) (s : Seq) =>
    let E := max (decodeEdge s) (d.edgeAt sqclk d.now)
    if d.eventCond p w E then (d.putSeq p { s with fe := .run, decoded := E - sqclk }).setPc p (d.pc p + 1)
    else d.putSeq p s
  match (d.seqOf p).fe with
  | .event _ => if d.seqState p = 2 then go d (d.instrAt p (d.pc p)) (d.seqOf p) else d
  | _ =>
    match d.fetchOp p 12 with
    | none => d
    | some (w, e, s) =>
      let dl := if I.timeout w = 0 then none else some (e + I.timeout w * sqclk)
      go d w { beginWait s e (I.pad w) with fe := .event dl }

/-- WAIT_EVENT times out (R140): the front end continues at TARGET. -/
def waitEventTimeout (d : Dev) (p : Nat) : Dev :=
  let s := d.seqOf p
  let w := d.instrAt p (d.pc p)
  match s.fe with
  | .event (some dl) =>
    if d.seqState p = 2 && !d.eventCond p w dl then
      ((d.putSeq p { s with fe := .run, decoded := dl - sqclk }).setPc p (I.target w)).raise (Ev.waitTimeout p)
    else d
  | _ => d

/-- SET in LOCAL mode (R137): counters at decode, the rest with the next program vector. -/
def setLocalOp (d : Dev) (p : Nat) : Dev :=
  match d.fetchOp p 13 with
  | none => d
  | some (w, _, s) =>
    if I.setMode w ≠ 0 then d
    else
      let t := I.ltgt w
      let d := d.setPc p (d.pc p + 1)
      if t < 4 then (d.putSeq p s).setN (R.seqCnt p t) (I.data w)
      else if t < 8 then (d.putSeq p s).setN (R.seqCnt p (t - 4)) ((d.rn (R.seqCnt p (t - 4)) + I.data w) % 2 ^ 32)
      else (d.putSeq p { s with sets := s.sets ++ [(t, I.data w)] }).sjJudge p

/-- SET in TIMED mode (R138): a one-word timed command through the port's own staging set, or held until SEQ_TREF is fixed.  The
entry words go to `push`. -/
def setTimedOp (push : Dev → Nat → List Nat → Dev) (d : Dev) (p : Nat) : Dev :=
  let go := fun (d : Dev) (w : Nat) (s : Seq) (tref : Nat) =>
    let t := (tref + I.offset w) % 2 ^ 80
    let d := (d.putSeq p { s with fe := .run }).setPc p (d.pc p + 1)
    push d (3 + p) [t % 2 ^ 32, t / 2 ^ 32 % 2 ^ 32, t / 2 ^ 64, 2 ^ 22 + I.addr w, I.data w, 0, 0, 0]
  match (d.seqOf p).fe with
  | .timed =>
    let s := d.seqOf p
    match d.trefFixed p s with
    | some t =>
      if d.seqState p = 2 then go d (d.instrAt p (d.pc p)) { s with decoded := max (decodeEdge s) (d.edgeAt sqclk d.now) } t else d
    | none => d
  | _ =>
    match d.fetchOp p 13 with
    | none => d
    | some (w, e, s) =>
      if I.setMode w ≠ 2 then d
      else match d.trefFixed p s with
      | some t => go d w s t
      | none => d.putSeq p { markWait s e with fe := .timed }

/-- HALT (R141). -/
def haltOp (d : Dev) (p : Nat) : Dev :=
  match d.fetchOp p 15 with
  | none => d
  | some (_, e, s) =>
    ((d.putSeq p { markWait s e with fe := .off, idleOnly := true }).setSeqState p 3).raise (Ev.seqHalt p)

/-- Every compare of a segment is in, and the last one's A(v) is known: the decision edge E (R144). -/
def decideAt (d : Dev) (s : Seq) (g : Nat) : Option Nat :=
  let r := segRes s g
  match r.aLast with
  | some a => if r.open_ = 0 then some (d.edgeAt sqclk a) else none
  | none => none

/-- COMPARE_DECISION (R144, R147). -/
def compareDecision (d : Dev) (p : Nat) : Dev :=
  let s := d.seqOf p
  if d.seqState p ≠ 2 then d
  else match s.fe with
  | .cmp g target next cond =>
    match d.decideAt s g with
    | none => d
    | some E =>
      let held := (segRes s g).fail == (cond == 0)
      (d.putSeq p { s with fe := .run, decoded := max s.decoded (E - sqclk) }).setPc p (if held then target else next)
  | .match_ g units =>
    match d.decideAt s g with
    | none => d
    | some E =>
      let w := d.instrAt p (d.pc p)
      let held := (segRes s g).fail == (I.cond w == 0)
      if held then
        ((d.putSeq p { s with fe := .run, decoded := max s.decoded (E - sqclk) }).setMatchLast p units true).setPc p (d.pc p + 1)
      else if units < I.limit w then
        let r := matchCopies (beatSize (d.tsPfx p s.issueTs)) (I.count w)
        let g' := s.nextSeg
        let s := pushSeg { s with decoded := max s.decoded E } w 0 (I.count w) r E (d.pc p)
        let s := { s with segs := s.segs.map (fun (x : Seg) => if x.id = g' then { x with mark := none } else x) }
        d.putSeq p { s with fe := .match_ g' (units + 1) }
      else
        (((d.putSeq p { s with fe := .run, decoded := max s.decoded (E - sqclk) }).setMatchLast p units false).setPc p (I.target w)).raise
          (Ev.matchTimeout p)
  | _ => d

/-- Each side that caused a mooring stall is at or above its high weir, or can get no further (R152). -/
def moorFree (d : Dev) (p : Nat) (tx rx : Bool) : Bool :=
  let s := d.seqOf p
  (!tx || s.tx.ended || decide (d.rf (R.lksTxWeir p) F.lksTxWeirH ≤ txFill s)) &&
  (!rx || s.rx.ended || decide (d.rf (R.lksRxWeir p) F.lksRxWeirH ≤ d.rf (R.lksRxFill p) F.lksRxFillFree))

/-- MOORING_RELEASE (R152): the front end goes on to decode the moored instruction. -/
def mooringRelease (d : Dev) (p : Nat) : Dev :=
  let s := d.seqOf p
  match s.fe with
  | .moor tx rx =>
    if d.seqState p = 2 && d.moorFree p tx rx then
      let e := max (decodeEdge s) (d.edgeAt sqclk d.now)
      d.putSeq p { s with fe := .run, moorOk := true, decoded := e - sqclk }
    else d
  | _ => d

end Dev
end Sys2Proof.Machine
end

