-- ==== Sys2Proof/Machine/TimedApply.lean ====
section
/-! DEFINITION. Timing-affecting changes (R89, R193, R203 to R206, R210), seams, the limits that a change of period is judged on
(R33, R131, R211, R287), and the power cap's aggregate. -/
namespace Sys2Proof.Machine
namespace Dev

/-- Port of a port, `FCH` or `UCH` page. -/
def pagePort (page : Nat) : Nat :=
  if page < 0x200 then (page - 0x100) / 0x40 else if page < 0x240 then (page - 0x200) / 8 else (page - 0x240) / 16

/-- The timing set whose boundaries a register follows: none for the DDS (R89). -/
def affSet (d : Dev) (addr : Nat) : Option Nat :=
  match pageOf (addr / 0x1000) with
  | some (.tsa, _) => some ((addr % 0x1000 - 0x100) / 0x40)
  | some (.dds, _) => none
  | _ => some (d.seqOf (pagePort (addr / 0x1000))).ts

/-- The unit behind a timing-affecting register is in use, so that a change waits for a boundary (R193, R210). -/
def affInUse (d : Dev) (addr : Nat) : Bool :=
  let page := addr / 0x1000
  let p := pagePort page
  match pageOf page with
  | some (.tsa, _) => d.setInUse p ((addr % 0x1000 - 0x100) / 0x40)
  | some (.dds, _) => d.running p || d.toneOn p
  | _ => d.running p

/-- Time at the pins of a port: the next UI start while it launches, else the GTC. -/
def pinTime (d : Dev) (p : Nat) : Nat := if (d.seqOf p).tref then (d.seqOf p).nextUi else d.now

/-- When a waiting change applies: at its boundary on the grid in force (R193, R206), or at an HCLK edge where there is no boundary to
wait for (R89). -/
def dueAt (d : Dev) (c : PendCh) : Nat :=
  let p := pagePort (c.addr / 0x1000)
  if c.bare then d.edgeAt hclk c.from_
  else match d.affSet c.addr with
  | some s => d.boundAt p s c.from_
  | none =>
    let e := d.ddsEpoch p
    let k := ((c.from_ : Int) - e + 32767) / 32768
    ((e : Int) + 32768 * k).toNat

/-- The change is due. -/
def isDue (d : Dev) (c : PendCh) : Bool :=
  if c.bare then decide (d.dueAt c ≤ d.now)
  else
  let p := pagePort (c.addr / 0x1000)
  let launching := (d.seqOf p).tref && (match d.affSet c.addr with | some s => s == (d.seqOf p).ts | none => false)
  decide (d.dueAt c ≤ if launching then d.pinTime p else max d.now (d.pinTime p))

/-- Put words in force. -/
def liveWords (d : Dev) (addr : Nat) : List Word → Dev
  | [] => d
  | w :: ws => (d.setLive addr w).liveWords (addr + 4) ws

/-- A timing-affecting value takes effect at `t`: levels move with their codes (R255), and a PMU register acts by its own rules
(R261, R264, R265). -/
def takeEffect (d : Dev) (t addr : Nat) (ws : List Word) : Dev :=
  match pageOf (addr / 0x1000) with
  | some (.uch, m) =>
    if addr % 0x1000 = 0x5C then d.pmuApply m t ((ws.head?).getD 0)
    else
      let d := d.liveWords addr ws
      let d := if addr % 0x1000 = 0x48 then d.clampJudge m else d
      if (levelReg addr).isSome then d.levelsAt (32 + m) t else d
  | some (.fch, n) =>
    let d := d.liveWords addr ws
    if (levelReg addr).isSome then d.levelsAt n t else d
  | _ => d.liveWords addr ws

/-! ### What a change of period is judged on -/

/-- Judge the running aggregate (R32, R33): `CAP_OVER` follows it under CAPPED and reads 0 under FULL; the event is raised as it
begins. -/
def capJudge (d : Dev) : Dev :=
  let above := d.rb R.glbProfile F.glbProfilePower && d.overCap ([0, 1, 2, 3].filter d.running)
  let was := d.rb R.glbProfile F.glbProfileCapOver
  let d := d.wf R.glbProfile F.glbProfileCapOver (b2n above)
  if above && !was then d.raise Ev.capOver else d

/-- Judge the utility UI (R131). -/
def utilRateBad (d : Dev) (p s : Nat) : Bool := decide (d.rn (R.seqUdiv p) * d.tsPfx p s < 32768 * 2 ^ 24)

/-- Gains of a CDR preset for a period (R287).  DESIGN CHOICE (log 22): the spec characterises the presets and gives no numbers, so
the gains are free values. -/
def cdrPreset (d : Dev) (p : Nat) : Dev :=
  (List.range 8).foldl (fun d c =>
    let n := 8 * p + c
    let pre := d.rf (R.fchCdrCfg n) F.fchCdrCfgPreset
    if pre = 0 then d
    else
      let per := d.tsInt p (d.seqOf p).ts
      let v := Config.freeValue (pre * 2 ^ 32 + per)
      d.set (R.fchCdrGain n) (fset (BitVec.ofNat 32 v) F.fchCdrGainNupdLog2 (v / 2 ^ 28 % 9))) d

/-- What follows once the period or the set at the pins has changed. -/
def afterPeriod (d : Dev) (p s : Nat) : Dev :=
  let d := if d.utilRateBad p s then d.raise (Ev.utilRate p) else d
  (d.cdrPreset p).capJudge

/-- Record a seam of non-zero length on a set in use (R205). -/
def seamRecord (d : Dev) (p s bo len : Nat) : Dev :=
  if len = 0 then d
  else
    let d := (d.setN (R.tsSeamLen p s) len).setWide (R.tsSeamAt0 p s) 3 bo
    (d.cnt (R.tsStat p s) F.tsStatSeams 1).raise (Ev.tsSeam p)

/-- A change completes: the timed command behind it ends (R92). -/
def changeDone (d : Dev) (c : PendCh) (t : Nat) : Dev :=
  match c.cmd with
  | none => d
  | some (tag, notify, late) => d.tcqEnd (if late then 1 else 0) tag notify t

/-- The grid of a set changes with this register: period, epoch or spread (R203). -/
def gridReg (addr : Nat) : Bool :=
  match pageOf (addr / 0x1000) with
  | some (.tsa, _) => decide ((addr % 0x1000 - 0x100) % 0x40 < 0x1C)
  | _ => false

/-- The boundary at which changes of the grid of set `q` apply, the last one where several are due. -/
def gridAt (d : Dev) (q : Nat) (times : List (PendCh × Nat)) : Option Nat :=
  (times.filter (fun x => gridReg x.1.addr && d.affSet x.1.addr == some q)).getLast?.map Prod.snd

/-- Apply the changes of a port that are due, in order; changes at one boundary apply together and make one seam (R203, R206), which
is recorded where the set is in use (R205). -/
def applyDue (d : Dev) (p : Nat) : Dev :=
  let mine := d.pend.filter (fun c => pagePort (c.addr / 0x1000) == p && d.isDue c)
  if mine.isEmpty then d
  else
    let s := d.seqOf p
    let bo := s.nextUi
    let rest := d.pend.filter (fun c => !(pagePort (c.addr / 0x1000) == p && d.isDue c))
    let times := (mine.map (fun c => (c, d.dueAt c))).foldl (fun l x => insertBy Prod.snd x l) []
    let seams := (List.range 16).filterMap (fun q =>
      if (s.tref && q == s.ts) || !d.setInUse p q then none else (d.gridAt q times).map (fun b => (q, b)))
    let grid := (d.gridAt s.ts times).isSome
    let d := { d with pend := rest }
    let d := times.foldl (fun d c => d.takeEffect c.2 c.1.addr c.1.data) d
    let d := if grid && s.tref then
        let bn := d.boundAt p s.ts bo
        (d.putSeq p { s with nextUi := bn }).seamRecord p s.ts bo (bn - bo)
      else d
    let d := seams.foldl (fun (d : Dev) x => d.seamRecord p x.1 x.2 (d.boundAt p x.1 x.2 - x.2)) d
    let d := if mine.any (fun c => gridReg c.addr) && d.running p then d.afterPeriod p s.ts else d
    let d := d.sjJudge p
    times.foldl (fun d c => d.changeDone c.1 c.2) d

/-- A timing-affecting write of the register fabric (R193): at once where the unit is not in use, else at a boundary at least 100 ns
(5,242,880 ticks) later.  `words` are the words of the value, lowest first. -/
def timingWrite (d : Dev) (path addr : Nat) (words : List Word) : Dev :=
  if d.affInUse addr then
    { d with pend := d.pend ++ [⟨addr, words, path, d.fabricTime path + 5242880, false, none⟩] }
  else
    let d := d.takeEffect (d.fabricTime path) addr words
    d.sjJudge (pagePort (addr / 0x1000))

/-- Some change of set `s` waits (`TSs_STAT.PENDING`, R193). -/
def setWaits (d : Dev) (p s : Nat) : Bool :=
  d.pend.any (fun c => pagePort (c.addr / 0x1000) == p && (match pageOf (c.addr / 0x1000) with
    | some (.tsa, _) => (c.addr % 0x1000 - 0x100) / 0x40 == s | _ => false))

end Dev
end Sys2Proof.Machine
end

