-- ==== Sys2Proof/Machine/Drive.lean ====
section
/-! DEFINITION. Edge placement, formatters, drive stages and lane encoders (07_timing_generators.md R194 to R201,
08_formatters_and_drive.md R221 to R241, 06_algorithmic_generators_and_codecs.md R179 to R186). -/
namespace Sys2Proof.Machine
namespace Dev

def fcReady (d : Dev) (n : Nat) : Bool := d.rb (R.fchDrvStat n) F.fchDrvStatReady
def ucReady (d : Dev) (m : Nat) : Bool := d.rb (R.uchDrvStat m) F.uchDrvStatReady

/-- A 24-bit signed register in force. -/
def lsext (d : Dev) (a : Nat) : Int := sext 24 (d.lv a).toNat

/-! ### Placing an edge (R71, R194, R196) -/

/-- How R71 splits a time: RCLK cycle, PLL phase, DTC step. -/
def dtcSplit (d : Dev) (x : Int) : Int × Int × Int :=
  let u := x - d.rn R.gtcPhase
  (u / 4096, u % 4096 / 256, u % 256)

/-- W_min of a fast and of a utility channel (R196). -/
def wMinFast : Int := 1024
def wMinUtil : Int := 32768

/-- Order check of R196: the time at which the edge is placed, and whether it was clamped. -/
def orderCheck (w : Int) (last : Option Int) (x : Int) : Int × Bool :=
  match last with
  | none => (x, false)
  | some l => if x < l + w then (l + w, true) else (x, false)

/-- The level code of a release into the non-driving state. -/
def relCode : Int := 1000000

/-- Place a drive edge. -/
def placeDrv (w x lvl : Int) (c : Chan) : Chan × Bool :=
  let r := orderCheck w c.lastDrv x
  ({ c with lastDrv := some r.1, edges := c.edges ++ [(r.1, lvl)], level := if lvl = relCode then c.level else lvl,
            driven := c.driven || decide (lvl ≠ relCode) }, r.2)

/-- Place a strobe of slicer `k`. -/
def placeStb (w : Int) (k : Nat) (x : Int) (c : Chan) : Chan × Bool :=
  let last := (c.lastStb.find? (fun s => s.1 == k)).map Prod.snd
  let r := orderCheck w last x
  ({ c with lastStb := (k, r.1) :: c.lastStb.filter (fun s => s.1 != k), stbs := c.stbs ++ [(k, r.1)] }, r.2)

/-- Count clamps and raise the event (R196). -/
def clampNote (d : Dev) (i : Nat) (drv stb : Nat) : Dev :=
  if drv + stb = 0 then d
  else if i < 32 then
    ((d.cnt (R.fchClamp i) F.fchClampDrv drv).cnt (R.fchClamp i) F.fchClampStb stb).raise (Ev.edgeOrder i)
  else
    let m := i - 32
    ((d.cnt (R.uchEclamp m) F.uchEclampDrv drv).cnt (R.uchEclamp m) F.uchEclampStb stb).raise (Ev.ucEdgeOrder m)

/-! ### Formats (R223 to R225, Tables 8-1, 8-2) -/

/-- PAM level of a symbol, in 1/2,048 (Table 8-2); none: no transition. -/
def pamLevel (d : Dev) (n fmt sym : Nat) : Option Int :=
  let l1 : Int := d.lf (R.fchPam n) F.fchPamL1
  let l2 : Int := d.lf (R.fchPam n) F.fchPamL2
  let a1 := -2048 + 2 * l1
  let a2 := -2048 + 2 * l2
  let gray := d.lf (R.fchDrvCfg n) F.fchDrvCfgGray = 1
  if fmt = 6 then
    some (match sym with | 0 => -2048 | 1 => a1 | 2 => if gray then 2048 else a2 | _ => if gray then a2 else 2048)
  else match sym with
    | 0 => some (-2048)
    | 1 => some ((a1 + a2) / 2)
    | 2 => some 2048
    | _ => none

/-- The format edges of a driving UI: which offset (0 D0, 1 D1, 2 the SBC leader) and the level. -/
def fmtEdges (h l : Int) (fmt : Nat) (hi : Bool) : List (Nat × Int) :=
  let v := if hi then h else l
  let nv := if hi then l else h
  match fmt with
  | 1 => [(0, v)]
  | 2 => [(0, v), (1, l)]
  | 3 => [(0, v), (1, h)]
  | 4 => [(2, nv), (0, v), (1, nv)]
  | _ => []

/-! ### Emphasis (R228, R229) -/

/-- Level set in force of a fast channel (R257). -/
def fcLset (d : Dev) (n : Nat) : Nat := d.rf (R.fchLvlStat n) F.fchLvlStatSet

/-- Pre and post taps in 2⁻¹⁶, limited to their ranges (R253) and scaled so that their sum is at most one half (R229). -/
def emphTaps (d : Dev) (n : Nat) : Nat × Nat × Bool :=
  let s := d.fcLset n
  let pre := min 16384 (d.lf (R.fchLs2 n s) F.fchLs2Code)
  let post := min 29491 (d.lf (R.fchLs3 n s) F.fchLs3Code)
  if 32768 < pre + post then (pre * 32768 / (pre + post), post * 32768 / (pre + post), true) else (pre, post, false)

/-- V(k) in 1/2,048 of S/2, scaled by 65,536 (R228). -/
def emphValue (pre post : Nat) (prev cur next : Int) : Int :=
  (65536 - (pre : Int) - post) * cur - pre * next - post * prev

/-- Advance the emphasis neighbourhood: the last UI's output is known once the next UI is (R228).  `a`: the level of the new UI, none
where it does not count as a neighbour. -/
def emphShift (d : Dev) (n : Nat) (a : Option Int) (taps : Nat) (c : Chan) : Chan :=
  let t := d.emphTaps n
  let next := a.getD c.aCur
  let v := emphValue (if nbit c.taps 0 then t.1 else 0) (if nbit c.taps 1 then t.2.1 else 0) c.aPrev c.aCur next
  let v := if d.lf (R.fchDrvCfg n) F.fchDrvCfgInv = 1 then -v else v
  let cur := a.getD c.aCur
  let counted := nbit c.taps 2
  { c with vOut := if counted then v else c.vOut, aPrev := if counted then c.aCur else cur, aCur := cur,
           taps := taps + (if a.isSome then 4 else 0) }

/-! ### A fast channel's drive in one UI (R221 to R238) -/

/-- What a UI gives a channel. -/
structure UiIn where
  t : Nat
  ts : Nat
  wset : Nat
  sym : Nat

/-- Jitter and deskew of drive edges of a UI: base time with the implied terms (R222), and the random-jitter sigma if drawn. -/
def drvBase (d : Dev) (p : Nat) (u : UiIn) (dsk : Int) : Int :=
  let sj := R.tsSj p u.ts
  u.t + dsk + (if d.lf sj F.tsSjSjDrv = 1 ∧ d.sjAmp p u.ts ≠ 0 then d.sjTerm p u.ts u.t else 0)

/-- Place the format edges of a UI in order, with random jitter where it applies. -/
def placeEdges (rjOn : Bool) (sigma : Nat) (w base : Int) (ofs0 ofs1 : Nat) : List (Nat × Int) → Chan → Nat → Chan × Nat
  | [], c, k => (c, k)
  | (e, lvl) :: es, c, k =>
    let imp := e == 2
    let r := if rjOn && !imp then rjTerm sigma c.rj else (0, c.rj)
    let x := base + (if imp then 0 else if e = 0 then (ofs0 : Int) else ofs1) + r.1
    let q := placeDrv w x lvl { c with rj := r.2 }
    placeEdges rjOn sigma w base ofs0 ofs1 es q.1 (k + b2n q.2)

/-- Take a release or an entry edge where the UI calls for one (R222). -/
def implied (w base : Int) (driving : Bool) (c : Chan) : Chan × Nat :=
  if driving && !c.on then
    let q := placeDrv w base (if c.driven then c.level else -2048) c
    ({ q.1 with on := true }, b2n q.2)
  else if !driving && c.on then
    let q := placeDrv w base relCode c
    ({ q.1 with on := false }, b2n q.2)
  else (c, 0)

/-- Show the driver (`HS_ON`): on in a driving UI, and under NDS HOLD. -/
def showHs (d : Dev) (n : Nat) (c : Chan) (lp : Bool) : Dev :=
  let on := !lp && (c.on || d.lf (R.fchDrvCfg n) F.fchDrvCfgNds == 2)
  (d.wf (R.fchDrvStat n) F.fchDrvStatHsOn (b2n on)).wf (R.fchDrvStat n) F.fchDrvStatLpOn (b2n lp)

/-- The wave set's drive part of one UI on fast channel `n` with formatter symbol `u.sym`.  `trio`: 0 none, 1 the even channel of a
trio that drives, 2 a trio that does not, 3 the odd channel of a trio. -/
def fcDrive (d : Dev) (n : Nat) (u : UiIn) (trio : Nat) : Dev :=
  let p := n / 8
  let ctrl := d.lv (R.wsCtrl n u.wset)
  let role := fget ctrl F.wsCtrlRole
  let fmt := fget ctrl F.wsCtrlFormat
  let current := d.lf (R.fchDrvCfg n) F.fchDrvCfgMode = 1
  let wantDrive := role = 1 ∨ role = 3
  let mism := current ∧ wantDrive ∧ 5 ≤ fmt
  let d := if mism then d.cnt (R.fchDrvCnt n) F.fchDrvCntSplitMis 1 else d
  let driving := decide wantDrive && !decide mism && (trio == 0 || trio == 1)
  let c := d.chan n
  let base := d.drvBase p u (d.lsext (R.fchDskDrv n))
  let r0 := implied wMinFast base driving c
  let lvl := d.pamLevel n fmt u.sym
  let es := if !driving then []
    else if trio = 1 then [(0, (8192 : Int) + u.sym)]
    else if fmt ≤ 4 then fmtEdges 2048 (-2048) fmt (nbit u.sym 0)
    else if fmt = 7 then [(0, (4096 : Int) + u.sym)]
    else [(0, lvl.getD r0.1.level)]
  let rj := R.tsRj p u.ts
  let r1 := placeEdges (d.lf rj F.tsRjRjDrv == 1) (d.lf rj F.tsRjRjSigma) wMinFast base (d.lf (R.wsD0 n u.wset) F.wsD0Ofs)
    (d.lf (R.wsD1 n u.wset) F.wsD1Ofs) es r0.1 r0.2
  let counts := driving && !current && (fmt == 1 || fmt == 5 || fmt == 6)
  let c := d.emphShift n (if counts then some r1.1.level else none)
    (if counts then fget ctrl F.wsCtrlEmphPre + 2 * fget ctrl F.wsCtrlEmphPost else 0) r1.1
  -- EMPH_LIM shows the taps of the last UI that had any (R229)
  let d := if counts then d.wf (R.fchDrvStat n) F.fchDrvStatEmphLim (b2n (d.emphTaps n).2.2) else d
  ((d.putChan n c).showHs n c false).clampNote n r1.2 0

/-! ### Codecs on the transmit side (R179 to R186) -/

def cdcMode (d : Dev) (n : Nat) : Nat := d.rf (R.cdcCfg (n / 8) (n % 8)) F.cdcCfgMode

/-- UIs of a code group (Table 6-7). -/
def groupLen (mode : Nat) : Nat := match mode with | 1 => 10 | 2 => 18 | 3 => 10 | 4 => 132 | 5 => 8 | 7 => 7 | _ => 1

/-- Fast channel `n` is the even or the odd channel of a trio: 0 no, 1 even, 2 odd (R180, R237). -/
def trioOf (d : Dev) (n : Nat) : Nat :=
  if d.cdcMode (n / 2 * 2) = 7 then 1 + n % 2 else 0

/-- Position of vector `k` in its transmit group (R179). -/
def groupPos (g ofs k : Nat) : Nat := (k + g - ofs % g) % g

/-- Encode a completed group: output bits and coder state (R181, R182). -/
def encodeGroup (d : Dev) (n mode w : Nat) (fill : Bool) (st : Nat) : Nat × Nat :=
  let cfg := R.cdcCfg (n / 8) (n % 8)
  let lane := d.rf cfg F.cdcCfgLane
  let scr := d.rb cfg F.cdcCfgScrEn
  let w := if fill && d.rb cfg F.cdcCfgFill then d.rn (R.cdcFill (n / 8) (n % 8)) else w
  (Config.encodeBits mode lane scr st w, Config.encodeNext mode lane scr st w)

/-- Add a UI to the group of a coded lane; at the group's last UI the group is encoded and its UIs are driven (R179). -/
def encUi (d : Dev) (n mode : Nat) (j : LaneJob) : Dev :=
  let c := d.chan n
  let g := groupLen mode
  let pos := groupPos g (d.rf (R.cdcGofs (n / 8) (n % 8)) F.cdcGofsTxOfs) j.n
  let grp := c.codec.grp ++ [j]
  if pos + 1 < g then d.putChan n { c with codec := { c.codec with grp := grp } }
  else
    let lead := g - grp.length
    let w := (List.range grp.length).foldl (fun w i =>
      w + (((grp[i]?).map LaneJob.sym).getD 0 % 2) * 2 ^ (lead + i)) 0
    let r := d.encodeGroup n mode w (grp.all (fun x => !x.prog)) c.codec.enc
    let d := d.putChan n { c with codec := { c.codec with grp := [], enc := r.2 } }
    (List.range grp.length).foldl (fun d i =>
      match grp[i]? with
      | none => d
      | some x => d.fcDrive n ⟨x.t, x.ts, x.wset, b2n (nbit r.1 (lead + i))⟩ 0) d

/-- The flag that gates HS bursts of a lane (R183). -/
def bflag (d : Dev) (n : Nat) : Bool :=
  let s := d.seqOf (n / 8)
  nbit (s.sflag ||| s.pulses) (d.rf (R.cdcCfg (n / 8) (n % 8)) F.cdcCfgBflag)

/-- Set an LP leg state; a transition sooner than 50 ns (2,621,440 ticks) after the leg's last one is delayed and counted (R233). -/
def lpLeg (d : Dev) (n : Nat) (t : Nat) (p nn : Nat) : Dev :=
  let c := d.chan n
  let one := fun (old new last : Nat) => if old = new then (last, 0) else if t < last + 2621440 then (last + 2621440, 1) else (t, 0)
  let a := one c.lp.1 p c.lpLast.1
  let b := one c.lp.2 nn c.lpLast.2
  let d := d.cnt (R.fchDrvCnt n) F.fchDrvCntLpSlow (a.2 + b.2)
  d.putChan n { c with lp := (p, nn), lpLast := (a.1, b.1) }

/-- One UI of a D-PHY data or clock lane, or of a C-PHY trio outside its HS groups (R183 to R186, R232): the burst machine.  The
answer is the HS bit to drive, none while the lane is in LP. -/
def dphyUi (d : Dev) (n mode : Nat) (j : LaneJob) : Dev × Option Nat :=
  let p := n / 8
  let c := d.chan n
  let k := c.codec
  let lpx := d.rf (R.cdcDphy0 p) F.cdcDphy0TLpx
  let prep := d.rf (R.cdcDphy0 p) F.cdcDphy0TPrep
  let tz := d.rf (R.cdcDphy1 p) F.cdcDphy1TZero
  let trail := d.rf (R.cdcDphy1 p) F.cdcDphy1TTrail
  let flag := d.bflag n
  let put := fun (d : Dev) (k : Codec) => d.putChan n { d.chan n with codec := k }
  let lpIdle := fun (d : Dev) (k : Codec) =>
    if (j.n - k.lpFrom) % 2 = 0 then (put d { k with lpSym := j.sym % 2 }, none)
    else (put (d.lpLeg n j.t k.lpSym (j.sym % 2)) k, none)
  let entry := fun (d : Dev) (k : Codec) (i : Nat) =>
    let k' := { k with burst := 1, cnt := i + 1 }
    if i < lpx then (put (d.lpLeg n j.t 0 1) k', none)
    else if i < lpx + prep then
      let k' := if mode = 7 ∧ i + 1 = lpx + prep then { k' with burst := 2, cnt := 0 } else k'
      (put (d.lpLeg n j.t 0 0) k', none)
    else if i < lpx + prep + tz then (put d { k' with lastHs := 0 }, some 0)
    else
      let q := i - lpx - prep - tz
      let bit := if mode = 6 then q % 2 else Config.dphyLeader / 2 ^ q % 2
      let k' := { k' with lastHs := bit }
      (put d (if q = 7 then { k' with burst := 2, cnt := 0 } else k'), some bit)
  match k.burst with
  | 0 => if flag then entry d k 0 else lpIdle d k
  | 1 => entry d k k.cnt
  | 2 =>
    let bound := mode == 6 || k.cnt % groupLen mode == 0
    if bound && !flag then (put d { k with burst := 3, cnt := 1, lastHs := k.lastHs }, some (1 - k.lastHs))
    else
      let bit := if mode = 6 then (1 - k.lastHs) else j.sym % 2
      (put d { k with cnt := k.cnt + 1, lastHs := bit }, some bit)
  | _ =>
    if k.cnt < trail then (put d { k with cnt := k.cnt + 1 }, some (1 - k.lastHs))
    else if flag then entry d { k with burst := 0, cnt := 0, lpFrom := j.n } 0
    else lpIdle d { k with burst := 0, cnt := 0, lpFrom := j.n }

/-- Wire state of a C-PHY trio for a UI in HS: the groups are encoded when complete, seven UIs of four bits each (R179, R237). -/
def cphyUi (d : Dev) (n : Nat) (j : LaneJob) : Dev :=
  let c := d.chan n
  let grp := c.codec.grp ++ [j]
  if grp.length < 7 then d.putChan n { c with codec := { c.codec with grp := grp } }
  else
    let w := (List.range 7).foldl (fun w i => w + ((grp[i]?).map LaneJob.sym).getD 0 % 16 * 16 ^ i) 0
    let r := d.encodeGroup n 7 w (grp.all (fun x => !x.prog)) c.codec.enc
    let d := d.putChan n { c with codec := { c.codec with grp := [], enc := r.2 } }
    (List.range 7).foldl (fun d i =>
      match grp[i]? with
      | none => d
      | some x =>
        let d := d.fcDrive n ⟨x.t, x.ts, x.wset, r.1 / 8 ^ i % 8⟩ 1
        -- leg C belongs to the odd channel and is moved by the difference of the two deskews
        let dk := d.lsext (R.fchDskDrv (n + 1)) - d.lsext (R.fchDskDrv n)
        d.putChan (n + 1) { d.chan (n + 1) with edges := (d.chan n).edges.map (fun e => (e.1 + dk, e.2)) }) d

/-- The lane drives LP in this UI: the HS driver is off (R232). -/
def lpDrive (d : Dev) (n : Nat) : Dev :=
  let c := { d.chan n with on := false }
  (d.putChan n c).showHs n c true

/-- A wave set that drives in format SPLIT. -/
def splitDrives (d : Dev) (n w : Nat) : Bool :=
  let c := d.lv (R.wsCtrl n w)
  fget c F.wsCtrlFormat == 7 && (fget c F.wsCtrlRole == 1 || fget c F.wsCtrlRole == 3)

/-- The drive of one vector on fast channel `n`, through its codec; `sym2`, `wset2`: those of the odd channel of a trio. -/
def fcPayload (d : Dev) (n : Nat) (j : LaneJob) (sym2 wset2 : Nat) : Dev :=
  let mode := d.cdcMode n
  let role := fget (d.lv (R.wsCtrl n j.wset)) F.wsCtrlRole
  let driving := role = 1 ∨ role = 3
  let lpEn := d.lf (R.fchLpCfg n) F.fchLpCfgLpEn = 1
  let rest := lpEn ∧ d.lf (R.fchLpCfg n) F.fchLpCfgLpRest = 1
  let tr := d.trioOf n
  if tr = 2 then
    -- the odd channel of a trio: its legs follow the even channel (R237)
    d
  else if tr = 1 then
    let r := d.dphyUi n 7 { j with sym := j.sym + 4 * sym2 }
    let d := r.1
    let hs := (d.chan n).codec.burst = 2
    let both := d.splitDrives n j.wset && d.splitDrives (n + 1) wset2
    let d := if d.splitDrives n j.wset != d.splitDrives (n + 1) wset2 then d.cnt (R.fchDrvCnt n) F.fchDrvCntSplitMis 1 else d
    if hs ∧ both then d.cphyUi n { j with sym := j.sym + 4 * sym2 }
    else if lpEn ∧ driving ∧ (d.chan n).codec.burst ≤ 1 then d.lpDrive n
    else if rest ∧ !driving ∧ !hs then ((d.lpLeg n j.t 1 1).lpLeg (n + 1) j.t 1 1).lpDrive n
    else d.fcDrive n ⟨j.t, j.ts, j.wset, 0⟩ 2
  else if mode = 0 then d.fcDrive n ⟨j.t, j.ts, j.wset, j.sym⟩ 0
  else if mode = 5 ∨ mode = 6 then
    let r := d.dphyUi n mode j
    match r.2 with
    | some b => r.1.fcDrive n ⟨j.t, j.ts, j.wset, b⟩ 0
    | none =>
      if lpEn ∧ driving then r.1.lpDrive n
      else if rest then (r.1.lpLeg n j.t 1 1).lpDrive n
      else r.1.fcDrive n ⟨j.t, j.ts, 0, 0⟩ 2
  else d.encUi n mode j

/-! ### Utility channels (R239, R240) -/

def uwsCtrl (d : Dev) (m w : Nat) : Word := d.lv (uchPage m + 0x100 + 0x10 * w + 0xC)

/-- Level code of a payload bit under `DMODE` (Table 8-7): a release is `relCode`. -/
def dmodeLevel (dm : Nat) (hi : Bool) : Int :=
  if hi then (if dm = 1 then relCode else 2048) else (if dm = 2 then relCode else -2048)

/-- The drive of one utility UI that begins at `t`. -/
def ucDrive (d : Dev) (m t wset sym : Nat) : Dev :=
  let ctrl := d.uwsCtrl m wset
  let role := fget ctrl ⟨6, 4⟩
  let fmt := fget ctrl ⟨3, 0⟩
  let driving := role = 1 ∨ role = 3
  let dm := d.lf (R.uchDrvCfg m) F.uchDrvCfgDmode
  let i := 32 + m
  let base := (t : Int) + d.lsext (R.uchDskDrv m)
  let r0 := implied wMinUtil base (decide driving) (d.chan i)
  let es := if driving then fmtEdges (dmodeLevel dm true) (dmodeLevel dm false) fmt (nbit sym 0) else []
  let a := uchPage m + 0x100 + 0x10 * wset
  let r1 := placeEdges false 0 wMinUtil base (d.lv a).toNat (d.lv (a + 4)).toNat es r0.1 r0.2
  (d.putChan i { r1.1 with uSym := sym, uWs := wset }).clampNote i r1.2 0

end Dev
end Sys2Proof.Machine
end

