-- ==== Sys2Proof/Machine/Apg.lean ====
section
/-! DEFINITION. The algorithmic pattern generator (06_algorithmic_generators_and_codecs.md, R162 to R178): address orders, data
functions, CRC, micro-program, packers and pixel-to-lane maps. -/
namespace Sys2Proof.Machine
namespace Dev

def apgOf (d : Dev) (p : Nat) : Apg := tget (fun _ => Apg.reset) d.apg p

/-- Store a port's APG and show it in `APG_STAT`, `APG_CRC` and `APG_K`. -/
def putApg (d : Dev) (p : Nat) (a : Apg) : Dev :=
  let d := { d with apg := tset (fun _ => Apg.reset) d.apg p a }
  let st := if a.ended.isSome then 3 else if a.seg.isSome then 1 else if a.saved then 2 else 0
  let d := d.setN (R.apgStat p) (st * 2 ^ 28 + a.upc * 2 ^ 16 + b2n a.wrapped * 2 ^ 8)
  let d := d.setN (R.apgCrc p) (a.crcCmp * 2 ^ 16 + a.crcTx)
  (d.setN (R.apgK0 p) (a.k % 2 ^ 32)).setN (R.apgK1 p) (a.y % 2 ^ 16 * 2 ^ 16 + a.x % 2 ^ 16)

/-! ### Address generator (R167, R168) -/

/-- Power of two. -/
def pow2 (n : Nat) : Bool := n != 0 && (n &&& (n - 1)) == 0

/-- The requirement of an order (Table 6-1). -/
def orderOk (xs ys order : Nat) (down swap : Bool) : Bool :=
  if order = 4 then pow2 xs && pow2 ys else if order = 5 then xs == ys else if order = 8 then !down && !swap else true

/-- (X, Y) of step `k` (Table 6-1). -/
def orderXY (xs ys order : Nat) (down swap : Bool) (k : Nat) : Nat × Nat :=
  let n := xs * ys
  let k' := if down then n - 1 - k else k
  let lin := fun (a : Nat) => if swap then (a / ys, a % ys) else (a % xs, a / xs)
  match order with
  | 1 => lin (n - 1 - k')
  | 2 =>
    let i := k' % xs
    (if i % 2 = 0 then i / 2 else xs - 1 - (i - 1) / 2, k' / xs)
  | 3 => lin (if k' % 2 = 0 then k' / 2 else n - 1 - (k' - 1) / 2)
  | 4 => lin (k' ^^^ (k' / 2))
  | 5 => (k' % xs, (k' % xs + k' / xs) % xs)
  | 6 =>
    let e := (ys + 1) / 2
    let r := k' / xs
    (k' % xs, if r < e then 2 * r else 2 * (r - e) + 1)
  | 7 =>
    let e := (xs + 1) / 2
    let c := k' / ys
    (if c < e then 2 * c else 2 * (c - e) + 1, k' % ys)
  | 8 => (k % xs, k / xs)
  | _ => lin k'

def apgXs (d : Dev) (p : Nat) : Nat := d.rn (R.apgXsize p)
def apgYs (d : Dev) (p : Nat) : Nat := d.rn (R.apgYsize p)

/-- Place (X, Y) by the order in force. -/
def apgPlace (d : Dev) (p : Nat) (a : Apg) : Apg :=
  let xy := orderXY (d.apgXs p) (d.apgYs p) a.order a.down a.swap a.k
  { a with x := xy.1, y := xy.2 }

/-- One advance (R168). -/
def apgAdvance (d : Dev) (p : Nat) (a : Apg) : Apg :=
  let wrap := a.k + 1 = d.apgXs p * d.apgYs p
  d.apgPlace p { a with k := if wrap then 0 else a.k + 1, wrapped := wrap }

/-- Set an order, where its requirement holds; the answer says whether it did. -/
def apgSetOrder (d : Dev) (p order : Nat) (down swap : Bool) (a : Apg) : Apg × Bool :=
  if orderOk (d.apgXs p) (d.apgYs p) order down swap then ({ a with order := order, down := down, swap := swap }, true)
  else (a, false)

/-! ### Data generator (R169 to R172) -/

/-- m and t of an LFSR polynomial (Table 6-3). -/
def lfsrMT (poly : Nat) : Nat × Nat :=
  match poly with
  | 0 => (7, 6) | 1 => (9, 5) | 2 => (11, 9) | 3 => (15, 14) | 4 => (23, 18) | _ => (31, 28)

/-- Run an LFSR for `w` bits; bit j of the answer is the j-th bit generated (R171). -/
def lfsrRun (m t : Nat) (inv : Bool) : Nat → Nat → Nat × Nat
  | 0, s => (0, s)
  | w + 1, s =>
    let b := nbit s (m - 1) != nbit s (t - 1)
    let r := lfsrRun m t inv w ((s * 2 + b2n b) % 2 ^ m)
    (b2n (b != inv) + 2 * r.1, r.2)

/-- D at the present position for a use of width `w` (R170). -/
def apgData (d : Dev) (p func w : Nat) (inv : Bool) (a : Apg) : Nat × Apg :=
  let C := d.rn (R.apgDconst p)
  let rs := d.rn (R.apgRstep p)
  let sx := d.rf (R.apgShift p) F.apgShiftSx
  let sy := d.rf (R.apgShift p) F.apgShiftSy
  let m := fun (b : Nat) => if b % 2 = 1 then C ^^^ 0xFFFFFFFF else C
  let fin := fun (f : Nat) => (f ^^^ (if inv then 0xFFFFFFFF else 0)) % 2 ^ w
  if 12 ≤ func then
    let i := func - 12
    let cfg := R.apgLfsrCfg p i
    let mt := lfsrMT (d.rf cfg F.apgLfsrCfgPoly)
    let r := lfsrRun mt.1 mt.2 (d.rb cfg F.apgLfsrCfgInv) w ((a.lfsr[i]?).getD 0)
    (fin r.1, { a with lfsr := lset a.lfsr i r.2 })
  else
    let f := match func with
      | 0 => C
      | 1 => m (nbits (a.x / 2 ^ sx ^^^ a.y / 2 ^ sy) 0 0)
      | 2 => m (a.y / 2 ^ sy)
      | 3 => m (a.x / 2 ^ sx)
      | 4 => a.x * rs
      | 5 => a.y * rs
      | 6 => (a.x + a.y) * rs
      | 7 => ((a.y * 2 ^ 16) ||| a.x) ^^^ C
      | _ => d.rn (R.apgBar p (min 7 (a.x / d.rn (R.apgBarw p))))
    (fin (f % 2 ^ 32), a)

/-- The low `n` bits of a number, bit 0 first, or high bit first. -/
def bitList (n v : Nat) (msbf : Bool) : List Bool :=
  let l := (List.range n).map (fun i => nbit v i)
  if msbf then l.reverse else l

/-- The number whose bit j is element j. -/
def bitsNum : List Bool → Nat
  | [] => 0
  | b :: bs => b2n b + 2 * bitsNum bs

/-- One bit into a CRC register (R172). -/
def crcBit (crc : Nat) (b : Bool) : Nat := if b != nbit crc 0 then (crc / 2) ^^^ 0x8408 else crc / 2

/-! ### Packers and maps (R163, R176 to R178) -/

/-- A packer's configuration. -/
structure Pack where
  blankEmit : Bool
  msbf : Bool
  cfmt : Nat
  bpc : Nat
  nl : Nat
  map : Nat
  lanes : Nat

def apgPack (d : Dev) (p : Nat) (cmp : Bool) : Pack :=
  let r := if cmp then R.apgCmppack p else R.apgTxpack p
  let f := d.rf r F.apgTxpackBpc
  { blankEmit := d.rb r F.apgTxpackBlankEmit, msbf := d.rb r F.apgTxpackMsbf, cfmt := d.rf r F.apgTxpackCfmt,
    bpc := if f = 0 then 6 else if f = 1 then 8 else if f = 2 then 10 else if f = 3 then 12 else 16,
    nl := d.rf r F.apgTxpackNlanes, map := d.rf r F.apgTxpackMap,
    lanes := d.rn (if cmp then R.apgCmplanes p else R.apgTxlanes p) }

/-- Channel (or trio) of lane `i`. -/
def Pack.ch (k : Pack) (i : Nat) : Nat := k.lanes / 2 ^ (3 * i) % 8

/-- The lane count fits the map (Table 6-5, R178). -/
def Pack.ok (k : Pack) : Bool :=
  let n := k.nl
  let cnt := match k.map with
    | 0 | 1 => decide (1 ≤ n)
    | 2 => n == 3
    | 3 => n == 3 || n == 4
    | 4 | 5 => n == 1 || n == 2 || n == 4
    | 6 => decide (1 ≤ n ∧ n ≤ 4)
    | _ => decide (1 ≤ n ∧ n ≤ 4) && (List.range n).all (fun i => decide (k.ch i ≤ 3))
  cnt

/-- Payload bits per UI of lane `i` under the segment's map `wsm` (R128, R162). -/
def laneW (d : Dev) (p wsm ch : Nat) : Nat :=
  let ws := nbits (d.lwide (R.seqWsmap0 p wsm) 3) (4 * ch + 3) (4 * ch)
  let fmt := fget (d.lv (fchPage (8 * p + ch) + 0x100 + 0x20 * ws + 0x18)) ⟨3, 0⟩
  if 5 ≤ fmt ∧ fmt ≤ 7 then 2 else 1

def laneOf (s : ApgStream) (i : Nat) : List LaneUi := tget (fun _ => []) s.lanes i
def laneEnd (s : ApgStream) (i : Nat) : Nat := tget (fun _ => 0) s.ends i

/-- Add one bit to UI `u` of lane `i`. -/
def laneBit (s : ApgStream) (i u : Nat) (b : Bool) (a : Apg) : ApgStream :=
  let l := laneOf s i
  let r : List LaneUi × Nat := match l.getLast? with
    | some e => if e.ui = u then (l.dropLast ++ [{ e with val := e.val + b2n b * 2 ^ e.nb, nb := e.nb + 1, x := a.x, y := a.y }], 0)
        else (l ++ [⟨u, b2n b, 1, a.x, a.y⟩], 1)
    | none => ([⟨u, b2n b, 1, a.x, a.y⟩], 1)
  { s with lanes := tset (fun _ => []) s.lanes i r.1, ends := tset (fun _ => 0) s.ends i (u + 1),
           filled := if i = 0 then s.filled + r.2 else s.filled }

/-- The UI after the end of a stream's previous emission (R163). -/
def streamEnd (s : ApgStream) : Nat := s.ends.foldl (fun m e => max m e.2) 0

/-- Bits already in UI `u` of lane `i`. -/
def laneFill (s : ApgStream) (i u : Nat) : Nat :=
  match (laneOf s i).getLast? with | some e => if e.ui = u then e.nb else 0 | none => 0

/-- The last UI of lane `i` lacks bits of the `w` that it takes. -/
def laneOpen (s : ApgStream) (i w : Nat) : Bool :=
  match (laneOf s i).getLast? with | some e => decide (e.nb < w) | none => false

/-- Add bits serially to one lane from UI `u` on, `w` bits per UI. -/
def laneSerial (w i : Nat) (a : Apg) : List Bool → Nat → ApgStream → ApgStream
  | [], _, s => s
  | b :: bs, u, s =>
    let u := if w ≤ laneFill s i u then u + 1 else u
    laneSerial w i a bs u (laneBit s i u b a)

/-- A raw serial string over all lanes (RAWSER): bits fill one UI of each lane in turn. -/
def rawSerial (ws : List Nat) (a : Apg) : List Bool → ApgStream → ApgStream
  | [], s => s
  | b :: bs, s =>
    let s := laneBit s s.curLane s.curUi b a
    let s := if (ws[s.curLane]?).getD 1 ≤ laneFill s s.curLane s.curUi then
        if s.curLane + 1 < ws.length then { s with curLane := s.curLane + 1 }
        else { s with curLane := 0, curUi := s.curUi + 1 }
      else s
    rawSerial ws a bs s

/-- Give one code group's input word to lane `i`: G UIs of one bit (R179), or for a C-PHY trio seven UIs of four bits. -/
def laneGroup (map i u w : Nat) (a : Apg) (s : ApgStream) : ApgStream :=
  let g := match map with | 2 => 10 | 3 => 18 | 4 => 10 | 5 => 132 | 6 => 8 | _ => 7
  let per := if map = 7 then 4 else 1
  let es := (List.range g).map (fun j => (⟨u + j, w / 2 ^ (per * j) % 2 ^ per, per, a.x, a.y⟩ : LaneUi))
  { s with lanes := tset (fun _ => []) s.lanes i (laneOf s i ++ es), ends := tset (fun _ => 0) s.ends i (u + g),
           filled := if i = 0 then s.filled + g else s.filled }

/-- Bits of one unit of a byte or word map. -/
def unitBits (map : Nat) : Nat := match map with | 3 => 16 | 4 => 8 | 5 => 8 | 6 => 8 | _ => 16

/-- Give one unit to lane `i`.  Under DP128 the bytes of a lane fill W[131:4] of its block, low byte first (Table 6-5). -/
def giveUnit (map i u : Nat) (bs : List Bool) (a : Apg) (s : ApgStream) : ApgStream :=
  if map = 5 then
    let t := tget (fun _ => []) s.tacc i ++ bs
    if t.length < 128 then { s with tacc := tset (fun _ => []) s.tacc i t }
    else laneGroup map i (max u (laneEnd s i)) (bitsNum t * 16) a { s with tacc := tset (fun _ => []) s.tacc i [] }
  else laneGroup map i (max u (laneEnd s i)) (bitsNum bs) a s

/-- Take whole units off the packer, round robin over the lanes. -/
def takeUnits (map nl u : Nat) (a : Apg) : Nat → ApgStream → ApgStream
  | 0, s => s
  | f + 1, s =>
    let n := unitBits map
    if s.acc.length < n ∨ nl = 0 then s
    else
      let i := s.rr % nl
      let s := giveUnit map i u (s.acc.take n) a { s with acc := s.acc.drop n }
      takeUnits map nl u a f { s with rr := (i + 1) % nl }

/-- Emit a bit string to a stream.  `u0`, for CMP: P + delay; the emission begins there or at the UI after the end of the previous
one, whichever is later (R163). -/
def emitBits (d : Dev) (p wsm : Nat) (cmp : Bool) (u0 : Nat) (bs : List Bool) (a : Apg) (s : ApgStream) : ApgStream :=
  let k := d.apgPack p cmp
  if bs.isEmpty ∨ s.bad ∨ k.nl = 0 then s
  else
    let ws := (List.range k.nl).map (fun i => d.laneW p wsm (k.ch i))
    let u0 := if cmp then max u0 (streamEnd s) else u0
    match k.map with
    | 0 => rawSerial ws a bs (if cmp then { s with curLane := 0, curUi := u0 } else s)
    | 1 =>
      let i := s.rr % k.nl
      let w := (ws[i]?).getD 1
      let e := laneEnd s i
      let u := if cmp then u0 else if laneOpen s i w then e - 1 else e
      { laneSerial w i a bs u s with rr := (i + 1) % k.nl }
    | m => takeUnits m k.nl u0 a (bs.length / 8 + 2) { s with acc := s.acc ++ bs }

/-! ### Pixels (R176, R177, Table 6-6) -/

def compOf (d : Dev) (p bpc v i : Nat) : Nat := v / 2 ^ (d.rf (R.apgComp p i) F.apgCompShift) % 2 ^ bpc

/-- The components of a step, by chroma format (R176). -/
def stepComps (d : Dev) (p : Nat) (k : Pack) (v : Nat) (a : Apg) : List Nat :=
  let c := fun i => d.compOf p k.bpc v i
  match k.cfmt with
  | 0 => [c 0, c 1, c 2]
  | 1 => if a.k % 2 = 0 then [c 0, c 1] else [c 0, c 2]
  | _ => if a.k % 2 = 0 then (if a.y % 2 = 0 then [c 0, c 1] else [c 0, c 2]) else [c 0]

/-- Under RASTER, outside the active area (R169). -/
def blanking (d : Dev) (p : Nat) (a : Apg) : Bool :=
  a.order == 8 && !(decide (a.x < d.rn (R.apgHact p)) && decide (a.y < d.rn (R.apgVact p)))

/-- HSYNC is asserted at this step (R169). -/
def hsync (d : Dev) (p : Nat) (a : Apg) : Bool :=
  let s := d.rf (R.apgHsync p) F.apgHsyncHsStart
  decide (s ≤ a.x) && decide (a.x < s + d.rf (R.apgHsync p) F.apgHsyncHsWidth)

/-- VSYNC is asserted at this step (R169). -/
def vsync (d : Dev) (p : Nat) (a : Apg) : Bool :=
  let xs := d.apgXs p
  let hs := d.rf (R.apgHsync p) F.apgHsyncHsStart
  let v := d.rf (R.apgVsync p) F.apgVsyncVsStart
  decide (v * xs + hs ≤ a.k) && decide (a.k < (v + d.rf (R.apgVsync p) F.apgVsyncVsWidth) * xs + hs)

/-- Put one TMDS character on each of the three lanes. -/
def tmdsChars (u : Nat) (a : Apg) (ws : List Nat) (s : ApgStream) : ApgStream :=
  (List.range 3).foldl (fun s i => laneGroup 2 i (max u (laneEnd s i)) ((ws[i]?).getD 0) a s) s

/-- Whole characters off the per-lane accumulators of the multi-character TMDS rows; `flush` completes with zero bits. -/
def tmdsDrain (u : Nat) (a : Apg) (flush : Bool) : Nat → ApgStream → ApgStream
  | 0, s => s
  | f + 1, s =>
    let t := fun i => tget (fun _ => []) s.tacc i
    if (t 0).isEmpty ∨ ((t 0).length < 8 ∧ !flush) then s
    else
      let s' := tmdsChars u a ((List.range 3).map (fun i => bitsNum ((t i).take 8))) s
      let s' := { s' with tacc := (List.range 3).foldl (fun m i => tset (fun _ => []) m i ((t i).drop 8)) s'.tacc }
      tmdsDrain u a flush f s'

/-- Complete the characters in progress with zero bits (Table 6-6). -/
def tmdsFlush (u : Nat) (a : Apg) (s : ApgStream) : ApgStream :=
  let s := tmdsDrain u a true 4 s
  match s.half with
  | none => s
  | some h => tmdsChars u a [h.1, h.2, 0] { s with half := none }

/-- The format and depth fit the TMDS map (Table 6-6). -/
def tmdsFits (k : Pack) : Bool := k.cfmt == 0 || k.cfmt == 1 || (k.cfmt == 2 && k.bpc == 8)

/-- One active pixel under the TMDS map. -/
def tmdsPixel (d : Dev) (p u v : Nat) (k : Pack) (a : Apg) (s : ApgStream) : ApgStream :=
  let c := fun i => d.compOf p k.bpc v i
  if k.cfmt = 0 then
    if k.bpc = 8 then tmdsChars u a [c 2, c 0, c 1] s
    else
      let t := fun i => tget (fun _ => []) s.tacc i
      let add := fun (m : List (Nat × List Bool)) (ix : Nat × Nat) =>
        tset (fun _ => []) m ix.1 (t ix.1 ++ bitList k.bpc (c ix.2) false)
      tmdsDrain u a false 4 { s with tacc := [(0, 2), (1, 0), (2, 1)].foldl add s.tacc }
  else if k.cfmt = 1 then
    let just := fun x => if k.bpc ≤ 12 then x * 2 ^ (12 - k.bpc) else x / 2 ^ (k.bpc - 12)
    let y := just (c 0)
    let ch := just (if a.k % 2 = 0 then c 1 else c 2)
    tmdsChars u a [ch % 16 * 16 + y % 16, y / 16, ch / 16] s
  else if a.k % 2 = 0 then { s with half := some (if a.y % 2 = 0 then c 1 else c 2, c 0) }
  else
    let h := s.half.getD (0, 0)
    tmdsChars u a [h.1, h.2, c 0] { s with half := none }

/-- One pixel step to a stream (R176, R177): the stream, and whether the emission did not fit its map. -/
def emitPixel (d : Dev) (p wsm : Nat) (cmp : Bool) (u0 v : Nat) (a : Apg) (s : ApgStream) : ApgStream × Bool :=
  let k := d.apgPack p cmp
  if s.bad ∨ k.nl = 0 then (s, false)
  else
    let blank := d.blanking p a
    if k.map = 2 then
      if !tmdsFits k then (s, true)
      else if blank then
        let s := tmdsFlush u0 a s
        if k.blankEmit then
          let vs := d.vsync p a != d.rb (R.apgCtrl p) F.apgCtrlVspol
          let hs := d.hsync p a != d.rb (R.apgCtrl p) F.apgCtrlHspol
          (tmdsChars u0 a [256 + b2n vs * 2 + b2n hs, 256, 256] s, false)
        else (s, false)
      else (d.tmdsPixel p u0 v k a s, false)
    else if blank && !k.blankEmit then (s, false)
    else
      let v := if blank then d.rn (R.apgBlank p) else v
      let bs := ((d.stepComps p k v a).map (fun c => bitList k.bpc c k.msbf)).flatten
      (d.emitBits p wsm cmp u0 bs a s, false)

/-! ### One emission to the streams that an instruction names -/

/-- UIs that TX lane 0 has filled, or CMP lane 0 where TX has no lanes (R163).  The places that a CMP delay leaves free do not count. -/
def apgPos (d : Dev) (p : Nat) (a : Apg) : Nat := if (d.apgPack p false).nl ≠ 0 then a.tx.filled else a.cmp.filled

/-- A stream takes part: it has lanes, and they fit its map (R178). -/
def apgOn (d : Dev) (p : Nat) (cmp : Bool) (a : Apg) : Bool :=
  (d.apgPack p cmp).nl != 0 && !(if cmp then a.cmp else a.tx).bad

/-- Emit raw bits to the streams of `stream`; `crc`: they update the CRC registers (R172).  Under the TMDS map they emit nothing
and do not fit (R177). -/
def emitRaw (d : Dev) (p wsm stream : Nat) (bs : List Bool) (crc : Bool) (a : Apg) : Apg × Bool :=
  let u0 := d.apgPos p a + d.rn (R.apgCmpDelay p)
  let one := fun (cmp : Bool) (a : Apg) =>
    let k := d.apgPack p cmp
    let s := if cmp then a.cmp else a.tx
    if k.map = 2 then (a, k.nl != 0 && !s.bad)
    else
      let s := d.emitBits p wsm cmp (if cmp then u0 else 0) bs a s
      let c := if crc && d.apgOn p cmp a then bs.foldl crcBit (if cmp then a.crcCmp else a.crcTx) else if cmp then a.crcCmp else a.crcTx
      (if cmp then { a with cmp := s, crcCmp := c } else { a with tx := s, crcTx := c }, false)
  let r1 := if nbit stream 0 then one false a else (a, false)
  let r2 := if nbit stream 1 then one true r1.1 else (r1.1, false)
  (r2.1, r1.2 || r2.2)

/-- Emit a pixel to the streams of `stream`; the pixel's bits update the CRC registers. -/
def emitStep (d : Dev) (p wsm stream v : Nat) (a : Apg) : Apg × Bool :=
  let u0 := d.apgPos p a + d.rn (R.apgCmpDelay p)
  let one := fun (cmp : Bool) (a : Apg) =>
    let k := d.apgPack p cmp
    let r := d.emitPixel p wsm cmp (if cmp then u0 else 0) v a (if cmp then a.cmp else a.tx)
    let emits := k.map ≠ 2 ∧ d.apgOn p cmp a ∧ (!(d.blanking p a) ∨ k.blankEmit)
    let v := if d.blanking p a then d.rn (R.apgBlank p) else v
    let bs := if emits then ((d.stepComps p k v a).map (fun c => bitList k.bpc c k.msbf)).flatten else []
    let c := bs.foldl crcBit (if cmp then a.crcCmp else a.crcTx)
    (if cmp then { a with cmp := r.1, crcCmp := c } else { a with tx := r.1, crcTx := c }, r.2)
  let r1 := if nbit stream 0 then one false a else (a, false)
  let r2 := if nbit stream 1 then one true r1.1 else (r1.1, false)
  (r2.1, r1.2 || r2.2)

/-! ### Micro-program (R173 to R175) -/

def ucode (d : Dev) (p i : Nat) : Nat := d.rn (R.apgUcodeLo p i) + 2 ^ 32 * d.rn (R.apgUcodeHi p i)

def U.op (w : Nat) : Nat := nbits w 63 60
def U.stream (w : Nat) : Nat := nbits w 59 58
def U.func (w : Nat) : Nat := nbits w 57 54
def U.inv (w : Nat) : Bool := nbit w 53
def U.pixel (w : Nat) : Bool := nbit w 52
def U.n (w : Nat) : Nat := nbits w 31 0
def U.width (w : Nat) : Nat := nbits w 52 48 + 1
def U.src (w : Nat) : Nat := nbits w 47 45
def U.msbf (w : Nat) : Bool := nbit w 44
def U.target (w : Nat) : Nat := nbits w 43 40
def U.br (w : Nat) : Nat := nbits w 39 38
def U.lcsel (w : Nat) : Nat := nbits w 36 36

/-- Bits that a micro-instruction uses (Table 6-4). -/
def U.used (w : Nat) : Nat :=
  match U.op w with
  | 1 => bits 63 52 + bits 31 0
  | 2 => bits 63 53 + bits 52 44
  | 3 => bits 63 60 + bits 43 38
  | 4 => bits 63 60 + bits 43 40 + bits 36 36
  | 5 => bits 63 60 + bits 35 29
  | 6 => bits 63 58 + bits 44 44
  | 7 => bits 63 60
  | _ => bits 63 60 + bits 36 36 + bits 31 0

/-- A legal micro-instruction (R173). -/
def U.legal (w : Nat) : Bool :=
  let op := U.op w
  decide (1 ≤ op ∧ op ≤ 8) && decide (w &&& U.used w = w) &&
    !(decide (op = 1 ∨ op = 2 ∨ op = 6) && decide (U.stream w = 0)) &&
    !(decide (op = 1 ∨ (op = 2 ∧ U.src w = 0)) && decide (9 ≤ U.func w ∧ U.func w ≤ 11)) &&
    !(decide (op = 2) && decide (9 ≤ U.func w ∧ U.func w ≤ 11)) &&
    !(decide (op = 3) && decide (U.br w = 3)) && !(decide (op = 5) && decide (9 ≤ nbits w 35 32))

/-- One step of a BLOCK: evaluate, emit, advance (R174). -/
def blockStep (d : Dev) (p wsm w : Nat) (a : Apg) : Apg × Bool :=
  let dw := d.rf (R.apgShift p) F.apgShiftDwidth + 1
  let r := d.apgData p (U.func w) dw (U.inv w) a
  let e := if U.pixel w then d.emitStep p wsm (U.stream w) r.1 r.2
    else d.emitRaw p wsm (U.stream w) (bitList dw r.1 false) true r.2
  (d.apgAdvance p e.1, e.2)

/-- Production is 128 UIs ahead of the issue stage, judged on P, and goes no further (R164). -/
def apgFar (d : Dev) (p : Nat) (a : Apg) : Bool := decide (a.out + 128 ≤ d.apgPos p a)

/-- Up to `n` steps of the BLOCK at `upc`, as far as the run-ahead bound lets it; its end completes TMDS characters in progress. -/
def blockRun (d : Dev) (p wsm w : Nat) : Nat → Apg → Bool → Apg × Bool
  | 0, a, e => (a, e)
  | n + 1, a, e =>
    let r := d.blockStep p wsm w a
    let a := { r.1 with step := r.1.step + 1 }
    if a.step = U.n w then
      let u := d.apgPos p a + d.rn (R.apgCmpDelay p)
      let a := { a with step := 0, upc := (a.upc + 1) % 16 }
      let fl := fun (cmp : Bool) (s : ApgStream) => if (d.apgPack p cmp).map = 2 then tmdsFlush (if cmp then u else 0) a s else s
      ({ a with tx := fl false a.tx, cmp := fl true a.cmp }, e || r.2)
    else if d.apgFar p a then (a, e || r.2)
    else blockRun d p wsm w n a (e || r.2)

/-- FIELD (Table 6-4). -/
def apgField (d : Dev) (p wsm w : Nat) (a : Apg) : Apg × Bool :=
  let n := U.width w
  let r := match U.src w with
    | 0 => d.apgData p (U.func w) n (U.inv w) a
    | 1 => (a.x, a)
    | 2 => (a.y, a)
    | 3 => (a.k % 2 ^ 32, a)
    | c => (d.rn (R.apgConst p (c - 4)), a)
  d.emitRaw p wsm (U.stream w) (bitList n r.1 (U.msbf w)) true r.2

/-- CRC (R172). -/
def apgCrcOp (d : Dev) (p wsm w : Nat) (a : Apg) : Apg × Bool :=
  let r1 := if nbit (U.stream w) 0 then d.emitRaw p wsm 1 (bitList 16 a.crcTx (U.msbf w)) false a else (a, false)
  let u0 := d.apgPos p a
  let r2 := if nbit (U.stream w) 1 then
      -- both streams see the emission at the position before its TX part (R163)
      let k := d.apgPack p true
      if k.map = 2 then (r1.1, k.nl != 0 && !a.cmp.bad)
      else ({ r1.1 with cmp := d.emitBits p wsm true (u0 + d.rn (R.apgCmpDelay p)) (bitList 16 a.crcCmp (U.msbf w)) a r1.1.cmp }, false)
    else (r1.1, false)
  ({ r2.1 with crcTx := if nbit (U.stream w) 0 then 0xFFFF else r2.1.crcTx,
               crcCmp := if nbit (U.stream w) 1 then 0xFFFF else r2.1.crcCmp }, r1.2 || r2.2)

/-- NEXT (Table 6-4). -/
def apgNext (d : Dev) (p w : Nat) (a : Apg) : Apg :=
  let a := d.apgAdvance p a
  let go := (U.br w == 1 && !a.wrapped) || (U.br w == 2 && a.wrapped)
  { a with upc := if go then U.target w else (a.upc + 1) % 16 }

/-- LOOP (Table 6-4). -/
def apgLoop (w : Nat) (a : Apg) : Apg :=
  let c := (a.lc[U.lcsel w]?).getD 0
  if c ≠ 0 then { a with lc := lset a.lc (U.lcsel w) (c - 1), upc := U.target w } else { a with upc := (a.upc + 1) % 16 }

/-- ORDER (Table 6-4, R168). -/
def apgOrder (d : Dev) (p w : Nat) (a : Apg) : Apg × Bool :=
  let r := d.apgSetOrder p (nbits w 35 32) (nbit w 31) (nbit w 30) { a with upc := (a.upc + 1) % 16 }
  let a := if nbit w 29 then d.apgPlace p { r.1 with k := 0, wrapped := false } else r.1
  (a, !r.2)

/-- SETLC (Table 6-4). -/
def apgSetlc (w : Nat) (a : Apg) : Apg := { a with lc := lset a.lc (U.lcsel w) (U.n w), upc := (a.upc + 1) % 16 }

/-- One micro-instruction other than a BLOCK with steps (R174); the second answer is an APG_PROG_ERR. -/
def microOp (d : Dev) (p wsm : Nat) (a : Apg) : Apg × Bool :=
  let w := d.ucode p a.upc
  let next := fun (r : Apg × Bool) => ({ r.1 with upc := (r.1.upc + 1) % 16 }, r.2)
  match U.op w with
  | 1 => next (a, false)
  | 2 => next (d.apgField p wsm w a)
  | 3 => (d.apgNext p w a, false)
  | 4 => (apgLoop w a, false)
  | 5 => d.apgOrder p w a
  | 6 => next (d.apgCrcOp p wsm w a)
  | 8 => (apgSetlc w a, false)
  | _ => ({ a with ended := some a.upc }, false)

/-- The slots of one cycle (R164): up to four micro-instructions, or, from a cycle boundary, up to 32 steps of one BLOCK. -/
def apgSlots (d : Dev) (p wsm : Nat) : Nat → Bool → Apg → Bool → Apg × Bool
  | 0, _, a, e => (a, e)
  | n + 1, fresh, a, e =>
    if a.ended.isSome || d.apgFar p a then (a, e)
    else
      let w := d.ucode p a.upc
      if U.op w = 1 ∧ U.n w ≠ 0 then (if fresh then d.blockRun p wsm w 32 a e else (a, e))
      else
        let r := d.microOp p wsm a
        apgSlots d p wsm n false r.1 (e || r.2)

/-- UIs of the segment whose bits have all been produced (R164): every bit of each TX lane, and no CMP emission to come can land there
(R163); all of them once production has ended. -/
def apgDone (d : Dev) (p wsm : Nat) (a : Apg) : Nat :=
  let k := d.apgPack p false
  let full := fun i =>
    let e := laneEnd a.tx i
    if k.map ≤ 1 ∧ laneOpen a.tx i (d.laneW p wsm (k.ch i)) then e - 1 else e
  let tx := if d.apgOn p false a then ((List.range k.nl).map full).foldl min (2 ^ 32) else 2 ^ 32
  let cmp := if d.apgOn p true a then max (d.apgPos p a + d.rn (R.apgCmpDelay p)) (streamEnd a.cmp) else 2 ^ 32
  if a.ended.isSome then 2 ^ 32 else min tx cmp

/-- Every bit of the first `n` UIs has been produced, or production has ended. -/
def apgReady (d : Dev) (p wsm n : Nat) (a : Apg) : Bool := decide (n ≤ d.apgDone p wsm a)

/-- Note the UIs that are ready by the end of the cycle in progress. -/
def apgMark (d : Dev) (p wsm : Nat) (a : Apg) : Apg :=
  let n := d.apgDone p wsm a
  let edge := if a.slot = 0 then a.time else a.time + sqclk
  match a.marks with
  | m :: _ => if m.1 < n then { a with marks := (n, edge) :: a.marks } else a
  | [] => { a with marks := [(n, edge)] }

/-- One production cycle, or what is left of the one in progress. -/
def apgCycle (d : Dev) (p wsm : Nat) (a : Apg) : Apg × Bool :=
  let r := d.apgSlots p wsm (4 - a.slot) (a.slot == 0) { a with slot := 0 } false
  (d.apgMark p wsm { r.1 with time := a.time + sqclk }, r.2)

/-- One slot of a production cycle by itself (R164): a micro-instruction, or up to 32 steps of a BLOCK at a cycle boundary. -/
def apgSlot (d : Dev) (p wsm : Nat) (a : Apg) : Apg × Bool :=
  let w := d.ucode p a.upc
  let block := decide (U.op w = 1) && decide (U.n w ≠ 0)
  let a := if block && a.slot != 0 then { a with time := a.time + sqclk, slot := 0 } else a
  let r := d.apgSlots p wsm 1 (a.slot == 0) { a with slot := a.slot + 1 } false
  let b := if block || r.1.slot == 4 then { r.1 with time := a.time + sqclk, slot := 0 } else r.1
  (d.apgMark p wsm b, r.2)

/-- Begin the production of a segment (R165, R175, R178). -/
def apgBegin (d : Dev) (p : Nat) (g : Seg) (a : Apg) : Apg × Bool :=
  let resume := d.rb (R.apgCtrl p) F.apgCtrlResume && a.saved && !g.restart
  let o := R.apgOrder0 p
  let r := if g.restart then
      let a0 := { Apg.reset with
        lfsr := (List.range 4).map (fun i =>
          d.rn (R.apgLfsrSeed p i) % 2 ^ (lfsrMT (d.rf (R.apgLfsrCfg p i) F.apgLfsrCfgPoly)).1),
        lc := [d.rn (R.apgLc p 0), d.rn (R.apgLc p 1)], saved := a.saved, time := a.time }
      let r := d.apgSetOrder p (d.rf o F.apgOrder0Order) (d.rb o F.apgOrder0Down) (d.rb o F.apgOrder0Swap) a0
      (d.apgPlace p r.1, !r.2)
    else (a, false)
  let a := r.1
  let a := if resume then a
    else { a with upc := g.apc, step := 0, ended := if a.ended = some g.apc then a.ended else none,
                  tx := { ApgStream.reset with rr := 0 }, cmp := ApgStream.reset }
  let badOf := fun (cmp : Bool) => let k := d.apgPack p cmp; k.nl != 0 && !k.ok
  let bt := badOf false
  let bc := badOf true
  let a := { a with tx := { a.tx with bad := bt }, cmp := { a.cmp with bad := bc }, out := 0, seg := some g.id,
                    endRaised := false, time := max g.decode a.time, slot := 0, saved := true }
  ({ a with marks := [(d.apgDone p g.wsm a, 0)] }, r.2 || bt || bc)

/-- The edge from which the first `n` UIs are ready (R164). -/
def apgReadyAt (n : Nat) (a : Apg) : Nat := (a.marks.filter (fun m => decide (n ≤ m.1))).foldl (fun _ m => m.2) 0

/-- Run production cycles until `n` UIs of the segment are covered. -/
def apgProduce (d : Dev) (p wsm n : Nat) : Nat → Apg → Bool → Apg × Bool
  | 0, a, e => (a, e)
  | f + 1, a, e =>
    if d.apgReady p wsm n a then (a, e)
    else
      let r := d.apgCycle p wsm a
      apgProduce d p wsm n f r.1 (e || r.2)

/-- Production goes on ahead up to edge `i`, at most 128 UIs beyond what is issued (R164). -/
def apgAhead (d : Dev) (p wsm i : Nat) : Nat → Apg → Bool → Apg × Bool
  | 0, a, e => (a, e)
  | f + 1, a, e =>
    if a.ended.isSome ∨ i < a.time + sqclk then (a, e)
    else if d.apgFar p a then ({ a with time := i, slot := 0 }, e)
    else
      let r := d.apgCycle p wsm a
      apgAhead d p wsm i f r.1 (e || r.2)

/-- UI `k` of a stream's lane that carries channel `c`: its value and tag, none where no emission covers it.  C-PHY trios carry two
channels. -/
def laneAt (k : Pack) (s : ApgStream) (w fill u c : Nat) : Option (Nat × Nat × Nat) :=
  let hit := (List.range k.nl).find? (fun i => if k.map = 7 then k.ch i == c / 2 else k.ch i == c)
  match hit with
  | none => none
  | some i =>
    match (laneOf s i).find? (fun e => e.ui == u) with
    | none => none
    | some e =>
      if k.map = 7 then some (e.val / 2 ^ (2 * (c % 2)) % 4, e.x, e.y)
      else some ((e.val + (if e.nb < w then fill / 2 ^ e.nb * 2 ^ e.nb % 2 ^ w else 0)) % 2 ^ w, e.x, e.y)

/-- The stream has a lane on channel `c`. -/
def onLane (k : Pack) (c : Nat) : Bool :=
  (List.range k.nl).any (fun i => if k.map = 7 then k.ch i == c / 2 else k.ch i == c)

/-- The payload word of UI `u` of an APG segment (R162), and per channel its compare mark: 0 none of these, 1 no-compare, and the
tag of a compared UI, as 96 bits per channel: [31] a tagged compare, [30] no-compare, [79:64] X, [95:80] Y. -/
def apgWord (d : Dev) (p wsm : Nat) (a : Apg) (uhold u : Nat) : Nat × Nat :=
  let kt := d.apgPack p false
  let kc := d.apgPack p true
  let fillW := d.rn (R.apgLanefill p)
  (List.range 8).foldl (fun (acc : Nat × Nat) c =>
    let fill := fillW / 2 ^ (2 * c) % 4
    let w := d.laneW p wsm c
    let t := if onLane kt c then
        (match laneAt kt a.tx w fill u c with | some r => (r.1, 0) | none => (fill, 0))
      else if onLane kc c then
        (match laneAt kc a.cmp w fill u c with
          | some r => (r.1, 2 ^ 31 + 2 ^ 64 * (r.2.1 + 2 ^ 16 * r.2.2))
          | none => (fill, 2 ^ 30))
      else (fill, 0)
    (acc.1 + t.1 % 4 * 2 ^ (2 * c), acc.2 + t.2 * 2 ^ (96 * c))) (uhold * 2 ^ 16, 0)

/-- Drop the UIs before `n` and renumber: the segment has issued them (R165). -/
def streamDrop (n : Nat) (s : ApgStream) : ApgStream :=
  { s with lanes := s.lanes.map (fun l => (l.1, (l.2.filter (fun e => decide (n ≤ e.ui))))) }

/-- END has stopped production while the segment of `n` UIs still has UIs to fill (R175). -/
def apgShort (d : Dev) (p n : Nat) (a : Apg) : Bool := a.ended.isSome && decide (d.apgPos p a < n)

end Dev
end Sys2Proof.Machine
end

