-- ==== Sys2Proof/Machine/SeqIssue.lean ====
section
/-! DEFINITION. The issue stage and the locks (05_vector_sequencer.md, R122, R125, R126, R148 to R156): beats, the stream walks,
barges, pinned spans, poison, and the checks of a port start that concern the streams. -/
namespace Sys2Proof.Machine
namespace Dev

/-! ### TX stream (R151, R153 to R155) -/

/-- Fetch number of stream barge `i`, or its place in the pin area; none where the stream has no such barge yet. -/
def txPlace (s : Seq) (i : Nat) : Option (Nat ⊕ Nat) :=
  match s.txSpans.find? (fun t => decide (t.start ≤ i) && decide (i < t.start + t.barges * t.reps)) with
  | none => none
  | some t =>
    let o := i - t.start
    if t.pinned && decide (t.barges ≤ o) then some (.inr (o % t.barges)) else some (.inl (t.fetch0 + o))

/-- BAR4 address of the pin area of a port. -/
def pinArea (d : Dev) (p : Nat) : Nat := p * 0x200000 + d.rn (R.lksPinBase p)

/-- BAR4 address of stream barge `i` where it is in the lock or the pin area (R153). -/
def txLoc (d : Dev) (p : Nat) (s : Seq) (i : Nat) : Option Nat :=
  match txPlace s i with
  | none => none
  | some (.inr o) => some (d.pinArea p + 2048 * o)
  | some (.inl f) => if f < s.txFetched then some (txSlot p f) else none

/-- Bit positions that vector `n` of the TX stream needs. -/
def txNeeds (f : Fmt) (n : Nat) : List Nat :=
  (if f.utrack then [f.utilBit n] else []) ++
    ((List.range 8).filter (fun c => nbit f.chmask c)).map (fun c => f.fastBit n c)

/-- Stream barges of some bit positions. -/
def bargesOf (bs : List Nat) : List Nat := bs.map (fun b => b / 8 / 2048)

/-- `w` bits of the stream at a bit position. -/
def streamBits (d : Dev) (p : Nat) (s : Seq) (pos w : Nat) : Nat :=
  match d.txLoc p s (pos / 8 / 2048) with
  | none => 0
  | some a => mnat d.sram (a + pos / 8 % 2048) 2 / 2 ^ (pos % 8) % 2 ^ w

/-- The vector word of streamed vector `n` (R128, R130): channels outside CHMASK take the idle word's field, and `SEQ_UHOLD`
stands where there is no utility track. -/
def streamWord (d : Dev) (p : Nat) (s : Seq) (n uhold : Nat) : Nat :=
  let f := d.txFmt p
  let idle := d.rn (R.seqIdle0 p)
  let fast := (List.range 8).foldl (fun acc c =>
    let v := if nbit f.chmask c then d.streamBits p s (f.fastBit n c) f.bpu else idle / 2 ^ (2 * c) % 4
    acc + v * 2 ^ (2 * c)) 0
  fast + 2 ^ 16 * (if f.utrack then d.streamBits p s (f.utilBit n) 16 else uhold)

/-- Why streamed vector `n` cannot be issued: an error cause (Table 5-9). -/
def streamFault (d : Dev) (p : Nat) (s : Seq) (n : Nat) : Option Nat :=
  let bs := bargesOf (txNeeds (d.txFmt p) n)
  let poisoned := bs.any (fun i =>
    match txPlace s i with | some (.inl f) => s.poison.any (fun x => x.1 == f) && decide (f < s.txFetched) | _ => false)
  if bs.any (fun i => (d.txLoc p s i).isNone) then some (if s.tx.ended then 4 else if s.tx.waiting then 5 else 3)
  else if poisoned then some 6 else none

/-- Copy a barge that leaves the lock into the pin area, where it belongs to the first pass of a pinned span (R151). -/
def pinCopy (d : Dev) (p : Nat) (s : Seq) (f : Nat) : Dev :=
  match s.txSpans.find? (fun t => t.pinned && decide (t.fetch0 ≤ f) && decide (f < t.fetch0 + t.barges)) with
  | none => d
  | some t => d.sramWrite (d.pinArea p + 2048 * (f - t.fetch0)) (mread d.sram (txSlot p f) 2048)

/-- Drop consumed spans from the front, and keep the last one: the next span starts where it ends. -/
def pruneSpans (lb : Nat) : List TxSpan → List TxSpan
  | t :: u :: r => if t.start + t.barges * t.reps ≤ lb then pruneSpans lb (u :: r) else t :: u :: r
  | l => l

/-- Free the barges of rounds that are wholly consumed. -/
def txFree (d : Dev) (p : Nat) (s : Seq) : Dev × Seq :=
  let f := d.txFmt p
  let lb := f.off (s.txN / f.ui) / 2048
  let freed := s.txSpans.foldl (fun acc t =>
    let n := min (lb - t.start) (if t.pinned then t.barges else t.barges * t.reps)
    if 0 < n then max acc (t.fetch0 + n) else acc) s.txFreed
  let freed := min freed s.txFetched
  let d := (List.range (freed - s.txFreed)).foldl (fun d i => d.pinCopy p s (s.txFreed + i)) d
  (d, { s with txFreed := freed, txSpans := pruneSpans lb s.txSpans,
               poison := s.poison.filter (fun x => decide (freed ≤ x.1)) })

/-! ### Beats -/

/-- The period that will be in force at the launch of a beat issued at `i` on timing set `ts` (R125), in 2⁻²⁴ tick. -/
def issuePeriod (d : Dev) (p ts i : Nat) (s : Seq) : Nat :=
  let now := d.tsPfx p ts
  let ahead := s.fifo.foldl (fun n b => n + b.words.length) 0
  let t := max (i + issueLead) (s.nextUi + ahead * now / 2 ^ 24)
  match (d.pend.filter (fun c => c.addr == R.tsPer0 p ts && decide (c.from_ ≤ t))).getLast? with
  | some c => ((c.data[1]?).getD 0).toNat * 2 ^ 24 + ((c.data[0]?).getD 0).toNat % 2 ^ 24
  | none => now

/-- c_s after a beat is issued at edge `i` (R124). -/
def csAtIssue (s : Seq) (i : Nat) : Option Nat :=
  match s.cs, s.csWait with
  | some c, _ => some c
  | none, some e => if e ≤ i then some (if 0 < s.beats then s.issuedAt else e + sqclk) else if s.beats = 3 then some i else none
  | none, none => if s.beats = 3 then some i else none

/-- A local SET that governs the size of the beats from this one on: the timing set (R125, R137). -/
def issueSets (s : Seq) (g : Seg) : Seq :=
  if g.issued ≠ 0 then s
  else g.sets.foldl (fun (s : Seq) t => if t.1 = 8 then { s with issueTs := t.2 % 16 } else s) s

/-- The earliest issue edge of the next beat (R124), without the APG's term. -/
def issueEdge (d : Dev) (s : Seq) (g : Seg) : Nat :=
  max (max (g.decode + sqclk) (if 0 < s.beats then s.issuedAt + sqclk else 0)) (d.edgeAt sqclk s.roomAt)

/-- Place `n` vectors of the head segment in the run-ahead FIFO as one beat issued at edge `i`. -/
def placeBeat (d : Dev) (p : Nat) (s : Seq) (g : Seg) (words cmp : List Nat) (i : Nat) : Dev :=
  let n := words.length
  let first := g.issued = 0
  let last := g.issued + n = g.count * g.copies
  let b : Beat :=
    { seg := g.id, src := g.src, pc := g.pc, ofs := g.issued % g.count, words := words, cmp := cmp, all := words, n0 := n,
      wsm := g.wsm, cmask := d.rn (R.seqCmask p), issue := i, nb := if first then g.nb else [],
      sync := if first then g.sync else [], nbPad := g.nbPad, mark := if first then g.mark else none, sets := if first then g.sets else [],
      rxrec := g.rxrec, beatNo := s.beats, last := last }
  let wasFull := 2 ≤ s.segs.length
  let segs := if last then s.segs.drop 1 else { g with issued := g.issued + n } :: s.segs.drop 1
  let s := { s with cs := csAtIssue s i, beats := s.beats + 1, issuedAt := i, fifo := s.fifo ++ [b], segs := segs,
                    decoded := if last && wasFull then max s.decoded i else s.decoded,
                    res := s.res.filter (fun x => decide (s.nextSeg ≤ x.1 + 8)) }
  d.putSeq p (fixCs s)

/-- The issue stage stops with an error at the head segment's next vector (R153, R154): what was ready before it stands. -/
def issueFault (d : Dev) (p cause : Nat) (g : Seg) (i : Nat) : Dev :=
  let d := d.seqFault p cause g.pc (g.issued % g.count) false (i + issueLead)
  d.raise (if cause = 6 then Ev.streamPoison p else Ev.seqUnderrun p)

/-- Streamed vectors of the next beat that can be issued, and the error of the first that cannot. -/
def streamTake (d : Dev) (p : Nat) (uhold : Nat) : Nat → Seq → List Nat → List Nat × Seq × Option Nat
  | 0, s, acc => (acc.reverse, s, none)
  | n + 1, s, acc =>
    match d.streamFault p s s.txN with
    | some c => (acc.reverse, s, some c)
    | none => streamTake d p uhold n { s with txN := s.txN + 1 } (d.streamWord p s s.txN uhold :: acc)

/-- A streamed segment runs on a period shorter than the declared one: DESC_ERR once per run (R148). -/
def declCheck (d : Dev) (p : Nat) (per : Nat) : Dev :=
  let s := d.seqOf p
  if !s.undeclared && decide (per < d.rn (R.lksDeclPeriod p) * 2 ^ 24) then
    (d.putSeq p { s with undeclared := true }).raise (Ev.descErr p)
  else d

/-- A beat of an APG segment (R164, R165, R175). -/
def apgBeat (d : Dev) (p : Nat) (s : Seq) (g : Seg) (n : Nat) : Dev :=
  let a := d.apgOf p
  let r0 := if a.seg = some g.id then (a, false) else d.apgBegin p g a
  let r1 := d.apgProduce p g.wsm (g.issued + n) 256 r0.1 r0.2
  if !d.apgReady p g.wsm (g.issued + n) r1.1 then (if r1.2 then (d.putApg p r1.1).raise (Ev.apgProgErr p) else d.putApg p r1.1)
  else
    let i := max (d.issueEdge s g) (apgReadyAt (g.issued + n) r1.1)
    let uhold := d.rn (R.seqUhold p)
    let ws := (List.range n).map (fun j => d.apgWord p g.wsm r1.1 uhold (g.issued + j))
    let r2 := d.apgAhead p g.wsm i 160 r1.1 r1.2
    let short := d.apgShort p g.count r2.1 || (a.seg != some g.id && r0.1.ended.isSome)
    let a := { r2.1 with out := g.issued + n, marks := r2.1.marks.filter (fun m => decide (g.issued + n < m.1)), endRaised := r2.1.endRaised || short, tx := streamDrop (g.issued + n) r2.1.tx,
                         cmp := streamDrop (g.issued + n) r2.1.cmp }
    let a := if g.issued + n = g.count then
        { a with seg := none, tx := streamShift g.count a.tx, cmp := streamShift g.count a.cmp, marks := [], out := 0 }
      else a
    let d := (d.putApg p a).placeBeat p s g (ws.map Prod.fst) (ws.map Prod.snd) i
    let d := if short && !r2.1.endRaised then d.raise (Ev.apgEnd p) else d
    if r2.2 then d.raise (Ev.apgProgErr p) else d

/-- The APG executes the micro-instruction at its program counter, where that is of opcode `op`: production of the segment at the head
of the issue stage, at most 128 UIs ahead of it (R164).  An END before the segment's last UI raises APG_END (R175). -/
def apgMicro (d : Dev) (p op : Nat) : Dev :=
  let s := d.seqOf p
  match s.segs with
  | [] => d
  | g :: _ =>
    if 4 ≤ p ∨ d.seqState p < 2 ∨ g.src ≠ 2 then d
    else
      let a := d.apgOf p
      let r0 := if a.seg = some g.id then (a, false) else d.apgBegin p g a
      if r0.1.ended.isSome ∨ U.op (d.ucode p r0.1.upc) ≠ op ∨ d.apgFar p r0.1 then d
      else
        let r := d.apgSlot p g.wsm r0.1
        let stop := d.apgShort p g.count r.1
        let d := d.putApg p { r.1 with endRaised := r.1.endRaised || stop }
        let d := if stop && !r.1.endRaised then d.raise (Ev.apgEnd p) else d
        if r0.2 || r.2 then d.raise (Ev.apgProgErr p) else d

/-- BEAT_ISSUE (R122, R124 to R126, R129, R153, R154). -/
def beatIssue (d : Dev) (p : Nat) : Dev :=
  let s := d.seqOf p
  match s.segs with
  | [] => d
  | g :: _ =>
    if 16 ≤ s.fifo.length ∨ 4 ≤ p ∨ d.seqState p < 2 then d
    else
      let s := issueSets s g
      let i := d.issueEdge s g
      let per := d.issuePeriod p s.issueTs i s
      let n := min (beatSize per) (g.count - g.issued % g.count)
      if g.src = 0 then
        let base := p * 0x200000 + 4 * (g.raddr + g.issued % g.count)
        d.placeBeat p s g ((List.range n).map (fun j => d.sramWord (base + 4 * j))) [] i
      else if g.src = 1 then
        let d := d.declCheck p per
        let s := { s with undeclared := (d.seqOf p).undeclared }
        let y := d.txFree p s
        let d := y.1
        let r := d.streamTake p (d.rn (R.seqUhold p)) n y.2 []
        let d := if r.1.isEmpty then d.putSeq p r.2.1 else d.placeBeat p r.2.1 g r.1 [] i
        let d := d.lksShow p
        match r.2.2 with
        | none => d
        | some c => d.issueFault p c { g with issued := g.issued + r.1.length } i
      else if g.src = 2 then d.apgBeat p s g n
      else d.placeBeat p s g (List.replicate n (d.rn (R.seqIdle0 p))) [] i

/-! ### Descriptor walks (R149, R150) -/

def descReg (p : Nat) (rx : Bool) (i w : Nat) : Nat := (if rx then R.lksRxd0 p i else R.lksTxd0 p i) + 4 * w

def descValid (d : Dev) (p : Nat) (rx : Bool) (i : Nat) : Bool := nbit (d.rn (descReg p rx i 3)) 31
def descLast (d : Dev) (p : Nat) (rx : Bool) (i : Nat) : Bool := nbit (d.rn (descReg p rx i 3)) 30
def descPin (d : Dev) (p : Nat) (rx : Bool) (i : Nat) : Bool := nbit (d.rn (descReg p rx i 3)) 29
def descRepeat (d : Dev) (p : Nat) (rx : Bool) (i : Nat) : Nat := nbits (d.rn (descReg p rx i 3)) 15 0
def descBarges (d : Dev) (p : Nat) (rx : Bool) (i : Nat) : Nat := nbits (d.rn (descReg p rx i 2)) 19 0
def descAddr (d : Dev) (p : Nat) (rx : Bool) (i : Nat) : Nat :=
  d.rn (descReg p rx i 0) / 2048 * 2048 + 2 ^ 32 * (d.rn (descReg p rx i 1) % 64)

/-- An invalid descriptor (R150). -/
def descBad (d : Dev) (p : Nat) (rx : Bool) (i : Nat) : Bool :=
  let f := if rx then d.rxFmt p else d.txFmt p
  let n := d.descBarges p rx i
  let rep := d.descRepeat p rx i
  n == 0 || !d.dramOk (d.descAddr p rx i) (2048 * n) ||
    (if rx then d.descPin p rx i || rep != 1
     else decide (1 < rep) && (f.utrack || f.chmask == 0 || n * 2048 % (64 * f.nfc) != 0))

/-- The first invalid descriptor of a ring with VALID = 1 (R150). -/
def firstBad (d : Dev) (p : Nat) (rx : Bool) : Option Nat :=
  (List.range 16).find? (fun i => d.descValid p rx i && d.descBad p rx i)

/-- Report an invalid descriptor. -/
def descReport (d : Dev) (p : Nat) (rx : Bool) (i : Nat) : Dev :=
  let a := R.lksDescStat p
  (((d.wf a F.lksDescStatBadIdx i).wf a F.lksDescStatBadRx (b2n rx)).wf a F.lksDescStatBadValid 1).raise (Ev.descErr p)

def walkOf (s : Seq) (rx : Bool) : Walk := if rx then s.rx else s.tx
def putWalk (s : Seq) (rx : Bool) (w : Walk) : Seq := if rx then { s with rx := w } else { s with tx := w }

/-- The walk finishes a descriptor: VALID is cleared, and the ring goes on or the stream ends (R149). -/
def descDone (d : Dev) (p : Nat) (rx : Bool) : Dev :=
  let s := d.seqOf p
  let w := walkOf s rx
  let last := d.descLast p rx w.idx
  let d := d.wf (descReg p rx w.idx 3) ⟨31, 31⟩ 0
  d.putSeq p (putWalk s rx { w with idx := (w.idx + 1) % 16, pos := 0, pass := 0, ended := last, waiting := false, bad := false })

/-- `LKS_DESC_STAT` shows the descriptor that the walk has taken; the field keeps it while the walk waits for the next one. -/
def descShow (d : Dev) (p : Nat) (rx : Bool) (i : Nat) : Dev :=
  d.wf (R.lksDescStat p) (if rx then F.lksDescStatRxd else F.lksDescStatTxd) i

/-- Bring the walk to a descriptor that it can use: skipped spans are finished (R6), an invalid one raises DESC_ERR once, and where
none can be used the walk waits. -/
def walkReady (p : Nat) (rx : Bool) : Nat → Dev → Dev × Bool
  | 0, d => (d, false)
  | f + 1, d =>
    let s := d.seqOf p
    let w := walkOf s rx
    if w.ended then (d, false)
    else if !d.descValid p rx w.idx then (d.putSeq p (putWalk s rx { w with waiting := true, bad := false }), false)
    else if d.descBad p rx w.idx then
      let d := d.putSeq p (putWalk s rx { w with waiting := true, bad := true })
      (if w.bad then d else d.descReport p rx w.idx, false)
    else if !rx && d.descRepeat p rx w.idx == 0 then walkReady p rx f ((d.descShow p rx w.idx).descDone p rx)
    else ((d.descShow p rx w.idx).putSeq p (putWalk s rx { w with waiting := false, bad := false }), true)

/-- The TX fetcher takes the descriptor it stands on: a new span of the stream (R151). -/
def takeSpan (d : Dev) (p : Nat) : Dev :=
  let s := d.seqOf p
  let w := s.tx
  if w.pos ≠ 0 ∨ w.pass ≠ 0 then d
  else
    let n := d.descBarges p false w.idx
    let rep := d.descRepeat p false w.idx
    let pinned := d.descPin p false w.idx && decide (n * 2048 ≤ d.rn (R.lksPinLen p))
    let start := match s.txSpans.getLast? with | some t => t.start + t.barges * t.reps | none => 0
    d.putSeq p { s with txSpans := s.txSpans ++ [⟨start, n, rep, pinned, s.txFetched⟩] }

/-- BARGE_FILL (R151, R154): one barge from DRAM into the TX lock; `poison`: its read was uncorrectable. -/
def bargeFill (d : Dev) (p : Nat) (poison : Bool) : Dev :=
  if 4 ≤ p ∨ d.seqState p = 0 ∨ (d.txFmt p).empty ∨ 128 ≤ txFill (d.seqOf p) then d
  else
    let r := walkReady p false 17 d
    let d := r.1
    if !r.2 then d
    else
      let d := d.takeSpan p
      let s := d.seqOf p
      let w := s.tx
      let n := d.descBarges p false w.idx
      let a := d.descAddr p false w.idx + 2048 * w.pos
      let pinned := ((s.txSpans.getLast?).map TxSpan.pinned).getD false
      let r := d.dramRead 0 (0x10 + p) a 2048
      let d := r.1.sramWrite (txSlot p s.txFetched) r.2.2
      let poison := poison || r.2.1
      let s := { s with txFetched := s.txFetched + 1, poison := if poison then s.poison ++ [(s.txFetched, a)] else s.poison }
      let more := w.pos + 1 < n
      let w' := if more then { w with pos := w.pos + 1 } else { w with pos := 0, pass := w.pass + 1 }
      let d := d.putSeq p { s with tx := w' }
      let d := if poison then (d.setN (R.lksErrDaddrLo p) a).setN (R.lksErrDaddrHi p) (a / 2 ^ 32) else d
      let fin := !more && (pinned || decide (d.descRepeat p false w.idx ≤ w.pass + 1))
      (if fin then (walkReady p false 17 (d.descDone p false)).1 else d).lksShow p

/-! ### RX lock (R149, R153) -/

/-- Stream barges that the recorded vectors launched so far touch. -/
def rxTouched (d : Dev) (p : Nat) (n : Nat) : Nat :=
  let f := d.rxFmt p
  if n = 0 ∨ f.empty then 0 else ceilDiv (f.off ((n - 1) / f.ui + 1)) 2048

/-- Show the RX free space, and mark it low (R152). -/
def rxShow (d : Dev) (p : Nat) : Dev :=
  let s := d.seqOf p
  let n := if (d.acqOf p).basin then s.rxN else s.rxDone
  let free := 128 - (d.rxTouched p n - s.rxDrained)
  let d := d.wf (R.lksRxFill p) F.lksRxFillFree free
  let d := if s.tref && decide (free < d.rf (R.lksRxFill p) F.lksRxFillLowest) then
      d.wf (R.lksRxFill p) F.lksRxFillLowest free else d
  if s.tref && decide (free < d.rf (R.lksRxWeir p) F.lksRxWeirL) && !s.rxLow then d.putSeq p { s with rxLow := true } else d

/-- The RX lock has room for the next recorded vector's data. -/
def rxRoom (d : Dev) (p : Nat) (s : Seq) : Bool := decide (d.rxTouched p (s.rxN + 1) ≤ s.rxDrained + 128)

/-- A hard RX overrun (R153, R158) at the recorded vector that launched at `t`: nothing later is recorded. -/
def rxOverrun (d : Dev) (p pcv vofs t : Nat) : Dev :=
  let d := (d.putSeq p { d.seqOf p with rxDead := true }).seqFault p 7 pcv vofs false 0
  let d := (d.setWide (R.seqErrGtc0 p) 3 t).putSeq p { d.seqOf p with errPend := false }
  d.raise (Ev.rxOverrun p)

/-- Store the recorded bits of recorded vector `n`: two bits per channel and sixteen utility bits (R155). -/
def rxStore (d : Dev) (p n fast util : Nat) : Dev :=
  let f := d.rxFmt p
  let put := fun (d : Dev) (pos w v : Nat) =>
    let a := rxSlot p (pos / 8 / 2048) + pos / 8 % 2048
    let old := mnat d.sram a 2
    d.sramWrite a (leBytes 2 (setNbits old (pos % 8 + w - 1) (pos % 8) v))
  let d := (List.range 8).foldl (fun d c =>
    if nbit f.chmask c then put d (f.fastBit n c) f.bpu (fast / 2 ^ (2 * c) % 2 ^ f.bpu) else d) d
  if f.utrack then put d (f.utilBit n) 16 util else d

/-- Whole barges whose recorded data is in. -/
def rxFull (d : Dev) (p : Nat) : Nat :=
  let s := d.seqOf p
  let f := d.rxFmt p
  if f.empty then 0 else f.off (s.rxDone / f.ui) / 2048

/-- BARGE_DRAIN (R149, R151, R153): one full barge from the RX lock to DRAM. -/
def bargeDrain (d : Dev) (p : Nat) : Dev :=
  let s := d.seqOf p
  if 4 ≤ p ∨ d.seqState p = 0 ∨ (d.acqOf p).basin ∨ d.rxFull p ≤ s.rxDrained then d
  else
    let r := walkReady p true 17 d
    let d := r.1
    if !r.2 then d
    else
      let s := d.seqOf p
      let w := s.rx
      let a := d.descAddr p true w.idx + 2048 * w.pos
      let d := d.dramWrite 0 (0x14 + p) a (mread d.sram (rxSlot p s.rxDrained) 2048)
      let more := w.pos + 1 < d.descBarges p true w.idx
      let d := d.putSeq p { s with rxDrained := s.rxDrained + 1, rx := { w with pos := if more then w.pos + 1 else w.pos } }
      (if more then d else (walkReady p true 17 (d.descDone p true)).1).rxShow p

/-! ### Weirs and declared rates (R29, R148) -/

/-- FILL_COMPLETE (R156): filling has reached its goal, or can get no further; the state becomes RUNNING. -/
def fillDone (d : Dev) (p : Nat) : Bool :=
  let s := d.seqOf p
  let goal := if d.rb (R.prtProfile p) F.prtProfileLockActive then d.rf (R.lksTxWeir p) F.lksTxWeirH else 128
  (d.txFmt p).empty || s.tx.ended || s.tx.waiting || decide (goal ≤ txFill s)

def fillComplete (d : Dev) (p : Nat) : Dev :=
  let d := if d.seqState p = 1 && !(d.txFmt p).empty then (walkReady p false 17 d).1 else d
  let wakes := d.srm.waking.any (fun b => decide (b < 64) && b / 16 == p && decide (b % 16 < 14))
  if 4 ≤ p ∨ d.seqState p ≠ 1 ∨ wakes ∨ !d.fillDone p then d
  else
    let s := d.seqOf p
    let ts := d.rf (R.seqCtrl p) F.seqCtrlStartTs
    let s := { s with fe := .run, decoded := d.edgeAt sqclk d.now - sqclk, ts := ts, issueTs := ts }
    ((d.putSeq p s).setSeqState p 2).setPc p (d.rn (R.seqStartPc p))

end Dev
end Sys2Proof.Machine
end

