-- ==== Sys2Proof/Machine/Launch.lean ====
section
/-! DEFINITION. The launch stage (05_vector_sequencer.md R121 to R127, R130, R137, R139, R145, R157), the strobes of each vector
(07_timing_generators.md R194 to R201), drift and slips (R197, R198), and what each launched vector leaves to be judged
(10_compare_and_fail.md R277 to R284). -/
namespace Sys2Proof.Machine
namespace Dev

/-- A vector at launch.  `kind`: 0 program, 1 IDLE, 2 pad, 3 gap or idle word. -/
structure Vec where
  kind : Nat
  word : Nat
  cmp : Nat
  wsm : Nat
  seg : Nat
  pc : Nat
  ofs : Nat
  beat : Nat
  cmask : Nat
  rxrec : Bool
  last : Bool

/-- Wave set that a map gives fast channel `c` or utility channel `u` of a port. -/
def wsFast (d : Dev) (p wsm c : Nat) : Nat := nbits (d.lv (R.seqWsmap0 p wsm)).toNat (4 * c + 3) (4 * c)
def wsUtil (d : Dev) (p wsm u : Nat) : Nat :=
  nbits (d.lv (if u < 8 then R.seqWsmap1 p wsm else R.seqWsmap2 p wsm)).toNat (4 * (u % 8) + 3) (4 * (u % 8))

/-! ### Drift and slips (R197, R198, R284, R288) -/

def fcTrack (d : Dev) (n : Nat) : Nat := d.rf (R.fchCdrCfg n) F.fchCdrCfgTrack

/-- δ outside its window causes a slip: the new δ, the slip (1 forward, 2 backward), and the change of `p` (R198, R285). -/
def driftSlip (H L δ : Int) : Int × Nat :=
  if H < δ then (δ - L, 1) else if δ < H - L then (δ + L, 2) else (δ, 0)

def showDrift (d : Dev) (n : Nat) (δ : Int) : Dev := d.setN (R.fchDrift n) (wrapInt 24 δ)

/-- Note a slip of a channel. -/
def slipNote (d : Dev) (n k : Nat) : Dev :=
  if k = 0 then d
  else (d.cnt (R.fchSlip n) (if k = 1 then F.fchSlipFwd else F.fchSlipBack) 1).raise (Ev.strobeSlip n)

/-- Update δ of a channel at the boundary `t` whose UI is `L` long; the answer is the slip. -/
def driftUpdate (d : Dev) (n ts t : Nat) (L : Int) : Dev × Nat :=
  let c := d.chan n
  let p := n / 8
  match c.cdr.next with
  | some (from_, δ) =>
    if t < from_ then (d.putChan n { c with slip := false }, 0)
    else if 131071 < d.tsInt p ts then (d.putChan n { c with slip := false, cdr := { c.cdr with next := none } }, 0)
    else
      let H : Int := d.tsInt p ts / 2
      let r := driftSlip H L δ
      let adj := if r.2 = 1 then -(L * 65536) else if r.2 = 2 then L * 65536 else 0
      let c := { c with drift := r.1, slip := r.2 == 1, cdr := { c.cdr with next := none, p := c.cdr.p + adj } }
      (((d.putChan n c).showDrift n r.1).slipNote n r.2, r.2)
  | none => (d.putChan n { c with slip := false }, 0)

/-- A channel under FWD takes δ and the slips of its source at the same boundary (R284). -/
def driftFwd (d : Dev) (n : Nat) (slips : List (Nat × Nat)) : Dev × Nat :=
  let src := n / 8 * 8 + d.rf (R.fchCdrCfg n) F.fchCdrCfgFwdSrc
  let ok := d.fcTrack src = 1
  let δ := if ok then (d.chan src).drift else 0
  let k := if ok then ((slips.find? (fun x => x.1 == src)).map Prod.snd).getD 0 else 0
  let d := d.putChan n { d.chan n with drift := δ, slip := k == 1 }
  ((d.showDrift n δ).slipNote n k, k)

/-- All fast channels of a port at a boundary: the slips that happen. -/
def driftAll (d : Dev) (p ts t : Nat) (L : Int) : Dev × List (Nat × Nat) :=
  let ns := (List.range 8).map (fun c => 8 * p + c)
  let r := ns.foldl (fun (x : Dev × List (Nat × Nat)) n =>
    if d.fcTrack n = 1 then let y := x.1.driftUpdate n ts t L; (y.1, x.2 ++ [(n, y.2)]) else x) (d, [])
  let src := r.2
  let r := ns.foldl (fun (x : Dev × List (Nat × Nat)) n =>
    if d.fcTrack n = 2 then let y := x.1.driftFwd n src; (y.1, x.2 ++ [(n, y.2)]) else x) r
  (r.1, r.2.filter (fun x => x.2 != 0))

/-! ### Strobes (R200, R201, R279, R284, R291) -/

/-- The slicer mode of a fast channel (Table 10-1). -/
def slicerMode (d : Dev) (n fmt : Nat) : Nat :=
  if fmt ≤ 4 then d.rf (R.fchCmpCfg n) F.fchCmpCfgSmode
  else if fmt = 6 then 2 else if fmt = 5 then 3 else if d.trioOf n = 0 then 4 else 5

/-- Slicers of a mode, as bits (Table 10-1); in TRIO the odd channel has S0 only. -/
def modeSlicers (mode : Nat) (odd : Bool) : Nat :=
  match mode with
  | 1 => 3 | 2 => 7 | 3 => 6 | 4 => 3 | 5 => if odd then 1 else 3 | _ => 15

def wsEn (d : Dev) (n w k : Nat) : Bool := nbit (d.lv (R.wsS0 n w + 4 * k)).toNat 31
def wsOfs (d : Dev) (n w k : Nat) : Nat := (d.lv (R.wsS0 n w + 4 * k)).toNat % 2 ^ 28

def eyeState (d : Dev) (n : Nat) : Nat := d.rf (R.fchEyeStat n) F.fchEyeStatState

/-- S3 roves for the eye monitor (R279, R291). -/
def roving (d : Dev) (n : Nat) : Bool := d.eyeState n == 1 || d.eyeState n == 2

/-- Slicers that strobe for compare in a UI (R279). -/
def cmpSlicers (d : Dev) (n w : Nat) : Nat :=
  let ctrl := d.lv (R.wsCtrl n w)
  let role := fget ctrl F.wsCtrlRole
  let mode := d.slicerMode n (fget ctrl F.wsCtrlFormat)
  if 2 ≤ role ∧ role ≤ 4 then
    let m := if mode = 0 then (List.range 4).foldl (fun m k => m + b2n (d.wsEn n w k) * 2 ^ k) 0
      else if d.wsEn n w 0 then modeSlicers mode (n % 2 == 1) else 0
    if d.roving n then m % 8 else m
  else 0

/-- Slicers that tracking adds (R284). -/
def trackSlicers (d : Dev) (n w : Nat) : Nat :=
  if d.fcTrack n = 1 then
    let mode := d.slicerMode n (fget (d.lv (R.wsCtrl n w)) F.wsCtrlFormat)
    if mode = 2 ∨ mode = 3 then 7 else 1
  else 0

/-- Column offset of the roving slicer (R290). -/
def eyeOfs (d : Dev) (n : Nat) : Nat :=
  d.rn (R.fchEyeT0 n) % 2 ^ 28 + d.rf (R.fchEyeStat n) F.fchEyeStatCol * (d.rn (R.fchEyeTstep n) % 2 ^ 16)

/-- Place the strobes of one UI: slicers placed, and clamps. -/
def placeStrobes (d : Dev) (n ts t w mask : Nat) : Dev × Nat :=
  let p := n / 8
  let sj := R.tsSj p ts
  let rj := R.tsRj p ts
  let base : Int := t + d.lsext (R.fchDskStb n) +
    (if d.lf sj F.tsSjSjStb = 1 ∧ d.sjAmp p ts ≠ 0 then d.sjTerm p ts t else 0)
  let rjOn := d.lf rj F.tsRjRjStb = 1
  let sigma := d.lf rj F.tsRjRjSigma
  let rove := d.eyeState n = 1
  let r := (List.range 4).foldl (fun (x : Chan × Nat × Nat) k =>
    let isRove := k = 3 ∧ rove
    if nbit mask k || decide isRove then
      let j := if rjOn then rjTerm sigma x.1.rj else (0, x.1.rj)
      let c := { x.1 with rj := j.2 }
      let ofs := if isRove then d.eyeOfs n else d.wsOfs n w k
      let y := base + ofs + j.1 + c.drift
      let last := (c.lastStb.find? (fun s => s.1 == k)).map Prod.snd
      if isRove ∧ (orderCheck wMinFast last y).2 then (c, x.2.1, x.2.2)
      else
        let q := placeStb wMinFast k y c
        (q.1, x.2.1 + 2 ^ k, x.2.2 + b2n q.2)
    else x) ({ d.chan n with stbs := [] }, 0, 0)
  ((d.putChan n r.1).clampNote n 0 r.2.2, r.2.1)

/-- A slicer's strobe time of the present vector. -/
def stbAt (c : Chan) (k : Nat) : Int := ((c.stbs.find? (fun s => s.1 == k)).map Prod.snd).getD 0

/-! ### Jobs (R143, R281, R302) -/

/-- The codec of a channel is in LP mode (R232, R235). -/
def inLp (d : Dev) (n : Nat) : Bool :=
  let m := d.cdcMode n
  (m == 5 || m == 6 || d.trioOf n != 0) && decide ((d.chan (if d.trioOf n = 2 then n - 1 else n)).codec.burst = 0) &&
    d.lf (R.fchLpCfg n) F.fchLpCfgLpEn == 1

/-- The decoder of a channel counts as locked (R187). -/
def decLocked (d : Dev) (n : Nat) : Bool :=
  d.rb (R.cdcRxstat (n / 8) (n % 8)) F.cdcRxstatLocked || d.rb (R.cdcCfg (n / 8) (n % 8)) F.cdcCfgAlignFixed

/-- Decoded compares replace per-UI compares (R281). -/
def decoding (d : Dev) (n : Nat) : Bool :=
  d.cdcMode n != 0 && d.rb (R.cdcCfg (n / 8) (n % 8)) F.cdcCfgRxDec && d.decLocked n

/-- What a fast channel has to judge in a UI; `stb`: slicers placed, `tagw`: its 96 compare bits of an APG vector. -/
def fcJob (d : Dev) (n : Nat) (v : Vec) (w sym stb tagw : Nat) (slip back : Bool) : PinJob :=
  let ctrl := d.lv (R.wsCtrl n w)
  let role := fget ctrl F.wsCtrlRole
  let mode := d.slicerMode n (fget ctrl F.wsCtrlFormat)
  let lp := d.inLp n && decide (2 ≤ role ∧ role ≤ 4)
  let useV := decide (role = 4)
  let part := decide (role = 2 ∨ role = 3) || (useV && sym == 0)
  let noCmp := nbit tagw 30
  let base := v.kind == 0 && !slip && !noCmp && part
  let cmp := base && (if lp then d.wsEn n w 0 else (d.cmpSlicers n w != 0 && d.trioOf n == 0)) && !d.decoding n
  { pin := n % 8, stb := if slip then 0 else stb,
    cst := if slip then 0 else stb &&& d.cmpSlicers n w, at_ := stbAt (d.chan n) 0, at3 := stbAt (d.chan n) 3, cmp := cmp, mode := if lp then 6 else mode,
    exp := if useV then fget ctrl F.wsCtrlExpv else sym, useV := useV, part := part && v.kind == 0 && !noCmp, slip := slip,
    back := back, tag := if nbit tagw 31 then some (nbits tagw 79 64, nbits tagw 95 80) else none }

/-- Keep the payload of a UI for the group that its decoder receives (R188); a forward slip gives the decoder nothing (R289). -/
def noteRx (d : Dev) (ch n sym exp : Nat) (part plain slip : Bool) : Dev :=
  if slip then d
  else
    let c := d.chan ch
    let x := if part then exp else sym
    d.putChan ch { c with codec := { c.codec with rx := ((n, x, part, plain) :: c.codec.rx).take 264 } }

/-- One fast channel in one UI: drive, strobes, and its job, none where it judges and samples nothing. -/
def fcUi (d : Dev) (p c ts t n : Nat) (v : Vec) (slips : List (Nat × Nat)) : Dev × Option PinJob :=
  let ch := 8 * p + c
  if !d.fcReady ch then (d, none)
  else
    let w := d.wsFast p v.wsm c
    let ctrl := d.lv (R.wsCtrl ch w)
    let d := d.takeSet ch (fget ctrl F.wsCtrlLset) t
    let sym := v.word / 2 ^ (2 * c) % 4
    let sym1 := if 5 ≤ fget ctrl F.wsCtrlFormat then sym else sym % 2
    let d := d.putChan ch { d.chan ch with edges := [] }
    let j : LaneJob := ⟨t, w, sym1, v.kind == 0, ts, n⟩
    let d := d.fcPayload ch j (v.word / 2 ^ (2 * c + 2) % 4) (d.wsFast p v.wsm (c + 1))
    let k := ((slips.find? (fun x => x.1 == ch)).map Prod.snd).getD 0
    let want := if k = 1 then 0 else d.cmpSlicers ch w ||| d.trackSlicers ch w
    let r := if k = 1 then (d.putChan ch { d.chan ch with stbs := [] }, 0) else d.placeStrobes ch ts t w want
    let d := r.1
    let job := d.fcJob ch v w sym1 r.2 (v.cmp / 2 ^ (96 * c) % 2 ^ 96) (k == 1) (k == 2)
    let d := if d.cdcMode ch = 0 ∧ d.trioOf ch ≠ 2 then d else d.noteRx ch n sym job.exp job.part (v.kind == 0 && !nbit (v.cmp / 2 ^ (96 * c)) 30) (k == 1)
    let recs := v.rxrec && nbit (d.rxFmt p).chmask c
    if r.2 ≠ 0 ∨ job.cmp ∨ k ≠ 0 ∨ recs ∨ job.part then (d, some job) else (d, none)

/-- Largest strobe offset of the active slicers on the channels of `SEQ_CMASK`, for S(v) (R143). -/
def strobeMax (d : Dev) (p : Nat) (v : Vec) (util : Bool) : Nat :=
  let f := (List.range 8).foldl (fun m c =>
    let ch := 8 * p + c
    let w := d.wsFast p v.wsm c
    if nbit v.cmask c then
      (List.range 4).foldl (fun m k => if nbit (d.cmpSlicers ch w) k then max m (d.wsOfs ch w k) else m) m
    else m) 0
  if !util then f
  else (List.range 16).foldl (fun m u =>
    let ch := 16 * p + u
    let w := d.wsUtil p v.wsm u
    let ctrl := d.uwsCtrl ch w
    let role := fget ctrl ⟨6, 4⟩
    if nbit v.cmask (8 + u) && nbit ctrl.toNat 16 && decide (2 ≤ role ∧ role ≤ 4) && d.ucOwner ch == 1 then
      max m (d.lv (uchPage ch + 0x100 + 0x10 * w + 8)).toNat else m) f

/-- One utility channel at the start of its utility UI (R130, R195, R241). -/
def ucUi (d : Dev) (p u t : Nat) (v : Vec) : Dev × Option PinJob :=
  let m := 16 * p + u
  if !d.ucReady m ∨ d.ucOwner m ≠ 1 then (d, none)
  else
    let w := d.wsUtil p v.wsm u
    let ctrl := d.uwsCtrl m w
    let d := d.takeSet (32 + m) (fget ctrl ⟨13, 12⟩) t
    let sym := v.word / 2 ^ (16 + u) % 2
    let d := d.putChan (32 + m) { d.chan (32 + m) with edges := [], stbs := [] }
    let d := d.ucDrive m t w sym
    let role := fget ctrl ⟨6, 4⟩
    if nbit ctrl.toNat 16 && decide (2 ≤ role ∧ role ≤ 4) then
      let x := (t : Int) + (d.lv (uchPage m + 0x100 + 0x10 * w + 8)).toNat + d.lsext (R.uchDskStb m)
      let q := placeStb wMinUtil 0 x (d.chan (32 + m))
      let d := (d.putChan (32 + m) q.1).clampNote (32 + m) 0 (b2n q.2)
      let useV := decide (role = 4)
      let cmp := v.kind == 0 && (!useV || sym == 0)
      (d, some { pin := 8 + u, stb := 3, cst := 3, at_ := stbAt q.1 0, at3 := 0, cmp := cmp, mode := 7,
                 exp := if useV then fget ctrl ⟨9, 8⟩ else sym, useV := useV, part := false, slip := false, back := false, tag := none })
    else (d, none)

/-! ### The launch rule (R123) -/

/-- The latest T of the WAIT_TIMEs and SYNCs before one vector, once every earlier program vector has launched (R139). -/
def nbTime (d : Dev) (p : Nat) (s : Seq) (nb : List (Bool × Nat)) (sync : List (Nat × Nat × Nat)) : Nat :=
  let x := nb.foldl (fun m y => max m (if y.1 then d.wide (R.seqTref0 p) 3 + y.2 else y.2)) 0
  sync.foldl (fun m y =>
    let t0 := max s.lastEnd y.2.2
    max m (t0 + (y.2.1 + y.1 - t0 % y.1) % y.1)) x

/-- The not-before time of a beat's next vector. -/
def beatNb (d : Dev) (p : Nat) (s : Seq) (b : Beat) : Nat :=
  if b.words.length ≠ b.n0 then 0 else d.nbTime p s b.nb b.sync

/-- The timing set that a beat's next vector brings with it (R137). -/
def beatTs (b : Beat) : Option Nat :=
  if b.words.length ≠ b.n0 then none
  else ((b.sets.filter (fun x => x.1 == 8)).getLast?).map (fun x => x.2 % 16)

/-- The segment of the next program vector, its not-before time with its pad source, and whether R122 lets it launch at `t`. -/
def nextHold (d : Dev) (p : Nat) (s : Seq) (t : Nat) : Nat × Nat × Nat × Bool :=
  match s.fifo with
  | b :: _ => (b.seg, d.beatNb p s b, b.nbPad, decide (b.issue + issueLead ≤ t))
  | [] => match s.segs with
    | g :: _ => (g.id, if g.issued = 0 then d.nbTime p s g.nb g.sync else 0, g.nbPad, false)
    | [] => (s.nextSeg, d.nbTime p s s.nb s.sync, s.nbPad, false)

/-- The next program vector has a not-before time later than `t` (R123). -/
def nbLater (d : Dev) (p : Nat) (s : Seq) (t : Nat) : Bool := decide (t < (d.nextHold p s t).2.1)

/-- The pad source of the UI at `t`: that of the wait which the front end began, until R122 lets the next program vector launch; then,
and where the front end holds only a later instruction, that of the vector's own WAIT_TIME or SYNC (R139, R144). -/
def padSource (d : Dev) (p : Nat) (s : Seq) (t : Nat) : Nat :=
  let h := d.nextHold p s t
  if decide (t < h.2.1) && !(s.inWait && decide (s.waitSeg ≤ h.1) && !h.2.2.2) then h.2.2.1 else s.padSrc

/-- A beat that was issued before a local SET of `SEQ_CMASK` (target 9) or `SEQ_UHOLD` (target 13) took effect obeys it all the same
(R137): the mask, or the utility payload where the source carries none (R130). -/
def beatSet (d : Dev) (p tgt v : Nat) (b : Beat) : Beat :=
  if tgt = 9 then { b with cmask := v }
  else if b.src = 2 || (b.src == 1 && !(d.txFmt p).utrack) then
    { b with words := b.words.map (fun w => w % 2 ^ 16 + 2 ^ 16 * v), all := b.all.map (fun w => w % 2 ^ 16 + 2 ^ 16 * v) }
  else b

/-- Local SETs that take effect with this vector (R137), and its flag pulse. -/
def launchSets (d : Dev) (p : Nat) (s : Seq) (b : Beat) : Dev × Seq :=
  if b.words.length ≠ b.n0 then (d, { s with pulses := 0 })
  else
    let r := b.sets.foldl (fun (x : Dev × Seq) t =>
      if t.1 = 10 then (x.1, { x.2 with sflag := x.2.sflag ||| (t.2 % 256) })
      else if t.1 = 11 then (x.1, { x.2 with sflag := x.2.sflag &&& (255 - t.2 % 256) })
      else if t.1 = 12 then
        let h := x.1.rn (R.seqHflag p)
        (x.1.setN (R.seqHflag p) (h &&& (15 - t.2 % 16)), x.2)
      else if t.1 = 9 then
        (x.1.setN (R.seqCmask p) (t.2 % 2 ^ 24), { x.2 with fifo := x.2.fifo.map (beatSet x.1 p 9 (t.2 % 2 ^ 24)) })
      else if t.1 = 13 then
        (x.1.setN (R.seqUhold p) (t.2 % 2 ^ 16), { x.2 with fifo := x.2.fifo.map (beatSet x.1 p 13 (t.2 % 2 ^ 16)) })
      else x) (d, s)
    (r.1, { r.2 with pulses := match b.mark with | some f => 2 ^ f | none => 0 })

/-- The port idle word as a vector (R243). -/
def idleVec (d : Dev) (p kind : Nat) : Vec :=
  { kind := kind, word := d.rn (R.seqIdle0 p), cmp := 0, wsm := d.rf (R.seqIdle1 p) F.seqIdle1Map, seg := 0, pc := 0, ofs := 0,
    beat := 0, cmask := 0, rxrec := false, last := false }

/-- Every channel of a port in one UI, and the jobs it leaves. -/
def launchPins (d : Dev) (p ts t n : Nat) (L : Int) (v : Vec) : Dev × List PinJob :=
  let dr := d.driftAll p ts t L
  let r := (List.range 8).foldl (fun (x : Dev × List PinJob) c =>
    let y := x.1.fcUi p c ts t n v dr.2
    (y.1, x.2 ++ y.2.toList)) (dr.1, [])
  if n % (max 1 (d.rn (R.seqUdiv p))) = 0 then
    (List.range 16).foldl (fun (x : Dev × List PinJob) u =>
      let y := x.1.ucUi p u t v
      (y.1, x.2 ++ y.2.toList)) r
  else r

def flpOf (d : Dev) (p : Nat) : Flp := tget (fun _ => Flp.reset) d.flp p
def putFlp (d : Dev) (p : Nat) (f : Flp) : Dev := { d with flp := tset (fun _ => Flp.reset) d.flp p f }

/-- The acquisition engine writes the launched vectors into a slot (R307, R310). -/
def acqRecording (d : Dev) (p n : Nat) : Bool :=
  d.acqState p == 1 || d.acqState p == 2 || (d.acqState p == 3 && decide ((d.acqOf p).na ≤ n))

/-- A vector launches on a port whose RX lock drains into the basin: it is a sample (R307), the first one that a waiting ARM names
enters ARMED (R318), and while units may hit it waits for its decision (R311, R314). -/
def acqSample (d : Dev) (p kind pc ofs ts t next n A : Nat) : Dev :=
  let a := d.acqOf p
  let d := match a.armAt with
    | some k => if k ≤ n then (d.putAcq p { a with armAt := none }).setAcqState p 1 else d
    | none => d
  let st := d.acqState p
  let s := d.seqOf p
  let sf := (s.sflag ||| s.pulses) % 256
  let sfp := a.sfPrev
  let d := d.putAcq p { d.acqOf p with sfPrev := sf }
  if 1 ≤ st ∧ st ≤ 4 then
    let a := d.acqOf p
    let x : Smp :=
      { n := n, t := t, end_ := next, ts := ts, prog := decide (kind ≤ 1), pc := pc, ofs := ofs, sf := sf, sfp := sfp,
        a := A, bits := 0, slips := 0, fails := 0, dec := 0 }
    d.putAcq p { a with smps := a.smps ++ [x], starts := ((n, t) :: a.starts).take (d.rn (R.acqPre p) + 1 + a.smps.length) }
  else d

/-- READY falls at a boundary that a disable waits for (R246). -/
def readyOff (d : Dev) (p t : Nat) : Dev :=
  ((List.range 8).map (8 * p + ·) ++ (List.range 16).map (32 + 16 * p + ·)).foldl (fun d i =>
    let c := d.chan i
    match c.offAt with
    | some x => if x ≤ t then
        let d := d.putChan i { c with offAt := none }
        d.readyFall i
      else d
    | none => d) d

/-- Launch one vector at `t` on timing set `ts`: the pins, the job, and the sequencer's bookkeeping of the launch. -/
def launchVec (d : Dev) (p ts t : Nat) (s : Seq) (v : Vec) : Dev :=
  let next := d.boundAfter p ts t
  let n := s.n
  let d := d.putSeq p { s with ts := ts, n := n + 1, nextUi := next, lastEnd := if v.kind ≤ 1 then next else s.lastEnd }
  let d := d.readyOff p t
  let r := d.launchPins p ts t n ((next : Int) - t) v
  let d := r.1
  let util := n % (max 1 (d.rn (R.seqUdiv p))) = 0
  let A := t + 229376 + (if v.kind = 1 then 0 else d.strobeMax p v util)
  let d := if v.kind ≤ 1 then
      let c := d.rn (R.seqVcount0 p) + 2 ^ 32 * d.rn (R.seqVcount1 p) + 1
      (d.setN (R.seqVcount0 p) (c % 2 ^ 32)).setN (R.seqVcount1 p) (c / 2 ^ 32)
    else d
  -- RX recording (R153, R307, R310)
  let basin := (d.acqOf p).basin
  let d := if basin then d.acqSample p v.kind v.pc v.ofs ts t next n A else d
  let s := d.seqOf p
  let recs := (if basin then d.acqRecording p n else v.rxrec && v.kind == 0 && d.seqState p != 0) && !(d.rxFmt p).empty && !s.rxDead
  let s := if basin then { s with rxN := n } else s
  let room := !basin || d.rxRoom p s
  let rx := if recs && room then some s.rxN else none
  let d := if recs then
      if room then (d.putSeq p { s with rxN := s.rxN + 1 }).rxShow p
      else if d.seqState p = 0 then d
      else d.rxOverrun p v.pc v.ofs t
    else if basin then d.putSeq p { s with rxN := n, rxDrained := (d.rxFmt p).off ((n + 1) / d.acqU p) / 2048 }
    else d
  let job := !r.2.isEmpty || rx.isSome
  let s := d.seqOf p
  let sr := segRes s v.seg
  let d := if v.kind ≤ 1 then
      d.putSeq p (setSegRes s v.seg { sr with open_ := sr.open_ + b2n job, aLast := if v.last then some A else sr.aLast })
    else d
  if job then
    let f := d.flpOf p
    let job : CmpJob :=
      { n := n, t := t, a := A, seg := v.seg, prog := decide (v.kind ≤ 1), pc := v.pc, ofs := v.ofs,
        beat := v.beat, ts := ts, cmask := if v.kind = 0 then v.cmask else 0, rx := rx, pins := r.2, dec := [] }
    d.putFlp p { f with jobs := f.jobs ++ [job] }
  else d

/-- The vector just launched ends a MATCH unit: the wait begins (R123), with the MATCH's pad source (R147). -/
def unitEnd (d : Dev) (p seg : Nat) (last : Bool) (s : Seq) : Seq :=
  match s.fe with
  | .match_ g _ =>
    if last && seg == g then
      { s with inWait := true, waitSeg := seg + 1, padSrc := I.pad (d.instrAt p (d.pc p)) }
    else s
  | _ => s

/-- Launch the head beat's next vector at `t`. -/
def launchProgram (d : Dev) (p ts t : Nat) (b : Beat) (rest : List Beat) : Dev :=
  let s := d.seqOf p
  let r := d.launchSets p s b
  let d := r.1
  let b := (r.2.fifo.head?).getD b
  let rest := if r.2.fifo.isEmpty then rest else r.2.fifo.drop 1
  let w := (b.words.head?).getD 0
  let v : Vec :=
    { kind := if b.src = 3 then 1 else 0, word := w, cmp := (b.cmp.head?).getD 0, wsm := b.wsm, seg := b.seg, pc := b.pc,
      ofs := b.ofs, beat := b.beatNo, cmask := b.cmask, rxrec := b.rxrec, last := b.last && b.words.length == 1 }
  let b' := { b with words := b.words.drop 1, cmp := b.cmp.drop 1, ofs := b.ofs + 1 }
  let full := s.fifo.length = 16
  let fifo := if b.words.length ≤ 1 then rest else b' :: rest
  let s := { r.2 with fifo := fifo, roomAt := if full ∧ b.words.length ≤ 1 then t else s.roomAt, padWords := b.all, padWsm := b.wsm,
                      padK := 0, inWait := s.inWait && decide (b.seg < s.waitSeg) }
  d.launchVec p ts t (d.unitEnd p v.seg v.last s) v

/-- After HALT or an error no issued vector is left, so the port emits the idle word and no wait is open any more (R141, R158). -/
def idleWord (d : Dev) (p : Nat) (s : Seq) : Bool :=
  s.idleOnly && s.fifo.isEmpty && s.segs.isEmpty && d.seqState p != 0

/-- Launch a pad (R145). -/
def launchPad (d : Dev) (p t : Nat) : Dev :=
  let s := d.seqOf p
  let src := d.padSource p s t
  let v := if src = 0 ∧ !s.padWords.isEmpty then
      { d.idleVec p 2 with word := (s.padWords[s.padK % s.padWords.length]?).getD 0, wsm := s.padWsm }
    else d.idleVec p 2
  let d := d.cnt (R.seqPadUi p) F.all 1
  let d := if src = 2 then d.cnt (R.seqMoorUi p) F.all 1 else d
  d.launchVec p s.ts t { s with inWait := true, waitSeg := if s.inWait then s.waitSeg else (d.nextHold p s t).1,
                                padSrc := if s.inWait then s.padSrc else src, padK := s.padK + 1, pulses := 0 } v

/-- Launch a gap vector, or the idle word after HALT or an error (R123, R141, R158). -/
def launchIdle (d : Dev) (p t : Nat) : Dev :=
  let s := d.seqOf p
  let after := s.idleOnly && s.fifo.isEmpty && s.segs.isEmpty
  let miss := after && s.errPend && decide (s.errMin ≤ t) && !d.nbLater p s t
  let d := if miss then d.setWide (R.seqErrGtc0 p) 3 t else d
  let d := if after then d else (d.cnt (R.seqStarveUi p) F.all 1).raise (Ev.beatStarve p)
  let s := d.seqOf p
  d.launchVec p s.ts t { s with errPend := s.errPend && !miss, inWait := s.inWait && !after, pulses := 0 } (d.idleVec p 3)

/-- Launch ends, or the port is reset (R321): a record in progress closes at the last launched sample, and an armed engine waits for
the next run. -/
def acqLaunchEnd (d : Dev) (p : Nat) : Dev :=
  let a := d.acqOf p
  let clear := fun (d : Dev) => d.putAcq p
    { d.acqOf p with na := 0, smps := [], hits := [], last := none, next := 0, starts := [], force := none, mask := none,
                     armAt := none }
  match d.acqState p, a.open_ with
  | 2, some r =>
    let d := d.closeOut p r (max r.nT ((d.seqOf p).n - 1)) true
    let st := d.afterClose p r.maskStop
    let d := (clear d).setAcqState p st
    if st = 6 then d.raise (Ev.acqDone p) else d
  | 0, _ => if a.armAt.isSome then (clear d).setAcqState p 1 else clear d
  | _, _ => clear d

/-- Launch ends after STOP (R157, R244): each ready channel enters its rest state. -/
def launchEnd (d : Dev) (p t : Nat) : Dev :=
  let s := d.seqOf p
  let d := d.putSeq p { s with tref := false, stopAt := none, fifo := [], idleOnly := false, inWait := false, pulses := 0 }
  let d := d.acqLaunchEnd p
  -- a disable that waits for a boundary goes on, and eye scans pause (R246, R294)
  let d := d.readyOff p (2 ^ 80)
  let d := (List.range 8).foldl (fun d c => if d.eyeState (8 * p + c) = 1 then d.wf (R.fchEyeStat (8 * p + c)) F.fchEyeStatState 2 else d) d
  let d := (List.range 8).foldl (fun d c =>
    let n := 8 * p + c
    let ch := d.chan n
    if d.fcReady n && d.lf (R.fchDrvCfg n) F.fchDrvCfgRest == 1 && ch.on then
      let q := placeDrv wMinFast ((t : Int) + d.lsext (R.fchDskDrv n)) relCode ch
      ((d.putChan n { q.1 with on := false }).showHs n { q.1 with on := false } false).clampNote n (b2n q.2) 0
    else d.putChan n { ch with on := false }) d
  (List.range 16).foldl (fun d u =>
    let m := 16 * p + u
    let ch := d.chan (32 + m)
    if d.ucReady m && d.ucOwner m == 1 && d.lf (R.uchDrvCfg m) F.uchDrvCfgRest == 1 && ch.on then
      let q := placeDrv wMinUtil ((t : Int) + d.lsext (R.uchDskDrv m)) relCode ch
      (d.putChan (32 + m) { q.1 with on := false }).clampNote (32 + m) (b2n q.2) 0
    else d.putChan (32 + m) { ch with on := false }) d

/-- The first launch of a run fixes `SEQ_TREF` (R124). -/
def firstUi (d : Dev) (p cs : Nat) : Dev :=
  let s := d.seqOf p
  let t := d.firstLaunch p s cs
  let d := (d.setWide (R.seqTref0 p) 3 t).putSeq p { s with tref := true, nextUi := t, n := 0 }
  let d := d.wf (R.lksTxFill p) F.lksTxFillLowest (txFill s)
  let d := d.wf (R.lksRxFill p) F.lksRxFillLowest (d.rf (R.lksRxFill p) F.lksRxFillFree)
  (d.lksShow p).rxShow p

/-- VECTOR_LAUNCH (R123): one UI of a port. -/
def vectorLaunch (d : Dev) (p : Nat) : Dev :=
  let s0 := d.seqOf p
  if 4 ≤ p then d
  else
    let d := if s0.tref then d else match s0.cs with
      | some cs => if 2 ≤ d.seqState p then d.firstUi p cs else d
      | none => d
    if !(d.seqOf p).tref then d
    else
      let d := d.applyDue p
      let s := d.seqOf p
      let t := s.nextUi
      if (match s.stopAt with | some e => decide (e ≤ t) | none => false) then d.launchEnd p t
      else
        let wait := (s.inWait || d.nbLater p s t) && !d.idleWord p s
        match s.fifo with
        | b :: rest =>
          match beatTs b with
          | some ts =>
            let t' := d.boundAt p ts t
            if b.issue + issueLead ≤ t' ∧ d.beatNb p s b ≤ t' then
              let d := d.seamRecord p ts t (t' - t)
              let d := d.putSeq p { d.seqOf p with ts := ts }
              let d := d.launchProgram p ts t' b rest
              if ts = s.ts then d else (d.afterPeriod p ts).sjJudge p
            else if wait then d.launchPad p t else d.launchIdle p t
          | none =>
            if b.issue + issueLead ≤ t ∧ d.beatNb p s b ≤ t then d.launchProgram p s.ts t b rest
            else if wait then d.launchPad p t else d.launchIdle p t
        | [] => if wait then d.launchPad p t else d.launchIdle p t

end Dev
end Sys2Proof.Machine
end

