-- ==== Sys2Proof/Machine/Decide.lean ====
section
/-! DEFINITION. Slicer decisions and what they are compared with (10_compare_and_fail.md R277 to R283, R286, R302). -/
namespace Sys2Proof.Machine

/-- What a pin's slicers give in one UI.  `sym`: the symbol delivered where a mode delivers one; `code`: the decision as the eye
monitor's filter and `EXPV` know it, none for INVALID; `rbit`: the received bit a decoder takes; `outer`: the outer level for a vote
(R286), none elsewhere. -/
structure Decision where
  inv : Bool
  code : Option Nat
  sym : Nat
  rbit : Nat
  outer : Option Nat

/-- Symbol of a PAM4 level index under `GRAY` (Table 8-2). -/
def pam4Sym (gray : Bool) (i : Nat) : Nat :=
  if i = 2 then (if gray then 3 else 2) else if i = 3 then (if gray then 2 else 3) else i

/-- The decision of a mode (Table 10-2); `r` holds r0 to r3 in bits 0 to 3 (on a utility channel r_H in bit 0 and r_L in bit 1). -/
def decide_ (mode : Nat) (gray : Bool) (r : Nat) : Decision :=
  let r0 := r % 2
  let r1 := r / 2 % 2
  let r2 := r / 4 % 2
  match mode with
  | 0 => ⟨false, some r0, r0, r0, some r0⟩
  | 2 =>
    let ok := decide (r1 ≤ r0 ∧ r0 ≤ r2)
    let i := r2 + r0 + r1
    let s := pam4Sym gray i
    ⟨!ok, if ok then some s else none, s, s % 2, if !ok then none else if i = 0 then some 0 else if i = 3 then some 1 else none⟩
  | 3 =>
    let inv := decide (r2 = 0 ∧ r1 = 1)
    let s := if inv then 3 else r2 + r1
    ⟨inv, if inv then none else some s, s, s % 2, if s = 0 then some 0 else if s = 2 then some 1 else none⟩
  | 4 => ⟨false, some (r0 + 2 * r1), r0 + 2 * r1, r0, some r0⟩
  | 5 => ⟨false, some r0, r0, r0, some r0⟩
  | 6 => ⟨false, some (r % 4), r % 4, r0, none⟩
  | _ =>
    -- WINDOW, and utility channels
    if r0 = 1 ∧ r1 = 1 then ⟨false, some 1, 1, 1, some r0⟩
    else if r0 = 0 ∧ r1 = 0 then ⟨false, some 0, 0, 0, some r0⟩
    else if r0 = 0 then ⟨false, some 2, 2 + r0, r0, some r0⟩
    else ⟨true, none, 2 + r0, r0, some r0⟩

/-- Outcome of one compare: fail, compared bits, error bits (R280, R283). -/
structure Outc where
  fail : Bool
  bits : Nat
  errs : Nat

/-- Compare a decision with an expected value; none where there is nothing to compare with.  `prev`: the level expected in the previous
compared UI (PAM3). -/
def judge (j : PinJob) (r : Nat) (x : Decision) (prev : Option Nat) : Option Outc :=
  match j.mode with
  | 0 =>
    let e := j.exp % 2
    let bad := (List.range 4).foldl (fun n k => n + b2n (nbit j.cst k && (r / 2 ^ k % 2 != e))) 0
    some ⟨decide (0 < bad), popCount 4 j.cst, bad⟩
  | 2 => some (if x.inv then ⟨true, 2, 2⟩ else ⟨x.sym != j.exp, 2, popCount 2 (x.sym ^^^ j.exp)⟩)
  | 3 =>
    match (if j.exp = 3 then prev else some j.exp) with
    | none => none
    | some e => some (if x.inv then ⟨true, 2, 2⟩ else ⟨x.sym != e, 2, popCount 2 (x.sym ^^^ e)⟩)
  | 4 => some ⟨x.sym != j.exp % 4, 2, popCount 2 (x.sym ^^^ (j.exp % 4))⟩
  | 5 => none
  | 6 => some ⟨x.sym != j.exp % 4, 1, b2n (x.sym != j.exp % 4)⟩
  | _ =>
    let ok := if j.useV then
        (match j.exp with
        | 0 => x.code == some 0
        | 1 => x.code == some 1
        | 2 => x.code == some 2
        | _ => x.code == some 0 || x.code == some 1)
      else x.code == some (j.exp % 2)
    some ⟨!ok, 1, b2n (!ok)⟩

/-- The level that a PAM3 compare expects, kept for the next symbol 0b11. -/
def pam3Next (j : PinJob) (prev : Option Nat) : Option Nat :=
  if j.mode = 3 ∧ j.cmp ∧ j.exp ≠ 3 then some j.exp else prev

/-- Raw-capture content of a UI under `RAW_SEL` SAMPLE, SYMBOL and RESULT, and the received bit for DECODED (Table 10-6). -/
def rawBits (sel : Nat) (j : PinJob) (r : Nat) (x : Decision) (o : Option Outc) : Nat :=
  let on := fun k => if nbit j.stb k then r / 2 ^ k % 2 else 0
  match sel with
  | 0 => on 0 + 2 * on 1
  | 1 =>
    if j.mode = 6 then x.sym % 2
    else if j.stb = 0 then 0
    else if j.mode = 0 ∨ j.mode = 5 then x.rbit
    else if j.mode = 1 then
      (match x.code with | some 1 => 1 | some 0 => 0 | _ => x.rbit + 2)
    else x.sym
  | 2 => (match o with | none => 0 | some q => b2n q.fail + 2)
  | _ => if j.stb = 0 then 0 else x.rbit

end Sys2Proof.Machine
end

