-- ==== Sys2Proof/Machine/FailProc.lean ====
section
/-! DEFINITION. The fail processor of a port (10_compare_and_fail.md R295 to R304): counters and snapshots, first fail, fail log,
bitmap, stop on fail. -/
namespace Sys2Proof.Machine
namespace Dev

/-- The fail processor counts and records nothing (R304). -/
def flpFrozen (d : Dev) (p : Nat) : Bool := d.rb (R.flpStat p) F.flpStatFrozen

/-! ### Counters (R295) -/

def zeroNat (_ : Nat) : Nat := 0

/-- Add one compare to a pin's live counters; each saturates at 2⁴⁸ - 1. -/
def addCompare (f : Flp) (i : Nat) (o : Outc) : Flp :=
  let add := fun (m : List (Nat × Nat)) (k : Nat) => tset zeroNat m i (satAdd (2 ^ 48 - 1) (tget zeroNat m i) k)
  { f with fails := add f.fails (b2n o.fail), bits := add f.bits o.bits, errs := add f.errs o.errs }

/-- Copy the live counters to the readable registers, with the GTC of the boundary (R295). -/
def copyCounters (d : Dev) (p t : Nat) : Dev :=
  let f := d.flpOf p
  let d := (List.range 24).foldl (fun d i =>
    ((d.setWide (R.flpFailsLo p i) 2 (tget zeroNat f.fails i)).setWide (R.flpBitsLo p i) 2 (tget zeroNat f.bits i)).setWide
      (R.flpErrbitsLo p i) 2 (tget zeroNat f.errs i)) d
  d.setWide (R.flpSnapGtc0 p) 3 t

def clearCounters (f : Flp) : Flp := { f with fails := [], bits := [], errs := [] }

/-- The earliest boundary that snapshots and clears wait for: those of that boundary copy the counters, then clear them (R295). -/
def takeSnap (d : Dev) (p : Nat) : Dev :=
  let f := d.flpOf p
  match f.snaps with
  | [] => d
  | r :: _ =>
    let mine := f.snaps.filter (fun x => x.bound == r.bound)
    let rest := f.snaps.filter (fun x => x.bound != r.bound)
    let d := if mine.any SnapReq.snap then d.copyCounters p r.bound else d
    let f := if mine.any SnapReq.clr then clearCounters f else f
    (d.putFlp p { f with snaps := rest }).wf (R.flpStat p) F.flpStatSnapBusy (b2n (!rest.isEmpty))

/-- A write of `SNAP` or `CNT_CLR` (R295): at the first UI boundary of the active set at or after the write plus 80 ns, or at once
while the port does not run. -/
def snapAsk (d : Dev) (p : Nat) (snap clr : Bool) : Dev :=
  if !snap && !clr then d
  else if d.running p then
    let f := d.flpOf p
    let b := d.boundAt p (d.seqOf p).ts (d.now + 4194304)
    (d.putFlp p { f with snaps := insertBy SnapReq.bound ⟨snap, clr, b⟩ f.snaps }).wf (R.flpStat p) F.flpStatSnapBusy 1
  else
    let d := if snap then d.copyCounters p d.now else d
    if clr then d.putFlp p (clearCounters (d.flpOf p)) else d

/-- The boundary of the earliest snapshot or clear has passed: every vector before it has launched, and its compares are in. -/
def snapReady (d : Dev) (p : Nat) : Bool :=
  let f := d.flpOf p
  let s := d.seqOf p
  match f.snaps with
  | [] => false
  | r :: _ => f.jobs.all (fun j => decide (r.bound ≤ j.t)) && (if s.tref then decide (r.bound ≤ s.nextUi) else decide (r.bound ≤ d.now))

/-- COUNTER_SNAPSHOT_TAKEN (R295): every compare of the vectors launched before the boundary is in. -/
def counterSnapshot (d : Dev) (p : Nat) : Dev := if p < 4 && d.snapReady p then d.takeSnap p else d

/-- The snapshots and clears whose boundary is not after `t`. -/
def snapsDue (d : Dev) (p t : Nat) : Dev :=
  (List.range (d.flpOf p).snaps.length).foldl (fun (d : Dev) _ =>
    match (d.flpOf p).snaps with | r :: _ => if r.bound ≤ t then d.takeSnap p else d | [] => d) d

/-! ### Records (R296 to R299, Table 10-5) -/

/-- A FAIL or SLIP record of a vector. -/
def failWords (type : Nat) (dec back : Bool) (pins : Nat) (j : CmpJob) (seq : Nat) : List Nat :=
  [type * 2 ^ 28 + b2n dec * 2 ^ 27 + b2n back * 2 ^ 26 + b2n (!j.prog) * 2 ^ 25 + pins,
    j.ts * 2 ^ 28 + (if j.prog then j.pc else 0), if j.prog then j.ofs % 2 ^ 32 else 0, if j.prog then j.beat % 2 ^ 32 else 0,
    j.t % 2 ^ 32, j.t / 2 ^ 32 % 2 ^ 32, j.t / 2 ^ 64 % 2 ^ 16, seq % 2 ^ 32]

/-- A LOST record (R299). -/
def lostWords (n gtc seq : Nat) : List Nat :=
  [3 * 2 ^ 28, 0, n % 2 ^ 32, 0, gtc % 2 ^ 32, gtc / 2 ^ 32 % 2 ^ 32, gtc / 2 ^ 64 % 2 ^ 16, seq % 2 ^ 32]

def showStaged (d : Dev) (p : Nat) : Dev := d.wf (R.flpStat p) F.flpStatStaged (d.flpOf p).staged.length

/-- A produced record takes its number and enters the staging area, behind a LOST record where some were lost; or is lost itself
(R297, R299). -/
def logPush (d : Dev) (p : Nat) (ws : Nat → List Nat) (gtc : Nat) : Dev :=
  let f := d.flpOf p
  let f := { f with seq := (f.seq + 1) % 2 ^ 32 }
  let q := (d.flpOf p).seq
  let need := if f.lost = 0 then 1 else 2
  if f.staged.length + need ≤ 1024 then
    let pre := if f.lost = 0 then [] else [lostWords f.lost f.lostGtc f.lostSeq]
    (d.putFlp p { f with staged := f.staged ++ pre ++ [ws q], lost := 0 }).showStaged p
  else
    let f := { f with lost := f.lost + 1, lostGtc := if f.lost = 0 then gtc else f.lostGtc, lostSeq := if f.lost = 0 then q else f.lostSeq }
    ((d.putFlp p f).cnt (R.flpLogLost p) F.all 1).raise (Ev.flogLost p)

/-- FAIL_LOG_WRITE (R298, R299): the oldest staged record goes to the ring. -/
def failLogWrite (d : Dev) (p : Nat) : Dev :=
  let f := d.flpOf p
  match f.staged with
  | [] => d
  | r :: rest =>
    let N := 128 * d.rn (R.flpLogLen p)
    let w := d.rn (R.flpLogWptr p)
    let held := (w + 2 ^ 32 - d.rn (R.flpLogRptr p)) % 2 ^ 32
    let word := fun i => (r[i]?).getD 0
    let isLost := decide (word 0 / 2 ^ 28 = 3)
    if d.rb (R.flpCtrl p) F.flpCtrlLogPol && decide (N ≤ held) then
      let n := if isLost then word 2 else 1
      let f := { f with staged := rest, rlost := f.rlost + n,
                        rlostGtc := if f.rlost = 0 then word 4 + 2 ^ 32 * word 5 + 2 ^ 64 * word 6 else f.rlostGtc,
                        rlostSeq := if f.rlost = 0 then word 7 else f.rlostSeq }
      let d := (d.putFlp p f).showStaged p
      let d := (d.wf (R.flpStat p) F.flpStatLogFull 1).setCond (Ev.flogFull p) true
      if isLost then d else (d.cnt (R.flpLogLost p) F.all 1).raise (Ev.flogLost p)
    else
      let lost := decide (0 < f.rlost)
      let ws := if lost then lostWords f.rlost f.rlostGtc f.rlostSeq else r
      let d := d.putFlp p { f with staged := if lost then f.staged else rest, rlost := 0 }
      let a := d.wide (R.flpLogBaseLo p) 2 + 32 * (w % (max 1 N))
      let d := (d.setN (R.flpLogWptr p) ((w + 1) % 2 ^ 32)).showStaged p
      if d.dramOk a 32 then d.dramWrite 1 (0x1C + p) a (wordsBytes ws)
      else (d.cnt (R.flpDramErrCnt p) F.all 1).raise (Ev.flpDramErr p)

/-- The host has advanced `FLP_LOG_RPTR`: the ring is no longer full (R298). -/
def logRptr (d : Dev) (p : Nat) : Dev :=
  let held := (d.rn (R.flpLogWptr p) + 2 ^ 32 - d.rn (R.flpLogRptr p)) % 2 ^ 32
  if held < 128 * d.rn (R.flpLogLen p) then (d.wf (R.flpStat p) F.flpStatLogFull 0).setCond (Ev.flogFull p) false else d

/-! ### Bitmap (R300, R301) -/

def showBm (d : Dev) (p : Nat) : Dev :=
  let f := d.flpOf p
  d.wf (R.flpStat p) F.flpStatBmPending (b2n (!(f.lines.isEmpty && f.wq.isEmpty)))

/-- OR one bit into the line cache; the least recently used of 64 lines makes room. -/
def bmSet (d : Dev) (p X Y : Nat) : Dev :=
  let byte := d.wide (R.flpBmBaseLo p) 2 + Y * d.rn (R.flpBmStride p) + X / 8
  let la := byte / 64
  let bit := byte % 64 * 8 + X % 8
  let f := d.flpOf p
  let old := ((f.lines.find? (fun x => x.1 == la)).map Prod.snd).getD 0
  let ls := f.lines.filter (fun x => x.1 != la)
  let f := if ls.length < 64 then { f with lines := ls ++ [(la, old ||| 2 ^ bit)] }
    else { f with lines := ls.drop 1 ++ [(la, old ||| 2 ^ bit)], wq := f.wq ++ ls.take 1 }
  (d.putFlp p f).showBm p

/-- Every line with bits to write leaves the cache (R301). -/
def bmFlush (d : Dev) (p : Nat) : Dev :=
  let f := d.flpOf p
  (d.putFlp p { f with lines := [], wq := f.wq ++ f.lines }).showBm p

/-- BITMAP_LINE_WRITE (R301): read-modify-write of one line; `bad`: its read is uncorrectable. -/
def bitmapWrite (d : Dev) (p : Nat) (bad : Bool) : Dev :=
  let f := d.flpOf p
  match f.wq with
  | [] => d
  | (la, bits) :: rest =>
    let d := (d.putFlp p { f with wq := rest }).showBm p
    let r := if d.dramOk (64 * la) 64 then d.dramRead 1 (0x1C + p) (64 * la) 64 else (d, true, [])
    let d := r.1
    if bad || r.2.1 then (d.cnt (R.flpDramErrCnt p) F.all 1).raise (Ev.flpDramErr p)
    else
      let old := leNat r.2.2
      let new := old ||| bits
      (d.dramWrite 1 (0x1C + p) (64 * la) (leBytes 64 new)).cnt (R.flpBmNew p) F.all (popCount 512 (new ^^^ old))

/-- The port has stopped and its last compare is in: the bitmap is written (R301). -/
def bmAtStop (d : Dev) (p : Nat) : Dev :=
  if (d.flpOf p).jobs.isEmpty && d.seqState p == 0 && !(d.seqOf p).tref && !(d.flpOf p).lines.isEmpty then d.bmFlush p else d

/-! ### A failing vector (R296, R297, R300, R304) -/

/-- Stop on fail at A(v) of the N-th failing vector (R304). -/
def stopOnFail (d : Dev) (p A : Nat) : Dev :=
  let n := d.rn (R.flpStopN p)
  if n = 0 ∨ (d.flpOf p).failing ≠ n then d
  else
    let act := d.rf (R.flpCtrl p) F.flpCtrlStopAct
    let d := (d.wf (R.flpStat p) F.flpStatStopped 1).raise (Ev.failStop p)
    let d := if nbit act 0 then (d.putFlp p { d.flpOf p with frozen := true }).wf (R.flpStat p) F.flpStatFrozen 1 else d
    if nbit act 1 then d.seqStopAt p A else d

/-- What the fail processor does with a vector's outcomes: `pins` that failed, whether one of them was a decoded compare, strobe
slips as pin and direction, failing tagged cells. -/
def failVector (d : Dev) (p : Nat) (j : CmpJob) (pins : Nat) (dec : Bool) (slips : List (Nat × Bool)) (cells : List (Nat × Nat)) : Dev :=
  if d.flpFrozen p then d
  else
    let mask := d.rn (R.flpPinmask p)
    let mode := d.rf (R.flpCtrl p) F.flpCtrlFmode
    let d := if mode = 1 then
        slips.foldl (fun d x => if nbit mask x.1 then d.logPush p (failWords 2 false x.2 (2 ^ x.1) j) j.t else d) d
      else d
    let bad := pins &&& mask
    if bad = 0 then d
    else
      let fv := satAdd (2 ^ 48 - 1) (d.wide (R.flpFailvecLo p) 2) 1
      let d := d.setWide (R.flpFailvecLo p) 2 fv
      let f := d.flpOf p
      let ws := failWords 1 dec false bad j (if mode = 1 then f.seq else 0)
      let d := d.putFlp p { f with failing := f.failing + 1 }
      let d := if d.rb (R.flpStat p) F.flpStatFirstValid then d
        else
          let d := (List.range 8).foldl (fun d i => d.setN (R.flpFirst p i) ((ws[i]?).getD 0)) d
          (d.wf (R.flpStat p) F.flpStatFirstValid 1).raise (Ev.failFirst p)
      let d := if mode = 1 then d.logPush p (failWords 1 dec false bad j) j.t else d
      let d := if mode = 2 then cells.foldl (fun d x => d.bmSet p x.1 x.2) d else d
      d.stopOnFail p j.a

/-- A write of `FIRST_CLR` (R296). -/
def firstClr (d : Dev) (p : Nat) : Dev :=
  let d := (List.range 8).foldl (fun d i => d.setN (R.flpFirst p i) 0) d
  d.wf (R.flpStat p) F.flpStatFirstValid 0

/-- `PAGE_CTRL.FREEZE` of the FLP page is written (R304). -/
def flpFreezeWrite (d : Dev) (p : Nat) (b : Bool) : Dev :=
  if b then d.flpFreeze p
  else (d.wf (pctl (ppage p 0xA)) F.ctlFreeze 0).wf (R.flpStat p) F.flpStatFrozen (b2n (d.flpOf p).frozen)

/-- What a port start does to the fail processor (R296 to R298, R304): numbers and stop-on-fail restart. -/
def flpStart (d : Dev) (p : Nat) : Dev :=
  let f := d.flpOf p
  let d := d.putFlp p { f with failing := 0, seq := 0, frozen := false, lost := 0, rlost := 0, prevRaw := [], uRaw := 0, recent := [],
                               dbits := [] }
  let d := (d.setN (R.flpLogWptr p) 0).wf (R.flpStat p) F.flpStatStopped 0
  let d := d.wf (R.flpStat p) F.flpStatFrozen (d.rf (pctl (ppage p 0xA)) F.ctlFreeze)
  (d.firstClr p).logRptr p

end Dev
end Sys2Proof.Machine
end

