-- ==== Sys2Proof/Machine/Compare.lean ====
section
/-! DEFINITION. Compare outcomes (10_compare_and_fail.md R281 to R294, R302, R303), decoded groups (06 R187 to R189), the CDR and the
eye monitor. -/
namespace Sys2Proof.Machine
namespace Dev

/-! ### CDR (R284 to R286) -/

def nUpd (d : Dev) (n : Nat) : Nat := 2 ^ min 8 (d.rf (R.fchCdrGain n) F.fchCdrGainNupdLog2)
def fLim (d : Dev) (n : Nat) : Int := (6 * 65536 * d.tsInt (n / 8) (d.seqOf (n / 8)).ts / 1000 : Nat)

def showFrozen (d : Dev) (n : Nat) (b : Bool) : Dev := (d.wf (R.fchCdrStat n) F.fchCdrStatFrozen (b2n b)).setCond (Ev.cdrNoTrans n) b

/-- CDR_UPDATE (R285): the window that is full updates f, p and the δ that a later boundary applies (R197). -/
def cdrUpdate (d : Dev) (n : Nat) : Dev :=
  let c := d.chan n
  match c.cdr.due with
  | none => d
  | some strobe =>
    let k := c.cdr
    let ki : Int := d.rf (R.fchCdrGain n) F.fchCdrGainKi
    let kp : Int := d.rf (R.fchCdrGain n) F.fchCdrGainKp
    let lim := d.fLim n
    let f := max (-lim) (min lim (k.f + ki * k.vote))
    let frozen := k.frozen && k.vote == 0
    let p := if frozen then k.p else k.p + kp * k.vote * 65536 + f * d.nUpd n
    let at_ := decide (f = lim ∨ f = -lim)
    let k' := { k with f := f, p := p, frozen := frozen, vote := 0, n := 0, flim := at_, due := none,
                       next := some ((strobe + 229376).toNat, p / 65536) }
    let d := (d.putChan n { c with cdr := k' }).setN (R.fchCdrFreq n) (wrapInt 32 f)
    let d := if k.frozen != frozen then d.showFrozen n frozen else d
    (d.wf (R.fchCdrStat n) F.fchCdrStatFlim (b2n at_)).setCond (Ev.cdrFreqLim n) at_

/-- One UI of a tracking channel in which S0 sampled: a vote may be cast (R285, R286). -/
def cdrSample (d : Dev) (n : Nat) (j : PinJob) (r : Nat) (x : Decision) : Dev :=
  if d.fcTrack n ≠ 1 then d
  else if !nbit j.stb 0 then d.putChan n { d.chan n with cdr := { (d.chan n).cdr with prev := none } }
  else
    let d := d.cdrUpdate n
    let c := d.chan n
    let k := c.cdr
    match k.prev with
    | none => d.putChan n { c with cdr := { k with prev := some (x.outer.getD 2) } }
    | some q =>
      let votes := match x.outer with | some o => decide (q < 2) && o != q | none => false
      let notr := d.rf (R.fchCdrCfg n) F.fchCdrCfgNotr
      let k := if votes then { k with vote := k.vote + (if r / 16 % 2 = q then 1 else -1), quiet := 0 }
        else { k with quiet := k.quiet + 1 }
      let freeze := !votes && decide (notr ≠ 0 ∧ 64 * notr ≤ k.quiet) && !k.frozen
      let k := { k with frozen := k.frozen || freeze, n := k.n + 1, prev := some (x.outer.getD 2) }
      let k := if k.n = d.nUpd n then { k with due := some j.at_ } else k
      let d := d.putChan n { c with cdr := k }
      if freeze then d.showFrozen n true else d

/-- At port start, and as `TRACK` leaves OFF, the loop starts afresh (R288). -/
def cdrReset (d : Dev) (n : Nat) : Dev :=
  let d := (d.putChan n { d.chan n with cdr := Cdr.reset, drift := 0 }).setN (R.fchCdrFreq n) 0
  (((d.showDrift n 0).showFrozen n false).wf (R.fchCdrStat n) F.fchCdrStatFlim 0).setCond (Ev.cdrFreqLim n) false

/-! ### Eye monitor (R290 to R294) and the eye mask (R327, R328) -/

/-- BAR4 offset of the row in progress (R293). -/
def eyeRow (n : Nat) : Nat := 0x1500000 + 0x400 * n

/-- Vertex `i` of the eye mask, (t, v). -/
def eyeVert (d : Dev) (p i : Nat) : Int × Int :=
  let w := d.rn (R.mskEyeV p i)
  ((w % 256 : Nat), (w / 2 ^ 16 % 256 : Nat))

/-- The crossing test of R327 over the edges from `i` on; none once the point lies on an edge. -/
def inPoly (d : Dev) (p nv : Nat) (t v : Int) : Nat → Nat → Bool → Bool
  | 0, _, acc => acc
  | f + 1, i, acc =>
    let a := d.eyeVert p i
    let b := d.eyeVert p ((i + 1) % nv)
    let dt := b.1 - a.1
    let dv := b.2 - a.2
    if (t - a.1) * dv = (v - a.2) * dt ∧ min a.1 b.1 ≤ t ∧ t ≤ max a.1 b.1 ∧ min a.2 b.2 ≤ v ∧ v ≤ max a.2 b.2 then true
    else
      let cross := (decide (v < a.2)) != (decide (v < b.2))
      let lhs := (t - a.1) * dv
      let rhs := (v - a.2) * dt
      let flip := cross && (if 0 < dv then decide (lhs < rhs) else decide (rhs < lhs))
      inPoly d p nv t v f (i + 1) (acc != flip)

/-- The point (t, v) lies in the port's eye mask; `NV` = 0 turns the test off (R327). -/
def inMask (d : Dev) (p t v : Nat) : Bool :=
  let nv := d.rf (R.mskEyeCfg p) F.mskEyeCfgNv
  if nv < 3 then false else d.inPoly p nv t v nv 0 false

/-- A UI counts toward the dwell (R292): TH_S3 has settled, and the filters hold. -/
def eyeCounts (d : Dev) (n : Nat) (j : PinJob) (x : Decision) : Bool :=
  let need := modeSlicers j.mode (n % 2 == 1) % 8
  let made := if j.mode = 0 then nbit j.stb 0 else (j.stb &&& need) == need && !x.inv
  d.eyeState n == 1 && nbit j.stb 3 && !nbit (d.rn (R.fchLvlStat n)) 15 &&
    (!d.rb (R.fchEyeCtrl n) F.fchEyeCtrlSymfEn || (made && x.code == some (d.rf (R.fchEyeCtrl n) F.fchEyeCtrlSymf))) &&
    (d.rf (R.fchEyeCtrl n) F.fchEyeCtrlCnt != 1 || nbit j.stb 0)

/-- S3's sample of one UI (R290, R292, R328). -/
def eyeSample (d : Dev) (n : Nat) (v : CmpJob) (j : PinJob) (r : Nat) (x : Decision) : Dev :=
  let c := d.chan n
  let e := c.eye
  if !d.eyeCounts n j x ∨ d.rn (R.fchEyeDwell n) ≤ e.samples then d
  else
    let r3 := r / 8 % 2
    let add := if d.rf (R.fchEyeCtrl n) F.fchEyeCtrlCnt = 1 then b2n (r3 != r % 2) else r3
    let cnt := e.count + add
    let col := d.rf (R.fchEyeStat n) F.fchEyeStatCol
    let row := d.rf (R.fchEyeStat n) F.fchEyeStatRow
    let d := d.putChan n { c with eye := { e with samples := e.samples + 1, count := cnt } }
    let d := d.sramPut (eyeRow n + 4 * col) (cnt % 2 ^ 32)
    let p := n / 8
    if add = 1 ∧ d.rb (R.mskCtrl p) F.mskCtrlEyeEn ∧ d.rf (R.mskEyeCfg p) F.mskEyeCfgEyeCh = n % 8 ∧
        cnt = d.rn (R.mskEyeLim p) + 1 ∧ d.inMask p col row then
      let f := d.flpOf p
      let x : MskViol :=
        { n := v.n, t := v.t, a := (j.at3 + 229376).toNat, stream := false, ch := n % 8, pos := row * 2 ^ 16 + col, data := 0,
          count := cnt }
      d.putFlp p { f with viols := f.viols ++ [x] }
    else d

def setEyeState (d : Dev) (n v : Nat) : Dev := d.wf (R.fchEyeStat n) F.fchEyeStatState v
def clearRow (d : Dev) (n : Nat) : Dev := (List.range 256).foldl (fun d t => d.sramPut (eyeRow n + 4 * t) 0) d

/-- The scan runs or pauses with the port and the channel (R294). -/
def eyeGate (d : Dev) (n : Nat) : Dev :=
  let st := d.eyeState n
  let ok := (d.seqOf (n / 8)).tref && d.fcReady n
  if st = 1 ∧ !ok then d.setEyeState n 2 else if st = 2 ∧ ok then d.setEyeState n 1 else d

/-- The scan ends: TH_S3 returns to its level-set code (R291). -/
def eyeEnd (d : Dev) (n st : Nat) : Dev :=
  let c := d.chan n
  ((d.putChan n { c with eye := Eye.reset }).setEyeState n st).levelsAt n d.now

/-- EYE_START (R290). -/
def eyeStart (d : Dev) (n : Nat) : Dev :=
  let d := d.putChan n { d.chan n with eye := Eye.reset }
  let d := ((d.wf (R.fchEyeStat n) F.fchEyeStatRow 0).wf (R.fchEyeStat n) F.fchEyeStatCol 0).setEyeState n 1
  ((d.clearRow n).levelsAt n d.now).eyeGate n

/-- EYE_STOP (R294): the scan ends once the row in progress has been written. -/
def eyeStop (d : Dev) (n : Nat) : Dev :=
  if d.eyeState n = 1 ∨ d.eyeState n = 2 then d.putChan n { d.chan n with eye := { (d.chan n).eye with stopping := true } } else d

/-- EYE_POINT_DONE (R290, R293, R294): the dwell of a point is complete; `bad`: the row write meets an error. -/
def eyePointDone (d : Dev) (n : Nat) (bad : Bool) : Dev :=
  let c := d.chan n
  if 32 ≤ n ∨ d.eyeState n ≠ 1 ∨ c.eye.samples < d.rn (R.fchEyeDwell n) then d
  else
    let p := n / 8
    let col := d.rf (R.fchEyeStat n) F.fchEyeStatCol
    let row := d.rf (R.fchEyeStat n) F.fchEyeStatRow
    let nt := d.rf (R.fchEyeN n) F.fchEyeNNt
    let nv := d.rf (R.fchEyeN n) F.fchEyeNNv
    let d := d.putChan n { c with eye := { c.eye with samples := 0, count := 0 } }
    if col + 1 < nt then d.wf (R.fchEyeStat n) F.fchEyeStatCol (col + 1)
    else
      let a := d.wide (R.fchEyeBaseLo n) 2 + 1024 * row
      let d := if bad || !d.dramOk a (4 * nt) then (d.cnt (R.flpDramErrCnt p) F.all 1).raise (Ev.flpDramErr p)
        else d.dramWrite 1 (0x1C + p) a (mread d.sram (eyeRow n) (4 * nt))
      let last := nv ≤ row + 1
      if c.eye.stopping ∨ (last ∧ !d.rb (R.fchEyeCtrl n) F.fchEyeCtrlCont) then (d.eyeEnd n 3).raise (Ev.eyeDone n)
      else
        let d := if last then d.raise (Ev.eyeDone n) else d
        let d := (d.wf (R.fchEyeStat n) F.fchEyeStatCol 0).wf (R.fchEyeStat n) F.fchEyeStatRow (if last then 0 else row + 1)
        (d.clearRow n).levelsAt n d.now

/-! ### Decoded groups (06 R187 to R189; 10 R281, R302; 11 R311, R329) -/

/-- Bits of W that the received `TYPE` names (Table 6-7).  DP8B bit 9 and DP128 bit 1 steer the scrambler and do not travel. -/
def namedBits (mode w : Nat) : Nat :=
  match mode with
  | 1 => bits 9 8 + (match w / 2 ^ 8 % 4 with | 0 => 0xFF | 1 => 3 | 2 => 0xF | _ => 1)
  | 2 => bits 17 0
  | 3 => bits 8 0
  | 4 => 1 + bits 131 4
  | 5 => 0xFF
  | 7 => bits 22 21 + (match w / 2 ^ 21 % 4 with | 0 => 0xFFFF | 2 => bits 20 0 | _ => 0)
  | _ => 0

/-- Data bytes of a group that the stream mask judges: bit offsets in W (R329). -/
def dataBytes (mode w : Nat) : List Nat :=
  match mode with
  | 1 => if w / 2 ^ 8 % 4 = 0 then [0] else []
  | 2 => if w / 2 ^ 16 % 4 = 0 then [0, 8] else []
  | 3 => if w / 2 ^ 8 % 2 = 0 then [0] else []
  | 4 => if w % 2 = 0 then (List.range 16).map (fun i => 4 + 8 * i) else []
  | 5 => [0]
  | 7 => if w / 2 ^ 21 % 4 = 0 then [0, 8] else []
  | _ => []

/-- The UIs of a group, first one first, with the odd channel's of a trio. -/
def groupUis (d : Dev) (ch last G : Nat) : List (Option (Nat × Bool × Bool) × Option (Nat × Bool × Bool)) :=
  let get := fun (i n : Nat) => ((d.chan i).codec.rx.find? (fun x => x.1 == n)).map Prod.snd
  (List.range G).map (fun i => (get ch (last + 1 + i - G), get (ch + 1) (last + 1 + i - G)))

/-- The expected word of a group, its bits that take part, and whether the group makes a compare (R188). -/
def groupExpect (trio : Bool) (us : List (Option (Nat × Bool × Bool) × Option (Nat × Bool × Bool))) : Nat × Nat × Bool :=
  let r := (List.range us.length).foldl (fun (x : Nat × Nat × Bool) i =>
    match us[i]? with
    | some (some a, o) =>
      if !trio then (x.1 + a.1 % 2 * 2 ^ i, x.2.1 + b2n a.2.1 * 2 ^ i, x.2.2 && a.2.2)
      else match o with
        | some b => (x.1 + (a.1 % 4 + b.1 % 4 * 4) * 2 ^ (4 * i), x.2.1 + (b2n a.2.1 * 3 + b2n b.2.1 * 12) * 2 ^ (4 * i),
            x.2.2 && a.2.2 && b.2.2)
        | none => (x.1, x.2.1, false)
    | _ => (x.1, x.2.1, false)) (0, 0, true)
  (r.1, r.2.1, r.2.2 && r.2.1 != 0)

/-- Keep the decoded bits of a group for raw capture, and store those of UIs already recorded (Table 10-6). -/
def groupRecord (d : Dev) (ch last G word : Nat) (trio err : Bool) : Dev :=
  let p := ch / 8
  let f := d.flpOf p
  let mk := (List.range G).flatMap (fun i =>
    let n := last + 1 + i - G
    if trio then [(n, ch, word / 2 ^ (4 * i) % 4), (n, ch + 1, word / 2 ^ (4 * i + 2) % 4)]
    else [(n, ch, word / 2 ^ i % 2 + 2 * b2n err)])
  let d := d.putFlp p { f with dbits := (mk ++ f.dbits).take 2400 }
  let fm := d.rxFmt p
  mk.foldl (fun d x =>
    let c := x.2.1 % 8
    match f.recent.find? (fun y => y.1 == x.1) with
    | some y =>
      if nbit fm.chmask c && d.rf (R.fchCmpCfg x.2.1) F.fchCmpCfgRawSel == 3 then
        let pos := fm.fastBit y.2 c
        let a := rxSlot p (pos / 8 / 2048) + pos / 8 % 2048
        d.sramWrite a (leBytes 2 (setNbits (mnat d.sram a 2) (pos % 8 + fm.bpu - 1) (pos % 8) x.2.2))
      else d
    | none => d) d

/-- Lock of a decoder after a group (R187, Table 6-9); `mark`: a DP8B comma, or a D-PHY leader. -/
def groupLock (d : Dev) (ch mode last G word : Nat) (mark err : Bool) : Dev :=
  let p := ch / 8
  let c := ch % 8
  let st := R.cdcRxstat p c
  let k := (d.chan ch).codec
  let put := fun (d : Dev) (k : Codec) => d.putChan ch { d.chan ch with codec := k }
  if d.rb (R.cdcCfg p c) F.cdcCfgAlignFixed then d
  else if d.rb st F.cdcRxstatLocked then
    let bad := if err then k.bad + 1 else 0
    let lossN := d.rf (R.cdcCfg p c) F.cdcCfgLossN
    if lossN ≠ 0 ∧ lossN ≤ bad then
      let d := put d { k with good := 0, bad := 0 }
      (((d.wf st F.cdcRxstatLocked 0).wf st F.cdcRxstatHunting 1).cnt st F.cdcRxstatLosses 1).raise (Ev.cdcLockLoss p)
    else put d { k with bad := bad }
  else
    let ph := (last + 1) % G
    let same := decide (d.rf st F.cdcRxstatPhase = ph)
    let q := match mode with
      | 1 => decide (word / 2 ^ 8 % 4 = 1) && !err
      | 3 => mark || (decide (0 < k.good) && same && !err)
      | 7 => decide (word / 2 ^ 21 % 4 = 1) && !err
      | _ => !err
    let good := if q then (if same then k.good + 1 else 1) else 0
    let d := d.wf st F.cdcRxstatPhase ph
    if d.rf (R.cdcCfg p c) F.cdcCfgLockN ≤ good then
      let d := put d { k with good := 0, bad := 0 }
      ((d.wf st F.cdcRxstatLocked 1).wf st F.cdcRxstatHunting 0).raise (Ev.cdcLock p)
    else (put d { k with good := good }).wf st F.cdcRxstatHunting 1

/-- The bytes of a decoded compare that violate the stream mask (R329). -/
def streamMask (d : Dev) (p ch mode last word exp keep : Nat) : Dev :=
  let str := R.mskStrCfg p
  match (d.flpOf p).jobs.find? (fun j => j.n == last) with
  | none => d
  | some j =>
    if !d.rb (R.mskCtrl p) F.mskCtrlStrEn ∨ !nbit (d.rf str F.mskStrCfgLanes) (ch % 8) then d
    else
      let sf := match (d.acqOf p).smps.find? (fun s => s.n == last) with
        | some s => s.sf
        | none => (d.seqOf p).sflag
      let tol := if d.rb str F.mskStrCfgAltEn && nbit sf (d.rf str F.mskStrCfgAltSf) then d.rf str F.mskStrCfgTolAlt
        else d.rf str F.mskStrCfgTol
      let tag := ((j.pins.find? (fun x => x.pin == ch % 8)).bind PinJob.tag)
      let bs := dataBytes mode word
      (List.range bs.length).foldl (fun d i =>
        let o := (bs[i]?).getD 0
        let g := word / 2 ^ o % 256
        let e := exp / 2 ^ o % 256
        if keep / 2 ^ o % 256 = 255 ∧ tol < max g e - min g e then
          let f := d.flpOf p
          let x : MskViol :=
            { n := j.n, t := j.t, a := j.a, stream := true, ch := ch % 8,
              pos := match tag with | some t => t.2 * 2 ^ 16 + t.1 | none => 0,
              data := b2n tag.isSome * 2 ^ 31 + i * 2 ^ 24 + e * 2 ^ 8 + g, count := 0 }
          d.putFlp p { f with viols := f.viols ++ [x] }
        else d) d

/-- WORD units in mode DECODED (R311). -/
def wordDecoded (d : Dev) (p ch mode last word : Nat) : Dev :=
  let a := d.acqOf p
  (List.range 8).foldl (fun d u =>
    let cfg := d.get (R.trgCuCfg p u)
    if fget cfg F.trgCuCfgType = 1 ∧ fget cfg F.trgCuCfgMode = 1 ∧ fget cfg F.trgCuCfgSel = ch % 8 then
      let ofs := if mode = 4 then d.rn (R.trgCuParam p u) % 128 else 0
      let w := word / 2 ^ ofs % 2 ^ 64
      if (w ^^^ d.wide (R.trgCuValLo p u) 2) &&& d.wide (R.trgCuMaskLo p u) 2 = 0 then
        if a.smps.any (fun s => s.n == last) then
          let a := d.acqOf p
          d.putAcq p { a with smps := a.smps.map (fun (s : Smp) => if s.n = last then { s with dec := s.dec ||| 2 ^ u } else s) }
        else if last < a.next then d.cnt (R.trgLateCnt p) F.all 1 else d
      else d
    else d) d

/-- CODE_GROUP_RECEIVED (R187 to R189): the decoder of `ch` has received the group whose last UI belongs to vector `last`.  `kind`:
1 a DP8B comma or a D-PHY leader, 2 the end of a D-PHY burst. -/
def codeGroup (d : Dev) (ch last word kind : Nat) (codeErr dispErr : Bool) : Dev :=
  let p := ch / 8
  let c := ch % 8
  let mode := d.cdcMode ch
  let G := groupLen mode
  let trio := d.trioOf ch == 1
  if 32 ≤ ch ∨ mode = 0 ∨ mode = 6 ∨ 8 ≤ mode ∨ d.trioOf ch = 2 ∨ !d.fcReady ch then d
  else if mode = 5 ∧ kind = 2 then
    -- a D-PHY lane leaves lock at the end of each burst, with no event
    if d.rb (R.cdcCfg p c) F.cdcCfgAlignFixed then d else d.wf (R.cdcRxstat p c) F.cdcRxstatLocked 0
  else if mode = 5 ∧ kind = 1 then
    if d.decLocked ch then d else ((d.wf (R.cdcRxstat p c) F.cdcRxstatLocked 1).wf (R.cdcRxstat p c) F.cdcRxstatHunting 0).raise (Ev.cdcLock p)
  else
    let disp := dispErr && (mode == 1 || mode == 3)
    let d := if codeErr then (d.cnt (R.cdcErr p c) F.cdcErrCode 1).raise (Ev.cdcCodeErr p) else d
    let d := if disp then (d.cnt (R.cdcErr p c) F.cdcErrDisp 1).raise (Ev.cdcDispErr p) else d
    let locked := d.decLocked ch
    let d := if !locked then d.cnt (R.cdcUnlocked p) F.all 1
      else
        let d := (d.groupRecord ch last G word trio (codeErr || disp)).wordDecoded p ch mode last word
        if !d.rb (R.cdcCfg p c) F.cdcCfgRxDec then d
        else
          let x := groupExpect trio (d.groupUis ch last G)
          let keep := x.2.1 &&& namedBits mode word
          if !x.2.2 ∨ keep = 0 then d
          else
            let diff := (word ^^^ x.1) &&& keep
            let fail := diff != 0 || (d.rb (R.cdcCfg p c) F.cdcCfgErrfail && (codeErr || disp))
            let f := d.flpOf p
            let e := (c, fail, popCount 132 keep, popCount 132 diff)
            let d := d.putFlp p { f with jobs := f.jobs.map (fun (j : CmpJob) => if j.n = last then { j with dec := j.dec ++ [e] } else j) }
            d.streamMask p ch mode last word x.1 keep
    if mode = 5 then d else d.groupLock ch mode last G word (kind == 1) codeErr

/-! ### COMPARE_RESULT (R282) -/

/-- What the pins of a vector have given so far. -/
structure PinSum where
  fails : Nat
  dec : Bool
  slips : List (Nat × Bool)
  cells : List (Nat × Nat)
  raw : List (Nat × Nat)
  bits : Nat
  util : Nat
  fslips : Nat

/-- Channel number of a pin index. -/
def pinChan (p i : Nat) : Nat := if i < 8 then 8 * p + i else 32 + 16 * p + (i - 8)

/-- One pin of a vector whose samples are in. -/
def pinResult (d : Dev) (p : Nat) (v : CmpJob) (j : PinJob) (r : Nat) (x : PinSum) : Dev × PinSum :=
  let i := pinChan p j.pin
  let gray := i < 32 && d.lf (R.fchDrvCfg i) F.fchDrvCfgGray == 1
  let q := decide_ j.mode gray r
  let need := modeSlicers j.mode (i % 2 == 1)
  let seen := j.mode == 7 || (j.stb &&& need) == need
  let c := d.chan i
  let dec := v.dec.find? (fun e => e.1 == j.pin)
  let o : Option Outc := match dec with
    | some e => some ⟨e.2.1, e.2.2.1, e.2.2.2⟩
    | none => if j.cmp then judge j r q c.pam3 else none
  let d := if q.inv && seen && j.cmp && decide (i < 32) then d.cnt (R.fchCmpCnt i) F.all 1 else d
  let d := d.putChan i { c with pam3 := pam3Next j c.pam3 }
  let d := match o with
    | some y => if d.flpFrozen p then d else d.putFlp p (addCompare (d.flpOf p) j.pin y)
    | none => d
  let d := if i < 32 then (d.cdrSample i j r q).eyeSample i v j r q else d
  let fail := match o with | some y => y.fail | none => false
  let sel : Nat := if i < 32 then d.rf (R.fchCmpCfg i) F.fchCmpCfgRawSel else 0
  let rawv : Nat := if j.slip then (if sel = 2 then 0 else tget zeroNat (d.flpOf p).prevRaw j.pin)
    else match (if sel = 3 then (d.flpOf p).dbits.find? (fun y => y.1 == v.n && y.2.1 == i) else none) with
      | some y => y.2.2
      | none => rawBits sel j r q o
  let masked := nbit (d.rn (R.flpPinmask p)) j.pin
  (d, { fails := x.fails + b2n fail * 2 ^ j.pin,
        dec := x.dec || (fail && dec.isSome && masked),
        slips := if j.slip then x.slips ++ [(j.pin, false)] else if j.back then x.slips ++ [(j.pin, true)] else x.slips,
        cells := match j.tag with | some t => if fail && masked then x.cells ++ [t] else x.cells | none => x.cells,
        raw := if i < 32 then x.raw ++ [(j.pin, rawv)] else x.raw,
        bits := if i < 32 then x.bits + (if j.stb ≠ 0 then q.rbit % 2 * 2 ^ j.pin else 0) else x.bits,
        util := if i < 32 then x.util
          else x.util + (if d.rb (R.flpRawCfg p) F.flpRawCfgUrawSel then r % 2 else b2n fail) * 2 ^ (j.pin - 8),
        fslips := x.fslips + b2n j.slip * 2 ^ j.pin })

/-- Store a recorded vector (R302, R303). -/
def recordVector (d : Dev) (p : Nat) (v : CmpJob) (x : PinSum) : Dev :=
  let f := d.flpOf p
  let k := max 1 (d.rn (R.seqUdiv p))
  let u := if v.n % k = 0 then x.util else f.uRaw
  let prev := x.raw.foldl (fun m y => tset zeroNat m y.1 y.2) f.prevRaw
  match v.rx with
  | none => d.putFlp p { f with uRaw := u }
  | some idx =>
    let fast := x.raw.foldl (fun w y => w + y.2 % 4 * 2 ^ (2 * y.1)) 0
    let d := d.putFlp p { f with uRaw := u, prevRaw := prev, recent := ((v.n, idx) :: f.recent).take 264 }
    let s := d.seqOf p
    if (d.acqOf p).basin then d.rxStore p idx fast u
    else if s.rxDead then d
    else if s.rxDrained + 128 < d.rxTouched p (idx + 1) then (if d.seqState p = 0 then d else d.rxOverrun p v.pc v.ofs v.t)
    else ((d.rxStore p idx fast u).putSeq p { s with rxDone := s.rxDone + 1 }).rxShow p

/-- The outcome reaches the trigger engine (R282, R311, R314). -/
def sampleResult (d : Dev) (p : Nat) (v : CmpJob) (x : PinSum) : Dev :=
  let a := d.acqOf p
  let onTime := a.smps.any (fun s => s.n == v.n && decide (v.a ≤ s.t + d.rn (R.trgHorizon p)))
  if onTime then
    d.putAcq p { a with smps := a.smps.map (fun (s : Smp) =>
      if s.n = v.n then { s with bits := x.bits, slips := x.fslips, fails := x.fails } else s) }
  else if a.basin ∧ (v.n < a.next ∨ a.smps.any (fun s => s.n == v.n)) ∧ 1 ≤ d.acqState p ∧ d.acqState p ≤ 4 then
    let late := ((List.range 8).filter (fun u => d.rf (R.trgCuCfg p u) F.trgCuCfgType == 2 &&
      (d.rn (R.trgCuParam p u) % 2 ^ 24 &&& x.fails) != 0)).length
    d.cnt (R.trgLateCnt p) F.all late
  else d

/-- COMPARE_RESULT (R282): the samples of the oldest launched vector of port `p` that is still open reach its consumers.  `fc`: for
each fast channel r0 to r3 in bits 0 to 3 and the edge sampler in bit 4 (in LP mode the compared receiver states in bits 1:0); `uc`:
for each utility channel r_H in bit 0 and r_L in bit 1. -/
def compareResult (d : Dev) (p : Nat) (fc uc : List Nat) : Dev :=
  match (d.flpOf p).jobs with
  | [] => d
  | v :: rest =>
    let d := d.snapsDue p v.t
    let d := d.putFlp p { d.flpOf p with jobs := rest }
    let r := v.pins.foldl (fun (y : Dev × PinSum) j =>
      let s := if j.pin < 8 then (fc[j.pin]?).getD 0 else (uc[j.pin - 8]?).getD 0
      y.1.pinResult p v j s y.2) (d, ⟨0, false, [], [], [], 0, 0, 0⟩)
    let d := r.1
    let x := r.2
    let d := if v.prog then
        let s := d.seqOf p
        let q := segRes s v.seg
        d.putSeq p (setSegRes s v.seg { q with open_ := q.open_ - 1, fail := q.fail || (x.fails &&& v.cmask) != 0 })
      else d
    let d := (d.recordVector p v x).sampleResult p v x
    (d.failVector p v x.fails x.dec x.slips x.cells).bmAtStop p

end Dev
end Sys2Proof.Machine
end

