-- ==== Sys2Proof/Machine/Channels.lean ====
section
/-! DEFINITION. Channel enable, disable and safe state, driver faults and terminations (08_formatters_and_drive.md R227, R231, R234,
R235, R242, R245 to R248). -/
namespace Sys2Proof.Machine
namespace Dev

/-- Season code in force (R458). -/
def season (d : Dev) : Nat := d.rn R.glbSeason % 16
/-- WINTER (R458). -/
def winter (d : Dev) : Bool := d.season == 8

/-- Port of channel `i`. -/
def chPort (i : Nat) : Nat := if i < 32 then i / 8 else (i - 32) / 16
/-- The channel's page is online. -/
def chOnline (d : Dev) (i : Nat) : Bool := decide (i < 96) && !d.offline false (chPage i)

/-- The output switches of a channel are closed or about to close, until READY falls. -/
def chLive (d : Dev) (i : Nat) : Bool := (d.chan i).phase == 1 || (d.chan i).phase == 2

/-- The codec of a fast channel serves the LP assist: DPHY, DPHY_CLK, or the even channel of a trio (R232). -/
def lpMode (d : Dev) (n : Nat) : Bool := d.cdcMode n == 5 || d.cdcMode n == 6 || d.trioOf n == 1

/-- What the LP assist does while the channel is ready and drives nothing (R234). -/
def lpRest (d : Dev) (n t : Nat) : Dev :=
  if n < 32 ∧ d.fcReady n ∧ d.lpMode n ∧ d.lf (R.fchLpCfg n) F.fchLpCfgLpEn = 1 ∧ (d.chan n).codec.burst ≠ 2 then
    if d.lf (R.fchLpCfg n) F.fchLpCfgLpRest = 1 then (d.lpLeg n t 1 1).lpDrive n else d.wf (R.fchDrvStat n) F.fchDrvStatLpOn 0
  else d

/-- A write of `ENABLE` = 1 may start the enable sequence (R248, R439, R458). -/
def enableOk (d : Dev) (i : Nat) : Bool :=
  !((d.chan i).phase == 3 || (d.chan i).phase == 4) && !d.anyFatal && !d.winter

/-- `ENABLE` = 1 takes effect: the enable sequence begins (R245), `SAFE` clears (R247), and the LDACs follow their codes (R254). -/
def chEnable (d : Dev) (i : Nat) : Dev :=
  if (d.chan i).phase ≠ 0 then d
  else
    let d := d.wf (pctl (chPage i)) F.ctlEnable 1
    let d := if i < 32 then d.wf (R.fchDrvStat i) F.fchDrvStatSafe 0 else d.wf (R.uchDrvStat (i - 32)) F.uchDrvStatSafe 0
    let d := d.putChan i { d.chan i with phase := 1, offAt := none, driven := false, on := false, edges := [], stbs := [], term := false }
    let d := (d.putLvl i { d.lvl i with follow := true }).levelsAt i d.now
    let d := if i < 32 then d else d.pmuJudge (i - 32) d.now
    d.capJudge

/-- CHANNEL_READY (R245): three microseconds into the enable sequence. -/
def channelReady (d : Dev) (i : Nat) : Dev :=
  if !d.chOnline i ∨ (d.chan i).phase ≠ 1 then d
  else
    let d := d.putChan i { d.chan i with phase := 2 }
    if i < 32 then ((d.wf (R.fchDrvStat i) F.fchDrvStatReady 1).eyeGate i).lpRest i d.now
    else d.wf (R.uchDrvStat (i - 32)) F.uchDrvStatReady 1

/-- READY falls in a disable: the driver lets go (Table 8-11). -/
def chFall (d : Dev) (i : Nat) : Dev :=
  let d := d.readyFall i
  if i < 32 then
    (d.wf (R.fchDrvStat i) F.fchDrvStatHsOn 0).wf (R.fchDrvStat i) F.fchDrvStatLpOn 0
  else d

/-- `ENABLE` = 0 takes effect: the disable sequence begins (R246, R248). -/
def chDisable (d : Dev) (i : Nat) : Dev :=
  let d := d.wf (pctl (chPage i)) F.ctlEnable 0
  let ph := (d.chan i).phase
  if ph ≠ 1 ∧ ph ≠ 2 then d
  else
    -- t₁: the first boundary of the running port 80 ns (4,194,304 ticks) or more from now
    let s := d.seqOf (chPort i)
    let off := if s.tref ∧ ph = 2 then some (d.boundAt (chPort i) s.ts (d.now + 4194304)) else none
    let d := d.putChan i { d.chan i with phase := 3, offAt := off }
    let d := if off.isNone then d.chFall i else d
    let d := if i < 32 then d else d.pmuJudge (i - 32) d.now
    d.capJudge

/-- DISABLE_SEQUENCE_END (R246, R247): the switches are open and the bias is off. -/
def disableEnd (d : Dev) (i : Nat) : Dev :=
  let c := d.chan i
  if 96 ≤ i ∨ (c.phase ≠ 3 ∧ c.phase ≠ 4) then d
  else
    let d := if c.offAt.isSome then d.chFall i else d
    d.putChan i { d.chan i with phase := 0, offAt := none, driven := false, on := false, edges := [], stbs := [], term := false }

/-! ### Driver faults -/

/-- COMPLIANCE_FAULT_START (R231): `kinds` holds for the P leg in bits 2:0 and for the N leg in bits 5:3 the rows of Table 8-6 that
begin to hold (bit 0 OPEN, 1 LOW, 2 HIGH).  A leg that is in fault already starts no other. -/
def complianceStart (d : Dev) (n kinds : Nat) : Dev :=
  if 32 ≤ n ∨ !d.chOnline n ∨ !d.chLive n ∨ d.lf (R.fchDrvCfg n) F.fchDrvCfgMode ≠ 1 then d
  else
    let live := d.rf (R.fchDrvStat n) F.fchDrvStatCmplLive
    let p := if nbit live 0 then 0 else kinds % 8
    let q := if nbit live 1 then 0 else kinds / 8 % 8
    let all := p ||| q
    if all = 0 then d
    else
      let kind := if nbit all 0 then 1 else if nbit all 1 then 2 else 3
      let d := d.cnt (R.fchDrvCnt n) F.fchDrvCntCmpl (b2n (p != 0) + b2n (q != 0))
      let d := d.wf (R.fchDrvStat n) F.fchDrvStatCmplKind kind
      let d := d.wf (R.fchDrvStat n) F.fchDrvStatCmplLive (live ||| (b2n (p != 0) + 2 * b2n (q != 0)))
      d.setCond (Ev.drvCompliance n) true

/-- COMPLIANCE_FAULT_END (R231): the faults of some legs end (bit 0 P, bit 1 N). -/
def complianceEnd (d : Dev) (n legs : Nat) : Dev :=
  if 32 ≤ n ∨ !d.chOnline n then d
  else
    let live := d.rf (R.fchDrvStat n) F.fchDrvStatCmplLive
    let left := live - (live &&& legs)
    (d.wf (R.fchDrvStat n) F.fchDrvStatCmplLive left).setCond (Ev.drvCompliance n) (left != 0)

/-- DRIVER_SHORT_DETECT (R227): legs (bit 0 P, bit 1 N) of a voltage-mode channel over current for longer than 1 µs. -/
def shortDetect (d : Dev) (n legs : Nat) : Dev :=
  if 32 ≤ n ∨ !d.chOnline n ∨ !d.chLive n ∨ d.lf (R.fchDrvCfg n) F.fchDrvCfgMode ≠ 0 then d
  else
    let live := d.rf (R.fchDrvStat n) F.fchDrvStatShortLive
    let new := legs % 4 - (legs % 4 &&& live)
    if new = 0 then d
    else
      let d := d.cnt (R.fchDrvCnt n) F.fchDrvCntShort (popCount 2 new)
      (d.wf (R.fchDrvStat n) F.fchDrvStatShortLive (live ||| new)).setCond (Ev.drvShort n) true

/-- DRIVER_SHORT_END (R227). -/
def shortEnd (d : Dev) (n legs : Nat) : Dev :=
  if 32 ≤ n ∨ !d.chOnline n then d
  else
    let live := d.rf (R.fchDrvStat n) F.fchDrvStatShortLive
    let left := live - (live &&& legs)
    (d.wf (R.fchDrvStat n) F.fchDrvStatShortLive left).setCond (Ev.drvShort n) (left != 0)

/-- CLAMP_OVERDRIVE_DETECT (R242): the clamp high (bit 2), the clamp low (bit 1) or the driver's current limit (bit 0). -/
def overdriveDetect (d : Dev) (m what : Nat) : Dev :=
  if 64 ≤ m ∨ !d.chOnline (32 + m) then d
  else
    let ok := (if d.clampsOn m then 6 else 0) + (if d.chLive (32 + m) then 1 else 0)
    let live := d.rf (R.uchDrvStat m) F.uchDrvOver
    let what := what % 8 &&& ok
    let new := what - (what &&& live)
    if new = 0 then d
    else
      let d := (d.cnt (R.uchDrvCnt m) F.uchDrvCntClamp (popCount 2 (new / 2))).cnt (R.uchDrvCnt m) F.uchDrvCntIlim (new % 2)
      (d.wf (R.uchDrvStat m) F.uchDrvOver (live ||| new)).setCond (Ev.ucOverdrive m) true

/-- CLAMP_OVERDRIVE_END (R242). -/
def overdriveEnd (d : Dev) (m what : Nat) : Dev :=
  if 64 ≤ m ∨ !d.chOnline (32 + m) then d else d.overdriveLeft m what

/-- AUTO_TERMINATE (R235): `low`: both LP receivers have read low for `TERM_DLY`, else one of them reads high. -/
def autoTerminate (d : Dev) (n : Nat) (low : Bool) : Dev :=
  let c := d.chan n
  if 32 ≤ n then d
  else if low then
    if d.fcReady n ∧ d.lf (R.fchLpCfg n) F.fchLpCfgAutoTerm = 1 ∧ d.cdcMode n = 5 ∧ !c.on then d.putChan n { c with term := true }
    else d
  else d.putChan n { c with term := false }

end Dev
end Sys2Proof.Machine
end

