-- ==== Sys2Proof/Machine/Measure.lean ====
section
/-! DEFINITION. Measurement scans and the calibration bus (09_levels_pmu_and_analog_dds.md R266 to R275), channel calibration, tracking
and trims (07_timing_generators.md R213 to R218). -/
namespace Sys2Proof.Machine
namespace Dev

/-! ### Measurement scans (R266 to R269) -/

def measOf (d : Dev) (p : Nat) : Meas := tget (fun _ => Meas.reset) d.meas p
def putMeas (d : Dev) (p : Nat) (m : Meas) : Dev := { d with meas := tset (fun _ => Meas.reset) d.meas p m }
/-- 0 IDLE, 1 SCANNING, 2 BORROWED. -/
def measState (d : Dev) (p : Nat) : Nat := d.rf (R.measStat p) F.measStatState
def setMeasState (d : Dev) (p v : Nat) : Dev := d.wf (R.measStat p) F.measStatState v

/-- Calibration wants the port's ADC (R269): it has it at once between entries. -/
def adcBorrow (d : Dev) (p : Nat) : Dev := d.putMeas p { d.measOf p with borrow := (d.measOf p).borrow + 1 }

/-- Calibration lets the ADC go; a scan that waits resumes (R269). -/
def adcReturn (d : Dev) (p : Nat) : Dev :=
  let m := d.measOf p
  let d := d.putMeas p { m with borrow := m.borrow - 1, t := d.edgeAt aclk d.now }
  if m.borrow ≤ 1 ∧ d.measState p = 2 then d.setMeasState p 1 else d.putMeas p { m with borrow := m.borrow - 1 }

/-- MEAS_START (R267). -/
def measStart (d : Dev) (p : Nat) : Dev :=
  let d := d.putMeas p { d.measOf p with stop := false, t := d.edgeAt aclk d.now }
  (d.wf (R.measStat p) F.measStatEntry 0).setMeasState p (if 0 < (d.measOf p).borrow then 2 else 1)

/-- The scan ends. -/
def measEnd (d : Dev) (p : Nat) : Dev :=
  ((d.putMeas p { d.measOf p with stop := false }).setMeasState p 0).raise (Ev.measDone p)

/-- MEAS_STOP (R267): after the entry in progress, at once where none is. -/
def measStop (d : Dev) (p : Nat) : Dev :=
  match d.measState p with
  | 0 => d
  | 1 => d.putMeas p { d.measOf p with stop := true }
  | _ => d.measEnd p

/-- R268: the mean of the samples in 1/256 LSB. -/
def measResult (sum : Int) (avg : Nat) : Nat := wrapInt 32 (divAway (sum * 256) (2 ^ avg))

/-- MEAS_ENTRY_DONE (R267, R268): `sum`: sum of the ADC codes of the entry in progress; `moved`: its PMU's range changed during the
samples. -/
def measEntryDone (d : Dev) (p : Nat) (sum : Int) (moved : Bool) : Dev :=
  if 4 ≤ p ∨ d.measState p ≠ 1 then d
  else
    let e := d.rf (R.measStat p) F.measStatEntry
    let ent := d.get (R.measEnt p e)
    let avg := fget ent F.measEntAvgLog2
    let dly := fget ent F.measEntDly
    let m := 16 * p + fget ent F.measEntCh
    let bad := fget ent F.measEntQty = 1 ∧ (!d.pmuOn m ∨ moved)
    let d := d.setN (R.measRes p e) (if bad then 0x80000000 else measResult sum avg)
    let d := d.wf (R.measStat p) ⟨e, e⟩ (if bad then 0 else 1)
    let t := (d.measOf p).t
    let d := if e = 0 then d.setWide (R.measT00 p) 3 (t + (2 + dly) * usTicks) else d
    let d := d.putMeas p { d.measOf p with t := t + (2 + dly + 2 ^ avg) * usTicks }
    if (d.measOf p).stop then d.measEnd p
    else
      let last := e == d.rf (R.measCtrl p) F.measCtrlLast
      if last && !d.rb (R.measCtrl p) F.measCtrlCont then d.measEnd p
      else
        let d := if last then d.raise (Ev.measDone p) else d
        let d := d.wf (R.measStat p) F.measStatEntry (if last then 0 else e + 1)
        if 0 < (d.measOf p).borrow then d.setMeasState p 2 else d

/-! ### The calibration bus (R275, Table 9-6) -/

def calbusState (d : Dev) (p v : Nat) : Dev := d.wf (R.measCalstat p) F.measCalstatState v
def calbusNode (d : Dev) (p : Nat) : Nat := d.rf (R.measCalbus p) F.measCalbusNode

/-- The port's request is queued. -/
def calbusRequest (d : Dev) (p : Nat) : Dev :=
  { d.calbusState p 1 with calbus := { d.calbus with queue := d.calbus.queue ++ [p] } }

/-- The port's request or grant ends. -/
def calbusRelease (d : Dev) (p : Nat) : Dev :=
  let held := d.calbus.holder == some p
  let d := { d with calbus := { queue := d.calbus.queue.filter (· != p), holder := if held then none else d.calbus.holder } }
  let d := d.calbusState p 0
  if held && d.calbusNode p == 3 then d.adcReturn p else d

/-- A request is queued or granted. -/
def calbusBusy (d : Dev) (p : Nat) : Bool := d.rf (R.measCalstat p) F.measCalstatState != 0

/-- CALBUS_GRANT (R275): the oldest request, while the Keeper runs (R117). -/
def calbusGrant (d : Dev) : Dev :=
  match d.calbus.holder, d.calbus.queue with
  | none, p :: rest =>
    if !d.boot.keeperOn then d
    else
      let d := ({ d with calbus := { queue := rest, holder := some p } }).calbusState p 2
      if d.calbusNode p = 3 then d.adcBorrow p else d
  | _, _ => d

/-! ### Channel calibration (R213 to R216, R272, R273) -/

def trimOf (d : Dev) (i : Nat) : Trim := tget (fun _ => Trim.reset) d.trims i
def putTrim (d : Dev) (i : Nat) (t : Trim) : Dev := { d with trims := tset (fun _ => Trim.reset) d.trims i t }

/-- BAR4 offset of a channel's results (R216). -/
def calAddr (i : Nat) : Nat := if i < 32 then 0x1400000 + 0x400 * i else 0x1410000 + 0x400 * (i - 32)
/-- Ledger offsets of a channel's timing and level records (Table 4-7, R273; the layout inside the regions is the model's, log 12). -/
def ledTcal (i : Nat) : Nat := 0x80000 + 0x400 * i
def ledLcal (i : Nat) : Nat := 0x100000 + 0x400 * i

/-- The sensor of a channel (Table 17-3), or the other one of its port region where that one is invalid (R453). -/
def chSensor (d : Dev) (i : Nat) : Nat :=
  let s := 2 * chPort i + (if i < 32 then i % 8 / 4 else (i - 32) % 16 / 8)
  if d.rb (R.pwrTemp s) F.pwrTempValid then s else s / 2 * 2 + (1 - s % 2)

/-- Temperature of a channel in 0.25 °C. -/
def chTemp (d : Dev) (i : Nat) : Int := sext 16 (d.rn (R.pwrTemp (d.chSensor i)))

/-- Correction in force of a channel (R216, R217). -/
def track (d : Dev) (i : Nat) : Int := sext 32 (d.sramWord (calAddr i + 0x240))
def setTrack (d : Dev) (i : Nat) (x : Int) : Dev :=
  let d := d.sramPut (calAddr i + 0x240) (wrapInt 32 x)
  if i < 32 then d.setN (R.fchTrack i) (wrapInt 24 x) else d

/-- State and temperature of `FCH_TCAL_STAT`: 1 FULL, 2 STORED, 3 FAILED. -/
def tcalShow (d : Dev) (i st : Nat) (temp : Int) : Dev :=
  if i < 32 then d.setN (R.fchTcalStat i) (st * 2 ^ 28 + wrapInt 16 temp) else d

/-- The bytes of a calibration result (R216): the DTC map of a fast channel, and eight path delays. -/
def calBytes (i : Nat) (dtc dly : List Nat) : List Byte :=
  (List.range 256).flatMap (fun k => leBytes 2 (if i < 32 then (dtc[k]?).getD 0 % 512 else 0)) ++
    (List.range 16).flatMap (fun k => leBytes 4 (if k < 8 then (dly[k]?).getD 0 else 0))

/-- A full calibration of a channel succeeds: results, ledger, temperature (Table 7-5). -/
def calFull (d : Dev) (i : Nat) (dtc dly : List Nat) : Dev :=
  let bs := calBytes i dtc dly
  let T := d.chTemp i
  let d := (d.sramWrite (calAddr i) bs).ledgerWrite (ledTcal i) (bs ++ leBytes 2 (wrapInt 16 T) ++ leBytes 2 1)
  let d := (d.setTrack i 0).tcalShow i 1 T
  d.putTrim i { d.trimOf i with at_ := d.now, temp := T, due := false, goal := none }

/-- The ledger holds timing and level results of a channel. -/
def calHeld (d : Dev) (i : Nat) : Bool := mnat d.ledger (ledTcal i + 0x242) 2 == 1
def lcalHeld (d : Dev) (i : Nat) : Bool := d.ledgerWord (ledLcal i + 0x3FC) == 1

/-- The stored results of a channel are loaded (R214). -/
def calStored (d : Dev) (i : Nat) : Dev :=
  let d := d.sramWrite (calAddr i) (mread d.ledger (ledTcal i) 0x240)
  let T := sext 16 (mnat d.ledger (ledTcal i + 0x240) 2)
  let d := (d.setTrack i 0).tcalShow i 2 T
  d.putTrim i { d.trimOf i with at_ := d.now, temp := T, due := true, goal := none }

/-- A calibration stage of a channel fails: the previous calibration is kept (R215). -/
def calFailed (d : Dev) (i : Nat) : Dev :=
  if i < 32 then (d.wf (R.fchTcalStat i) F.fchTcalStatState 3).raise (Ev.tcalErr i) else d

/-- The number that `MEAS_CALSTAT` gives a channel of its port. -/
def chLocal (i : Nat) : Nat := if i < 32 then i % 8 else 8 + (i - 32) % 16

/-- A channel's level calibration ends (R273): `words`: its corrections, written to the ledger. -/
def lcalEnd (d : Dev) (i : Nat) (ok : Bool) (words : List Nat) : Dev :=
  let p := chPort i
  if ok then
    let ws := (List.range 255).map (fun k => (words[k]?).getD 0) ++ [1]
    let d := d.ledgerWrite (ledLcal i) (wordsBytes ws)
    if d.rf (R.measCalstat p) F.measCalstatChan = chLocal i then
      (d.wf (R.measCalstat p) F.measCalstatLcalFail 0).wf (R.measCalstat p) F.measCalstatChan 0
    else d
  else
    ((d.wf (R.measCalstat p) F.measCalstatLcalFail 1).wf (R.measCalstat p) F.measCalstatChan (chLocal i)).raise (Ev.lcalErr p)

/-- CHANNEL_RECALIBRATION (R215, R116): on a disabled channel. -/
def recalStart (d : Dev) (i : Nat) : Dev :=
  if d.rb (pctl (chPage i)) F.ctlEnable then d.badWrite (chPage i)
  else if (d.trimOf i).recal then d
  else ((d.putTrim i { d.trimOf i with recal := true }).setBusy (chPage i) true).adcBorrow (chPort i)

/-- A recalibration is over. -/
def recalOver (d : Dev) (i : Nat) : Dev :=
  if (d.trimOf i).recal then
    ((d.putTrim i { d.trimOf i with recal := false }).setBusy (chPage i) false).adcReturn (chPort i)
  else d

/-- CHANNEL_RECALIBRATION_END (R215, R273): `tOk`, `lOk`: the timing stages and the level part succeeded; then their results. -/
def recalEnd (d : Dev) (i : Nat) (tOk lOk : Bool) (dtc dly lv : List Nat) : Dev :=
  if 96 ≤ i ∨ !(d.trimOf i).recal then d
  else
    let d := if tOk then d.calFull i dtc dly else d.calFailed i
    (d.lcalEnd i lOk lv).recalOver i

/-! ### Tracking and trims (R25 to R27, R217, R218) -/

/-- Ticks of a second. -/
def secTicks : Nat := 52428800000000

/-- The port is under PERIODIC. -/
def periodic (d : Dev) (p : Nat) : Bool := d.rb (R.prtProfile p) F.prtProfileTiming

/-- Seconds since a channel's last trim or calibration. -/
def trimAge (d : Dev) (i : Nat) : Nat := (d.now - (d.trimOf i).at_) / secTicks
/-- How far its sensor has moved since. -/
def trimMove (d : Dev) (i : Nat) : Nat := (d.chTemp i - (d.trimOf i).temp).natAbs

/-- Channels of a port numbered as `chans`. -/
def staleNow (d : Dev) (p : Nat) : Bool := d.periodic p && (portChans p).any (fun i => decide (20 < d.trimMove i))

/-- TCAL_STALE follows the excursion (R218: more than 5 °C). -/
def staleJudge (d : Dev) (p : Nat) : Dev := if d.offline false (ppage p 0) then d else d.setCond (Ev.tcalStale p) (d.staleNow p)

/-- `TSA_TRIM_AGE` as it reads. -/
def trimAgeRead (d : Dev) (p : Nat) : Nat :=
  let mv := (portChans p).foldl (fun x i => max x (d.trimMove i)) 0
  let age := (portChans p).foldl (fun x i => max x (d.trimAge i)) 0
  min 0xFFFF mv * 2 ^ 16 + min 0xFFFF age

/-- `PRT_PROFILE.TIMING` has been written (R25, R26, R217). -/
def timingProfile (d : Dev) (p : Nat) (old : Word) : Dev :=
  let was := fget old F.prtProfileTiming
  let new := d.rf (R.prtProfile p) F.prtProfileTiming
  if was = new then d
  else if new = 1 then
    let iv := d.rf (R.tsaTrim p) F.tsaTrimInterval
    let d := d.wf (R.prtProfile p) F.prtProfileTimingActive 1
    let d := (portChans p).foldl (fun d i =>
      if iv ≠ 0 ∧ iv < d.trimAge i then d.putTrim i { d.trimOf i with due := true } else d) d
    d.staleJudge p
  else
    ((portChans p).foldl (fun d i => d.putTrim i { d.trimOf i with due := false, goal := none }) d).staleJudge p

/-- TRACKING_CONVERGED (R26). -/
def trackConverged (d : Dev) (p : Nat) : Dev :=
  if 4 ≤ p ∨ d.offline false (ppage p 0) ∨ d.periodic p ∨ !d.boot.keeperOn ∨ d.rb R.bootDegraded F.bootDegradedTimecal ∨
      d.rb R.bootDegraded F.bootDegradedLevelcal then d
  else d.wf (R.prtProfile p) F.prtProfileTimingActive 0

/-- A step of the correction towards `want`, by at most 16 ticks (R217). -/
def trackStep (cur want : Int) : Int := cur + max (-16) (min 16 (want - cur))

/-- TRACKING_UPDATE (R217): `want`: the drift that the replica path measures now, under STILL; under PERIODIC the correction that the last
trim measured. -/
def trackUpdate (d : Dev) (i : Nat) (want : Int) : Dev :=
  if !d.chOnline i ∨ !d.boot.keeperOn then d
  else if d.periodic (chPort i) then
    match (d.trimOf i).goal with
    | none => d
    | some g =>
      let x := trackStep (d.track i) g
      (d.setTrack i x).putTrim i { d.trimOf i with goal := if x = g then none else some g }
  else d.setTrack i (trackStep (d.track i) want)

/-- A trim of a channel is due (R217). -/
def trimDue (d : Dev) (i : Nat) : Bool :=
  let p := chPort i
  let iv := d.rf (R.tsaTrim p) F.tsaTrimInterval
  let dt := d.rf (R.tsaTrim p) F.tsaTrimDtemp
  (d.trimOf i).due || (iv != 0 && decide (iv ≤ d.trimAge i)) || (dt != 0 && decide (dt ≤ d.trimMove i))

/-- TRIM (R217): a trim measures `want` and starts its correction. -/
def trim (d : Dev) (i : Nat) (want : Int) : Dev :=
  if !d.chOnline i ∨ !d.boot.keeperOn ∨ !d.periodic (chPort i) ∨ !d.trimDue i then d
  else
    let T := d.chTemp i
    let d := d.putTrim i { d.trimOf i with at_ := d.now, temp := T, due := false, goal := some want }
    let d := if i < 32 then d.wf (R.fchTcalStat i) F.fchTcalStatTemp (wrapInt 16 T) else d
    d.staleJudge (chPort i)

end Dev
end Sys2Proof.Machine
end

