-- ==== Sys2Proof/Machine/Trigger.lean ====
section
/-! DEFINITION. Trigger engine, acquisition engine and mask stops (11_trigger_and_acquisition.md R311 to R330). -/
namespace Sys2Proof.Machine
namespace Dev

/-! ### TRIG_OUT (R324) -/

/-- Source chosen for ball `k` by port `p`: 0 FIRE, 1 ARMED, 2 DONE, 3 MASK. -/
def trgSel (d : Dev) (p k : Nat) : Nat := nbits (d.rn (R.trgOut p)) (2 * k + 9) (2 * k + 8)
/-- Port `p` claims ball `k`. -/
def trgOwns (d : Dev) (p k : Nat) : Bool := nbit (d.rf (R.trgOut p) F.trgOutOwn) k

/-- Start the pulses of source `src` of a port at the first SQCLK edge at or after `t`. -/
def trgPulse (d : Dev) (p src t : Nat) : Dev :=
  let rise := d.edgeAt sqclk t
  let fall := rise + d.rf (R.trgOut p) F.trgOutOwidth * sqclk
  let new := ([0, 1, 2, 3].filter (fun k => d.trgOwns p k && d.trgSel p k == src)).map (fun k => (k, rise, fall))
  if new.isEmpty then d else d.putAcq p { d.acqOf p with pulses := (d.acqOf p).pulses ++ new }

/-- Level of ball `k` now: a ball that no port claims is low. -/
def trgLevel (d : Dev) (k : Nat) : Bool :=
  [0, 1, 2, 3].any (fun p => d.trgOwns p k && !d.offline false (ppage p 7) &&
    (if d.trgSel p k = 1 then d.acqState p == 1
     else (d.acqOf p).pulses.any (fun x => x.1 == k && decide (x.2.1 ≤ d.now) && decide (d.now < x.2.2))))

/-- Drive the TRIG_OUT balls as they stand now, and forget pulses that are over. -/
def trgShow (d : Dev) : Dev :=
  let d := ([0, 1, 2, 3] : List Nat).foldl (fun (d : Dev) p =>
    let a := d.acqOf p
    let ps := a.pulses.filter (fun x => decide (d.now < x.2.2))
    if ps.length = a.pulses.length then d else d.putAcq p { a with pulses := ps }) d
  { d with pins := { d.pins with trigOut := [0, 1, 2, 3].foldl (fun x k => x + b2n (d.trgLevel k) * 2 ^ k) 0 } }

/-- The balls that a `TRG_OUT` word claims are free of other ports (R324). -/
def trgClaimOk (d : Dev) (p : Nat) (w : Word) : Bool :=
  [0, 1, 2, 3].all (fun q => q == p || (d.rf (R.trgOut q) F.trgOutOwn &&& fget w F.trgOutOwn) == 0)

/-! ### Occurrences of event units (R311 to R314) -/

/-- A TDC time rounded to 32 ticks, halves up (R313). -/
def tdcRound (t : Nat) : Nat := (t + 16) / 32 * 32

/-- Units may hit (R311). -/
def unitsLive (d : Dev) (p : Nat) : Bool := decide (1 ≤ d.acqState p) && decide (d.acqState p ≤ 4)

/-- An occurrence of unit `u` at time `t`: it waits for its sample, or is late (R314). -/
def unitHit (d : Dev) (p u t : Nat) (edge : Bool) : Dev :=
  if !d.unitsLive p then d
  else
    let a := d.acqOf p
    if (match a.last with | some x => decide (t < x.end_) | none => false) then d.cnt (R.trgLateCnt p) F.all 1
    else d.putAcq p { a with hits := a.hits ++ [⟨u, t, edge⟩] }

def cuCfg (d : Dev) (p u : Nat) : Word := d.get (R.trgCuCfg p u)
def cuType (d : Dev) (p u : Nat) : Nat := fget (d.cuCfg p u) F.trgCuCfgType
def cuMode (d : Dev) (p u : Nat) : Nat := fget (d.cuCfg p u) F.trgCuCfgMode
def cuSel (d : Dev) (p u : Nat) : Nat := fget (d.cuCfg p u) F.trgCuCfgSel

/-- Keep a transition of an input; while units do not hit, the latest one of each input is enough. -/
def noteTrans (d : Dev) (p input t : Nat) (lvl : Bool) : Dev :=
  let a := d.acqOf p
  let old := if d.unitsLive p then a.trans else a.trans.filter (fun x => x.1 != input)
  d.putAcq p { a with trans := (input, t, lvl) :: old }

/-- TRIG_IN_EDGE (R140, R313): ball `k` changes to `lvl` at ball time `t`; every port may use it.  The change is kept for the waits that
see it at the second SQCLK edge. -/
def trigInEdge (d : Dev) (k t : Nat) (lvl : Bool) : Dev :=
  if 4 ≤ k ∨ nbit d.pins.trigIn k = lvl then d
  else
    let d := { d with pins := { d.pins with trigIn := setNbits d.pins.trigIn k k (b2n lvl), trigAt := d.trigChanges k t } }
    let tq := tdcRound t
    [0, 1, 2, 3].foldl (fun d p =>
      let d := d.noteTrans p k tq lvl
      (List.range 8).foldl (fun d u =>
        let m := d.cuMode p u
        if d.cuType p u = 7 ∧ d.cuSel p u = k ∧ (m = 3 ∨ (m = 1 ∧ lvl) ∨ (m = 2 ∧ !lvl)) then d.unitHit p u tq true else d) d) d

/-- UTILITY_COMPARATOR_EDGE (R313): the high (`c` = 0) or low (`c` = 1) comparator of UCm changes to `lvl` at `t`. -/
def ucEdge (d : Dev) (m c t : Nat) (lvl : Bool) : Dev :=
  if 64 ≤ m ∨ 2 ≤ c ∨ nbit d.pins.ucCmp (2 * m + c) = lvl ∨ !d.ucReady m ∨ d.ucOwner m = 0 then d
  else
    let p := m / 16
    let d := { d with pins := { d.pins with ucCmp := setNbits d.pins.ucCmp (2 * m + c) (2 * m + c) (b2n lvl) } }
    let tq := tdcRound t
    let input := 16 + 2 * (m % 16) + c
    let before := ((d.acqOf p).trans.find? (fun x => x.1 == input)).map (fun x => x.2.1)
    let d := d.noteTrans p input tq lvl
    (List.range 8).foldl (fun d u =>
      let mo := d.cuMode p u
      let mine := d.cuSel p u = m % 16 ∧ mo % 2 = c
      if d.cuType p u = 4 ∧ mine ∧ (mo / 2 = 3 ∨ (mo / 2 = 1 ∧ lvl) ∨ (mo / 2 = 2 ∧ !lvl)) then d.unitHit p u tq true
      else if d.cuType p u = 6 ∧ mine ∧ (mo / 2 % 2 = 1) = !lvl then
        let w := d.rn (R.trgCuParam p u)
        match before with
        | some t0 =>
          if w ≠ 0 ∧ (if mo / 4 % 2 = 1 then w * 32 < tq - t0 else tq - t0 < w * 32) then d.unitHit p u tq true else d
        | none => d
      else d) d

/-- Level of an input at time `t`: by its transitions, and before the first one kept the opposite of what that brought; `cur` is the
level now. -/
def levelAt (a : Acq) (cur : Bool) (input t : Nat) : Bool :=
  match a.trans.find? (fun x => x.1 == input && decide (x.2.1 ≤ t)) with
  | some x => x.2.2
  | none => match a.trans.reverse.find? (fun x => x.1 == input) with
    | some x => !x.2.2
    | none => cur

/-- Mask of the first `k` bytes of a key in which `mask` has set bits: the number of bytes needed. -/
def keyBytes (mask : Nat) : Nat := (List.range 8).foldl (fun n i => if mask / 256 ^ i % 256 ≠ 0 then i + 1 else n) 0

/-- A sideband record of engine `eng` reaches the SIDEBAND units (R312): `key` its bytes, `times` when the engine held each byte,
`tEnd` when the record ended. -/
def sidebandHit (d : Dev) (p eng : Nat) (emulated stranger err : Bool) (key : Nat) (times : List Nat) (tEnd : Nat) : Dev :=
  (List.range 8).foldl (fun d u =>
    let mo := d.cuMode p u
    if d.cuType p u = 3 ∧ d.cuSel p u = eng ∧ (mo = 0 ∨ (mo = 1 ∧ emulated) ∨ (mo = 2 ∧ stranger) ∨ (mo = 3 ∧ err)) then
      let mask := d.wide (R.trgCuMaskLo p u) 2
      if (key ^^^ d.wide (R.trgCuValLo p u) 2) &&& mask = 0 then
        let n := keyBytes mask
        let t := if n = 0 then tEnd else min tEnd ((times[n - 1]?).getD tEnd)
        d.unitHit p u (d.edgeAt aclk t) false
      else d
    else d) d

/-! ### Deciding a sample (R311, R315 to R320) -/

/-- Rounded time of a GTC unit. -/
def cuGtc (d : Dev) (p u : Nat) : Nat :=
  tdcRound (d.wide (R.trgCuValLo p u) 2 + d.rn (R.trgCuParam p u) % 2 ^ 16 * 2 ^ 64)

/-- A time belongs to sample `x`: inside its UI, or in the seam before it. -/
def inSample (a : Acq) (x : Smp) (t : Nat) : Bool :=
  decide (t < x.end_) && (decide (x.t ≤ t) ||
    (match a.last with | some y => y.n + 1 == x.n && decide (y.end_ ≤ t) | none => false))

/-- Shift the RAW windows of the port by one sample (R311). -/
def rawWindows (a : Acq) (x : Smp) : List (Nat × Nat) :=
  (List.range 8).map (fun c =>
    let w := tget (fun _ => 0) a.wins c
    (c, if nbit x.slips c then w else w / 2 + b2n (nbit x.bits c) * 2 ^ 63))

/-- First edge time of unit `u` in sample `x`, if it hit on an edge. -/
def edgeIn (d : Dev) (p : Nat) (a : Acq) (x : Smp) (u : Nat) : Option Nat :=
  if d.cuType p u = 8 then
    if !nbit a.gtcs u && inSample a x (d.cuGtc p u) then some (d.cuGtc p u) else none
  else ((a.hits.filter (fun h => h.unit == u && h.edge && inSample a x h.t)).map TrgHit.t).min?

/-- Unit `u` hits in sample `x`; `below`: the hits of lower-numbered units. -/
def unitOf (d : Dev) (p : Nat) (a : Acq) (x : Smp) (below u : Nat) : Bool :=
  let mo := d.cuMode p u
  let s := d.cuSel p u
  match d.cuType p u with
  | 1 =>
    if mo = 0 then
      decide ((tget (fun _ => 0) a.wins s ^^^ d.wide (R.trgCuValLo p u) 2) &&& d.wide (R.trgCuMaskLo p u) 2 = 0)
    else nbit x.dec u
  | 2 => (d.rn (R.trgCuParam p u) % 2 ^ 24 &&& x.fails) != 0
  | 3 => a.hits.any (fun h => h.unit == u && inSample a x h.t)
  | 5 =>
    let m := 16 * p + s
    d.ucReady m && d.ucOwner m != 0 &&
      (levelAt a (nbit d.pins.ucCmp (2 * m + mo % 2)) (16 + 2 * s + mo % 2) x.t == (mo / 2 % 2 == 1))
  | 7 => if mo ≤ 3 then (d.edgeIn p a x u).isSome else levelAt a (nbit d.pins.trigIn s) s x.t == (mo == 4)
  | 9 => if mo = 0 then nbit x.sf s && !nbit x.sfp s else nbit x.sf s
  | 10 =>
    let n := d.rn (R.trgCuParam p u)
    nbit below s && n != 0 && decide (n ≤ tget (fun _ => 0) a.cnts u + 1)
  | 4 | 6 | 8 => (d.edgeIn p a x u).isSome
  | _ => false

/-- The hits of a sample, unit by unit in ascending order. -/
def sampleHits (d : Dev) (p : Nat) (a : Acq) (x : Smp) : Nat :=
  (List.range 8).foldl (fun h u => h + b2n (d.unitOf p a x h u) * 2 ^ u) 0

/-- The COUNT units after a sample with hits `h`; `moved`: the trigger sequencer changed state. -/
def nextCounts (d : Dev) (p : Nat) (a : Acq) (h : Nat) (moved : Bool) : List (Nat × Nat) :=
  (List.range 8).map (fun u =>
    let c := tget (fun _ => 0) a.cnts u
    if d.cuType p u ≠ 10 then (u, 0)
    else
      let c := if nbit h u then 0 else c + b2n (nbit h (d.cuSel p u))
      (u, if moved && d.cuMode p u % 2 == 1 then 0 else c))

/-- Fraction word of an edge at `t` in sample `x` (R326): an edge in the seam before it has fraction 0. -/
def fracOf (x : Smp) (t : Nat) : Nat := if t < x.t then 0 else (t - x.t) % 2 ^ 28

/-- The record that a fire at sample `x` opens (R316, R319). -/
def openRec (d : Dev) (p : Nat) (a : Acq) (x : Smp) (m cause : Nat) (forced mask : Bool) : AcqRec :=
  let pre := min (d.rn (R.acqPre p)) (x.n - a.na)
  let es := ((List.range 8).filter (fun u => nbit m u)).filterMap (fun u => (d.edgeIn p a x u).map (fun t => (u, t)))
  let extra := fun (e : Nat × Nat) => 2 ^ 31 + e.1 * 2 ^ 28 + fracOf x e.2
  { nT := x.n, mask := m, cause := cause, st := a.st, forced := forced, preAvail := pre, preShort := decide (pre < d.rn (R.acqPre p)),
    maskStop := mask, tT := x.t, tStart := startOf a (x.n - pre), prog := x.prog, ts := x.ts, pc := x.pc, ofs := x.ofs,
    frac := match es.head? with
      | some e => 2 ^ 31 + b2n (e.2 < x.t) * 2 ^ 30 + fracOf x e.2
      | none => 0,
    extra1 := ((es[1]?).map extra).getD 0, extra2 := ((es[2]?).map extra).getD 0, nextra := min 2 (es.length - 1) }

/-- A fire at sample `x` (R316, R319, R320). -/
def fire (d : Dev) (p : Nat) (x : Smp) (m cause : Nat) (forced mask : Bool) : Dev :=
  let a := d.acqOf p
  let D := x.t + d.rn (R.trgHorizon p)
  let d := if d.acqState p = 1 then
      if d.rb (R.acqCfg p) F.acqCfgPreFull && decide (x.n - a.na < d.rn (R.acqPre p)) then d.cnt (R.acqEarlyIgn p) F.all 1
      else
        let r := d.openRec p a x m cause forced mask
        let d := (d.putAcq p { a with open_ := some r }).setAcqState p 2
        let d := ((d.wf (R.acqStat p) F.acqStatTriggered 1).trgPulse p 0 D).raise (Ev.trgFire p)
        if r.preShort then d.raise (Ev.acqPreShort p) else d
    else if d.acqState p = 2 ∧ mask ∧ m = 0 ∧ !forced then
      d.putAcq p { a with open_ := a.open_.map (fun r => { r with maskStop := true }) }
    else if 2 ≤ d.acqState p ∧ d.acqState p ≤ 4 then
      let d := if a.missed then d else (d.setWide (R.acqMissedGtc0 p) 3 x.t).putAcq p { a with missed := true }
      (d.cnt (R.acqMissed p) F.all 1).raise (Ev.trgMissed p)
    else d
  d.putAcq p { d.acqOf p with st := 0, entered := x.n + 1, t0 := x.t }

/-- One step of the trigger sequencer on sample `x` with hits `h` (R315, R317, R330). -/
def trgStep (d : Dev) (p : Nat) (x : Smp) (h : Nat) : Dev :=
  let a := d.acqOf p
  let w := d.get (R.trgStCtrl p a.st)
  let cond := fget w F.trgStCtrlCond
  let m := h &&& cond
  let tmo := d.rn (R.trgStTmo p a.st)
  let judge := decide (a.entered ≤ x.n)
  let holds := judge && cond != 0 && (if fget w F.trgStCtrlAll = 1 then m == cond else m != 0)
  let lowest := (((List.range 8).find? (fun u => nbit m u))).getD 0
  let forced := a.force.any (fun k => decide (k ≤ x.n))
  let mask := a.mask.any (fun k => decide (k ≤ x.n))
  let d := if forced || mask then
      d.putAcq p { a with force := if forced then none else a.force, mask := if mask then none else a.mask }
    else d
  if holds && (forced || fget w F.trgStCtrlAct == 0) then d.fire p x m lowest forced mask
  else if forced then d.fire p x 0 0xA true mask
  else if mask && (d.acqState p == 1 || d.acqState p == 2) then d.fire p x 0 9 false true
  else if holds then d.putAcq p { d.acqOf p with st := fget w F.trgStCtrlNext, entered := x.n + 1, t0 := x.t }
  else if judge && tmo != 0 && decide (a.t0 + tmo * sqclk ≤ x.t) then
    let d := d.raise (Ev.trgTimeout p)
    if fget w F.trgStCtrlTmoFire = 1 then d.fire p x 0 8 false false
    else d.putAcq p { d.acqOf p with st := fget w F.trgStCtrlTmoNext, entered := x.n + 1, t0 := x.t }
  else d

/-- A record that has reached its end closes (R320). -/
def closeDue (d : Dev) (p n : Nat) : Dev :=
  match (d.acqOf p).open_ with
  | some r =>
    if d.acqState p = 2 ∧ r.nT + d.rn (R.acqPost p) ≤ n then
      let d := d.closeOut p r n false
      let st := d.afterClose p r.maskStop
      let d := d.setAcqState p st
      if st = 6 then (d.putAcq p { d.acqOf p with smps := [], hits := [] }).raise (Ev.acqDone p) else d
    else d
  | none => d

/-- The oldest launched sample may be decided: results that are in time for it have come, and a re-arm that falls on it is done. -/
def decidable (d : Dev) (p : Nat) (x : Smp) : Bool :=
  let D := x.t + d.rn (R.trgHorizon p)
  d.unitsLive p && !(d.flpOf p).jobs.any (fun j => decide (j.n ≤ x.n) && decide (j.a ≤ D)) &&
    !(d.acqState p == 3 && decide ((d.acqOf p).na ≤ x.n))

/-- SAMPLE_DECISION (R314, R315). -/
def sampleDecision (d : Dev) (p : Nat) : Dev :=
  match (d.acqOf p).smps with
  | [] => d
  | x :: rest =>
    if 4 ≤ p ∨ !d.decidable p x then d
    else
      let a := { d.acqOf p with wins := rawWindows (d.acqOf p) x }
      let a := if x.n = a.na then { a with t0 := x.t } else a
      let h := d.sampleHits p a x
      let d := (List.range 8).foldl (fun d u => if nbit h u then d.cnt (R.trgCuHits p u) F.all 1 else d) d
      let d := (d.putAcq p a).trgStep p x h
      let b := d.acqOf p
      let gt := (List.range 8).foldl (fun g u => if d.cuType p u = 8 ∧ nbit h u then g ||| 2 ^ u else g) b.gtcs
      let hits := b.hits.filter (fun t => decide (x.end_ ≤ t.t))
      let trans := b.trans.filter (fun e => decide (x.end_ ≤ e.2.1) ||
        ((b.trans.find? (fun y => y.1 == e.1 && decide (y.2.1 < x.end_))) == some e))
      let cap := decide (d.acqState p = 1 ∨ d.acqState p = 2) && x.n % d.acqU p == d.acqU p - 1
      let r := x.n / d.acqU p
      let out := if cap then b.out ++ [AcqOut.round r (d.acqRoundAddr p b.k r)] else b.out
      let d := d.putAcq p { b with smps := rest, last := some x, next := x.n + 1, hits := hits, trans := trans, gtcs := gt,
                                   cnts := d.nextCounts p a h (b.st != a.st), out := out }
      let d := (d.wf (R.trgStat p) F.trgStatState (d.acqOf p).st).wf (R.trgStat p) F.trgStatHits h
      (d.closeDue p x.n).trgShow

/-! ### Arming and re-arming (R318, R320, R322) -/

/-- The first round boundary that has not launched; 0 of the next run while nothing launches. -/
def nextRound (d : Dev) (p : Nat) : Nat :=
  let s := d.seqOf p
  if s.tref then ceilDiv s.n (d.acqU p) * d.acqU p else 0

/-- Records of this arm that stand or will stand in the descriptor area. -/
def recsOut (d : Dev) (p : Nat) : Nat :=
  d.rn (R.acqWptr p) + ((d.acqOf p).out.filter (fun o => match o with | .desc _ _ => true | _ => false)).length

/-- Every slot holds an unread record (R320). -/
def slotsFull (d : Dev) (p : Nat) : Bool :=
  decide (d.rn (R.acqNslot p) ≤ (d.recsOut p + 2 ^ 32 - d.rn (R.acqRptr p)) % 2 ^ 32)

/-- The trigger sequencer and COUNT units restart at n_a (R315, R320). -/
def trgRestart (d : Dev) (p na : Nat) : Dev :=
  let a := d.acqOf p
  (d.putAcq p { a with na := na, st := 0, entered := na, t0 := 0, cnts := [], open_ := none, force := none, mask := none }).wf
    (R.trgStat p) F.trgStatState 0

/-- REARM (R320): at n_a, or to HOLD where the slot is not free. -/
def rearm (d : Dev) (p : Nat) : Dev :=
  let a := d.acqOf p
  if 4 ≤ p ∨ d.acqState p ≠ 3 ∨ (d.seqOf p).n < a.na ∨ a.smps.any (fun x => decide (x.n < a.na)) then d
  else if d.rb (R.acqCfg p) F.acqCfgFullPol && d.slotsFull p then d.setAcqState p 4
  else ((d.trgRestart p a.na).setAcqState p 1).trgShow

/-- A write of `ACQ_RPTR` that frees a slot ends HOLD (R320). -/
def rptrWrite (d : Dev) (p : Nat) : Dev :=
  if d.acqState p = 4 ∧ !d.slotsFull p then
    (d.putAcq p { d.acqOf p with na := d.nextRound p, smps := [], hits := [], last := none }).setAcqState p 3
  else d

/-- The basin and its descriptors lie in populated DRAM (R318). -/
def areaOk (d : Dev) (p : Nat) : Bool :=
  let n := d.rn (R.acqNslot p)
  d.dramOk (d.wide (R.acqBaseLo p) 2) (n * d.acqLs p * d.acqRb p) &&
    d.dramOk (d.wide (R.acqDescBaseLo p) 2) (64 * n)

/-- ACQ_ARM (R318). -/
def acqArm (d : Dev) (p : Nat) : Dev :=
  let st := d.acqState p
  let basin := if d.seqState p ≠ 0 ∨ (d.seqOf p).tref then (d.acqOf p).basin else d.rb (R.acqCfg p) F.acqCfgDest
  if (st ≠ 0 ∧ st ≠ 6) ∨ !basin then d.badWrite (ppage p 8)
  else if !d.areaOk p then (d.badWrite (ppage p 8)).raise (Ev.acqCfgErr p)
  else
    let d := ((d.setN (R.acqWptr p) 0).setN (R.acqRptr p) 0).wf (R.acqStat p) F.acqStatTriggered 0
    let d := (List.range 8).foldl (fun d u => d.setN (R.trgCuHits p u) 0) d
    let na := d.nextRound p
    let idle := d.seqState p = 0 ∧ !(d.seqOf p).tref
    let d := d.trgRestart p na
    let d := d.putAcq p { d.acqOf p with armAt := if idle then none else some na, k := 0, closed := 0, wins := [], gtcs := 0, smps := [],
                                         hits := [], last := none, next := na, derr := false }
    (if idle then d.setAcqState p 1 else d.setAcqState p 0).trgShow

/-- ACQ_DISARM (R318): at the first undecided sample. -/
def acqDisarm (d : Dev) (p : Nat) : Dev :=
  let a := d.acqOf p
  let d := match d.acqState p, a.open_ with
    | 2, some r => d.closeOut p r (max r.nT (d.firstUndecided p - 1)) true
    | _, _ => d
  let d := d.putAcq p { d.acqOf p with armAt := none, smps := [], hits := [], open_ := none, force := none, mask := none }
  ((d.wf (R.acqStat p) F.acqStatTriggered 0).setAcqState p 0).trgShow

/-- ACQ_FORCE (R317). -/
def acqForce (d : Dev) (p : Nat) : Dev :=
  if d.unitsLive p then d.putAcq p { d.acqOf p with force := some (d.firstUndecided p) } else d

/-- `FREEZE` = 0 (R322): the engine re-arms at the next round boundary, or is done. -/
def acqThaw (d : Dev) (p : Nat) : Dev :=
  let d := d.wf (pctl (ppage p 8)) F.ctlFreeze 0
  if d.acqState p ≠ 5 then d
  else
    let st := d.afterClose p false
    let d := d.putAcq p { d.acqOf p with na := d.nextRound p, smps := [], hits := [], last := none, open_ := none }
    let d := d.setAcqState p st
    if st = 6 then d.raise (Ev.acqDone p) else d

/-! ### Writes to the basin (R310, R323) -/

/-- One byte of the RX lock by its offset in the stream. -/
def rxByte (d : Dev) (p off : Nat) : Byte := mget d.sram (rxSlot p (off / 2048) + off % 2048)

def acqErr (d : Dev) (p : Nat) : Dev := (d.cnt (R.acqDramErrCnt p) F.all 1).raise (Ev.acqDramErr p)

/-- Write the oldest waiting round or descriptor; `bad`: it meets an uncorrectable error. -/
def acqPop (d : Dev) (p : Nat) (bad : Bool) : Dev :=
  let a := d.acqOf p
  match a.out with
  | [] => d
  | .round r addr :: rest =>
    let n := d.acqRb p
    let ok := !bad && d.dramOk addr n
    let d := d.putAcq p { a with out := rest, derr := a.derr || !ok }
    let s := d.seqOf p
    let d := if ok then d.dramWrite 0 (0x14 + p) addr ((List.range n).map (fun i => d.rxByte p (r * n + i))) else d.acqErr p
    (d.putSeq p { s with rxDrained := max s.rxDrained ((r + 1) * n / 2048) }).rxShow p
  | .desc addr ws :: rest =>
    let ok := !bad && d.dramOk addr 64
    let ws := match ws with | w :: t => (w + b2n a.derr * 2 ^ 25) :: t | [] => []
    let d := d.putAcq p { a with out := rest, derr := false }
    if ok then ((d.dramWrite 1 (0x18 + p) addr (wordsBytes ws)).setN (R.acqWptr p) ((d.rn (R.acqWptr p) + 1) % 2 ^ 32)).trgPulse p 2 d.now
    else d.acqErr p

/-- The oldest waiting write has all its data: its round has launched and its results are in. -/
def acqReady (d : Dev) (p : Nat) : Bool :=
  let s := d.seqOf p
  match (d.acqOf p).out with
  | .round r _ :: _ =>
    let e := (r + 1) * d.acqU p
    (decide (e ≤ s.n) || !s.tref) && !(d.flpOf p).jobs.any (fun j => decide (j.n < e))
  | [] => false
  | _ => true

/-- ACQ_ROUND_WRITE (R323). -/
def acqRoundWrite (d : Dev) (p : Nat) (bad : Bool) : Dev :=
  if 4 ≤ p ∨ !d.acqReady p then d else (d.acqPop p bad).trgShow

/-- Every waiting write at once, before the lock is emptied (R113). -/
def acqFlush : Nat → Dev → Nat → Dev
  | 0, d, _ => d
  | f + 1, d, p => if (d.acqOf p).out.isEmpty then d else acqFlush f (d.acqPop p false) p

/-! ### Mask violations (R328 to R330) -/

/-- MSK_VIOL_DECISION (R330). -/
def mskDecision (d : Dev) (p : Nat) : Dev :=
  match (d.flpOf p).viols with
  | [] => d
  | x :: rest =>
    let d := d.putFlp p { d.flpOf p with viols := rest }
    let d := ((d.cnt (R.mskViolCnt p) F.all 1).trgPulse p 3 x.a).raise (Ev.mskViol p)
    if d.rb (R.mskStat p) F.mskStatViol then d.trgShow
    else
      let d := d.setN (R.mskStat p) (2 ^ 31 + b2n x.stream * 2 ^ 29 + x.ch * 2 ^ 24)
      let d := (d.setWide (R.mskViolSampleLo p) 2 x.n).setWide (R.mskViolGtc0 p) 3 x.t
      let d := ((d.setN (R.mskViolPos p) x.pos).setN (R.mskViolData p) x.data).setN (R.mskViolCount p) x.count
      let act := d.rf (R.mskCtrl p) F.mskCtrlStopAct
      if act = 0 then d.trgShow
      else
        let nf := d.firstUndecided p
        let late := x.n < nf ∨ x.t + d.rn (R.trgHorizon p) < x.a
        let d := if late then d.wf (R.mskStat p) F.mskStatLate 1 else d
        let a := d.acqOf p
        let d := if d.acqState p = 1 then d.putAcq p { a with mask := some (max x.n nf) }
          else if d.acqState p = 2 then d.putAcq p { a with open_ := a.open_.map (fun r => { r with maskStop := true }) }
          else d
        (if act = 2 then d.seqStopAt p x.a else d).trgShow

/-- MSK_CLR (R330). -/
def mskClr (d : Dev) (p : Nat) : Dev :=
  let d := ((d.setN (R.mskStat p) 0).setWide (R.mskViolSampleLo p) 2 0).setWide (R.mskViolGtc0 p) 3 0
  ((d.setN (R.mskViolPos p) 0).setN (R.mskViolData p) 0).setN (R.mskViolCount p) 0

/-! ### Launching with the fail processor (R301) -/

/-- VECTOR_LAUNCH with what the end of a run lets go: a stop that waits for the bitmap. -/
def vectorStep (d : Dev) (p : Nat) : Dev :=
  let e := d.vectorLaunch p
  if (d.seqOf p).tref && !(e.seqOf p).tref then (e.bmAtStop p).trgShow else e

end Dev
end Sys2Proof.Machine
end

