-- ==== Sys2Proof/Machine/Sideband.lean ====
section
/-! DEFINITION. Sideband engines (12_sideband_engines.md R334 to R360): rings and records, CEC, DDC, AUX and HPD. -/
namespace Sys2Proof.Machine
namespace Dev

def sbOf (d : Dev) (p e : Nat) : Sb := tget (fun _ => Sb.reset) d.sb (4 * p + e)
def putSb (d : Dev) (p e : Nat) (s : Sb) : Dev := { d with sb := tset (fun _ => Sb.reset) d.sb (4 * p + e) s }

/-- Page of engine `e` (0 CEC, 1 DDC, 2 AUX, 3 HPD) and its registers. -/
def sbPage (p e : Nat) : Nat := ppage p (0xB + e)
def sbReg (p e o : Nat) : Nat := sbPage p e * 0x1000 + o
def sbWptr (p e : Nat) : Nat := sbReg p e 0x48
def sbRptr (p e : Nat) : Nat := sbReg p e 0x4C

/-! ### Lines (R334) -/

/-- Owner codes of an engine's lines. -/
def sbCodes (e : Nat) : List Nat := if e = 0 then [2] else if e = 1 then [3, 4] else if e = 2 then [5, 6] else [7]

/-- The utility channel of a port that has an owner code. -/
def ownerCh (d : Dev) (p code : Nat) : Option Nat := ((List.range 16).map (16 * p + ·)).find? (fun m => d.ucOwner m == code)

def linesOwned (d : Dev) (p e : Nat) : Bool := (sbCodes e).all (fun c => (d.ownerCh p c).isSome)
def linesReady (d : Dev) (p e : Nat) : Bool :=
  (sbCodes e).all (fun c => match d.ownerCh p c with | some m => d.ucReady m | none => false)

def sbOn (d : Dev) (p e : Nat) : Bool := d.rb (pctl (sbPage p e)) F.ctlEnable
/-- The engine is online, enabled, and has its lines. -/
def sbLive (d : Dev) (p e : Nat) : Bool := decide (p < 4) && !d.offline false (sbPage p e) && d.sbOn p e && d.linesReady p e

/-- Role of an engine: CEC and DDC 0 ACTIVE, 1 MONITOR; AUX 0 SOURCE, 1 SINK, 2 MONITOR; HPD 0 SENSE, 1 DRIVE. -/
def sbRole (d : Dev) (p e : Nat) : Nat :=
  if e = 2 then d.rf (R.auxCfg p) F.auxCfgRole else d.rn (sbReg p e 0x80) % 2

/-- `x_STAT` as it reads. -/
def sbStat (d : Dev) (p e : Nat) : Nat :=
  let s := d.sbOf p e
  b2n (d.linesReady p e) * 2 ^ 31 + b2n (s.run || s.pulse.isSome || (e == 3 && d.sbLive p e && d.sbRole p e == 1)) * 2 ^ 30 +
    b2n (s.run || s.req.isSome) * 2 ^ 29 + b2n s.busy * 2 ^ 28

/-! ### The sideband area (R338, Table 12-1) -/

def sbArea (p : Nat) : Nat := p * 0x200000 + 0x1E0000
def sbHdr (p e : Nat) : Nat := sbArea p + 0xAE00 + 16 * e
/-- Record ring: base and size. -/
def recRing (p e : Nat) : Nat × Nat :=
  if e = 0 then (sbArea p + 0xB000, 4096) else if e = 1 then (sbArea p + 0xC000, 8192)
  else if e = 2 then (sbArea p + 0xE000, 8192) else (sbArea p + 0xAC00, 512)

/-- Bytes of a ring from a free-running pointer. -/
def ringRead (d : Dev) (base size q : Nat) : Nat → List Nat
  | 0 => []
  | n + 1 => (mget d.sram (base + q % size)).toNat :: ringRead d base size (q + 1) n
def ringWrite (d : Dev) (base size q : Nat) : List Byte → Dev
  | [] => d
  | b :: bs => (d.sramWrite (base + q % size) [b]).ringWrite base size (q + 1) bs

/-! ### Records (R340, R341) -/

/-- What a record says (Table 12-3). -/
structure SbRec where
  status : Nat
  kind : Nat
  role : Nat
  tag : Nat
  info : Nat
  t : Nat
  /-- bytes by the initiator and by the follower, and the numbers that passed -/
  ib : List Nat
  fb : List Nat
  /-- bytes as they passed, for the key of R312, and when the engine held each -/
  key : List Nat
  times : List Nat

def evRecLost (p e : Nat) : Nat :=
  if e = 0 then Ev.cecRecLost p else if e = 1 then Ev.ddcRecLost p else if e = 2 then Ev.auxRecLost p else Ev.hpdRecLost p

/-- The bytes of a record. -/
def recBytes (r : SbRec) (gap : Bool) : List Byte :=
  let data := (r.ib ++ r.fb).take 256
  let n := 24 + 4 * ceilDiv data.length 4
  wordsBytes [r.status * 2 ^ 24 + r.kind * 2 ^ 20 + r.role * 2 ^ 18 + b2n (256 < r.ib.length + r.fb.length) * 2 ^ 17 + b2n gap * 2 ^ 16 + n,
      r.t % 2 ^ 32, r.t / 2 ^ 32 % 2 ^ 32, r.tag % 2 ^ 16 * 2 ^ 16 + r.t / 2 ^ 64 % 2 ^ 16, r.info,
      r.ib.length * 2 ^ 16 + r.fb.length] ++
    data.map (BitVec.ofNat 8 ·) ++ List.replicate (n - 24 - data.length) 0

/-- Write a record, or lose it (R340); the answer says whether it was written. -/
def sbRecord (d : Dev) (p e : Nat) (r : SbRec) : Dev × Bool :=
  let s := d.sbOf p e
  let ring := recRing p e
  let h := sbHdr p e
  let w := d.sramWord h
  let bs := recBytes r s.gap
  let ok := decide ((w + 2 ^ 32 - d.sramWord (h + 4)) % 2 ^ 32 + bs.length ≤ ring.2)
  let d := if ok then ((d.ringWrite ring.1 ring.2 w bs).sramPut h ((w + bs.length) % 2 ^ 32)).putSb p e { s with gap := false }
    else ((d.sramPut (h + 8) (min (2 ^ 32 - 1) (d.sramWord (h + 8) + 1))).putSb p e { s with gap := true }).raise (evRecLost p e)
  let key := (List.range 8).foldl (fun k i => k + (r.key[i]?).getD 0 % 256 * 256 ^ i) 0
  (d.sidebandHit p e (e != 3 && (r.kind == 1 || r.kind == 2)) (e != 3 && r.kind == 3) (r.status != 0) key r.times d.now, ok)

/-! ### Commands (R339, Table 12-2) -/

structure SbCmd where
  op : Nat
  param : Nat
  len : Nat
  tag : Nat
  dw1 : Nat
  data : List Nat

/-- Length of a command in the ring. -/
def SbCmd.size (c : SbCmd) : Nat := 8 + 4 * ceilDiv c.len 4

/-- The command at the read pointer. -/
def sbCmd (d : Dev) (p e : Nat) : SbCmd :=
  let base := sbArea p + 0xA000 + 0x400 * e
  let bs := d.ringRead base 1024 (d.rn (sbRptr p e)) 8
  let w := fun i => (List.range 4).foldl (fun x k => x + (bs[4 * i + k]?).getD 0 * 256 ^ k) 0
  let len := nbits (w 0) 23 16
  { op := nbits (w 0) 31 28, param := nbits (w 0) 27 24, len := len, tag := w 0 % 2 ^ 16, dw1 := w 1,
    data := d.ringRead base 1024 (d.rn (sbRptr p e) + 8) len }

def cmdAvail (d : Dev) (p e : Nat) : Nat := (d.rn (sbWptr p e) + 2 ^ 32 - d.rn (sbRptr p e)) % 2 ^ 32

/-- `RDLEN` of a DDC and of an AUX command. -/
def SbCmd.rdlen (c : SbCmd) (e : Nat) : Nat := if e = 1 then c.dw1 / 2 ^ 23 else nbits c.dw1 28 24

/-- A malformed command (R339). -/
def cmdBad (e : Nat) (c : SbCmd) : Bool :=
  if e = 0 then c.op != 1 || decide (15 < c.len)
  else if e = 1 then c.op == 0 || decide (3 < c.op) || c.param != 0 || decide (256 < c.rdlen 1)
  else c.op == 0 || decide (4 < c.op) || decide (1 < c.param) || (decide (c.op ≤ 2) && c.param != 0) || decide (16 < c.len) ||
    (c.op == 1 && c.len == 0) || (c.op % 2 == 0 && (c.rdlen 2 == 0 || decide (16 < c.rdlen 2)))

def evDone (p e : Nat) : Nat := if e = 0 then Ev.cecDone p else if e = 1 then Ev.ddcDone p else Ev.auxDone p
def evFail (p e : Nat) : Nat := if e = 0 then Ev.cecFail p else if e = 1 then Ev.ddcFail p else Ev.auxFail p

/-- The command at the read pointer is over: its record, its events, and the pointer. -/
def cmdEndOne (d : Dev) (p e : Nat) (r : SbRec) : Dev :=
  let n := (d.sbCmd p e).size
  let s := d.sbOf p e
  let next := match s.skip with | some q => q | none => (d.rn (sbRptr p e) + min n (d.cmdAvail p e)) % 2 ^ 32
  let d := d.putSb p e { s with busy := false, run := false, wait := false, att := 0, defers := 0, skip := none }
  let w := d.sbRecord p e r
  let d := (w.1.setN (sbRptr p e) next)
  let d := if w.2 then d.raise (evDone p e) else d
  if r.status ≠ 0 then d.raise (evFail p e) else d

/-- The engine takes its next command where it may: malformed ones and a READ of nothing end at once (R339, R349). -/
def sbKick : Nat → Dev → Nat → Nat → Dev
  | 0, d, _, _ => d
  | f + 1, d, p, e =>
    if (d.sbOf p e).busy ∨ !d.sbLive p e ∨ d.sbRole p e ≠ 0 ∨ 3 ≤ e ∨ d.cmdAvail p e < 8 then d
    else
      let c := d.sbCmd p e
      let rcd : SbRec := ⟨9, 1, 0, c.tag, 0, d.edgeAt aclk d.now, [], [], [], []⟩
      if cmdBad e c then sbKick f (d.cmdEndOne p e rcd) p e
      else if d.cmdAvail p e < c.size then d
      else if e = 1 ∧ c.op = 2 ∧ c.rdlen 1 = 0 then sbKick f (d.cmdEndOne p e { rcd with status := 0, info := 0xFF00 }) p e
      else d.putSb p e { d.sbOf p e with busy := true, run := false, wait := false, att := 0, defers := 0, t := d.edgeAt aclk d.now }

def kick (d : Dev) (p e : Nat) : Dev := sbKick 129 d p e

/-- The command in progress ends, and the next one begins. -/
def cmdEnd (d : Dev) (p e : Nat) (r : SbRec) : Dev := (d.cmdEndOne p e r).kick p e

/-- A legal write of `x_CMD_WPTR` (R339). -/
def wptrOk (d : Dev) (p e : Nat) (w : Word) : Bool :=
  decide (w.toNat % 4 = 0) && decide ((w.toNat + 2 ^ 32 - d.rn (sbRptr p e)) % 2 ^ 32 ≤ 1024)

/-! ### CEC (R344 to R347) -/

/-- An enabled emulated logical address (R345). -/
def cecEmulated (d : Dev) (p la : Nat) : Bool :=
  (List.range 4).any (fun i => nbit (d.rf (R.cecLa p) F.cecLaEn) i && nbits (d.rn (R.cecLa p)) (4 * i + 3) (4 * i) == la)

/-- CEC_ATTEMPT_START (R346): the line has been free for the signal-free time. -/
def cecAttempt (d : Dev) (p : Nat) : Dev :=
  let s := d.sbOf p 0
  if !d.sbLive p 0 ∨ !s.busy ∨ s.run ∨ (d.sbCmd p 0).op ≠ 1 then d
  else d.putSb p 0 { s with run := true, att := s.att + 1 }

/-- `INFO` of a CEC record. -/
def cecInfo (acks att hdr : Nat) : Nat := acks % 2 ^ 16 * 2 ^ 16 + att % 16 * 2 ^ 12 + hdr % 256

/-- SEND (R346): the attempt in progress ends with a status (0, 1, 3, 4 or 8 of Table 12-4) after `blocks` blocks, header included; `acks`:
the blocks that were acknowledged; `t`: end of its start bit. -/
def cecSend (d : Dev) (p status blocks acks t : Nat) (times : List Nat) : Dev :=
  let s := d.sbOf p 0
  if !d.sbLive p 0 ∨ !s.run ∨ !([0, 1, 3, 4, 8].contains status) then d
  else
    let c := d.sbCmd p 0
    let d := if status = 3 then (d.cnt (R.cecCnt p) F.cecCntArb 1).raise (Ev.cecCollision p)
      else if status = 4 then (d.cnt (R.cecCnt p) F.cecCntColl 1).raise (Ev.cecCollision p) else d
    let retry := d.rf (R.cecCfg p) F.cecCfgRetry
    if status ≠ 0 ∧ s.att ≤ retry then d.putSb p 0 { d.sbOf p 0 with run := false, t := t }
    else
      let hdr := c.param * 16 + c.dw1 % 16
      let n := if status = 0 then c.len + 1 else min blocks (c.len + 1)
      let ib := c.data.take (n - 1)
      d.cmdEnd p 0 ⟨status, 1, 0, c.tag, cecInfo (acks % 2 ^ n) s.att hdr, t, ib, [], hdr :: ib, times⟩

/-- CEC_MESSAGE_RECEIVED (R347): a message that the engine does not send: its blocks, the header first; `acks` as the other parties left
them; `fault`: 0 none, 4 an error notification or collision, 8 a timing fault. -/
def cecReceived (d : Dev) (p t fault : Nat) (bytes : List Nat) (acks : Nat) (times : List Nat) : Dev :=
  match bytes with
  | [] => d
  | hdr :: rest =>
    if !d.sbLive p 0 ∨ !([0, 4, 8].contains fault) then d
    else
      let active := d.sbRole p 0 == 0
      let dest := hdr % 16
      let mine := active && dest != 15 && d.cecEmulated p dest
      let n := bytes.length
      let acks := if mine && fault == 0 then 2 ^ min n 16 - 1 else acks % 2 ^ min n 16
      let kind := if active && (mine || dest == 15) then 2 else 3
      let nack := dest != 15 && acks != 2 ^ min n 16 - 1
      let status := if fault ≠ 0 then (if mine && fault == 8 && d.rb (R.cecCfg p) F.cecCfgErrnote then 4 else fault)
        else if nack then 1 else 0
      let r := d.sbRecord p 0 ⟨status, kind, if kind = 2 then 1 else 2, 0, cecInfo acks 0 hdr, t, rest, [], bytes, times⟩
      if kind = 3 ∧ r.2 then r.1.raise (Ev.cecStranger p) else r.1

/-! ### DDC (R348 to R351) -/

/-- The enabled responder entry with an address (R350). -/
def respEntry (d : Dev) (p a : Nat) : Option Nat :=
  (List.range 8).find? (fun n => d.rb (R.ddcRespCfg p n) F.ddcRespCfgEn && d.rf (R.ddcRespCfg p n) F.ddcRespCfgAddr == a)

/-- Some enabled entry answers the segment address 0x30. -/
def respSeg (d : Dev) (p : Nat) : Bool :=
  (List.range 8).any (fun n => d.rb (R.ddcRespCfg p n) F.ddcRespCfgEn && d.rb (R.ddcRespCfg p n) F.ddcRespCfgSeg)

/-- Place in the responder region of an entry's byte: none beyond the entry. -/
def respAddr (d : Dev) (p n seg ofs : Nat) : Option Nat :=
  let w := d.get (R.ddcRespCfg p n)
  let a := (if fget w F.ddcRespCfgSeg = 1 then seg * 256 else 0) + ofs % 256
  if a < fget w F.ddcRespCfgSize * 256 then some (sbArea p + fget w F.ddcRespCfgBase * 256 + a) else none

def respRead (d : Dev) (p n seg ofs : Nat) : Nat :=
  match d.respAddr p n seg ofs with | some a => (mget d.sram a).toNat | none => 0xFF

/-- Bytes written to an entry from an offset on: stored where `WR` = 1. -/
def respWrite (d : Dev) (p n seg ofs : Nat) : List Nat → Dev
  | [] => d
  | b :: bs =>
    let d := match d.respAddr p n seg ofs with
      | some a => if d.rb (R.ddcRespCfg p n) F.ddcRespCfgWr then d.sramWrite a [BitVec.ofNat 8 b] else d
      | none => d
    d.respWrite p n seg (ofs + 1) bs

/-- `INFO` of a DDC record. -/
def ddcInfo (seg : Option Nat) (losses nack addr : Nat) : Nat :=
  (match seg with | some s => s % 256 * 2 ^ 24 + 2 ^ 23 | none => 0) + min 7 losses * 2 ^ 20 + nack % 256 * 2 ^ 8 + addr % 256

/-- Bytes of a master command as they pass: segment write, write phase of `sent` bytes, read phase. -/
def ddcKey (c : SbCmd) (sent rd : List Nat) : List Nat :=
  let a := c.dw1 % 128
  (if nbit c.dw1 16 then [0x60, nbits c.dw1 15 8] else []) ++ (if c.op = 2 then [] else (2 * a) :: sent) ++
    (if c.op = 1 ∨ c.rdlen 1 = 0 then [] else (2 * a + 1) :: rd)

/-- DDC_WRITE, DDC_READ, DDC_WRITE_READ (R349): the command in progress, with opcode `op`, ends after `losses` lost arbitrations with a
status (0, 1, 3, 4, 8); `sent`: written bytes that passed; `rd`: bytes read; `nack`: index of the byte that drew a NACK. -/
def ddcMaster (d : Dev) (p op t losses status sent nack : Nat) (rd times : List Nat) : Dev :=
  let c := d.sbCmd p 1
  if !d.sbLive p 1 ∨ !(d.sbOf p 1).busy ∨ c.op ≠ op ∨ !([0, 1, 3, 4, 8].contains status) then d
  else
    let retry := d.rf (R.ddcCfg p) F.ddcCfgRetry
    let status := if retry < losses then 3 else if status = 3 then 0 else status
    let losses := min losses (retry + 1)
    let d := if 0 < losses then (d.cnt (R.ddcCnt p) F.ddcCntArb losses).raise (Ev.ddcArbLost p) else d
    let d := if status = 4 then d.cnt (R.ddcCnt p) F.ddcCntBuserr 1 else d
    let wr := if op = 2 then [] else c.data.take (if status = 0 then c.len else sent)
    let rdn := if op = 1 ∨ status = 3 then 0 else c.rdlen 1
    let rd := (if status = 0 then (List.range rdn).map (fun i => (rd[i]?).getD 0 % 256) else rd.take rdn)
    let seg := if nbit c.dw1 16 then some (nbits c.dw1 15 8) else none
    let addr := 2 * (c.dw1 % 128) + (if op = 1 ∨ (rd.isEmpty ∧ op = 3) then 0 else 1)
    d.cmdEnd p 1 ⟨status, 1, 0, c.tag, ddcInfo seg (if status = 3 then losses - 1 else losses) (if status = 1 then nack else 0xFF) addr, t,
      wr, rd, ddcKey c wr rd, times⟩

/-- DDC_STUCK_BUS_TIMEOUT (R349): the command in progress ends with TIMEOUT and the engine clears the bus. -/
def ddcStuck (d : Dev) (p t : Nat) : Dev :=
  if !d.sbLive p 1 ∨ !(d.sbOf p 1).busy then d
  else
    let c := d.sbCmd p 1
    let d := d.raise (Ev.ddcStuck p)
    d.cmdEnd p 1 ⟨5, 1, 0, c.tag, ddcInfo (if nbit c.dw1 16 then some (nbits c.dw1 15 8) else none) 0 0xFF (2 * (c.dw1 % 128)), t, [], [], [], []⟩

/-- What the responder has done in a transaction so far. -/
structure DdcObs where
  seg : Option Nat
  ofs : Nat
  named : Bool
  /-- index of the next byte on the bus, and of the byte that drew a NACK -/
  ix : Nat
  nack : Nat
  last : Nat
  ib : List Nat
  fb : List Nat
  key : List Nat

/-- One phase of an observed transaction: address byte, acknowledged by another party, and its bytes (for a read that the responder serves
only their number counts). -/
def ddcPhase (p : Nat) (active : Bool) (x : Dev × DdcObs) (ph : Nat × Bool × List Nat) : Dev × DdcObs :=
  let d := x.1
  let o := x.2
  let ab := ph.1 % 256
  let a := ab / 2
  let rd := ab % 2 = 1
  let bs := ph.2.2.map (· % 256)
  let ent := if active then d.respEntry p a else none
  let segA := active && a == 0x30 && d.respSeg p
  let o := { o with named := o.named || ent.isSome || segA, last := ab, key := o.key ++ [ab] }
  let serve := match ent with | some n => !d.rb (R.ddcRespCfg p n) F.ddcRespCfgHold | none => false
  let acked := serve || segA || (ent.isNone && ph.2.1)
  if !acked then (d, { o with nack := if o.nack = 0xFF then min 0xFE o.ix else o.nack, ix := o.ix + 1 })
  else
    let after := fun (o : DdcObs) (out : List Nat) => { o with ix := o.ix + 1 + out.length, key := o.key ++ out }
    if segA then
      (d, after { o with seg := if rd then o.seg else match bs.getLast? with | some b => some b | none => o.seg,
                         ib := o.ib ++ (if rd then [] else bs), fb := o.fb ++ (if rd then bs else []) } bs)
    else match ent with
      | some n =>
        let seg := o.seg.getD 0
        if rd then
          let out := (List.range bs.length).map (fun i => d.respRead p n seg (o.ofs + i))
          (d, after { o with ofs := (o.ofs + bs.length) % 256, fb := o.fb ++ out } out)
        else match bs with
          | [] => (d, after o [])
          | f :: rest => (d.respWrite p n seg f rest, after { o with ofs := (f + rest.length) % 256, ib := o.ib ++ bs } bs)
      | none =>
        (d, after (if rd then { o with fb := o.fb ++ bs } else { o with ib := o.ib ++ bs }) bs)

/-- DDC_TRANSACTION_OBSERVED (R350, R351): a transaction of another master, from START to STOP; `broken`: it ended by a START or STOP inside
a byte; `nack`: a written byte of a stranger's transfer that drew a NACK, 0xFF none. -/
def ddcObserved (d : Dev) (p t : Nat) (phases : List (Nat × Bool × List Nat)) (broken : Bool) (nack : Nat) (times : List Nat) : Dev :=
  if !d.sbLive p 1 ∨ phases.isEmpty then d
  else
    let active := d.sbRole p 1 == 0
    let r := phases.foldl (ddcPhase p active) (d, ⟨none, 0, false, 0, nack % 256, 0, [], [], []⟩)
    let d := r.1
    let o := r.2
    let d := if broken then d.cnt (R.ddcCnt p) F.ddcCntBuserr 1 else d
    let kind := if o.named then 2 else 3
    let status := if broken then 4 else if o.nack ≠ 0xFF then 1 else 0
    let w := d.sbRecord p 1 ⟨status, kind, if kind = 2 then 1 else 2, 0, ddcInfo o.seg 0 o.nack o.last, t, o.ib, o.fb, o.key, times⟩
    if kind = 3 ∧ w.2 then w.1.raise (Ev.ddcStranger p) else w.1

/-! ### AUX (R352 to R357)

The request and reply codes are those of the DisplayPort specification (PRESUMED): native write 8 and read 9, I²C write 0 and read 1, plus 4 for
MOT; replies: native ACK 0, NACK 1, DEFER 2, I²C NACK 4, DEFER 8. -/

/-- COMM of a command. -/
def auxComm (c : SbCmd) : Nat := if c.op ≤ 2 then 7 + c.op else (c.op - 3) + 4 * c.param

/-- `INFO` of an AUX record. -/
def auxInfo (comm reply defers addr : Nat) : Nat := comm % 16 * 2 ^ 28 + reply % 16 * 2 ^ 24 + min 15 defers * 2 ^ 20 + addr % 2 ^ 20

/-- Bytes of a request as they pass (R341). -/
def auxReqBytes (comm addr len : Nat) (data : List Nat) : List Nat :=
  [comm % 16 * 16 + addr / 2 ^ 16 % 16, addr / 256 % 256, addr % 256] ++ (if len = 0 then [] else [len - 1]) ++ data

def auxDefers (d : Dev) (p : Nat) : Dev := d.cnt (R.auxCnt p) F.auxCntDefer 1

/-- NATIVE_WR, NATIVE_RD, I2C_WR, I2C_RD (R353): the command in progress, with opcode `op`, sends its request, stamped `t`. -/
def auxRequest (d : Dev) (p op t : Nat) : Dev :=
  let s := d.sbOf p 2
  if !d.sbLive p 2 ∨ !s.busy ∨ s.run ∨ s.wait ∨ (d.sbCmd p 2).op ≠ op then d
  else d.putSb p 2 { s with run := true, att := 0, t := t }

/-- The AUX command in progress ends. -/
def auxEnd (d : Dev) (p status reply : Nat) (rd times : List Nat) : Dev :=
  let c := d.sbCmd p 2
  let s := d.sbOf p 2
  let wr := if c.op % 2 = 1 then c.data else []
  let len := if c.op % 2 = 1 then c.len else c.rdlen 2
  let addr := c.dw1 % 2 ^ 20
  let key := auxReqBytes (auxComm c) addr len wr ++ (if reply = 15 then [] else (reply % 16 * 16) :: rd)
  d.cmdEnd p 2 ⟨status, 1, 0, c.tag, auxInfo (auxComm c) reply s.defers addr, s.t, wr, rd, key, times⟩

/-- No usable reply: the request is sent again at `t`, up to `RETRY` times (R353). -/
def auxRetry (d : Dev) (p status t : Nat) : Dev :=
  let s := d.sbOf p 2
  if s.att < d.rf (R.auxCfg p) F.auxCfgRetry then d.putSb p 2 { s with att := s.att + 1, t := t } else d.auxEnd p status 15 [] []

/-- A NOISE record (R357). -/
def auxNoise (d : Dev) (p t : Nat) (bytes times : List Nat) : Dev :=
  let d := d.cnt (R.auxCnt p) F.auxCntNoise 1
  let w := d.sbRecord p 2 ⟨8, 4, 2, 0, auxInfo 0 15 0 0, t, bytes, [], bytes, times⟩
  w.1.raise (Ev.auxNoise p)

/-- AUX_REPLY_RECEIVED (R353, R357): a reply with its code and data at `t`; `bad`: it breaks R352. -/
def auxReply (d : Dev) (p t comm : Nat) (data : List Nat) (bad : Bool) (times : List Nat) : Dev :=
  if !d.sbLive p 2 then d
  else
    let s := d.sbOf p 2
    match d.sbRole p 2 with
    | 0 =>
      if !s.run then d
      else if bad then (d.auxNoise p t data times).auxRetry p 8 t
      else
        let native := (d.sbCmd p 2).op ≤ 2
        let defer := if native then comm % 4 = 2 else comm % 4 = 2 ∨ comm / 4 % 4 = 2
        let nack := if native then comm % 4 = 1 else comm % 4 = 1 ∨ comm / 4 % 4 = 1
        if defer then
          let d := d.auxDefers p
          let n := s.defers + 1
          if s.defers < d.rf (R.auxCfg p) F.auxCfgDeferMax then d.putSb p 2 { d.sbOf p 2 with defers := n, run := false, wait := true }
          else (d.putSb p 2 { d.sbOf p 2 with defers := n }).auxEnd p 2 comm data times
        else d.auxEnd p (if nack then 1 else 0) comm data times
    | 1 => d
    | _ =>
      match s.req with
      | none => d
      | some q =>
        let d := d.putSb p 2 { s with req := none }
        if bad then d.auxNoise p t data times
        else
          let defer := comm % 4 = 2 ∨ comm / 4 % 4 = 2
          let d := if defer then d.auxDefers p else d
          let st := if defer then 2 else if comm % 4 = 1 ∨ comm / 4 % 4 = 1 then 1 else 0
          (d.sbRecord p 2 ⟨st, 3, 2, 0, auxInfo q.1 comm (if st = 2 then 1 else 0) q.2.1, q.2.2.2.2, q.2.2.2.1, data,
            auxReqBytes q.1 q.2.1 q.2.2.1 q.2.2.2.1 ++ (comm % 16 * 16) :: data, times⟩).1

/-- AUX_REPLY_TIMEOUT (R353, R357); a retry is stamped `t`. -/
def auxTimeout (d : Dev) (p t : Nat) : Dev :=
  let s := d.sbOf p 2
  if !d.sbLive p 2 then d
  else if d.sbRole p 2 = 0 then (if s.run then d.auxRetry p 5 t else d)
  else match s.req with
    | none => d
    | some q =>
      ((d.putSb p 2 { s with req := none }).sbRecord p 2 ⟨5, 3, 2, 0, auxInfo q.1 15 0 q.2.1, q.2.2.2.2, q.2.2.2.1, [],
        auxReqBytes q.1 q.2.1 q.2.2.1 q.2.2.2.1, []⟩).1

/-- AUX_DEFER_RETRY (R353): the request is sent again, stamped `t`. -/
def auxDeferRetry (d : Dev) (p t : Nat) : Dev :=
  let s := d.sbOf p 2
  if d.sbLive p 2 ∧ s.wait then d.putSb p 2 { s with wait := false, run := true, t := t } else d

/-- The enabled window that contains every byte of a native request. -/
def auxWindow (d : Dev) (p addr len : Nat) : Option Nat :=
  (List.range 8).find? (fun n =>
    let a := d.get (R.auxWinA p n)
    let st := fget a F.auxWinAStart
    fget a F.auxWinAEn == 1 && decide (st ≤ addr) && decide (addr + max 1 len ≤ st + d.rf (R.auxWinB p n) F.auxWinBLen))

/-- Place in the sideband area of a DPCD address of a window. -/
def dpcdAddr (d : Dev) (p n addr : Nat) : Nat :=
  sbArea p + 0x8000 + d.rf (R.auxWinB p n) F.auxWinBOfs + (addr - d.rf (R.auxWinA p n) F.auxWinAStart)

/-- Count one DEFER of a window, or of I²C at 8; the answer says whether it is still to be given. -/
def auxDeferN (d : Dev) (p w n : Nat) : Dev × Bool :=
  let s := d.sbOf p 2
  let k := tget (fun _ => 0) s.dcnt w
  if k < n then (d.putSb p 2 { s with dcnt := tset (fun _ => 0) s.dcnt w (k + 1) }, true) else (d, false)

/-- Reply of a window to a native request (R354, R355): code and data. -/
def auxNative (d : Dev) (p comm addr len : Nat) (data : List Nat) : Dev × Nat × List Nat :=
  let rd := comm = 9
  match d.auxWindow p addr len with
  | none => if d.rb (R.auxCfg p) F.auxCfgUnmapPol then (d, 0, if rd then List.replicate len 0 else []) else (d, 1, [])
  | some n =>
    let a := d.get (R.auxWinA p n)
    let q := d.dpcdAddr p n addr
    let get := fun (d : Dev) => (mread d.sram q len).map BitVec.toNat
    let put := fun (d : Dev) => d.sramWrite q (data.map (BitVec.ofNat 8 ·))
    let ack := fun (d : Dev) =>
      if rd then (d, 0, get d) else (if fget a F.auxWinAWr = 1 then put d else d, 0, [])
    match fget a F.auxWinAPol with
    | 0 => ack d
    | 1 => (d, 1, [])
    | 2 => let r := d.auxDeferN p n (fget a F.auxWinAN); if r.2 then (r.1, 2, []) else ack r.1
    | _ =>
      let h := R.auxHostreq p
      let w := comm * 2 ^ 27 + (max 1 len - 1) % 16 * 2 ^ 23 + n * 2 ^ 20 + addr % 2 ^ 20
      if !d.rb h F.auxHostreqPending then
        let d := ((d.setN h (2 ^ 31 + w)).putSb p 2 { d.sbOf p 2 with served := false }).raise (Ev.auxHostreqEvt p)
        (if rd then d else put d, 2, [])
      else if (d.sbOf p 2).served ∧ d.rn h % 2 ^ 31 / 2 ^ 23 = w / 2 ^ 23 ∧ d.rn h % 2 ^ 20 = w % 2 ^ 20 then
        ((d.setN h 0).putSb p 2 { d.sbOf p 2 with served := false }, 0, if rd then get d else [])
      else (d, 2, [])

/-- Reply to an I²C-over-AUX request (R356). -/
def auxI2c (d : Dev) (p comm addr len : Nat) (data : List Nat) : Dev × Nat × List Nat :=
  let s := d.sbOf p 2
  let mot := decide (4 ≤ comm)
  let rd := comm % 4 = 1
  let a := addr % 128
  let close := fun (d : Dev) => if mot then d else d.putSb p 2 { d.sbOf p 2 with i2c := I2cAux.reset }
  let pol := d.rf (R.auxCfg p) F.auxCfgI2cPol
  let r := if pol = 2 then d.auxDeferN p 8 (d.rf (R.auxCfg p) F.auxCfgI2cN) else (d, false)
  if pol = 1 then (close d, 4, [])
  else if r.2 then (r.1, 8, [])
  else
    let d := r.1
    let i := s.i2c
    let ph := 2 * a + b2n rd + 1
    let i := { i with open_ := true, got := i.got && decide (i.phase = ph), phase := ph }
    if a = 0x30 ∧ d.respSeg p then
      let i := { i with seg := if rd then i.seg else (data.getLast?).getD i.seg % 256 }
      (close (d.putSb p 2 { d.sbOf p 2 with i2c := i }), 0, if rd then List.replicate len 0xFF else [])
    else match d.respEntry p a with
      | none => (close (d.putSb p 2 { d.sbOf p 2 with i2c := i }), 4, [])
      | some n =>
        if d.rb (R.ddcRespCfg p n) F.ddcRespCfgHold then (close (d.putSb p 2 { d.sbOf p 2 with i2c := i }), 4, [])
        else if rd then
          let out := (List.range len).map (fun k => d.respRead p n i.seg (i.ofs + k))
          (close (d.putSb p 2 { d.sbOf p 2 with i2c := { i with ofs := (i.ofs + len) % 256 } }), 0, out)
        else
          let ofs := if i.got then i.ofs else (data.head?).getD i.ofs % 256
          let bs := if i.got then data else data.drop 1
          let d := d.respWrite p n i.seg ofs bs
          (close (d.putSb p 2 { d.sbOf p 2 with i2c := { i with got := i.got || !data.isEmpty, ofs := (ofs + bs.length) % 256 } }), 0, [])

/-- AUX_REQUEST_RECEIVED (R354 to R357): a request at `t`; `bad`: it breaks R352, and `data` holds the bytes completed. -/
def auxReqReceived (d : Dev) (p t comm addr len : Nat) (data : List Nat) (bad : Bool) (times : List Nat) : Dev :=
  if !d.sbLive p 2 ∨ d.sbRole p 2 = 0 then d
  else if bad then d.auxNoise p t data times
  else if d.sbRole p 2 = 1 then
    let comm := comm % 16
    let len := min 16 len
    let data := (data.take len).map (· % 256)
    let r := if 8 ≤ comm then d.auxNative p comm (addr % 2 ^ 20) len data else d.auxI2c p comm addr len data
    let d := r.1
    let rep := r.2.1
    let defer := rep = 2 ∨ rep = 8
    let d := if defer then d.auxDefers p else d
    let st := if defer then 2 else if rep = 0 then 0 else 1
    (d.sbRecord p 2 ⟨st, 2, 1, 0, auxInfo comm rep (b2n defer) addr, t, data, r.2.2,
      auxReqBytes comm addr len data ++ (rep * 16) :: r.2.2, times⟩).1
  else d.putSb p 2 { d.sbOf p 2 with req := some (comm % 16, addr % 2 ^ 20, len, data, t) }

/-- AUX_RELEASE (R355). -/
def auxRelease (d : Dev) (p : Nat) : Dev :=
  if d.rb (R.auxHostreq p) F.auxHostreqPending then d.putSb p 2 { d.sbOf p 2 with served := true } else d

/-- A window is written: its DEFER count restarts (R354). -/
def auxWinWritten (d : Dev) (p n : Nat) : Dev :=
  let s := d.sbOf p 2
  d.putSb p 2 { s with dcnt := tset (fun _ => 0) s.dcnt n 0 }

/-! ### HPD (R358, R359) -/

def hpdShow (d : Dev) (p : Nat) : Dev :=
  let s := d.sbOf p 3
  d.setN (R.hpdStat p) (b2n s.line * 2 ^ 31 + b2n s.pulse.isSome * 2 ^ 30)

/-- One HPD record; `code`: its key byte. -/
def hpdRecord (d : Dev) (p status kind code : Nat) (lvl : Bool) (w t : Nat) : Dev × Bool :=
  d.sbRecord p 3 ⟨status, kind, 2, 0, b2n lvl * 2 ^ 31 + w % 2 ^ 24, t, [], [], [code], []⟩

/-- A driven change or pulse is complete; `back`: the level read back (R358). -/
def hpdDriven (d : Dev) (p code t : Nat) (back : Bool) : Dev :=
  let s := d.sbOf p 3
  let bad := back != s.line
  let r := d.hpdRecord p (if bad then 8 else 0) 4 code s.line 0 t
  if bad then r.1.raise (Ev.hpdOdd p) else r.1

/-- The line is driven to a level now. -/
def hpdDrive (d : Dev) (p : Nat) (lvl back : Bool) : Dev :=
  let s := d.sbOf p 3
  if s.line = lvl then d
  else ((d.putSb p 3 { s with line := lvl }).hpdDriven p (if lvl then 1 else 2) (d.edgeAt aclk d.now) back).hpdShow p

/-- The line is driven by this engine. -/
def hpdDrives (d : Dev) (p : Nat) : Bool := d.sbLive p 3 && d.sbRole p 3 == 1

/-- A `PULSE` may begin (R358). -/
def hpdPulseOk (d : Dev) (p : Nat) : Bool := d.hpdDrives p && (d.sbOf p 3).line && (d.sbOf p 3).pulse.isNone

/-- `HPD_CTRL` has been written: HPD_LEVEL_WRITE and HPD_PULSE (R358). -/
def hpdCtrl (d : Dev) (p : Nat) (pulse back : Bool) : Dev :=
  let s := d.sbOf p 3
  if !d.hpdDrives p then d
  else if pulse then (d.putSb p 3 { s with line := false, pulse := some (d.edgeAt aclk d.now) }).hpdShow p
  else if s.pulse.isSome then d
  else d.hpdDrive p (d.rb (R.hpdCtrl p) F.hpdCtrlLevel) back

/-- HPD_PULSE_END (R358). -/
def hpdPulseEnd (d : Dev) (p : Nat) (back : Bool) : Dev :=
  let s := d.sbOf p 3
  match s.pulse with
  | none => d
  | some t =>
    let d := (d.putSb p 3 { s with line := true, pulse := none }).hpdDriven p 3 t back
    (d.hpdDrive p (d.rb (R.hpdCtrl p) F.hpdCtrlLevel) back).hpdShow p

/-- A LEVEL record (R359). -/
def hpdLevelRec (d : Dev) (p : Nat) (lvl : Bool) (t : Nat) : Dev :=
  let r := d.hpdRecord p 0 1 (if lvl then 1 else 2) lvl 0 t
  if r.2 then r.1.raise (Ev.hpdLevel p) else r.1

/-- HPD_LINE_CHANGE (R359): the filtered line changes to `lvl` at `t`; the first reading after enable also comes here. -/
def hpdChange (d : Dev) (p t : Nat) (lvl : Bool) : Dev :=
  let s := d.sbOf p 3
  if !d.sbLive p 3 ∨ d.sbRole p 3 ≠ 0 then d
  else if !s.known then
    ((d.putSb p 3 { s with known := true, line := lvl, fall := if lvl then none else some t, unplugged := !lvl }).hpdLevelRec p lvl t).hpdShow p
  else if s.line = lvl then d
  else if !lvl then (d.putSb p 3 { s with line := false, fall := some t, unplugged := false }).hpdShow p
  else
    let d := (d.putSb p 3 { s with line := true, fall := none, unplugged := false }).hpdShow p
    match s.fall with
    | none => d.hpdLevelRec p true t
    | some f =>
      let w := (t - f) / usTicks
      let lim := R.hpdLim p
      if s.unplugged then d.hpdLevelRec p true t
      else if d.rf lim F.hpdLimUnplug ≤ w then (d.hpdLevelRec p false f).hpdLevelRec p true t
      else if d.rf lim F.hpdLimIrqMin ≤ w ∧ w ≤ d.rf (R.hpdCfg p) F.hpdCfgIrqMax then
        (d.hpdRecord p 0 2 3 true w f).1.raise (Ev.hpdIrq p)
      else (d.hpdRecord p 0 3 2 true w f).1.raise (Ev.hpdOdd p)

/-- HPD_UNPLUG_TIMEOUT (R359). -/
def hpdUnplug (d : Dev) (p : Nat) : Dev :=
  let s := d.sbOf p 3
  match s.fall with
  | some f =>
    if !d.sbLive p 3 ∨ d.sbRole p 3 ≠ 0 ∨ s.unplugged then d
    else (d.putSb p 3 { s with unplugged := true }).hpdLevelRec p false f
  | none => d

/-! ### Enable, abort, reset (R334, R342, R343) -/

/-- SIDEBAND_ENABLE (R334): the lines have owners. -/
def sbEnable (d : Dev) (p e : Nat) : Dev :=
  let d := d.wf (pctl (sbPage p e)) F.ctlEnable 1
  let s := d.sbOf p e
  let drive := e == 3 && d.sbRole p 3 == 1
  let d := d.putSb p e { s with dcnt := [], known := false, fall := none, unplugged := false, pulse := none,
                                line := drive && d.rb (R.hpdCtrl p) F.hpdCtrlLevel }
  let d := if e = 3 then d.hpdShow p else d
  d.kick p e

/-- The command in progress ends with a status; `passed`: bytes that had passed. -/
def cmdStop (d : Dev) (p e status : Nat) (passed : List Nat) : Dev :=
  if (d.sbOf p e).busy then
    let c := d.sbCmd p e
    let att := (d.sbOf p e).att
    let info := if e = 0 then cecInfo 0 att (c.param * 16 + c.dw1 % 16)
      else if e = 1 then ddcInfo (if nbit c.dw1 16 then some (nbits c.dw1 15 8) else none) 0 0xFF (2 * (c.dw1 % 128))
      else auxInfo (auxComm c) 15 (d.sbOf p e).defers c.dw1
    d.cmdEndOne p e ⟨status, 1, 0, c.tag, info, (d.sbOf p e).t, passed.take c.len, [], passed, []⟩
  else d

/-- ABORT (R342). -/
def sbAbort (d : Dev) (p e : Nat) (passed : List Nat) : Dev := d.cmdStop p e 7 passed

/-- FLUSH (R342): queued commands that have not begun go. -/
def sbFlush (d : Dev) (p e : Nat) : Dev :=
  let s := d.sbOf p e
  if s.busy then d.putSb p e { s with skip := some (d.rn (sbWptr p e)) } else d.setN (sbRptr p e) (d.rn (sbWptr p e))

/-- A write of `x_ABORT` (R342). -/
def abortWrite (d : Dev) (p e : Nat) (abort flush : Bool) (passed : List Nat) : Dev :=
  let d := if flush then d.sbFlush p e else d
  (if abort then d.sbAbort p e passed else d).kick p e

/-- SIDEBAND_DISABLE (R342): ABORT with FLUSH, and the lines are released. -/
def sbDisable (d : Dev) (p e : Nat) (passed : List Nat) : Dev :=
  if !d.sbOn p e then d
  else
    let d := if e < 3 then (d.sbFlush p e).sbAbort p e passed else d
    let s := d.sbOf p e
    let d := d.putSb p e { s with busy := false, run := false, wait := false, req := none, i2c := I2cAux.reset, pulse := none }
    (if e = 3 then d.hpdShow p else d).wf (pctl (sbPage p e)) F.ctlEnable 0

/-- LINE_LOST (R343): a channel of the engine has left ready.  `rx`: a transaction of another party was in progress, with the bytes that had
passed since `t`. -/
def lineLost (d : Dev) (p e : Nat) (rx : Bool) (t : Nat) (passed : List Nat) : Dev :=
  if 4 ≤ p ∨ 4 ≤ e ∨ !d.sbOn p e ∨ d.linesReady p e then d
  else
    let d := if e < 3 ∧ (d.sbOf p e).busy ∧ ((d.sbOf p e).run ∨ (d.sbOf p e).wait ∨ e = 1) then d.cmdStop p e 10 passed else d
    let d := if rx ∧ e < 3 then (d.sbRecord p e ⟨10, 3, 2, 0, 0, t, passed, [], passed, []⟩).1 else d
    let s := d.sbOf p e
    let d := d.putSb p e { s with run := false, req := none, i2c := I2cAux.reset, pulse := none }
    if e = 3 then d.hpdShow p else d

/-- Records of the commands that a reset drops, in ring order (R343). -/
def sbDrop : Nat → Dev → Nat → Nat → Dev
  | 0, d, _, _ => d
  | f + 1, d, p, e =>
    if d.cmdAvail p e < 8 then d
    else
      let c := d.sbCmd p e
      sbDrop f (d.cmdEndOne p e ⟨6, 1, 0, c.tag, 0, d.edgeAt aclk d.now, [], [], [], []⟩) p e

/-- The engine's own state goes (R343): ABORT_RESET records, empty command ring, lines released. -/
def sbResetCore (d : Dev) (p e : Nat) : Dev :=
  let d := if e < 3 then
      let d := d.putSb p e { d.sbOf p e with skip := none }
      ((sbDrop 129 d p e).setN (sbWptr p e) 0).setN (sbRptr p e) 0
    else d
  let d := d.putSb p e { Sb.reset with gap := (d.sbOf p e).gap }
  d.wf (pctl (sbPage p e)) F.ctlEnable 0

/-- A channel of a port has become ready: engines whose commands waited for it go on (R343). -/
def sbReadyKick (d : Dev) (p : Nat) : Dev := ((d.kick p 0).kick p 1).kick p 2

end Dev
end Sys2Proof.Machine
end

