-- ==== Sys2Proof/Machine/Dram.lean ====
section
/-! DEFINITION. The DRAM controllers at work (13_dram_controller.md; 14_arbitration_and_streaming_budget.md R395, R402, R407, R510): reads and their
correction, write-CRC alerts, the command slots of the scheduler, refresh, row-disturbance protection, scrub and LAZY sweep, and
the DQS oscillator. -/
namespace Sys2Proof.Machine
namespace Dev

/-- Class of a requester code (Table 13-4). -/
def reqClass (r : Nat) : Nat :=
  if r ≤ 8 then 3 else if r < 0x18 then 0 else if r < 0x20 then 1 else if r < 0x24 then 2 else 4

/-- Ticks of a nanosecond count. -/
def nsTicks (n : Nat) : Nat := n * usTicks / 1000

/-- Ticks of a DCLK cycle (R4). -/
def dclk : Nat := 16384

/-- The sag governor acts: background work pauses (R448). -/
def sagging (d : Dev) : Bool := d.rb R.pwrSagStat F.pwrSagStatActive

/-- A retrain holds C2 to C4 requests of channel `c` (R116, R390). -/
def mcHolding (d : Dev) (c : Nat) : Bool := decide (d.rf (R.mcStat c) F.mcStatRetrain = 1)

/-! ### Reads (R366, R367, R371) -/

/-- Judge the devices of channel `c` against `DEV_MARK_N` (R371). -/
def suspectJudge (d : Dev) (c : Nat) : Dev :=
  let N := 16 * d.rf (R.mcEccCfg c) F.mcEccCfgDevMarkN
  (List.range 20).foldl (fun (d : Dev) i =>
    let above := decide (0 < N) && decide (N ≤ d.rn (R.mcDeverr c i))
    let m := d.mcOf c
    if above == nbit m.suspect i then d
    else if !above then d.putMc c { m with suspect := m.suspect - 2 ^ i }
    else
      let d := (d.putMc c { m with suspect := m.suspect + 2 ^ i }).raise (Ev.mcDevSuspect c)
      let lo := 16 + 4 * (i / 5)
      let f : Fld := ⟨lo + 3, lo⟩
      if d.rb (R.mcEccCfg c) F.mcEccCfgAutoMark && decide (d.rf (R.mcEccCfg c) f < 8) then d.wf (R.mcEccCfg c) f (8 + i % 5) else d) d

/-- A read was corrected; `devs`: erroneous symbols of each device. -/
def readCorrected (d : Dev) (c cls req a : Nat) (x : LinePos) (devs : List Nat) : Dev :=
  let mask := (List.range 5).foldl (fun m i => m + b2n (decide (0 < (devs[i]?).getD 0)) * 2 ^ i) 0
  let d := d.cnt (R.mcEccCnt c) F.mcEccCntCorr 1
  let d := (List.range 5).foldl (fun (d : Dev) i => d.cnt (R.mcDeverr c (10 * x.rank + 5 * x.sc + i)) ⟨15, 0⟩ ((devs[i]?).getD 0)) d
  let d := (d.elogPut c 1 cls req mask devs.sum a).raise (Ev.mcEccCorr c)
  let m := d.mcOf c
  let d := if d.rb (R.mcEccCfg c) F.mcEccCfgCorrWb && !(m.wq.any (fun r => r.addr == a)) && decide (m.wq.length < 64) then
      d.putMc c { m with wq := m.wq ++ [⟨4, 0x30, a, true, false, d.now, 0, 0, false, false⟩] } else d
  d.suspectJudge c

/-- A read was uncorrectable; the line of a read-modify-write enters the poison list (Table 13-2). -/
def readUncorrectable (d : Dev) (c cls req a mask : Nat) (rmw : Bool) : Dev :=
  let d := d.cnt (R.mcEccCnt c) F.mcEccCntUncorr 1
  let d := (d.elogPut c (if rmw then 5 else 2) cls req mask 16 a).raise (Ev.mcEccUncorr c)
  if rmw then d.poisonAdd c a else d

/-- DRAM_READ_COMPLETE: a line read of requester `req` returns with `devs` erroneous symbols in devices 0 to 4.  `wrong`: a pattern
that the code cannot correct passes as corrected (R366). -/
def readComplete (d : Dev) (req a : Nat) (devs : List Nat) (wrong rmw : Bool) : Dev :=
  let a := a / 64 * 64
  match d.mcPlace a with
  | none => d
  | some (c, x) =>
    let cls := reqClass req
    let devs := (List.range 5).map (fun i => min 16 ((devs[i]?).getD 0))
    if (d.mcOf c).poison.contains a then d.poisonRead c cls req a
    else if d.dramNoinit a 64 then d
    else
      let mask := (List.range 5).foldl (fun m i => m + b2n (decide (0 < (devs[i]?).getD 0)) * 2 ^ i) 0
      let lo := 16 + 4 * (2 * x.rank + x.sc)
      let f := d.rf (R.mcEccCfg c) ⟨lo + 3, lo⟩
      let md := f % 8
      let mine := (devs[md]?).getD 0
      if devs.sum = 0 then d
      else if 8 ≤ f then
        if devs.sum = mine then d.readCorrected c cls req a x devs
        else if wrong then
          if mine = 0 then d else d.readCorrected c cls req a x ((List.range 5).map (fun i => if i = md then mine else 0))
        else d.readUncorrectable c cls req a mask rmw
      else if devs.sum ≤ 8 then d.readCorrected c cls req a x devs
      else if wrong then
        let v := fun i => Config.freeValue (d.fresh + i) % 2
        d.burn.burn.burn.burn.burn.readCorrected c cls req a x [1 + v 0, v 1, v 2, v 3, v 4]
      else d.readUncorrectable c cls req a mask rmw

/-- PATROL_SCRUB: the scrub passes over `n` more lines and finds the errors of `hits` (R371). -/
def patrolScrub (d : Dev) (n : Nat) (hits : List (Nat × List Nat × Bool)) : Dev :=
  let total := d.mcUse.length * (d.mcAvail / 64)
  if d.rf R.mcgScrub F.mcgScrubPeriod = 0 ∨ total = 0 ∨ n = 0 ∨ d.sagging then d
  else
    let d := hits.foldl (fun (d : Dev) h => d.readComplete 0x30 h.1 h.2.1 h.2.2 false) d
    let pos := d.dramc.scrub + n
    let above := decide (total ≤ pos)
    let pos := if above then 0 else pos
    let d := { d with dramc := { d.dramc with scrub := pos } }
    let d := if above then d.cnt R.mcgScrubStat F.mcgScrubStatPasses 1 else d
    d.wf R.mcgScrubStat F.mcgScrubStatProgress (pos * 65536 / total)

/-- LAZY_SWEEP: the sweep passes over `n` more blocks of every channel, ascending (R387). -/
def lazySweep (d : Dev) (n : Nat) : Dev :=
  let nb := d.mcAvail / 4096
  if !d.mcLazy || d.rb R.mcgInitStat F.mcgInitStatLazyDone || decide (nb = 0) || d.sagging then d
  else
    let s := min nb (d.dramc.sweep + n)
    let keep := d.dramc.blocks.filter (fun x => decide (s ≤ x.1 % 2 ^ 32))
    let d := { d with dramc := { d.dramc with sweep := s, blocks := keep } }
    let d := d.wf R.mcgInitStat F.mcgInitStatProgress (min 65535 (s * 65536 / nb))
    if s = nb then d.wf R.mcgInitStat F.mcgInitStatLazyDone 1 else d

/-! ### Write CRC (R369) -/

/-- WRITE_CRC_ALERT: ALERT_N names a write of requester `req` to the line at `a`. -/
def writeCrcAlert (d : Dev) (req a : Nat) : Dev :=
  let a := a / 64 * 64
  match d.mcPlace a with
  | none => d
  | some (c, _) =>
    let m := d.mcOf c
    let n := match m.alert with | some (l, k) => if l = a then k + 1 else 1 | none => 1
    let d := (d.cnt (R.mcWcrcCnt c) F.mcWcrcCntReplay 1).raise (Ev.mcWcrcReplay c)
    if n < 4 then d.putMc c { d.mcOf c with alert := some (a, n) }
    else
      let d := (d.putMc c { d.mcOf c with alert := none }).cnt (R.mcWcrcCnt c) F.mcWcrcCntFail 1
      ((d.poisonAdd c a).elogPut c 4 (reqClass req) req 0 0 a).raise (Ev.mcWcrcFail c)

/-- ELOG_READ: the oldest record leaves the log; its words, all ones and zeros where the log is empty (R370). -/
def elogTake (d : Dev) (c : Nat) : Dev × List Nat :=
  let m := d.mcOf c
  match m.elog with
  | [] => (d, [0xFFFFFFFF, 0, 0, 0, 0, 0, 0, 0])
  | ws :: rest => ((d.putMc c { m with elog := rest }).wf (R.mcElogStat c) F.mcElogStatHeld rest.length, ws)

/-! ### Refresh (R379 to R382) -/

/-- Duration of an all-bank refresh, and of a same-bank refresh or an RFM, in ticks (Table 13-9). -/
def tRfc (d : Dev) (c : Nat) (sb : Bool) : Nat :=
  let small := d.rf (R.mcStat c) F.mcStatDensity = 0
  if sb then nsTicks (if small then 130 else 190) else nsTicks (if small then 295 else 410)

def debtFld (r : Nat) : Fld := if r = 0 then F.mcRefStatDebt0 else F.mcRefStatDebt1
def urgentFld (r : Nat) : Fld := if r = 0 then F.mcRefStatUrgent0 else F.mcRefStatUrgent1
def mr4Fld (r : Nat) : Fld := if r = 0 then F.mcRefStatMr40 else F.mcRefStatMr41

def debt (d : Dev) (c r : Nat) : Nat := d.rf (R.mcRefStat c) (debtFld r)
def setDebt (d : Dev) (c r v : Nat) : Dev := d.wf (R.mcRefStat c) (debtFld r) (min 255 v)
def urgent (d : Dev) (c r : Nat) : Bool := d.rb (R.mcRefStat c) (urgentFld r)

/-- Banks of rank `r` close, and `k` all-bank refreshes take RAAIMT each from their counters (R384). -/
def refabBanks (d : Dev) (c r k : Nat) : Dev :=
  let m := d.mcOf c
  d.putMc c { m with opens := m.opens.filter (fun x => x.1 / 64 != r),
                     raa := (m.raa.map (fun x => if x.1 / 64 = r then (x.1, x.2 - k * m.raaImt) else x)).filter (fun x => x.2 != 0) }

/-- A rank or bank is occupied until `t`. -/
def setBankBusy (d : Dev) (c k t : Nat) : Dev :=
  let m := d.mcOf c
  d.putMc c { m with busy := tset (fun _ => 0) m.busy k t }

/-- The level condition of MC_REF_URGENT: the OR of the two bits (R382). -/
def urgentShow (d : Dev) (c : Nat) : Dev := d.setCond (Ev.mcRefUrgent c) (d.urgent c 0 || d.urgent c 1)

/-- REFRESH_INTERVAL: a refresh interval of rank `r` passes (R379, R380). -/
def refreshInterval (d : Dev) (c r : Nat) : Dev :=
  if !d.mcInUse c || decide (d.rf (R.mcStat c) F.mcStatRanks ≤ r) then d
  else
    let v := d.debt c r
    if d.urgent c r || decide (v + 1 ≤ d.rf (R.mcRefCfg c) F.mcRefCfgPostpone) then d.setDebt c r (v + 1)
    else
      let sb := d.rb (R.mcRefCfg c) F.mcRefCfgMode
      let d := (d.cnt (R.mcUrgentCnt c) F.mcUrgentCntForced 1).raise (Ev.mcRefForced c)
      let d := if sb then d else d.refabBanks c r 1
      d.setBankBusy c (64 * 2 + r) (d.now + nsTicks 130 + d.tRfc c sb)

/-- The sequence of urgent refresh of a rank starts, where its doubled debt is above 1. -/
def urgentStart (d : Dev) (c r : Nat) : Dev :=
  let D := d.debt c r
  if D ≤ 1 ∨ d.rf (R.mcStat c) F.mcStatRanks ≤ r then d
  else
    let m := d.mcOf c
    let d := d.putMc c { m with urgD := tset (fun _ => 0) m.urgD r D }
    ((d.wf (R.mcRefStat c) (urgentFld r) 1).cnt (R.mcUrgentCnt c) F.mcUrgentCntUrgent 1).urgentShow c

/-- Rank 1 starts its sequence 205 ns after rank 0: now, if `always` or its time has come. -/
def urgent1Due (d : Dev) (c : Nat) (always : Bool) : Dev :=
  let m := d.mcOf c
  match m.urg1 with
  | none => d
  | some t => if always || decide (t ≤ d.now) then (d.putMc c { m with urg1 := none }).urgentStart c 1 else d

/-- URGENT_REFRESH_END: rank `r` has issued its D − 1 refreshes and serves again. -/
def urgentEnd (d : Dev) (c r : Nat) : Dev :=
  let d := if r = 1 then d.urgent1Due c true else d
  if !d.urgent c r then d
  else
    let D := tget (fun _ => 0) (d.mcOf c).urgD r
    let d := (d.setDebt c r (d.debt c r - (D - 1))).refabBanks c r (D - 1)
    let m := d.mcOf c
    let d := d.putMc c { m with urgD := tset (fun _ => 0) m.urgD r 0 }
    (d.wf (R.mcRefStat c) (urgentFld r) 0).urgentShow c

/-- MR4_POLL: rank r of channel c reports refresh-rate code and range (0 normal, 1 doubled, 2 above) at place 2c + r (R381, R382). -/
def mr4Poll (d : Dev) (rs : List (Nat × Nat)) : Dev :=
  let ranks := d.mcUse.flatMap (fun c => (List.range (d.rf (R.mcStat c) F.mcStatRanks)).map (fun r => (c, r)))
  let code := fun (x : Nat × Nat) => (rs[2 * x.1 + x.2]?).getD (0, 0)
  let d := ranks.foldl (fun (d : Dev) x => d.wf (R.mcRefStat x.1) (mr4Fld x.2) (code x).1) d
  let d := ranks.foldl (fun (d : Dev) x => if 2 ≤ (code x).2 then d.raise (Ev.mcTempCrit x.1) else d) d
  let hot := ranks.any (fun x => decide (1 ≤ (code x).2))
  let dbl := d.mcUse.any (fun c => d.rb (R.mcRefStat c) F.mcRefStatDouble)
  if hot then
    let d := { d with dramc := { d.dramc with streak := 0 } }
    if dbl then d
    else
      let d := d.mcUse.foldl (fun (d : Dev) c => (d.wf (R.mcRefStat c) F.mcRefStatDouble 1).setCond (Ev.mcTempDouble c) true) d
      let d := ranks.foldl (fun (d : Dev) x => d.setDebt x.1 x.2 (2 * d.debt x.1 x.2)) d
      d.mcUse.foldl (fun (d : Dev) c => (d.putMc c { d.mcOf c with urg1 := some (d.now + nsTicks 205) }).urgentStart c 0) d
  else if !dbl then d
  else if d.dramc.streak + 1 < 2 then { d with dramc := { d.dramc with streak := d.dramc.streak + 1 } }
  else
    let d := { d with dramc := { d.dramc with streak := 0 } }
    d.mcUse.foldl (fun (d : Dev) c => (d.wf (R.mcRefStat c) F.mcRefStatDouble 0).setCond (Ev.mcTempDouble c) false) d

/-! ### Waits (R402, R407) -/

/-- Units of 2.5 ns in ticks. -/
def waitUnit : Nat := 131072

/-- Count the interval from `lo` to `hi` once for requester `r`, as throttled or as delayed. -/
def countWait (d : Dev) (r lo hi : Nat) (thr : Bool) : Dev :=
  let g := d.dramc
  let lo := max lo (tget (fun _ => 0) g.waitTo r)
  if hi ≤ lo then d
  else
    let old := tget (fun _ => 0) (if thr then g.remT else g.remD) r
    let tot := old + (hi - lo)
    let rems := tset (fun _ => 0) (if thr then g.remT else g.remD) r (tot % waitUnit)
    let g := { g with waitTo := tset (fun _ => 0) g.waitTo r hi, remT := if thr then rems else g.remT, remD := if thr then g.remD else rems }
    ({ d with dramc := g }).cnt (if thr then R.qosThrottled r else R.qosDelayed r) F.all (tot / waitUnit)

/-- A C0 request of channel `c` is issued at `t` (R407). -/
def c0Issue (d : Dev) (c : Nat) (r : DReq) (t : Nat) : Dev :=
  if r.cls ≠ 0 ∨ r.seen then d
  else
    let w := (t - r.t - r.own) / waitUnit
    let d := if d.rn R.qosC0Wmax < w then d.setN R.qosC0Wmax (min w (2 ^ 32 - 1)) else d
    let lim := d.rn R.qosC0Wlim
    if lim = 0 ∨ w ≤ lim then d
    else
      let d := if d.dramc.late then d
        else { (d.wf R.qosC0Who F.qosC0WhoChan c).wf R.qosC0Who F.qosC0WhoReq r.req with dramc := { d.dramc with late := true } }
      d.raise Ev.qosC0Late

/-! ### Row-disturbance protection (R383 to R385) -/

/-- An RFM to bank index `ba` of a rank and subchannel (R384). -/
def rfm (d : Dev) (c rank sc ba t : Nat) : Dev :=
  let m := d.mcOf c
  let hit := fun (k : Nat) => k / 64 == rank && k / 32 % 2 == sc && k % 4 == ba
  let d := d.putMc c { m with raa := (m.raa.map (fun x => if hit x.1 then (x.1, x.2 - m.raaImt) else x)).filter (fun x => x.2 != 0) }
  let d := (List.range 8).foldl (fun (d : Dev) bg => d.setBankBusy c (((rank * 2 + sc) * 8 + bg) * 4 + ba) (t + nsTicks 130 + d.tRfc c true)) d
  d.cnt (R.mcRfmCnt c) F.all 1

def sameRow (x y : LinePos) : Bool := bankKey x == bankKey y && x.row == y.row

/-- ACT: a row of channel `c` is activated for requester `req`, ready for it at `t` (R383 to R385). -/
def activate (d : Dev) (c : Nat) (x : LinePos) (req t : Nat) : Dev :=
  if !d.mcInUse c then d
  else
    let cls := reqClass req
    let key := bankKey x
    let rk := key * 2 ^ 17 + x.row
    let m := d.mcOf c
    let rowOf := tget (fun _ => (0, 0)) m.rows rk
    let off := m.offend.find? (fun o => o.1 == rk)
    let free := rowOf.2 + nsTicks 10 * d.rn (R.mcRhGap c)
    let at_ := if cls ≠ 0 ∧ off.isSome then max t free else t
    let d := if at_ = t then d
      else
        let d := (d.cnt (R.mcThrCnt c (cls - 1)) F.all ((at_ - t) / waitUnit)).countWait req t at_ true
        if (off.map Prod.snd).getD true then d
        else (d.putMc c { d.mcOf c with offend := m.offend.map (fun o => if o.1 = rk then (rk, true) else o) }).raise (Ev.mcRhThrottle c)
    let raa := tget (fun _ => 0) m.raa key
    let d := if 0 < m.raaImt ∧ 0 < m.raaMmt ∧ m.raaMmt ≤ raa + 1 then d.rfm c x.rank x.sc x.ba at_ else d
    let m := d.mcOf c
    let n := rowOf.1 + 1
    let N := 256 * d.rf (R.mcRhCfg c) F.mcRhCfgRhThresh
    let above := (m.rows.filter (fun y => y.1 / 2 ^ 17 == key && decide (n < y.2.1))).length
    let isOff := decide (0 < N) && decide (N ≤ n) && decide (above < 16) && !off.isSome
    let m := { m with
      rows := tset (fun _ => (0, 0)) m.rows rk (n, at_),
      offend := if isOff then m.offend ++ [(rk, false)] else m.offend,
      raa := if m.raaImt = 0 then m.raa else tset (fun _ => 0) m.raa key (tget (fun _ => 0) m.raa key + 1),
      acts := lset m.acts cls ((m.acts[cls]?).getD 0 + 1),
      opens := tset (fun _ => (0, 0)) m.opens key (x.row + 1, at_) }
    let k := d.rf (R.mcRhCfg c) F.mcRhCfgProbLog2 - (if d.rb (R.mcRhCfg c) F.mcRhCfgRtBoost && m.lead then 3 else 0)
    let hit := Config.freeValue d.fresh % 2 ^ k = 0
    let d := (d.putMc c m).burn
    let d := if hit then (d.cnt (R.mcNrefCnt c) F.all 1).setBankBusy c key (at_ + nsTicks 100) else d
    match m.rq.find? (fun r => r.req == req && r.cls == 0 && 
        (match d.mcPlace r.addr with | some (c', y) => c' == c && sameRow x y | none => false)) with
    | none => d
    | some r =>
      let d := d.c0Issue c r at_
      d.putMc c { d.mcOf c with rq := (d.mcOf c).rq.map (fun y => if y = r then { r with seen := true } else y) }

/-- ACT_WINDOW_END: the class with the most ACTs of the window decides `RT_BOOST` (R383). -/
def actWindowEnd (d : Dev) (c : Nat) : Dev :=
  let m := d.mcOf c
  let n := fun i => (m.acts[i]?).getD 0
  d.putMc c { m with acts := [0, 0, 0, 0, 0], lead := [1, 2, 3, 4].all (fun i => decide (n i < n 0)) }

/-- RH_WINDOW_END: offenders and activation counts reset (R385). -/
def rhWindowEnd (d : Dev) (c : Nat) : Dev := d.putMc c { d.mcOf c with rows := [], offend := [] }

/-! ### The command slot (R376 to R378, R380, R395, R510) -/

/-- The scheduler's view of one slot: requests of the subchannel with their places. -/
abbrev Placed := DReq × LinePos

/-- Oldest element. -/
def oldest (l : List Placed) : Option Placed :=
  l.foldl (fun o x => match o with | none => some x | some y => if x.1.t < y.1.t then some x else o) none

/-- New requests join the queues of channel `c`; a C0 read that a queued full-line write covers is answered at once (R376, R378). -/
def dramArrive (d : Dev) (c : Nat) (arr : List (Nat × Nat × Bool × Bool)) (t : Nat) : Dev :=
  arr.foldl (fun (d : Dev) x =>
    let a := x.2.1 / 64 * 64
    let m := d.mcOf c
    let r : DReq := ⟨reqClass x.1, x.1, a, x.2.2.1, x.2.2.2, t, 0, 0, false, false⟩
    match d.mcPlace a with
    | none => d
    | some (c', _) =>
      if c' ≠ c then d
      else if r.write then (if m.wq.length < 64 then d.putMc c { m with wq := m.wq ++ [r] } else d)
      else
        let fwd := r.cls == 0 && (match (m.wq.filter (fun w => w.addr == a)).getLast? with | some w => !w.part | none => false)
        if fwd then d.c0Issue c r t
        else
          let low := (m.rq.filter (fun y => y.cls != 0)).length
          if m.rq.length < 64 ∧ (r.cls = 0 ∨ low < 48) then d.putMc c { m with rq := m.rq ++ [r] } else d) d

/-- Floors: since when a class has gone without service while a request of it waits. -/
def floorShow (m : Mc) (t : Nat) (served : Option Nat) : Mc :=
  let waits := fun k => (m.rq ++ m.wq).any (fun r => r.cls == k)
  let upd := fun (o : Option Nat) k => if !waits k then none else if served = some k then some t else some (o.getD t)
  { m with floor3 := upd m.floor3 3, floor4 := upd m.floor4 4 }

/-- Some C0 request that was outstanding at the end of the guard interval still waits (R510). -/
def guardOn (d : Dev) : Bool := [0, 1, 2, 3].any (fun c => (d.mcOf c).rq.any (fun r => r.guard))

/-- The guard interval ends, or a C0 request that a cause of Table 13-10 holds extends it (R510). -/
def guardStep (d : Dev) (c t : Nat) (c0 : List Placed) : Dev :=
  if d.mcIlv = 2 then d
  else
    let m := d.mcOf c
    let until_ := c0.foldl (fun g x => max g (max (tget (fun _ => 0) m.busy (128 + x.2.rank)) (tget (fun _ => 0) m.busy (bankKey x.2)))) 0
    match d.dramc.guard with
    | some g =>
      if t < max g until_ then { d with dramc := { d.dramc with guard := some (max g until_) } }
      else
        let d := { d with dramc := { d.dramc with guard := none } }
        [0, 1, 2, 3].foldl (fun (d : Dev) c =>
          let m := d.mcOf c
          d.putMc c { m with rq := m.rq.map (fun r => if r.cls = 0 then { r with guard := true } else r) }) d
    | none => if t < until_ then { d with dramc := { d.dramc with guard := some until_ } } else d

/-- What the slot of subchannel `sc` chooses, and whether a write batch is draining afterwards (R377, R378). -/
def slotPick (d : Dev) (c sc t : Nat) (rq wq : List Placed) : DPick × Bool :=
  let m := d.mcOf c
  let ranks := List.range (d.rf (R.mcStat c) F.mcStatRanks)
  let inGuard := d.dramc.guard.isSome
  let defer := d.guardOn
  let busyRank := fun r => decide (t < tget (fun _ => 0) m.busy (128 + r)) || d.urgent c r
  let busyBank := fun k => decide (t < tget (fun _ => 0) m.busy k)
  let burst := fun r => (rq ++ wq).any (fun x => x.1.cls == 0 && x.2.rank == r) || decide (t < tget (fun _ => 0) m.c0At r + 256 * dclk)
  let sl := d.rb (R.mcStat c) F.mcStatSluicing
  match ranks.find? (fun r => !busyRank r && decide (1 ≤ d.debt c r) && (!burst r || inGuard) && !defer) with
  | some r => (.refresh r, sl)
  | none =>
    match m.raa.find? (fun x => decide (0 < m.raaImt) && decide (m.raaImt ≤ x.2) && x.1 / 32 % 2 == sc && !busyRank (x.1 / 64) && !busyBank x.1 &&
        (tget (fun _ => (0, 0)) m.opens x.1).1 == 0 && !defer) with
    | some x => (.rfm (x.1 / 64) (x.1 % 4), sl)
    | none =>
      let n := m.wq.length
      let sl := if !sl && ((decide (48 ≤ n) && !defer) || (inGuard && decide (16 < n))) then true else if sl && decide (n ≤ 16) then false else sl
      let held := fun (x : Placed) => d.mcHolding c && decide (2 ≤ x.1.cls)
      let ok := fun (x : Placed) => !busyRank x.2.rank && !busyBank (bankKey x.2) && !held x
      let okW := fun (w : Placed) => ok w && !(m.rq.any (fun r => r.addr == w.1.addr && decide (r.t < w.1.t)))
      let blocks := fun (r w : Placed) => okW w &&
        (if r.1.cls = 0 then w.1.addr == r.1.addr && w.1.part else sameRow r.2 w.2)
      let issue := fun (x : Placed) =>
        if (tget (fun _ => (0, 0)) m.opens (bankKey x.2)).1 = x.2.row + 1 then DPick.serve x.1 else DPick.act x.1
      let out := fun (o : Option Placed) => match o with | some x => issue x | none => .nothing
      let haz := wq.filter (fun w => rq.any (fun r => !held r && blocks r w))
      let ready := rq.filter (fun r => ok r && !(wq.any (blocks r)))
      let ws := wq.filter okW
      if !haz.isEmpty then (out (oldest haz), sl)
      else if sl || (rq.isEmpty && !wq.isEmpty) then (out (oldest ws), sl)
      else
        let of := fun k => ready.filter (fun x => x.1.cls == k)
        let fl := fun (o : Option Nat) (lim : Nat) (k : Nat) =>
          match o with
          | some t0 => if t0 + lim ≤ t then oldest ((ready ++ ws).filter (fun x => x.1.cls == k)) else none
          | none => none
        let floorPick := if !(of 0).isEmpty then none
          else match fl m.floor3 usTicks 3 with
            | some x => some x
            | none => if d.sagging then none else fl m.floor4 (16 * usTicks) 4
        match floorPick with
        | some x => (issue x, sl)
        | none =>
          match [0, 1, 2, 3, 4].find? (fun k => !(of k).isEmpty) with
          | none => (.nothing, sl)
          | some k =>
            let r := oldest (of k)
            let open_ := (of k).filter (fun x => (tget (fun _ => (0, 0)) m.opens (bankKey x.2)).1 == x.2.row + 1)
            let hit := match r with | some y => if y.1.byp < 16 then oldest open_ else none | none => none
            (out (match hit with | some x => some x | none => r), sl)

/-- Carry out the choice of a slot. -/
def slotDo (d : Dev) (c sc t : Nat) (pk : DPick) (place : DReq → Option LinePos) : Dev :=
  match pk with
  | .nothing => d
  | .act _ => d
  | .rfm rank ba => d.rfm c rank sc ba t
  | .refresh r =>
    if d.rb (R.mcRefCfg c) F.mcRefCfgMode then
      let m := d.mcOf c
      let n := tget (fun _ => 0) m.sbDone r
      let d := d.putMc c { m with sbDone := tset (fun _ => 0) m.sbDone r ((n + 1) % 4) }
      let d := (List.range 16).foldl (fun (d : Dev) i =>
        d.setBankBusy c ((r * 16 + i) * 4 + n) (t + nsTicks 130 + d.tRfc c true)) d
      if n = 3 then d.setDebt c r (d.debt c r - 1) else d
    else
      ((d.setDebt c r (d.debt c r - 1)).refabBanks c r 1).setBankBusy c (128 + r) (t + nsTicks 130 + d.tRfc c false)
  | .serve r =>
    let d := d.c0Issue c r t
    let m := d.mcOf c
    match place r with
    | none => d
    | some x =>
      let older := fun (y : DReq) => y.cls == r.cls && !y.write && decide (y.t < r.t) && !r.write
      let m := { m with
        rq := (m.rq.erase r).map (fun y => if older y && (place y).isSome then { y with byp := y.byp + 1 } else y),
        wq := m.wq.erase r,
        opens := tset (fun _ => (0, 0)) m.opens (bankKey x) (x.row + 1, t),
        c0At := if r.cls = 0 then tset (fun _ => 0) m.c0At x.rank t else m.c0At }
      d.putMc c m

/-- COMMAND_SLOT: subchannel `sc` of channel `c` chooses one command at `t`; `arr` are the requests that have arrived since (requester,
address, write, partial). -/
def commandSlot (d : Dev) (c sc t : Nat) (arr : List (Nat × Nat × Bool × Bool)) : Dev :=
  if 4 ≤ c ∨ 2 ≤ sc ∨ !d.mcInUse c then d
  else
    let d := (d.urgent1Due c false).dramArrive c arr t
    let m := d.mcOf c
    let place := fun (r : DReq) => match d.mcPlace r.addr with | some (_, x) => if x.sc = sc then some x else none | none => none
    let look : List DReq → List Placed := fun l => l.filterMap (fun r => (place r).map (fun x => (r, x)))
    let rq := look m.rq
    let wq := look m.wq
    let keep := fun (o : Nat × (Nat × Nat)) =>
      o.1 / 32 % 2 != sc || decide (t < o.2.2 + 64 * dclk) || (rq ++ wq).any (fun x => bankKey x.2 == o.1 && x.2.row + 1 == o.2.1)
    let d := d.putMc c { m with opens := m.opens.filter keep }
    let d := d.guardStep c t (rq.filter (fun x => x.1.cls == 0))
    let pk := d.slotPick c sc t (look (d.mcOf c).rq) wq
    let d := d.wf (R.mcStat c) F.mcStatSluicing (b2n pk.2)
    let t0 := tget (fun _ => 0) m.slotT sc
    let served : Option Nat := match pk.1 with | .serve r => some r.cls | .act r => some r.cls | _ => none
    let mine : Option Nat := match pk.1 with | .serve r => some r.req | .act r => some r.req | _ => none
    let d := d.slotDo c sc t pk.1 place
    let d := (rq ++ wq).foldl (fun (d : Dev) (x : Placed) =>
      if served = some x.1.cls ∨ mine = some x.1.req then d else d.countWait x.1.req (max t0 x.1.t) t false) d
    let m := d.mcOf c
    let m := if served = some 0 then
        { m with rq := m.rq.map (fun r => if r.cls == 0 && (place r).isSome && decide (pk.1 ≠ .act r) then
            { r with own := r.own + (t - max t0 r.t) } else r) } else m
    let isServe : Option Nat := match pk.1 with | .serve r => some r.cls | _ => none
    d.putMc c { floorShow m t isServe with slotT := tset (fun _ => 0) m.slotT sc t, pick := pk.1 }

/-! ### DQS oscillator (R389) -/

/-- DQS_OSC_RUN: the oscillator of a rank and subchannel shows a drift of `steps` since training. -/
def dqsOscRun (d : Dev) (c rank sc : Nat) (steps : Int) : Dev :=
  if !d.mcInUse c || decide (d.rf (R.mcOscCfg c) F.mcOscCfgOscInt = 0) || decide (d.rf (R.mcStat c) F.mcStatRanks ≤ rank) || decide (2 ≤ sc) then d
  else
    let i := 2 * rank + sc
    let corr := max (-16) (min 16 steps)
    let d := d.wf (R.mcOscStat c) ⟨8 * i + 7, 8 * i⟩ (wrapInt 8 corr)
    let m := d.mcOf c
    let above := decide (d.rf (R.mcOscCfg c) F.mcOscCfgOscLim < steps.natAbs)
    let drift := if above == nbit m.drift i then m.drift else if above then m.drift + 2 ^ i else m.drift - 2 ^ i
    (d.putMc c { m with drift := drift }).setCond (Ev.mcDqsDrift c) (drift != 0)

/-! ### Retrain on request (R116, R390) -/

/-- Port `p`'s C0 stream, and its basin where it has one, map to DRAM channel `c` (R116, R373). -/
def mapsTo (d : Dev) (p c : Nat) (basin : Bool) : Bool :=
  if d.mcIlv ≠ 2 then d.mcInUse c
  else
    c == p ||
      [false, true].any (fun rx => (List.range 16).any (fun i =>
        (d.descValid p rx i || (d.running p && (let w := walkOf (d.seqOf p) rx; w.idx == i && !w.ended && !w.waiting))) &&
          (d.dramChans (d.descAddr p rx i) (2048 * d.descBarges p rx i)).contains c)) ||
      (basin && (d.dramChans (d.wide (R.acqBaseLo p) 2) (d.rn (R.acqNslot p) * d.acqLs p * d.acqRb p)).contains c)

/-- A running port has an admitted C0 stream or a basin that maps to the channel (R116). -/
def streamMaps (d : Dev) (p c : Nat) : Bool :=
  let basin := (d.acqOf p).basin
  d.running p && (d.rn (R.qosAdm p) != 0 || basin) && d.mapsTo p c basin

/-- DRAM_RETRAIN: `RESET_REQ` on an `MC` page, where R116 permits it; answers whether it was taken. -/
def retrainStart (d : Dev) (c : Nat) : Dev × Bool :=
  if !d.mcInUse c || [0, 1, 2, 3].any (fun p => d.streamMaps p c) then (d, false)
  else ((d.wf (R.mcStat c) F.mcStatRetrain 1).goOffline (0x40 + c), true)

/-- Ledger record of a channel's training (Table 4-7; the layout inside the region is the model's, log 12): a header, then the trained
values. -/
def ledDram (c : Nat) : Nat := 0x40000 + 0x10000 * c

/-- RETRAIN_END: the new training, in the words `res`, is recorded, or the previous one stands again. -/
def retrainEnd (d : Dev) (c : Nat) (ok : Bool) (res : List Nat) : Dev :=
  if !d.mcHolding c then d
  else
    let d := (d.goOnline (0x40 + c)).wf (R.mcStat c) F.mcStatRetrain (if ok then 0 else 2)
    if ok then
      let m := d.mcOf c
      let d := ((d.putMc c { m with drift := 0 }).setN (R.mcOscStat c) 0).ledgerWrite (ledDram c + 16) (wordsBytes (res.take 64))
      (d.setCond (Ev.mcDqsDrift c) false).raise (Ev.mcRetrainDone c)
    else (d.raise (Ev.mcRetrainFail c)).raise Ev.bootStepFail

end Dev
end Sys2Proof.Machine
end

