-- ==== Sys2Proof/Machine/Sram.lean ====
section
/-! DEFINITION. On-chip memories (15_onchip_memories.md): banks, retention, the march engine with its repair, and the mailbox with its
conflicts and doorbells. -/
namespace Sys2Proof.Machine
namespace Dev

/-! ### Banks (R409 to R411) -/

/-- BAR4 offset and size of a bank; the vault and the management-core RAM are kept at offsets that BAR4 does not map. -/
def bankSpan (b : Nat) : Nat × Nat :=
  if b < 64 then (b / 16 * 0x200000 + b % 16 * 0x20000, 0x20000)
  else if b = 64 then (0x800000, 0x10000)
  else if b = 65 then (0x810000, 0x10000)
  else (0x4000000 + (b - 66) * 0x20000, 0x20000)

/-- Words of a bank (Table 15-1). -/
def bankWords (b : Nat) : Nat := if b = 64 then 2048 else if b = 65 then 16384 else 4096

/-- Ticks of a cycle of the bank's clock. -/
def bankClock (b : Nat) : Nat := if b < 64 then 32768 else 131072

/-- The bank of a BAR4 offset. -/
def bankOf (a : Nat) : Option Nat :=
  if a < 0x800000 then some (a / 0x200000 * 16 + a % 0x200000 / 0x20000)
  else if a < 0x810000 then some 64 else if a < 0x820000 then some 65 else none

/-- Urgent banks (R411). -/
def bankUrgent (b : Nat) : Bool := b == 64 || (decide (b < 64) && (b % 16 == 12 || b % 16 == 13))

/-- Replace the content of a range by `f`. -/
def sramFill (d : Dev) (a n : Nat) (f : Nat → Byte) : Dev :=
  let cells := (List.range n).filterMap (fun i => if f i = 0 then none else some (a + i, f i))
  { d with sram := d.sram.filter (fun x => decide (x.1 < a)) ++ cells ++ d.sram.filter (fun x => decide (a + n ≤ x.1)) }

/-- A bank reads 0. -/
def bankZero (d : Dev) (b : Nat) : Dev := d.sramFill (bankSpan b).1 (bankSpan b).2 (fun _ => 0)

/-- The content of a bank is undefined (R420): free values. -/
def bankUndefined (d : Dev) (b : Nat) : Dev :=
  let k := d.fresh
  d.burn.sramFill (bankSpan b).1 (bankSpan b).2 (fun i => BitVec.ofNat 8 (Config.freeValue (2 ^ 40 + k * 2 ^ 20 + i)))

/-! ### Seals (R468) -/

def sealReg (b : Nat) : Nat := if b < 32 then R.vltSealed0 else R.vltSealed1
def sealFld (b : Nat) : Fld := ⟨b % 32, b % 32⟩

/-- A port bank is sealed. -/
def sealed (d : Dev) (b : Nat) : Bool := decide (b < 64) && d.rb (sealReg b) (sealFld b)
/-- The seal of a bank begins or ends. -/
def setSeal (d : Dev) (b : Nat) (x : Bool) : Dev := if b < 64 then d.wf (sealReg b) (sealFld b) (b2n x) else d

/-! ### Retention (R426, R427) -/

def retReg (b : Nat) : Nat := if b < 32 then R.srmRetReq0 else if b < 64 then R.srmRetReq1 else R.srmRetReq2
def retBit (b : Nat) : Nat := if b < 64 then b % 32 else b - 66
def retFld (b : Nat) : Fld := ⟨retBit b, retBit b⟩

/-- A port bank or vault bank is in retention. -/
def retained (d : Dev) (b : Nat) : Bool := (decide (b < 64) || b == 66 || b == 67) && d.rb (retReg b) (retFld b)

/-- A retained bank starts to wake. -/
def bankWake (d : Dev) (b : Nat) : Dev :=
  if !d.retained b then d
  else
    let d := (d.wf (retReg b) (retFld b) 0).wf (R.srmBank b) F.srmBankRetained 0
    { d with srm := { d.srm with waking := d.srm.waking ++ [b] } }

/-- An access reaches a bank: one that is in retention or waking stalls it (R427). -/
def bankTouch (d : Dev) (b : Nat) : Dev :=
  if d.retained b || d.srm.waking.contains b then ((d.bankWake b).cnt R.srmWakeCnt F.all 1).raise Ev.sramWakeStall else d

/-- WAKE_COMPLETE. -/
def wakeComplete (d : Dev) (b : Nat) : Dev := { d with srm := { d.srm with waking := d.srm.waking.filter (· != b) } }

/-- The bank is under march now. -/
def marching (d : Dev) (b : Nat) : Bool := match d.srm.run with | some r => r.cur == b | none => false

/-- A bank may not be put in retention: C0 use, or a march (R426). -/
def retRefused (d : Dev) (b : Nat) : Bool :=
  (decide (b < 64) && decide (b % 16 < 14) && d.running (b / 16)) || d.marching b

/-- A write of `SRM_RET_REQ`i (RETENTION_REQUEST, RETENTION_WAKE). -/
def retWrite (d : Dev) (i w : Nat) : Dev :=
  let bs := if i < 2 then (List.range 32).map (fun k => (32 * i + k, k)) else [(66, 0), (67, 1)]
  match bs.find? (fun x => nbit w x.2 && d.retRefused x.1) with
  | some x => (((d.badWrite 0x50).wf R.srmRetStat F.srmRetStatRefused 1).wf R.srmRetStat F.srmRetStatBank x.1).raise Ev.sramRetRefused
  | none => bs.foldl (fun (d : Dev) x =>
      if nbit w x.2 then
        let d := (d.wf (retReg x.1) (retFld x.1) 1).wf (R.srmBank x.1) F.srmBankRetained 1
        d.wakeComplete x.1
      else d.bankWake x.1) d

/-! ### The march engine (R418 to R425) -/

/-- A run of a bank is refused (Table 15-7). -/
def marchRefused (d : Dev) (pres : Bool) (b : Nat) : Bool :=
  if b = 65 then false
  else if 66 ≤ b then true
  else if b = 64 then !pres
  else
    let p := b / 16
    if pres then decide (b % 16 < 12) && d.running p
    else d.running p || !(d.acqState p == 0 || d.acqState p == 6) || [0, 1, 2, 3].any (fun e => d.sbOn p e)

/-- Ticks of a run of one bank (Table 15-9). -/
def marchTime (r : March) : Nat :=
  bankWords r.cur * (if r.pres then 10 else 10 * popCount 4 r.bg + 1) * bankClock r.cur

/-- The element in progress (R418, R421, Table 15-5): a destructive run takes every word through one element after another, once for each
background; a preserving run reads the 8 words of a window and takes them through elements 1 to 5 in 80 cycles. -/
def marchElem (d : Dev) : Nat :=
  match d.srm.run with
  | none => 0
  | some r =>
    if 72 ≤ r.cur then 0
    else
      let c := (d.now - r.t) / bankClock r.cur
      if r.pres then (if r.yielded then 1 else max 1 (min 5 ((c % 80 + 8) / 16)))
      else if 10 * bankWords r.cur * popCount 4 r.bg ≤ c then 5
      else (c % (10 * bankWords r.cur) / bankWords r.cur + 1) / 2

/-- Show the bank in progress. -/
def marchShow (d : Dev) (b : Nat) (on : Bool) : Dev :=
  (d.wf R.srmMarchStat F.srmMarchStatBank b).wf (R.srmBank b) F.srmBankMarching (b2n on)

/-- The engine comes to bank `b` or passes it over, refused (R419). -/
def marchEnter (d : Dev) (r : March) (t : Nat) : Nat → Nat → Dev × Option March
  | 0, _ => (d, none)
  | f + 1, b =>
    if r.last < b then (d, none)
    else if d.marchRefused r.pres b then
      marchEnter (d.cnt R.srmMarchStat F.srmMarchStatSkipBanks 1) r t f (b + 1)
    else ((d.bankWake b).marchShow b true, some { r with cur := b, t := t, win := 0, yields := 0, yielded := false })

/-- The bank in progress is finished: a destructive run leaves it at 0 (R420). -/
def marchLeave (d : Dev) (r : March) : Dev :=
  let d := d.marchShow r.cur false
  if r.pres then d else (d.bankZero r.cur).setSeal r.cur false

/-- The engine goes on with time, or to the end of the run where `all`. -/
def marchGo (all : Bool) : Nat → Dev → Dev
  | 0, d => d
  | f + 1, d =>
    match d.srm.run with
    | none => d
    | some r =>
      if 72 ≤ r.cur then d
      else if all || (!r.yielded && !d.sagging && decide (r.t + marchTime r ≤ d.now)) then
        let d := d.marchLeave r
        let r := { r with done := r.done ++ [r.cur] }
        let x := d.marchEnter r (r.t + marchTime r) 73 (r.cur + 1)
        let r := match x.2 with | some r => r | none => { r with cur := 72 }
        marchGo all f { x.1 with srm := { x.1.srm with run := some r } }
      else d

def marchAdvance (d : Dev) : Dev := marchGo false 73 d

/-- Rows and columns that the repair of a bank takes (R424): failing cells as (row, column), spares left. -/
def repairGo : Nat → List (Nat × Nat) → Nat → Nat → List Nat → List Nat → Option (List Nat × List Nat)
  | 0, _, _, _, _, _ => none
  | f + 1, cells, sr, sc, rows, cols =>
    match cells.find? (fun c => decide (sr < (cells.filter (fun x => x.2 == c.2)).length)) with
    | some c =>
      if sc = 0 then none else repairGo f (cells.filter (fun x => x.2 != c.2)) sr (sc - 1) rows (cols ++ [c.2])
    | none =>
      match cells.find? (fun c => decide (sc < (cells.filter (fun x => x.1 == c.1)).length)) with
      | some c =>
        if sr = 0 then none else repairGo f (cells.filter (fun x => x.1 != c.1)) (sr - 1) sc (rows ++ [c.1]) cols
      | none =>
        match cells with
        | [] => some (rows, cols)
        | _ =>
          let c := cells.foldl (fun m x => if x.1 < m.1 then x else m) (cells.headD (0, 0))
          if 0 < sr then repairGo f (cells.filter (fun x => x.1 != c.1)) (sr - 1) sc (rows ++ [c.1]) cols
          else if 0 < sc then repairGo f (cells.filter (fun x => x.2 != c.2)) sr (sc - 1) rows (cols ++ [c.2])
          else none

def sparesOf (d : Dev) (b : Nat) : List Nat × List Nat := tget (fun _ => ([], [])) d.srm.spares b

/-- Put spares in use. -/
def setSpares (d : Dev) (b : Nat) (x : List Nat × List Nat) : Dev :=
  let d := { d with srm := { d.srm with spares := tset (fun _ => ([], [])) d.srm.spares b x } }
  (d.wf (R.srmBank b) F.srmBankRows x.1.length).wf (R.srmBank b) F.srmBankCols x.2.length

/-- Ledger address of a bank's repair record (Table 15-8). -/
def ledRepair (b : Nat) : Nat := 0x30000 + 16 * b

/-- Words of a repair record. -/
def repairWords (b : Nat) (faulty : Bool) (x : List Nat × List Nat) : List Nat :=
  let half := fun (l : List Nat) i v => match l[i]? with | some n => v + n | none => 0
  [2 ^ 31 + b2n faulty * 2 ^ 30 + b,
   half x.1 1 (2 ^ 15) * 2 ^ 16 + half x.1 0 (2 ^ 15), half x.1 3 (2 ^ 15) * 2 ^ 16 + half x.1 2 (2 ^ 15),
   half x.2 1 (2 ^ 15) * 2 ^ 16 + half x.2 0 (2 ^ 15)]

/-- Read a repair record: faulty flag and spares in use, none where it is not valid. -/
def repairRead (d : Dev) (b : Nat) : Option (Bool × List Nat × List Nat) :=
  let w := fun i => d.ledgerWord (ledRepair b + 4 * i)
  if !nbit (w 0) 31 then none
  else
    let row := fun x lo => if nbit x (lo + 15) then [nbits x (lo + 9) lo] else []
    let col := fun x lo => if nbit x (lo + 15) then [nbits x (lo + 7) lo] else []
    some (nbit (w 0) 30, row (w 1) 0 ++ row (w 1) 16 ++ row (w 2) 0 ++ row (w 2) 16, col (w 3) 0 ++ col (w 3) 16)

/-- A destructive run of a bank has ended: repair where asked, and its faulty state (R424).  `cells`: failing cells as (row, column);
`pass`: the repeat of the march passes. -/
def bankJudge (d : Dev) (repair : Bool) (b : Nat) (cells : List (Nat × Nat)) (pass : Bool) : Dev :=
  let was := d.rb (R.srmBank b) F.srmBankFaulty
  if cells.isEmpty then
    let d := d.wf (R.srmBank b) F.srmBankFaulty 0
    if was then d.ledgerWrite (ledRepair b) (wordsBytes (repairWords b false (d.sparesOf b))) else d
  else
    let used := d.sparesOf b
    let plan := if repair ∧ cells.length ≤ 64 then repairGo 70 cells.eraseDups (4 - used.1.length) (2 - used.2.length) used.1 used.2 else none
    let d := match plan with | some x => d.setSpares b x | none => d
    let ok := plan.isSome && pass
    let d := d.wf (R.srmBank b) F.srmBankFaulty (b2n (!ok))
    let d := d.ledgerWrite (ledRepair b) (wordsBytes (repairWords b (!ok) (d.sparesOf b)))
    if ok then d.raise Ev.sramRepaired else if repair then d.raise Ev.sramUnrepaired else d

/-- Record the failing cells of a run in `SRM_FAIL` and count them (R423). -/
def marchFails (d : Dev) (fs : List MarchFail) : Dev :=
  let d := (List.range 16).foldl (fun (d : Dev) i => match fs[i]? with
    | some x => d.setN (R.srmFail i) (2 ^ 31 + x.elem % 8 * 2 ^ 28 + x.bg % 4 * 2 ^ 26 + x.bank % 128 * 2 ^ 19 + x.row % 1024 * 2 ^ 9 + x.bit % 256 * 2)
    | none => d) d
  let d := d.wf R.srmMarchStat F.srmMarchStatCells (min 255 fs.length)
  if fs.isEmpty then d else d.raise Ev.sramMarchFail

/-- A run ends: `st` is its state, 2 where no bank is left failing. -/
def marchClose (d : Dev) (r : March) (fs : List MarchFail) (passes : List Nat) (aborted : Bool) : Dev :=
  let fs := fs.filter (fun x => r.done.contains x.bank || (aborted && x.bank == r.cur))
  let d := d.marchFails fs
  let d := if r.pres then d
    else r.done.foldl (fun (d : Dev) b =>
      d.bankJudge r.repair b ((fs.filter (fun x => x.bank == b)).map (fun x => (x.row, x.bit))) (passes.contains b)) d
  let bad := if r.pres then (fs.map MarchFail.bank).eraseDups.length
    else (r.done.filter (fun b => d.rb (R.srmBank b) F.srmBankFaulty)).length
  let d := d.wf R.srmMarchStat F.srmMarchStatFailBanks (min 15 bad)
  let d := d.wf R.srmMarchStat F.srmMarchStatState (if aborted then 4 else if bad = 0 then 2 else 3)
  ({ d with srm := { d.srm with run := none } }).raise Ev.sramMarchDone

/-- MARCH_START: the fields of `SRM_MARCH_CTRL` are stored (R419). -/
def marchStart (d : Dev) : Dev :=
  let c := R.srmMarchCtrl
  let pres := d.rb c F.srmMarchCtrlMode
  let first := d.rf c F.srmMarchCtrlFirst
  let last := d.rf c F.srmMarchCtrlLast
  let d := (List.range 16).foldl (fun (d : Dev) i => d.setN (R.srmFail i) 0) d
  let d := d.setN R.srmMarchStat (2 ^ 28)
  let r : March := ⟨first, last, pres, d.rb c F.srmMarchCtrlRepair, d.rf c F.srmMarchCtrlBg, first, d.now, [], 0, 0, false⟩
  let x := d.marchEnter r d.now 73 first
  { x.1 with srm := { x.1.srm with run := some ((x.2).getD { r with cur := 72 }) } }

/-- The range of a START holds a refused bank, or the engine runs. -/
def marchStartBad (d : Dev) (w : Nat) : Bool :=
  d.srm.run.isSome || (List.range 72).any (fun b => decide (nbits w 6 0 ≤ b) && decide (b ≤ nbits w 14 8) && d.marchRefused (nbit w 26) b)

/-- MARCH_STOP, and the end that a reset of the bank's unit brings (R420, R421, R428). -/
def marchStop (d : Dev) (fs : List MarchFail) (passes : List Nat) : Dev :=
  let d := d.marchAdvance
  match d.srm.run with
  | none => d
  | some r =>
    let d := if 72 ≤ r.cur then d else d.marchShow r.cur false
    let d := if r.pres || decide (72 ≤ r.cur) then d else (d.bankUndefined r.cur).setSeal r.cur false
    d.marchClose r fs passes true

/-- MARCH_RUN_END. -/
def marchEnd (d : Dev) (fs : List MarchFail) (passes : List Nat) : Dev :=
  let d := marchGo true 73 d
  match d.srm.run with
  | none => d
  | some r => d.marchClose r fs passes false

/-- MARCH_YIELD: the urgent master of the bank makes a preserving run write back window `j` (R422). -/
def marchYield (d : Dev) (j : Nat) : Dev :=
  let d := d.marchAdvance
  match d.srm.run with
  | none => d
  | some r =>
    if !r.pres || !bankUrgent r.cur || r.yielded then d
    else
      let n := (if r.win = j then r.yields else 0) + 1
      let d := d.cnt R.srmMarchYield F.srmMarchYieldYields 1
      let skip := decide (255 ≤ n)
      let d := { d with srm := { d.srm with run := some { r with win := if skip then j + 1 else j, yields := if skip then 0 else n, yielded := true } } }
      if skip then (d.cnt R.srmMarchYield F.srmMarchYieldSkipped 1).raise Ev.sramMarchSkip else d

/-- MARCH_WINDOW_RETRY: 64 bank cycles without the urgent master have passed. -/
def marchRetry (d : Dev) : Dev :=
  match d.srm.run with
  | some r => if r.yielded then { d with srm := { d.srm with run := some { r with yielded := false } } } else d
  | none => d

/-- A destructive run holds the bank: reads return 0 and writes are dropped (R420). -/
def marchHolds (d : Dev) (b : Nat) : Bool := match d.srm.run with | some r => !r.pres && r.cur == b | none => false

/-! ### The mailbox (R413 to R417) -/

def mbxAddr (w : Nat) : Nat := 0x810000 + 4 * (w % 16384)

/-- Bytes `be` of `old` replaced by those of `new`. -/
def mergeBe (old new be : Nat) : Nat :=
  (List.range 4).foldl (fun v k => if nbit be k then setNbits v (8 * k + 7) (8 * k) (nbits new (8 * k + 7) (8 * k)) else v) old

/-- Perform one access: the read's word. -/
def mbxOne (d : Dev) (a : MbxAcc) : Dev × Option Nat :=
  if d.marchHolds 65 then (d.cnt R.srmMarchDrops F.all 1, if a.write then none else some 0)
  else if a.write then (d.sramPut (mbxAddr a.word) (mergeBe (d.sramWord (mbxAddr a.word)) a.data a.be), none)
  else (d, some (d.sramWord (mbxAddr a.word)))

/-- A conflict is recorded (R415, R416). -/
def mbxConflict (d : Dev) (w : Nat) (ww bmp : Bool) : Dev :=
  let d := d.wf R.mbxStat (if bmp then F.mbxStatBmpWarn else F.mbxStatHostWarn) 1
  let d := (d.wf R.mbxStat F.mbxStatLastKind (b2n ww)).wf R.mbxStat F.mbxStatLastWord (w % 16384)
  (d.cnt R.mbxCnt (if ww then F.mbxCntWw else F.mbxCntRw) 1).raise Ev.mbxConflict

/-- MAILBOX_ACCESS: the accesses of the host and of the supervisor that are performed at one HCLK edge.  The words read, host first. -/
def mbxEdge (d : Dev) (h b : Option MbxAcc) : Dev × List Nat :=
  let d := d.marchAdvance
  let h := if d.offline false 0x51 then none else h
  let b := (if d.boot.done < 3 then none else b).map (fun x => { x with be := 15 })
  match h, b with
  | none, none => (d, [])
  | some x, none => let r := d.mbxOne x; (r.1, r.2.toList)
  | none, some x => let r := d.mbxOne x; (r.1, r.2.toList)
  | some x, some y =>
    if x.word ≠ y.word ∨ d.marchHolds 65 ∨ (!x.write ∧ !y.write) then
      let r := d.mbxOne x
      let q := r.1.mbxOne y
      (q.1, r.2.toList ++ q.2.toList)
    else if x.write && y.write then ((d.mbxOne x).1.mbxConflict x.word true true, [])
    else
      let w := if x.write then x else y
      let hostLater := decide (y.stamp < x.stamp)
      let v := Config.freeValue d.fresh % 2 ^ 32
      let d := d.burn
      (((d.mbxOne w).1).mbxConflict x.word false (!hostLater), [v])

/-- MBX_DOORBELL_WRITE: `h2b` names the register, `host` the writing side (R417). -/
def doorbell (d : Dev) (h2b host : Bool) (w : Nat) : Dev :=
  let a := if h2b then R.mbxDbH2b else R.mbxDbB2h
  let old := d.rn a
  let m := w % 2 ^ 16
  if h2b == host then
    let d := d.setN a (old ||| m)
    if (old ||| m) ≠ old then d.raise (if h2b then Ev.mbxDbToBmp else Ev.mbxDbToHost) else d
  else d.setN a (old - (old &&& m))

end Dev
end Sys2Proof.Machine
end

