-- ==== Sys2Proof/Machine/Qos.lean ====
section
/-! DEFINITION. The streaming budget, admission, and port start (01_*, R28 to R31; 05_vector_sequencer.md R156; 14_arbitration_and_streaming_budget.md R397 to
R400). -/
namespace Sys2Proof.Machine
namespace Dev

/-! ### Declared rates (R148) and weirs (R29) -/

/-- (n_fc × BPU + u) × K: the declared rate is this times 6.5536 × 10¹² / (K × P_d) bytes per second. -/
def rateNum (f : Fmt) : Nat := f.nfc * f.bpu * f.k + (if f.utrack then 16 else 0)

/-- K × P_d. -/
def rateDen (d : Dev) (p : Nat) (f : Fmt) : Nat := f.k * d.rn (R.lksDeclPeriod p)

/-- The declared rate in MB/s, rounded up. -/
def declRate (d : Dev) (p : Nat) (f : Fmt) : Nat := ceilDiv (rateNum f * 6553600) (d.rateDen p f)

/-- Low weir, under DEEP or SHALLOW (Table 1-7). -/
def lowWeir (d : Dev) (p : Nat) (f : Fmt) (shallow : Bool) : Nat :=
  ceilDiv (rateNum f * (if shallow then 3200 else 12800)) (d.rateDen p f)

/-- High weir. -/
def highWeir (d : Dev) (p : Nat) (f : Fmt) (shallow : Bool) : Nat :=
  min 128 (max (d.lowWeir p f shallow + 1) (ceilDiv (rateNum f * (if shallow then 6400 else 19200)) (d.rateDen p f)))

/-! ### Budgets (R397) -/

/-- S × g in quarters of an eighth: the figure of Table 14-2 times the speed-grade factor, times 8. -/
def budgetS8 (d : Dev) : Nat :=
  let S := match d.rf R.mcgMap F.mcgMapOrder with | 0 => 120000 | 1 => 160000 | _ => 165000
  S * (if d.dramc.speed = 0 then 8 else if d.dramc.speed = 1 then 7 else 6)

/-- The device budget under interleave, or that of one channel under PARTITIONED, in MB/s. -/
def qosBudget (d : Dev) : Nat :=
  if d.mcIlv = 2 then d.budgetS8 / 32 else d.budgetS8 * d.mcUse.length / 32

/-! ### Admission (R398 to R400) -/

/-- Aggregate symbol rate left under the cap, in units of 100 MBd (Table 14-3): 4,096 less the running ports'. -/
def capLeft (d : Dev) : Nat :=
  let used := [0, 1, 2, 3].foldl (fun x p =>
    if d.running p then x + ceilDiv (d.enabledFc p * 524288 * 2 ^ 24) (max 1 (d.tsPfx p (d.seqOf p).ts)) else x) 0
  4096 - used

/-- The first check of Table 14-3 that refuses a start of port `p`: reason code and limit. -/
def admitCheck (d : Dev) (p : Nat) : Option (Nat × Nat) :=
  let tx := d.txFmt p
  let rx := d.rxFmt p
  let cost := (if tx.empty then 0 else d.declRate p tx) + (if rx.empty then 0 else d.declRate p rx)
  let shallow := d.rb (R.prtProfile p) F.prtProfileLock
  let low := max (if tx.empty then 0 else d.lowWeir p tx shallow) (if rx.empty then 0 else d.lowWeir p rx shallow)
  let basin := d.rb (R.acqCfg p) F.acqCfgDest
  let out := [0, 1, 2, 3].find? (fun c => d.mcHolding c && d.mapsTo p c basin)
  let out := if out.isNone && d.mcIlv == 2 && !d.mcInUse p then some p else out
  let used := if d.mcIlv = 2 then d.rn (R.qosChUsed p) else d.rn R.qosUsed
  let budget := if d.mcIlv = 2 ∧ !d.mcInUse p then 0 else d.qosBudget
  if nbit (d.rf R.bootDegraded F.bootDegradedSram) p || (List.range 16).any (fun k => d.rb (R.srmBank (16 * p + k)) F.srmBankFaulty) then some (1, 0)
  else if 0 < cost ∧ out.isSome then some (2, out.getD 0)
  else if 127 < low then some (3, low)
  else if budget < used + cost then some (if d.mcIlv = 2 then 5 else 4, budget - used)
  else if d.rb R.glbProfile F.glbProfilePower && d.overCap (([0, 1, 2, 3].filter d.running) ++ [p]) then some (6, d.capLeft)
  else none

/-- An admission is refused (R399). -/
def admitDeny (d : Dev) (p code limit : Nat) : Dev :=
  let d := ((d.wf (R.qosDeny p) F.qosDenyReason code).cnt (R.qosDeny p) F.qosDenyDenials 1).wf (R.qosDeny p) F.qosDenyLimit (min limit (2 ^ 24 - 1))
  let d := if (d.txFmt p).empty then d else d.cnt (R.qosRefused (0x10 + p)) F.all 1
  let d := if (d.rxFmt p).empty then d else d.cnt (R.qosRefused (0x14 + p)) F.all 1
  (d.badWrite (ppage p 1)).raise (Ev.admitDenied p)

/-- An admission is granted: the budget in use rises, and `QOS_ADM` holds the costs. -/
def admitTake (d : Dev) (p : Nat) : Dev :=
  let tx := if (d.txFmt p).empty then 0 else d.declRate p (d.txFmt p)
  let rx := if (d.rxFmt p).empty then 0 else d.declRate p (d.rxFmt p)
  let d := if d.mcIlv = 2 then d.setN (R.qosChUsed p) (d.rn (R.qosChUsed p) + tx + rx) else d.setN R.qosUsed (d.rn R.qosUsed + tx + rx)
  let d := d.setN (R.qosAdm p) (rx % 2 ^ 16 * 2 ^ 16 + tx % 2 ^ 16)
  (d.wf (R.qosDeny p) F.qosDenyReason 0).wf (R.qosDeny p) F.qosDenyLimit 0

/-! ### Port start (R156) -/

/-- Registers and units of the port at a start that every check has passed. -/
def startPort (d : Dev) (p : Nat) : Dev :=
  let tx := d.txFmt p
  let rx := d.rxFmt p
  let shallow := d.rb (R.prtProfile p) F.prtProfileLock
  let ts := d.rf (R.seqCtrl p) F.seqCtrlStartTs
  let d := if (d.seqOf p).tref then d.launchEnd p d.now else d
  let d := acqFlush ((d.acqOf p).out.length + 1) d p
  let d := (d.admitTake p).putSeq p { Seq.reset with ts := ts, issueTs := ts }
  let d := (d.setSeqState p 1).wf (R.prtProfile p) F.prtProfileLockActive (b2n shallow)
  let weir := fun (d : Dev) (a : Nat) (f : Fmt) (fl fh : Fld) =>
    (d.wf a fl (d.lowWeir p f shallow)).wf a fh (d.highWeir p f shallow)
  let d := weir d (R.lksTxWeir p) tx F.lksTxWeirL F.lksTxWeirH
  let d := weir d (R.lksRxWeir p) rx F.lksRxWeirL F.lksRxWeirH
  let d := (d.setN (R.lksTxRate p) (if tx.empty then 0 else d.declRate p tx)).setN (R.lksRxRate p) (if rx.empty then 0 else d.declRate p rx)
  let d := (d.setN (R.lksTxFill p) (2 ^ 16 * 128)).setN (R.lksRxFill p) (2 ^ 16 * 128 + 128)
  let d := (((d.seqErrClear p).setN (R.seqStarveUi p) 0).setWide (R.seqVcount0 p) 2 0).lksShow p
  let d := (d.wf (R.lksDescStat p) F.lksDescStatTxd 0).wf (R.lksDescStat p) F.lksDescStatRxd 0
  -- banks 0 to 13 of the port wake (R427)
  let d := (List.range 14).foldl (fun (d : Dev) k => if d.retained (16 * p + k) then d.bankTouch (16 * p + k) else d) d
  -- codecs, random jitter, CDR (R181, R212, R288)
  let d := (List.range 8).foldl (fun (d : Dev) c =>
    let n := 8 * p + c
    let d := d.putChan n { d.chan n with codec := Codec.reset, rj := d.rjSeed p n, pam3 := none, slip := false }
    let d := (d.wf (R.cdcRxstat p c) F.cdcRxstatLocked 0).wf (R.cdcRxstat p c) F.cdcRxstatHunting 0
    d.cdrReset n) d
  let d := d.cdrPreset p
  let d := (d.flpStart p).mskClr p
  let a := d.acqOf p
  let d := d.putAcq p { a with basin := d.rb (R.acqCfg p) F.acqCfgDest, smps := [], last := none, next := 0, starts := [], sfPrev := 0, wins := [],
                               na := 0, force := none, mask := none }
  d.capJudge.sjJudge p

/-- PORT_START: the `START` bit of a write of `SEQ_CTRL` (R156, R439, R459). -/
def portStart (d : Dev) (p : Nat) (winter : Bool) : Dev :=
  let bad := d.badWrite (ppage p 1)
  if d.seqState p ≠ 0 ∨ d.anyFatal ∨ winter then bad
  else if d.utilRateBad p (d.rf (R.seqCtrl p) F.seqCtrlStartTs) then bad
  else match d.firstBad p false, d.firstBad p true with
    | some i, _ => bad.descReport p false i
    | none, some i => bad.descReport p true i
    | none, none =>
      let rx := d.rxFmt p
      if d.rb (R.acqCfg p) F.acqCfgDest && rx.utrack && rx.ui % (32 * rx.k) != 0 then bad.raise (Ev.acqCfgErr p)
      else match d.admitCheck p with
        | some (code, limit) => d.admitDeny p code limit
        | none => d.startPort p

end Dev
end Sys2Proof.Machine
end

