-- ==== Sys2Proof/Machine/Power.lean ====
section
/-! DEFINITION. The sag governor, the adaptive supply and the temperature sensors (17_power_and_thermal.md). -/
namespace Sys2Proof.Machine
namespace Dev

/-! ### The sag governor (R447 to R450) -/

/-- Threshold of the governor in mV. -/
def sagMv (d : Dev) : Nat := d.rf R.pwrAvs F.pwrAvsSetMv - d.rf R.pwrSagCfg F.pwrSagCfgTh

/-- Count the time stretched so far (`PWR_SAG_TIME`). -/
def sagCount (d : Dev) : Dev :=
  match d.pwr.sag with
  | none => d
  | some _ =>
    let n := (d.now - d.pwr.upTo) / 131072
    ({ d with pwr := { d.pwr with upTo := d.pwr.upTo + n * 131072 } }).cnt R.pwrSagTime F.all n

/-- SAG_START: point `pt` falls to `mv`.  A first point starts the governor; in a sag, a further point counts as below too. -/
def sagStart (d : Dev) (pt mv : Nat) : Dev :=
  if 4 ≤ pt ∨ !nbit (d.rf R.pwrSagCfg F.pwrSagCfgPtEn) pt ∨ d.sagMv ≤ mv then d
  else
    let d := if d.sagging then d
      else
        let d := { d with pwr := { d.pwr with sag := some d.now, upTo := d.now } }
        let d := (d.wf R.pwrSagStat F.pwrSagStatActive 1).wf R.clkStat F.clkStatHclkStretch 1
        (d.cnt R.pwrSagCnt F.pwrSagCntSags 1).raise Ev.sagDetect
    let pts := d.rf R.pwrSagStat F.pwrSagStatPoints
    let d := d.wf R.pwrSagStat F.pwrSagStatPoints (pts ||| 2 ^ pt)
    if mv < d.rf R.pwrSagMin F.pwrSagMinMv then (d.wf R.pwrSagMin F.pwrSagMinMv mv).wf R.pwrSagMin F.pwrSagMinPoint pt else d

/-- SAG_PERSIST_TIMEOUT (R450). -/
def sagPersist (d : Dev) : Dev :=
  if !d.sagging || d.rb R.pwrSagStat F.pwrSagStatPersist then d
  else ((d.wf R.pwrSagStat F.pwrSagStatPersist 1).cnt R.pwrSagCnt F.pwrSagCntPersist 1).setCond Ev.sagPersist true

/-- SAG_END, and `PT_EN` written 0 in a sag: the governor's actions are undone, and paused work goes on where it stood. -/
def sagEnd (d : Dev) : Dev :=
  match d.pwr.sag with
  | none => d
  | some t0 =>
    let d := d.sagCount
    let d := match d.srm.run with
      | some r => { d with srm := { d.srm with run := some { r with t := r.t + (d.now - t0) } } }
      | none => d
    let d := { d with pwr := { d.pwr with sag := none } }
    let d := ((d.setN R.pwrSagStat 0).wf R.clkStat F.clkStatHclkStretch 0)
    d.setCond Ev.sagPersist false

/-! ### Adaptive supply (R451) -/

/-- The condition of AVS_LIMIT. -/
def avsJudge (d : Dev) : Dev :=
  d.setCond Ev.avsLimit (d.pwr.clip || decide (d.rf R.pwrAvs F.pwrAvsSetMv + 10 < d.rf R.pwrAvs F.pwrAvsReqMv))

/-- AVS_MEASURE: the lowest VDD_CORE that meets timing is `mv`; the Keeper adds 15 mV, in 5 mV steps from 700 to 800 mV. -/
def avsMeasure (d : Dev) (mv : Nat) : Dev :=
  if !d.boot.keeperOn then d
  else
    let v := 5 * ceilDiv (mv + 15) 5
    let d := { d with pwr := { d.pwr with clip := decide (v < 700 ∨ 800 < v) } }
    (d.wf R.pwrAvs F.pwrAvsReqMv (max 700 (min 800 v))).avsJudge

/-! ### Temperature (R452 to R455) -/

/-- Sorted copy of a list of readings. -/
def sortInts (l : List Int) : List Int := l.foldl (fun s x => s.takeWhile (fun y => decide (y ≤ x)) ++ x :: s.dropWhile (fun y => decide (y ≤ x))) []

/-- Twice the median of some readings. -/
def median2 (l : List Int) : Option Int :=
  let s := sortInts l
  if s.isEmpty then none else some ((s[(s.length - 1) / 2]?).getD 0 + (s[s.length / 2]?).getD 0)

/-- A reading lies from −40 °C to 150 °C. -/
def tempInRange (x : Int) : Bool := decide (-160 ≤ x) && decide (x ≤ 600)

/-- SENSOR_READING: the sixteen sensors are read, in 0.25 °C (R452 to R455). -/
def sensorReading (d : Dev) (rs : List Int) : Dev :=
  if d.boot.done < 3 then d
  else
    let r := fun i => (rs[i]?).getD 0
    let failed := fun i => (d.pwr.failed.find? (fun x => x.1 == i)).map Prod.snd
    let med := median2 (((List.range 16).filter (fun i => (failed i).isNone && tempInRange (r i))).map r)
    let good := fun i => tempInRange (r i) && (match med with | some m => decide ((2 * r i - m).natAbs ≤ 120) | none => true)
    let step := fun i => match failed i with
      | none => if good i then none else some 0
      | some k => if !good i then some 0 else if k + 1 < 10 then some (k + 1) else none
    let next := (List.range 16).filterMap (fun i => (step i).map (fun k => (i, k)))
    let ok := (List.range 16).filter (fun i => (step i).isNone)
    let d := { d with pwr := { d.pwr with failed := next } }
    let d := (List.range 16).foldl (fun (d : Dev) i => d.setN (R.pwrTemp i) (b2n (ok.contains i) * 2 ^ 31 + wrapInt 16 (r i))) d
    let d := d.wf R.pwrThermStat F.pwrThermStatValid (ok.foldl (fun m i => m + 2 ^ i) 0)
    let d := d.setCond Ev.thermSensorFail (!next.isEmpty)
    let warn : Int := 4 * (d.rf R.pwrThermCfg F.pwrThermCfgWarn : Nat)
    let hyst : Int := 4 * (d.rf R.pwrThermCfg F.pwrThermCfgHyst : Nat)
    let hold := fun (was : Bool) (hi lo : Int) => if ok.any (fun i => decide (hi ≤ r i)) then true else was && !ok.all (fun i => decide (r i ≤ lo))
    let w := hold (d.rb R.pwrThermStat F.pwrThermStatWarning) warn (warn - hyst)
    let t := hold (d.rb R.pwrThermStat F.pwrThermStatTripped) 460 400
    let d := (d.wf R.pwrThermStat F.pwrThermStatWarning (b2n w)).wf R.pwrThermStat F.pwrThermStatTripped (b2n t)
    let best := ok.foldl (fun o i => match o with | none => some i | some j => if r j < r i then some i else o) (none : Option Nat)
    let d := match best with
      | none => d
      | some i =>
        let d := d.setN R.pwrTmax (i * 2 ^ 16 + wrapInt 16 (r i))
        if sext 16 (d.rn R.pwrTpeak) < r i then d.setN R.pwrTpeak (i * 2 ^ 16 + wrapInt 16 (r i)) else d
    let d := (d.setCond Ev.thermWarn w).setCond Ev.thermTrip t
    [0, 1, 2, 3].foldl (fun (d : Dev) p => d.staleJudge p) d

end Dev
end Sys2Proof.Machine
end

