-- ==== Sys2Proof/Machine/EventRegs.lean ====
section
/-! DEFINITION. The event registers and the ledger's fault history (16_events_and_faults.md, R431 to R444). -/
namespace Sys2Proof.Machine
namespace Dev

/-- Collect one bit of each of `n` sources from `base`. -/
def evtBits (base n : Nat) (f : Nat → Bool) : Nat := (List.range n).foldl (fun w k => w + b2n (f (base + k)) * 2 ^ k) 0

/-- The event registers that a page shows: 0 raw, 1 sticky, 2 enable, 3 force (R433 to R435). -/
def evtView (d : Dev) (k : PageKind) (i which : Nat) : Nat :=
  let x := pageSources k i
  evtBits x.1 x.2 (fun s => (srcBase s).isSome &&
    (match which with | 0 => d.effRaw s | 1 => (d.esrc s).sticky | 2 => d.srcEn s | _ => (d.esrc s).force))

/-- STICKY_CLEAR of one source (R434). -/
def stickyClear1 (d : Dev) (s : Nat) : Dev :=
  let e := d.esrc s
  if (srcBase s).isNone then d
  else if d.effRaw s then d.setEsrc s { e with sticky := true }
  else if e.lastCyc = d.cycNo then
    -- the occurrence of this cycle stands, and it is a latch
    if e.wasLatch || !d.srcEn s then d
    else
      let cls := d.effClass s
      let d := d.setEsrc s { e with wasLatch := true }
      let r := d.latchOut s cls false (!e.cond && e.force) (d.reactOf s cls).1 e.c (decide (d.evt.sevCyc = d.cycNo) && decide (1 < d.evt.sevCnt))
      if r.2 then r.1.raise Ev.evqLost else r.1
  else d.setEsrc s { e with sticky := false, esc := false }

/-- A write of the sticky register of a page (W1C). -/
def stickyClear (d : Dev) (k : PageKind) (i w : Nat) : Dev :=
  let x := pageSources k i
  (List.range x.2).foldl (fun (d : Dev) j => if nbit w j then d.stickyClear1 (x.1 + j) else d) d

/-- A write of the enable register: base-FATAL sources keep theirs (R435). -/
def enableWrite (d : Dev) (k : PageKind) (i w : Nat) : Dev :=
  let x := pageSources k i
  (List.range x.2).foldl (fun (d : Dev) j =>
    let s := x.1 + j
    if (srcBase s).isNone || srcFatal s then d else d.setEsrc s { d.esrc s with en := nbit w j }) d

/-- EVENT_FORCE_WRITE: force bits stay as written; a rise of the effective raw state is an occurrence (R433, R435). -/
def forceWrite (d : Dev) (k : PageKind) (i w : Nat) : Dev :=
  let x := pageSources k i
  (List.range x.2).foldl (fun (d : Dev) j =>
    let s := x.1 + j
    if (srcBase s).isNone then d
    else
      let was := d.effRaw s
      let d := d.setEsrc s { d.esrc s with force := nbit w j }
      if !was && d.effRaw s then d.raise s else d) d

/-- `EVG_CFGk` as it reads. -/
def evgCfgView (d : Dev) (g k : Nat) : Word := if (srcBase (32 * g + k)).isNone then 0 else (d.esrc (32 * g + k)).cfg

/-- EVG_CFG_WRITE (R435, R437, R438). -/
def evgCfgWrite (d : Dev) (g k : Nat) (w : Word) : Dev :=
  let s := 32 * g + k
  if (srcBase s).isNone then d
  else
    let e := d.esrc s
    let w := if srcFatal s then fset w F.cfgClass 3 else w
    let w := if srcIsReact s then fset w F.cfgReact 0 else w
    let w := fset (fset (fset w ⟨15, 15⟩ 0) ⟨9, 9⟩ 0) ⟨6, 6⟩ 0
    let moved := fget w F.cfgEscN != fget e.cfg F.cfgEscN || fget w F.cfgEscW != fget e.cfg F.cfgEscW
    d.setEsrc s { e with cfg := w, c := if moved then 0 else e.c }

/-- `EVG_CNTk`. -/
def evgCntView (d : Dev) (g k : Nat) : Nat := (d.esrc (32 * g + k)).occ * 256 + (d.esrc (32 * g + k)).c

/-- `EVG_ESC` and `EVG_SEV` of a group. -/
def evgEscView (d : Dev) (g : Nat) : Nat := evtBits (32 * g) 32 (fun s => (d.esrc s).esc)
def evgSevView (d : Dev) (g : Nat) : Nat := evtBits (32 * g) 32 d.sevHeld

/-- `EVC_GSEV` and `EVC_GANY`, words 0 and 1. -/
def gsevView (d : Dev) (i : Nat) : Nat :=
  evtBits (32 * i) (if i = 0 then 32 else 4) (fun g => d.srcTouched.any (fun s => s / 32 == g && d.sevHeld s))
def ganyView (d : Dev) (i : Nat) : Nat :=
  evtBits (32 * i) (if i = 0 then 32 else 4) (fun g => d.srcTouched.any (fun s => s / 32 == g && d.srcEn s && (d.esrc s).sticky))

/-- `EVC_STAT`. -/
def evcStatView (d : Dev) : Nat := b2n d.faultN * 2 ^ 31 + b2n d.anyFatal * 2 ^ 30 + d.sevCount

/-- EVC_FF_CLR: a record taken in this HCLK cycle stays (R441). -/
def ffClear (d : Dev) : Dev :=
  let t := d.rn R.evcFf1 + 2 ^ 32 * d.rn R.evcFf2 + 2 ^ 64 * (d.rn R.evcFf3 % 2 ^ 16)
  if d.rb R.evcFf0 F.evcFf0Valid && decide (t / hclk + 1 = d.cycNo) then d
  else (((d.setN R.evcFf0 0).setN R.evcFf1 0).setN R.evcFf2 0).setN R.evcFf3 0

/-- A unit is back: sources whose condition or force bit is present occur (R433). -/
def sourcesBack (d : Dev) (page : Nat) : Dev :=
  match pageOf page with
  | none => d
  | some (k, i) =>
    let x := pageSources k i
    (List.range x.2).foldl (fun (d : Dev) j => if d.effRaw (x.1 + j) then d.raise (x.1 + j) else d) d

/-- The bytes of a ledger fault record (Table 16-9). -/
def faultRecord (d : Dev) (x : FaultCand) (supp seq : Nat) : List Byte :=
  let w0 := 2 ^ 31 + b2n x.coinc * 2 ^ 30 + x.cls * 2 ^ 28 + b2n x.esc * 2 ^ 27 + b2n x.forced * 2 ^ 26 + x.react * 2 ^ 23 + x.src
  let body := wordsBytes [w0, seq, x.gtc % 2 ^ 32, x.gtc / 2 ^ 32 % 2 ^ 32, supp * 2 ^ 16 + x.gtc / 2 ^ 64 % 2 ^ 16, d.rn R.bootStartNo,
    d.rf R.bootKeeper F.bootKeeperVersion * 2 ^ 16]
  body ++ leBytes 4 (crc32 body)

/-- LEDGER_FAULT_RECORD: the Keeper takes the oldest latch that waits (R444).  A record that the full queue loses (R117) takes no number. -/
def faultLedger (d : Dev) : Dev :=
  match d.evt.cands with
  | [] => d
  | x :: rest =>
    if d.boot.done < 7 then d
    else
      let d := { d with evt := { d.evt with cands := rest } }
      let e := d.esrc x.src
      let hold := d.rf R.evcLedgerCfg F.evcLedgerCfgHold * 1000 * usTicks
      let sec := x.gtc / (1000000 * usTicks)
      let inSec := if d.evt.capSec = sec then d.evt.capCnt else 0
      let held := match e.lastRec with | some t => decide (x.gtc < t + hold) | none => false
      if held || decide (d.rf R.evcLedgerCfg F.evcLedgerCfgGcap ≤ inSec) then
        let d := d.setEsrc x.src { e with supp := satAdd 0xFFFF e.supp 1 }
        (d.cnt R.evcLedgerSupp F.all 1).raise Ev.faultHistSupp
      else
        let n := d.rn R.evcLedgerSeq + d.queuedFaults
        let bs := d.faultRecord x e.supp ((n + 1) % 2 ^ 32)
        if !d.boot.keeperOn && decide (64 ≤ d.boot.ledgerQ.length) then d.ledgerWrite (ledFault n) bs
        else
          let d := d.setEsrc x.src { e with supp := 0, lastRec := some x.gtc }
          let d := if d.boot.keeperOn && d.ledgerOk then d.setN R.evcLedgerSeq ((n + 1) % 2 ^ 32) else d
          ({ d with evt := { d.evt with capSec := sec, capCnt := inSec + 1 } }).ledgerWrite (ledFault n) bs

/-- `SEQ` of the newest valid fault record in the ledger. -/
def faultSeqMax (d : Dev) : Nat :=
  (List.range 2048).foldl (fun m i =>
    let a := ledFault i
    let ok := nbit (d.ledgerWord a) 31 && decide (d.ledgerWord (a + 28) = crc32 (mread d.ledger a 28))
    if ok then max m (d.ledgerWord (a + 4)) else m) 0

end Dev
end Sys2Proof.Machine
end

