-- ==== Sys2Proof/Machine/Vault.lean ====
section
/-! DEFINITION. Identity, seasons, tamper, the vault and JTAG (18_security_identity_and_seasons.md; 19_package_and_signals.md R487).  What
only moves forward, the fuses, stands in `Vault`; everything else in `Dev`. -/
namespace Sys2Proof.Machine

/-! ### Fuses (R458, R463) -/

/-- The season code in force: the highest-numbered fuse blown (R458). -/
def Vault.season (v : Vault) : Nat := if v.winter then 8 else if v.autumn then 4 else if v.summer then 2 else 1

/-- The fuse of a season is blown; a fuse is never restored. -/
def Vault.blow (v : Vault) (code : Nat) : Vault :=
  { v with summer := v.summer || code == 2, autumn := v.autumn || code == 4, winter := v.winter || code == 8 }

/-- The next of the 32 tamper fuses is blown (R463). -/
def Vault.blowTamper (v : Vault) : Vault := { v with tampers := min 32 (v.tampers + 1) }

namespace Dev

/-- Show the fuses in `GLB_SEASON` and `VLT_STAT`. -/
def showFuses (v : Vault) (d : Dev) : Dev :=
  let d := (d.setN R.glbSeason v.season).wf R.vltStat F.vltStatSeason v.season
  (d.wf R.vltStat F.vltStatTampers v.tampers).wf R.vltStat F.vltStatTamperExh (b2n (decide (32 ≤ v.tampers)))

/-! ### Keys (R464 to R466) -/

/-- Show the slots in `VLT_KEYSTAT`. -/
def showKeys (d : Dev) : Dev :=
  let f := fun (g : KeySlot → Bool) => (List.range 16).foldl (fun m i => m + b2n (((d.vlt.slots[i]?).map g).getD false) * 2 ^ i) 0
  d.setN R.vltKeystat (f KeySlot.lock * 2 ^ 16 + f KeySlot.valid)

/-- Ledger identity region (Table 4-7; the layout inside it is the model's, log 12): season and tamper records, and the sealed store. -/
def ledIdent (n : Nat) : Nat := 0x20000 + 16 * (n % 1024)
def ledStore : Nat := 0x28000

/-- The Keeper writes a season or tamper record: kind, value, GTC. -/
def identRecord (d : Dev) (kind val : Nat) : Dev :=
  let n := d.vlt.recs
  let d := { d with vlt := { d.vlt with recs := n + 1 } }
  d.ledgerWrite (ledIdent n) (leBytes 4 (2 ^ 31 + kind * 2 ^ 16 + val) ++ leBytes 12 d.now)

/-- The Keeper writes a new sealed store: its bytes are ciphertext, which the model leaves free (R465). -/
def sealStore (v : Vault) (d : Dev) : Dev :=
  if v.season = 1 ∨ v.season = 2 then
    if 32 ≤ v.tampers then d
    else
      let k := d.fresh
      let d := { d.burn with vlt := { d.vlt with store := some ⟨d.vlt.slots, v.season, v.tampers⟩ } }
      d.ledgerWrite ledStore ((List.range 640).map (fun i => BitVec.ofNat 8 (Config.freeValue (2 ^ 41 + k * 1024 + i))))
  else d

/-- The vault's first act at a start (R465): unseal the store into the slots. -/
def vaultUnseal (v : Vault) (d : Dev) : Dev :=
  let none_ := fun (d : Dev) => ({ d with vlt := { d.vlt with slots := Vlt.reset.slots } }).showKeys
  if v.season = 1 ∨ v.season = 2 then
    match d.vlt.store with
    | some s =>
      if s.season = v.season ∧ s.tampers = v.tampers ∧ v.tampers < 32 then
        (({ d with vlt := { d.vlt with slots := s.slots } }).showKeys).wf R.vltStat F.vltStatSealedOk 1
      else (none_ d).raise Ev.vaultWiped
    | none => (none_ d).raise Ev.vaultWiped
  else none_ d

/-- The vault banks and every sealed pool bank are zeroised, the seals end, and the slots read invalid (R460, R463, R468). -/
def zeroise (d : Dev) : Dev :=
  let d := (d.bankZero 66).bankZero 67
  let d := (List.range 64).foldl (fun (d : Dev) b => if d.sealed b then (d.bankZero b).setSeal b false else d) d
  ({ d with vlt := { d.vlt with slots := Vlt.reset.slots },
            dma := d.dma.map (fun (x : Nat × Dma) => (x.1, { x.2 with wiped := x.2.desc.isSome })) }).showKeys

/-- LOAD: a write of `VLT_KEYCTRL` (R466). -/
def keyLoad (v : Vault) (d : Dev) (w : Nat) : Dev :=
  if !nbit w 31 then d
  else
    let i := w % 16
    let sl := (d.vlt.slots[i]?).getD KeySlot.reset
    if 4 ≤ v.season ∨ d.rb R.vltStat F.vltStatTransBusy ∨ d.rb R.vltStat F.vltStatWipeBusy ∨ sl.lock then d.badWrite 0x52
    else
      let key := d.wide (R.vltKey 0) 8
      let d := { d with vlt := { d.vlt with slots := lset d.vlt.slots i ⟨true, nbit w 8, key⟩ } }
      (((List.range 8).foldl (fun (d : Dev) k => d.setN (R.vltKey k) 0) d).showKeys).sealStore v

/-! ### Seasons (R458 to R462) -/

def reqErr (d : Dev) (c : Nat) : Dev := (d.badWrite 0x52).wf R.vltStat F.vltStatReqErr c

/-- A season code that is later than the one in force. -/
def laterSeason (v : Vault) (t : Nat) : Bool := (t == 2 || t == 4 || t == 8) && decide (v.season < t)

/-- The arm ends. -/
def endArm (d : Dev) : Dev := ({ d with vlt := { d.vlt with arm := none } }).setWide R.vltNonce0 2 0

/-- SEASON_ARM: a nonce is drawn. -/
def seasonArm (v : Vault) (d : Dev) (t : Nat) : Dev :=
  if !laterSeason v t then d.reqErr 1
  else
    let n := Config.freeValue d.fresh % 2 ^ 64
    let d := { d.burn with vlt := { d.vlt with arm := some t } }
    (d.setWide R.vltNonce0 2 n).wf R.vltStat F.vltStatReqErr 0

/-- SEASON_COMMIT; `auth`: the signature of `VLT_AUTH` verifies (R462). -/
def seasonCommit (v : Vault) (d : Dev) (t : Nat) (auth : Bool) : Dev :=
  let err := if !laterSeason v t then 1 else if d.vlt.arm ≠ some t then 2 else if d.anyRunning then 3 else if t = 4 ∧ !auth then 4 else 0
  let d := (List.range 24).foldl (fun (d : Dev) i => d.setN (R.vltAuth i) 0) d.endArm
  if err ≠ 0 then d.reqErr err
  else
    let d := (d.wf R.vltStat F.vltStatReqErr 0).wf R.vltStat F.vltStatTransBusy 1
    ({ d with vlt := { d.vlt with trans := some t } }).zeroise

/-- WINTER shuts down every function that it closes (R461). -/
def winterShutdown (d : Dev) : Dev :=
  [0, 1, 2, 3].foldl (fun (d : Dev) p =>
    let d := d.safeState p
    let d := ([0, 1, 2, 3] : List Nat).foldl (fun (d : Dev) e => if d.sbOn p e then d.sbDisable p e [] else d) d
    let d := (List.range 8).foldl (fun (d : Dev) c =>
      let n := 8 * p + c
      if d.eyeState n = 0 ∨ d.eyeState n = 3 then d else (d.eyeEnd n 3).raise (Ev.eyeDone n)) d
    let d := if d.measState p = 0 ∨ d.measState p = 3 then d else d.measStop p
    if d.calbus.holder = some p then d.calbusRelease p else d) d

/-- SEASON_CHANGE_DONE as far as the device outside the fuses goes; `v`: the fuses after the blow. -/
def seasonDone (v : Vault) (d : Dev) : Dev :=
  let d := { d with vlt := { d.vlt with trans := none, store := none } }
  let d := (d.showFuses v).wf R.vltStat F.vltStatTransBusy 0
  let d := d.ledgerWrite ledStore (List.replicate 640 0)
  let d := ((d.identRecord 1 v.season).raise Ev.seasonChange).raise Ev.vaultWiped
  if v.winter then d.winterShutdown else d

/-! ### Tamper (R463) -/

/-- TAMPER_N_LOW: a wipe starts where the signal has been high since the last one. -/
def tamperLow (v : Vault) (d : Dev) : Dev :=
  if d.boot.done < 3 ∨ !d.vlt.ready then { d with pins := { d.pins with tamperN := false } }
  else
    let d := { d with vlt := { d.vlt with ready := false }, pins := { d.pins with tamperN := false } }
    let d := ((d.wf R.vltStat F.vltStatWipeBusy 1).cnt R.vltTamperCnt F.all 1).zeroise
    ((d.identRecord 2 (v.tampers + 1)).raise Ev.tamper).raise Ev.vaultWiped

/-- TAMPER_WIPE_DONE: the fuse reads back. -/
def tamperDone (v : Vault) (d : Dev) : Dev := (d.showFuses v).wf R.vltStat F.vltStatWipeBusy 0

/-- TAMPER_N_HIGH. -/
def tamperHigh (d : Dev) : Dev := { d with vlt := { d.vlt with ready := true }, pins := { d.pins with tamperN := true } }

/-! ### JTAG (R487, Table 18-2) -/

def jtagDrives : JtagInstr → Bool
  | .extest | .clamp | .extestPulse | .extestTrain => true
  | _ => false

/-- JTAG_INSTRUCTION; `low`: RESET_N is low. -/
def jtagLoad (d : Dev) (i : JtagInstr) (low : Bool) : Dev :=
  let put := fun (d : Dev) x => { d with vlt := { d.vlt with jtag := x } }
  if jtagDrives i then put d (if low && decide (d.boot.done = 0) then i else .bypass)
  else if i = .private_ ∧ (d.season = 2 ∨ d.season = 8) then (put d .bypass).raise Ev.debugDenied
  else put d i

/-- RESET_N rises: a driving instruction gives way to BYPASS. -/
def jtagRelease (d : Dev) : Dev :=
  if jtagDrives d.vlt.jtag then { d with vlt := { d.vlt with jtag := .bypass } } else d

/-! ### Register images (R469) -/

/-- A write of `VLT_APPLY` is refused. -/
def applyBad (d : Dev) (w : Nat) : Bool :=
  let p := nbits w 29 28
  let a := nbits w 20 3 * 8
  let n := 8 * d.rn R.vltApplyCnt
  let b := 16 * p + a / 0x20000
  d.running p || decide (n = 0) || !d.sealed b || decide (0x20000 < a % 0x20000 + n)

/-- The entries of an apply: BAR0 offset and data. -/
def applyEntries (d : Dev) (w : Nat) : List (Nat × Nat) :=
  let base := nbits w 29 28 * 0x200000 + nbits w 20 3 * 8
  (List.range (d.rn R.vltApplyCnt)).map (fun k => (d.sramWord (base + 8 * k) % 2 ^ 22, d.sramWord (base + 8 * k + 4)))

end Dev
end Sys2Proof.Machine
end

