-- ==== Sys2Proof/Machine/StartUp.lean ====
section
/-! DEFINITION. What each start-up step does to the unit it brings up, and the sequence of steps (04_startup_reset_and_partial_service.md
R97 to R107; R213, R272, R363, R386 to R388, R425, R465). -/
namespace Sys2Proof.Machine
namespace Dev

/-- Sources whose condition or force bit becomes visible as their unit comes online occur (R433); `o`: the state before. -/
def comeOnline (o d : Dev) : Dev := d.srcTouched.foldl (fun (d : Dev) s => if !o.effRaw s && d.effRaw s then d.raise s else d) d

/-! ### POWER to HOSTLINK -/

/-- POWER reads policies, histories and subsystem IDs from the start block; a step that the last start left BEGUN counts as a failure of
the form it ran (R105).  Unreadable: the defaults of Table 4-4 with empty histories. -/
def readStartBlock (d : Dev) : Dev :=
  let d := (List.range 13).foldl (fun (d : Dev) k =>
    let w := d.ledgerWord (ledPolicy (k + 1))
    if w = 0 then d else d.setN (policyReg (k + 1)) w) d
  let d := (List.range 16).foldl (fun (d : Dev) i =>
    let d := (d.setN (R.bootHist i) (d.ledgerWord (ledHist i))).setN (R.bootHistb i) (d.ledgerWord (ledHist i + 4))
    let m := d.ledgerWord (ledBegun i)
    if m = 0 then d
    else
      let d := d.cnt (R.bootHist i) (if m = 2 then F.bootHistFAlt else F.bootHistFNorm) 1
      d.wf (R.bootHist i) F.bootHistLastOutcome 5) d
  match d.ledgerLoad ledSsid with | some v => d.setN R.bootSsid v | none => d

/-- ROOT has locked (R65, Table 4-2). -/
def rootDone (d : Dev) (alt : Bool) (refs : Nat) : Dev :=
  let r := b2n alt
  let d := (d.wf R.clkRef (F.refOk 0) (refs % 2)).wf R.clkRef (F.refOk 1) (refs / 2 % 2)
  let d := (d.wf R.clkRef (F.refOk r) 1).wf R.clkRef F.clkRefActive (r + 1)
  { d.wf R.clkStat F.clkStatRootLock 1 with clk := { d.clk with lastRef := r + 1 } }

/-- LEDGER has opened the journals: the ledger-backed registers and the start count (Table 4-6). -/
def ledgerDone (d : Dev) : Dev :=
  let d := match d.ledgerLoad ledEvcCfg with | some v => d.setN R.evcLedgerCfg v | none => d
  let d := match d.ledgerLoad ledMcgCfg with | some v => d.setN R.mcgCfg v | none => d
  let d := match d.ledgerLoad ledCalval with
    | some v => [0, 1, 2, 3].foldl (fun (d : Dev) p => d.setN (R.measCalval p) v) d
    | none => d
  d.setN R.bootStartNo (((d.ledgerLoad ledStartNo).getD 0 + 1) % 2 ^ 32)

/-- REPAIR has applied the stored map. -/
def repairDone (d : Dev) : Dev :=
  (List.range 72).foldl (fun (d : Dev) b => match d.repairRead b with
    | some x => (d.setSpares b x.2).wf (R.srmBank b) F.srmBankFaulty (b2n x.1)
    | none => d) d

/-! ### KEEPER (R105, R110) -/

/-- The Keeper runs: its slot, a new image's trial, and everything that waited for it. -/
def keeperDone (d : Dev) (alt : Bool) (version : Nat) : Dev :=
  let was := d.rf R.bootKeeper F.bootKeeperSlot
  let slot := match d.boot.fresh, alt with
    | some t, false => t
    | some t, true => 1 - t
    | none, false => was
    | none, true => 1 - was
  let d := { d with boot := { d.boot with keeperOn := true, slotVer := tset (fun _ => 0) d.boot.slotVer slot version } }
  let d := (d.setSlot slot true).runSlot slot
  let d := match d.boot.fresh with
    | none => d
    | some t =>
      if slot = t then
        let d := { d with boot := { d.boot with fresh := none, prevSlot := some was } }
        d.wf R.bootKupdStat F.bootKupdStatState 3
      else
        let d := { d with boot := { d.boot with fresh := none } }
        (d.wf R.bootKupdStat F.bootKupdStatState 5).raise Ev.keeperUpdateFail
  d.ledgerDrain

/-- What the Keeper writes as it starts: the start number and the outcomes of the steps before it (R105). -/
def keeperWrites (d : Dev) : Dev :=
  let d := d.ledgerItem ledStartNo (d.rn R.bootStartNo)
  let d := (List.range 16).foldl (fun (d : Dev) i => (d.saveHist i).ledgerPut (ledBegun i) 0) d
  d.setN R.evcLedgerSeq d.faultSeqMax

/-! ### SRAMTEST (R425, R465) -/

/-- Every bank but the management-core RAM has been marched: it reads 0, and new faults are repaired where spares allow. -/
def sramTested (d : Dev) (cells : List (Nat × Nat × Nat)) (passes : List Nat) : Dev :=
  let d := { d with sram := d.sram.filter (fun x => decide (0x1000000 ≤ x.1 ∧ x.1 < 0x4000000)) }
  (List.range 68).foldl (fun (d : Dev) b =>
    d.bankJudge true b ((cells.filter (fun x => x.1 == b)).map (fun x => x.2)) (passes.contains b)) d

/-- The step has ended: unrepaired banks degrade their pool or unit (Table 4-5), and the vault opens its store. -/
def sramDone (v : Vault) (d : Dev) : Dev :=
  let bad := fun (d : Dev) b => d.rb (R.srmBank b) F.srmBankFaulty
  let d := [0, 1, 2, 3].foldl (fun (d : Dev) p =>
    if (List.range 16).any (fun k => bad d (16 * p + k)) then d.degrade (4 + p) else d) d
  let d := if bad d 64 ∨ bad d 65 ∨ bad d 66 ∨ bad d 67 then d.degrade 8 else d
  let d := if bad d 65 then d.goOffline 0x51 else d
  let d := if bad d 66 ∨ bad d 67 then d.goOffline 0x52 else d
  d.vaultUnseal v

/-! ### DRAM (R103, R363, R384, R386 to R388) -/

/-- Header of a channel's training record: valid, density, ranks; then RAAIMT and RAAMMT. -/
def trainHeader (ranks density : Nat) (rfm : Nat × Nat) : List Nat := [2 ^ 31 + density % 4 * 4 + ranks % 4, rfm.1, rfm.2, 0]

/-- Run `ch` of DRAMTRAIN succeeds in this attempt: full training finds a rank; the stored form finds its record (R363, R388). -/
def trainOk (d : Dev) (x : StepResult) (ch : Nat) : Bool :=
  let r := (d.boot.runs[ch]?).getD StepRun.start
  (x.oks[ch]?).getD false &&
    (if r.form = 1 then nbit (d.ledgerWord (ledDram ch)) 31 else decide (0 < ((x.ranks[ch]?).getD (0, 0)).1))

/-- Excluded: `why` of Table 13-10. -/
def mcExclude (d : Dev) (c why : Nat) : Dev := (d.wf (R.mcStat c) F.mcStatExcluded 1).wf (R.mcStat c) F.mcStatExclWhy why

/-- A channel has trained: ranks, density, RFM limits; a full training goes to the ledger. -/
def mcTrained (d : Dev) (c : Nat) (full : Bool) (x : StepResult) : Dev :=
  let h := if full then
      let rk := (x.ranks[c]?).getD (0, 0)
      trainHeader rk.1 rk.2 ((x.rfm[c]?).getD (0, 0))
    else [0, 1, 2].map (fun i => d.ledgerWord (ledDram c + 4 * i))
  let w := h.headD 0
  let d := (d.wf (R.mcStat c) F.mcStatRanks (w % 4)).wf (R.mcStat c) F.mcStatDensity (w / 4 % 4)
  let d := d.putMc c { d.mcOf c with raaImt := (h[1]?).getD 0, raaMmt := (h[2]?).getD 0 }
  if full then d.ledgerWrite (ledDram c) (wordsBytes (h ++ ((x.train[c]?).getD []).take 64)) else d

/-- Capacity of a channel in 64 KiB units: 16, 24 or 32 GiB a rank (R363). -/
def cchOf (ranks density : Nat) : Nat := ranks * (16 + 8 * density) * 16384

/-- DRAMTRAIN has ended. -/
def trainDone (d : Dev) (x : StepResult) : Dev :=
  let d := { d with dramc := { d.dramc with speed := d.rf R.mcgCfg F.mcgCfgSpeed } }
  let d := [0, 1, 2, 3].foldl (fun (d : Dev) c => match d.runOutcome c with
    | 0 => d.mcExclude c 1
    | 1 => d.mcTrained c true x
    | 2 => d.mcTrained c false x
    | 3 => (d.mcExclude c 3).degrade (9 + c)
    | _ => (d.mcExclude c 2).degrade (9 + c)) d
  let key := fun (d : Dev) c => (d.rf (R.mcStat c) F.mcStatRanks, d.rf (R.mcStat c) F.mcStatDensity)
  match d.mcUse with
  | [] => d
  | f :: rest =>
    let d := rest.foldl (fun (d : Dev) c => if key d c = key d f then d else (d.mcExclude c 4).degrade (9 + c)) d
    d.setN R.mcgCch (cchOf (key d f).1 (key d f).2)

/-- DRAMINIT has ended: FULL, or LAZY with its reservation (R386, R387). -/
def initDone (d : Dev) (lazy : Bool) : Dev :=
  let d := { d with dram := [], dramc := { d.dramc with sweep := 0, blocks := [] } }
  let d := (d.wf R.mcgInitStat F.mcgInitStatMode (b2n lazy)).wf R.mcgInitStat F.mcgInitStatLazyDone 0
  let d := d.wf R.mcgInitStat F.mcgInitStatProgress 0
  d.setN R.mcgCap (d.mcUse.length * d.mcAvail / 2 ^ 16)

/-! ### TIMECAL and LEVELCAL (R213, R214, R272, R273) -/

/-- All 96 channels, numbered as `chans`. -/
def allChans : List Nat := List.range 96

def timecalDone (d : Dev) (full : Bool) (x : StepResult) : Dev :=
  allChans.foldl (fun (d : Dev) i =>
    let r := (x.tcal[i]?).getD ([], [])
    if full then d.calFull i r.1 r.2 else d.calStored i) d

/-- The channels whose level calibration has failed keep their previous corrections (R273). -/
def levelFails (d : Dev) (l : List Nat) : Dev := (l.filter (fun i => decide (i < 96))).foldl (fun (d : Dev) i => d.lcalEnd i false []) d

def levelcalDone (d : Dev) (x : StepResult) : Dev :=
  (allChans.filter (fun i => !x.lfail.contains i)).foldl (fun (d : Dev) i => d.lcalEnd i true ((x.lcal[i]?).getD [])) d

/-- Calibration that is not valid: `TIMING_ACTIVE` reads PERIODIC (Table 4-5). -/
def calDegraded (d : Dev) (bit : Nat) : Dev :=
  [0, 1, 2, 3].foldl (fun (d : Dev) p => d.wf (R.prtProfile p) F.prtProfileTimingActive 1) (d.degrade bit)

/-! ### READY -/

/-- The start record (Table 4-9), one per start that the Keeper has seen. -/
def startRecord (d : Dev) : Dev :=
  let out := fun k => ((d.boot.outcomes.find? (fun x => x.1 == k)).map Prod.snd).getD 0
  let nib := (List.range 16).foldl (fun n i => n + (if i = 8 then out 16 else if i < 13 then out (i + 1) else out (i + 4)) * 16 ^ i) 0
  d.ledgerWrite (ledStart (d.rn R.bootStartNo)) (wordsBytes [d.rn R.bootStartNo,
    d.rf R.bootStat F.bootStatCause * 2 ^ 28 + d.rf R.bootStat F.bootStatState * 2 ^ 24 + d.rn R.bootDegraded % 2 ^ 15, d.rn R.bootReadyTime,
    nib % 2 ^ 32, nib / 2 ^ 32, d.rf R.bootKeeper F.bootKeeperVersion * 2 ^ 16 + d.rf R.bootKeeper F.bootKeeperSlot, 0, 0])

/-- READY has been reached (R100, R119): the port and channel pages come online, `STATE` reads READY, and the events follow. -/
def readyDone (d : Dev) (us : Nat) : Dev :=
  let o := d
  let d := { d with boot := { d.boot with done := 13, runs := [] } }
  let d := d.wf R.bootStat F.bootStatState 1
  let d := if d.boot.warm then { d with boot := { d.boot with warm := false } } else (d.setN R.bootReadyTime us).startRecord
  let d := comeOnline o d
  let d := [0, 1, 2, 3].foldl (fun (d : Dev) p => if d.rb (R.measCalstat p) F.measCalstatLcalFail then d.raise (Ev.lcalErr p) else d) d
  if d.rb R.bootDegraded F.bootDegradedAny then d.raise Ev.bootDegradedEvt else d

/-! ### The sequence (R100, R104) -/

/-- The outcome that `BOOT_STAT` shows: that of the one run, or of the lowest populated DRAM channel. -/
def stepOutcome (d : Dev) : Nat := ((d.boot.runs.filterMap StepRun.outcome).find? (· != 0)).getD 0

/-- Effects of the end of step `c` on the unit it brings up. -/
def stepEffect (v : Vault) (d : Dev) (c : Nat) (x : StepResult) : Dev :=
  let o := d.stepOutcome
  let good := decide (o = 1 ∨ o = 2)
  match c with
  | 2 => if good then d.rootDone (o == 2) x.refs else d
  | 3 => if good then { d with counting := true } else d
  | 4 => if good then d.ledgerDone else d.degrade 1
  | 5 => if good then d.repairDone else d.degrade 2
  | 6 => if good then d else d.degrade 3
  | 7 => if good then d.keeperDone (o == 2) x.version else d
  | 8 => sramDone v d
  | 9 => d.trainDone x
  | 10 => if good then d.initDone (o == 2) else d
  | 11 => if good then d.timecalDone (o == 1) x else d.calDegraded 13
  | 12 => if good then (if o = 1 then d.levelcalDone x else d) else d.calDegraded 14
  | _ => d

/-- A step has all its outcomes: it takes effect, and the next one begins, with every run that history or policy skips, until one has an
attempt to make; or the device halts, enters RECOVERY or is READY (R100, R102, R104, R111). -/
def stepsGo (v : Vault) (x : StepResult) : Nat → Dev → Dev
  | 0, d => d
  | f + 1, d =>
    if !d.stepOver then d
    else
      let c := d.rf R.bootStat F.bootStatStep
      let d := d.wf R.bootStat F.bootStatOutcome d.stepOutcome
      let good := decide (d.stepOutcome = 1 ∨ d.stepOutcome = 2)
      let d := stepEffect v d c x
      if (c = 2 ∨ c = 3) ∧ !good then ({ d with boot := { d.boot with runs := [] } }).wf R.bootStat F.bootStatState 2
      else if c = 7 ∧ !good then ({ d with boot := { d.boot with runs := [] } }).wf R.bootStat F.bootStatState 3
      else if c = 13 then d.readyDone x.us
      else
        let o := d
        let d := { d with boot := { d.boot with done := c } }
        let d := if c = 2 then (d.refLossCond 0).refLossCond 1 else d
        let d := if c = 7 then d.keeperWrites else d
        let d := comeOnline o d
        let d := d.beginStep (c + 1)
        let d := (List.range d.boot.runs.length).foldl (fun (d : Dev) ch =>
          match d.boot.runs[ch]? with
          | some r => if r.outcome = some 0 then d else (d.recordRun (c + 1) ch r).markBegun (c + 1) (histIx (c + 1) ch) r
          | none => d) d
        stepsGo v x f d

/-- What an attempt of step `c` leaves, whatever its outcome: SRAMTEST has marched the banks, LEVELCAL names the channels that failed. -/
def attemptEffect (d : Dev) (c : Nat) (x : StepResult) : Dev :=
  let form := ((d.boot.runs.head?).map StepRun.form).getD 0
  if c = 8 then d.sramTested x.cells x.passes else if c = 12 ∧ form = 0 then d.levelFails x.lfail else d

/-- Success of each run in this attempt, as the step's own conditions allow. -/
def attemptOks (d : Dev) (c : Nat) (x : StepResult) : List Bool :=
  let form := ((d.boot.runs.head?).map StepRun.form).getD 0
  let ok := x.oks.headD false
  match c with
  | 7 => [ok && d.ledgerOk]
  | 9 => [0, 1, 2, 3].map (d.trainOk x)
  | 11 => [ok && (form != 1 || allChans.all d.calHeld)]
  | 12 => [ok && (form != 1 || allChans.all d.lcalHeld)]
  | _ => [ok]

/-- The step that a warm reset runs, in its stored form and with no part in policies or histories (Table 4-10). -/
def warmStep (v : Vault) (d : Dev) (x : StepResult) : Dev :=
  let c := d.rf R.bootStat F.bootStatStep
  let ok := ((d.attemptOks c x)[0]?).getD false
  let d := if ok then d else d.raise Ev.bootStepFail
  let d := { d with boot := { d.boot with runs := [{ form := 1, attempt := 1, made := 1, outcome := some (if ok then 2 else 4) }] } }
  let d := d.wf R.bootStat F.bootStatOutcome (if ok then 2 else 4)
  let d := if c = 13 then d else stepEffect v d c x
  if c = 13 then d.readyDone x.us
  else
    let d := { d with boot := { d.boot with done := c, runs := [{ StepRun.start with form := 1 }] } }
    (((d.wf R.bootStat F.bootStatStep (c + 1)).wf R.bootStat F.bootStatForm 1).wf R.bootStat F.bootStatAttempt 1).wf
      R.bootStat F.bootStatOutcome 0

/-- STARTUP_STEP_END: one attempt of the running step ends; `eff`: it has run to its end, so that it leaves what an attempt leaves. -/
def stepEndWith (v : Vault) (d : Dev) (x : StepResult) (eff : Bool) : Dev :=
  let c := d.rf R.bootStat F.bootStatStep
  if d.boot.runs.isEmpty ∨ c < 2 then d
  else if d.boot.warm then warmStep v d x
  else
    let oks := d.attemptOks c x
    let d := if eff then d.attemptEffect c x else d
    stepsGo v x 14 (d.attemptsEnd oks)

/-- The result of an attempt of which nothing came. -/
def noResult : StepResult := ⟨[], 0, 0, [], [], [], [], [], [], [], [], 0⟩

def stepEnd (v : Vault) (d : Dev) (x : StepResult) : Dev := stepEndWith v d x true

/-- STARTUP_ATTEMPT_TIMEOUT: the attempt in progress fails. -/
def stepTimeout (v : Vault) (d : Dev) : Dev := stepEndWith v d noResult false

/-- POWER_COMPLETE (R97): RESET_N is high; `readable`: the start block of the ledger reads. -/
def powerComplete (v : Vault) (d : Dev) (readable : Bool) : Dev :=
  if d.boot.done ≠ 0 then d
  else
    let d := if readable then d.readStartBlock else d
    let d := (d.jtagRelease.showFuses v).attemptsEnd [true]
    stepsGo v noResult 14 d

end Dev
end Sys2Proof.Machine
end

