-- ==== Sys2Proof/Machine/Resets.lean ====
section
/-! DEFINITION. Reset scopes (04_startup_reset_and_partial_service.md R98, R99, R112 to R118; Table 4-10). -/
namespace Sys2Proof.Machine
namespace Dev

/-! ### Cold reset (R98, R99) -/

/-- Everything returns to its reset state; the ledger (with what its slots and records hold), the fuses, host memory, and the levels at
the control balls stay.  Cause: 1 RESET_N, 2 RAIL. -/
def coldReset (v : Vault) (d : Dev) (cause : Nat) : Dev :=
  let r : Dev :=
    { Dev.reset with
      ledger := d.ledger, hostMem := d.hostMem, fresh := d.fresh,
      boot := { Boot.reset with slotValid := d.boot.slotValid, slotVer := d.boot.slotVer, fresh := d.boot.fresh },
      pins := { Pins.reset with trigIn := d.pins.trigIn, tamperN := d.pins.tamperN, ucCmp := d.pins.ucCmp },
      vlt := { Vlt.reset with store := d.vlt.store, serial := d.vlt.serial, ready := d.vlt.ready, recs := d.vlt.recs, jtag := d.vlt.jtag } }
  let r := r.wf R.bootKeeper F.bootKeeperSlot (d.rf R.bootKeeper F.bootKeeperSlot)
  (r.showFuses v).wf R.bootStat F.bootStatCause cause

/-- COLD_RESET (R99): RESET_N has been low for `ns` nanoseconds; a shorter pulse than 1 µs is ignored. -/
def resetN (v : Vault) (d : Dev) (ns : Nat) : Dev := if ns < 1000 then d else coldReset v d 1

/-- RAIL_LOSS (R98): after POWER, for longer than 1 µs. -/
def railLoss (v : Vault) (d : Dev) : Dev := if d.boot.done = 0 then d else coldReset v d 2

/-! ### The port scope (R113, R114) -/

/-- Conditions of the port's sources read 0 (R114). -/
def condsOff (d : Dev) (p : Nat) : Dev :=
  d.srcTouched.foldl (fun (d : Dev) s => if srcPort s = some p then d.setEsrc s { d.esrc s with cond := false } else d) d

/-- Queued DRAM writes of the fail processor complete (R113). -/
def flpFlush (d : Dev) (p : Nat) : Dev :=
  let d := (List.range ((d.flpOf p).staged.length + 1)).foldl (fun (d : Dev) _ => d.failLogWrite p) d
  (List.range ((d.flpOf p).wq.length)).foldl (fun (d : Dev) _ => d.bitmapWrite p false) d

/-- Changes of the port that wait for a boundary go; a timed command behind one ends OFFLINE (R113). -/
def pendDrop (d : Dev) (p : Nat) : Dev :=
  let gone := d.pend.filter (fun c => pagePort (c.addr / 0x1000) == p)
  let d := { d with pend := d.pend.filter (fun c => pagePort (c.addr / 0x1000) != p) }
  gone.foldl (fun (d : Dev) c => match c.cmd with | some (tag, ntf, _) => d.tcqEnd 3 tag ntf d.now | none => d) d

/-- A register of the port that its reset keeps: utility ownership (Table 4-10). -/
def portKeeps (p a : Nat) : Bool := a == R.prtUcown0 p || a == R.prtUcown1 p

/-- The registers of the port's pages return to their reset values. -/
def portRegsReset (d : Dev) (p : Nat) : Dev :=
  let pages := portPages p
  let keep := fun (a : Nat) => portKeeps p a || !pages.contains (a / 0x1000)
  { d with regs := d.regs.filter (fun x => keep x.1), live := d.live.filter (fun x => keep x.1),
           hif := { d.hif with keys := d.hif.keys.filter (fun x => !pages.contains x.1) } }.dropSets (fun q => !pages.contains q)

/-- The units of a port, by the tables that hold them. -/
def portUnitsReset (d : Dev) (p : Nat) : Dev :=
  let mine := fun (i : Nat) => (portChans p).contains i
  { d with seq := d.seq.filter (fun x => x.1 != p), apg := d.apg.filter (fun x => x.1 != p), flp := d.flp.filter (fun x => x.1 != p),
           meas := d.meas.filter (fun x => x.1 != p), acq := d.acq.filter (fun x => x.1 != p),
           chans := d.chans.filter (fun x => !mine x.1), lvls := d.lvls.filter (fun x => !mine x.1),
           vlt := { d.vlt with applied := d.vlt.applied.filter (· != p) } }

/-- A march run holds a bank of port `p` (R428). -/
def marchIn (d : Dev) (p : Nat) : Bool := match d.srm.run with | some r => decide (r.cur / 16 = p) | none => false

/-- The port's state after steps 1 to 4 of R114, and its registers at their reset values; `fails`, `passes`: what a march that it ends
reports (R428). -/
def portResetCore (d : Dev) (p : Nat) (fails : List MarchFail) (passes : List Nat) : Dev :=
  let d := d.marchAdvance
  let d := if d.marchIn p then d.marchStop fails passes else d
  let d := (d.safeState p).seqStop p
  let d := d.acqLaunchEnd p
  let d := acqFlush ((d.acqOf p).out.length) d p
  let d := d.flpFlush p
  let d := (List.range 8).foldl (fun (d : Dev) c =>
    let n := 8 * p + c
    if d.eyeState n = 0 ∨ d.eyeState n = 3 then d else (d.eyeEnd n 3).raise (Ev.eyeDone n)) d
  let d := [0, 1, 2, 3].foldl (fun (d : Dev) e => d.sbResetCore p e) d
  let d := if d.calbusBusy p then d.calbusRelease p else d
  let d := (portChans p).foldl (fun (d : Dev) i => d.recalOver i) d
  let d := { d with tcq := { d.tcq with held := d.tcq.held.filter (fun x => x.1 != 3 + p) } }
  let d := (d.pendDrop p).tcqShow
  let d := ((d.condsOff p).portRegsReset p).portUnitsReset p
  let d := ([8, 9, 10, 11, 14] : List Nat).foldl (fun (d : Dev) k => d.bankUndefined (16 * p + k)) d
  d.trgShow

def setResetting (d : Dev) (u v : Nat) : Dev :=
  { d with boot := { d.boot with resetting := tset (fun _ => 0) d.boot.resetting u v } }
def resettingOf (d : Dev) (u : Nat) : Nat := tget (fun _ => 0) d.boot.resetting u

/-- PORT_RESET (R114). -/
def portReset (d : Dev) (p : Nat) (fails : List MarchFail) (passes : List Nat) : Dev :=
  let d := d.portResetCore p fails passes
  let d := (portPages p).foldl goOffline d
  let d := [0, 1, 2, 3].foldl (fun (d : Dev) e => d.setResetting (4 + 4 * p + e) 0) d
  d.setResetting p 1

/-- The port comes back: its stored calibration is reapplied (Table 4-10). -/
def portBack (d : Dev) (p : Nat) : Dev :=
  let o := d
  let d := (portPages p).foldl goOnline d
  let d := ((portChans p).foldl (fun (d : Dev) i => if d.calHeld i then d.calStored i else d) d).setResetting p 0
  (comeOnline o d).staleJudge p

/-- PORT_RESET_DONE (R112, R117): while the Keeper restarts, the port waits for it. -/
def portResetDone (d : Dev) (p : Nat) : Dev :=
  if 4 ≤ p ∨ d.resettingOf p ≠ 1 then d else if d.boot.keeperOn then d.portBack p else d.setResetting p 2

/-! ### Sideband engines (R115, R343) -/

/-- A register of a sideband page that the engine's reset keeps: the responder tables and AUX windows (Table 4-10). -/
def sbKeeps (a : Nat) : Bool := decide (0xC0 ≤ a % 0x1000)

/-- SIDEBAND_RESET. -/
def sbReset (d : Dev) (p e : Nat) : Dev :=
  let d := d.sbResetCore p e
  let pg := sbPage p e
  let keep := fun (a : Nat) => decide (a / 0x1000 ≠ pg) || sbKeeps a
  let d := { d with regs := d.regs.filter (fun x => keep x.1), live := d.live.filter (fun x => keep x.1),
                    hif := { d.hif with keys := d.hif.keys.filter (fun x => x.1 != pg) } }.dropSets (fun q => q != pg)
  (d.goOffline pg).setResetting (4 + 4 * p + e) 1

/-- SIDEBAND_RESET_DONE (R112). -/
def sbResetDone (d : Dev) (p e : Nat) : Dev :=
  let u := 4 + 4 * p + e
  if 4 ≤ p ∨ 4 ≤ e ∨ d.resettingOf u = 0 then d
  else
    let o := d
    comeOnline o ((d.goOnline (sbPage p e)).setResetting u 0)

/-! ### Warm reset (R112, R118) -/

/-- The warm scope: every port scope, sideband engine and channel, the timed-command queue, and the Keeper; then TIMECAL, LEVELCAL and
READY run again (Table 4-10). -/
def warmGo (d : Dev) (fails : List MarchFail) (passes : List Nat) : Dev :=
  let d := d.marchAdvance
  let d := if d.srm.run.isSome then d.marchStop fails passes else d
  let d := [0, 1, 2, 3].foldl (fun (d : Dev) p => d.portResetCore p [] []) d
  let d := (d.tcqRemove (fun _ => true)).keeperRestart
  let port := fun (pg : Nat) => [0, 1, 2, 3].any (fun p => (portPages p).contains pg)
  let d := { d with boot := { d.boot with done := 10, warm := true, warmWait := false, resetting := [],
                                          off := d.boot.off.filter (fun x => !port x.1), runs := [{ StepRun.start with form := 1 }] } }
  let d := (d.wf R.bootStat F.bootStatState 0).wf R.bootStat F.bootStatCause 3
  (((d.wf R.bootStat F.bootStatStep 11).wf R.bootStat F.bootStatForm 1).wf R.bootStat F.bootStatAttempt 1).wf R.bootStat F.bootStatOutcome 0

/-- WARM_RESET: it waits for a DRAM retrain in progress (R118). -/
def warmReset (d : Dev) (fails : List MarchFail) (passes : List Nat) : Dev :=
  if [0, 1, 2, 3].any d.mcHolding then { d with boot := { d.boot with warmWait := true } } else d.warmGo fails passes

/-- RETRAIN_END (R390), with the warm reset that waited for it. -/
def retrainOver (d : Dev) (c : Nat) (ok : Bool) (res : List Nat) (fails : List MarchFail) (passes : List Nat) : Dev :=
  if 4 ≤ c then d
  else
    let o := d
    let d := comeOnline o (d.retrainEnd c ok res)
    if d.boot.warmWait then d.warmReset fails passes else d

/-! ### Keeper restart (R117) -/

/-- KEEPER_RESTART_DONE: the first heartbeat. -/
def keeperBack (d : Dev) : Dev :=
  if d.boot.keeperOn ∨ d.boot.done < 7 then d
  else
    let seq := (d.rn R.evcLedgerSeq + d.queuedFaults) % 2 ^ 32
    let d := (({ d with boot := { d.boot with keeperOn := true } }).ledgerDrain).setN R.evcLedgerSeq seq
    [0, 1, 2, 3].foldl (fun (d : Dev) p => if d.resettingOf p = 2 then d.portBack p else d) d

end Dev
end Sys2Proof.Machine
end

