-- ==== Sys2Proof/Machine/HostIf.lean ====
section
/-! DEFINITION. The host interface beyond its register accesses (02_host_interface_and_registers.md R36 to R48; R410, R420, R427, R467,
R468): the DRAM window, the on-chip window, the DMA engines, MSI-X, and the states of the PCIe function. -/
namespace Sys2Proof.Machine
namespace Dev

/-- The host reaches the device: the link is up and the function is in D0 (R36, R37). -/
def hostUp (d : Dev) : Bool := d.hif.linkUp && !d.hif.d3hot

/-- Words that a read returned. -/
def answer (d : Dev) (ws : List Nat) : Dev := { d with hif := { d.hif with rdata := ws.map (BitVec.ofNat 32) } }

/-! ### On-chip memory by BAR4 offset (R41, R42, R410) -/

/-- What stands at a BAR4 offset. -/
inductive ChipArea where
  /-- a bank, and the page of the unit that holds it -/
  | bank (b page : Nat)
  /-- an array of results that only the device writes (R216, R293) -/
  | array (page : Nat)
  | none_
  deriving DecidableEq

def chipArea (a : Nat) : ChipArea :=
  if a < 0x800000 then .bank ((bankOf a).getD 0) (ppage (a / 0x200000) 0)
  else if a < 0x810000 then .bank 64 4
  else if a < 0x820000 then .bank 65 0x51
  else if 0x1400000 ≤ a ∧ a < 0x1408000 then .array (0x200 + (a - 0x1400000) / 0x400)
  else if 0x1410000 ≤ a ∧ a < 0x1420000 then .array (0x240 + (a - 0x1410000) / 0x400)
  else if 0x1500000 ≤ a ∧ a < 0x1508000 then .array (0x200 + (a - 0x1500000) / 0x400)
  else .none_

/-- The area takes no writes from outside: the event queue, capture staging, the trigger working store and the header block of the
sideband area (R338, R410, R443). -/
def chipReadOnly (a : Nat) : Bool :=
  let o := a % 0x200000
  (decide (0x800000 ≤ a) && decide (a < 0x810000)) ||
    (decide (a < 0x800000) && ((decide (0x1C0000 ≤ o) && decide (o < 0x1E0000)) || decide (0x1F0000 ≤ o) ||
      (decide (0x1EAE00 ≤ o) && decide (o < 0x1EAE40))))

/-- The unit of an area is offline; the event queue's own bank may be out (Table 4-5). -/
def chipOffline (d : Dev) (page : Nat) : Bool := d.offline false page || (page == 4 && d.rb (R.srmBank 64) F.srmBankFaulty)

/-- Read `n` bytes that lie in one area: 0 where nothing is backed, offline, sealed, or under a destructive march (R41, R42, R420, R468).
`plain`: the reader is not the port's own master. -/
def chipRead1 (d : Dev) (a n : Nat) : Dev × List Byte :=
  let zero := List.replicate n (0 : Byte)
  match chipArea a with
  | .none_ => (d, zero)
  | .array page => (d, if d.offline false page then zero else mread d.sram a n)
  | .bank b page =>
    if d.chipOffline page ∨ d.sealed b then (d, zero)
    else if d.marchHolds b then (d.cnt R.srmMarchDrops F.all 1, zero)
    else (d.bankTouch b, mread d.sram a n)

/-- A write is dropped and counted by the unit that is offline (R42). -/
def chipDrop (d : Dev) (page : Nat) : Dev := d.cnt (pstat page) F.stDrops 1

/-- Write bytes that lie in one area; `be`: which of them are enabled. -/
def chipWrite1 (d : Dev) (a : Nat) (bs : List Byte) (be : List Bool) : Dev :=
  match chipArea a with
  | .none_ => d
  | .array page => if d.offline false page then d.chipDrop page else d
  | .bank b page =>
    if d.chipOffline page then d.chipDrop page
    else if d.sealed b then d
    else if d.marchHolds b then d.cnt R.srmMarchDrops F.all 1
    else
      let d := d.bankTouch b
      (List.range bs.length).foldl (fun (d : Dev) i =>
        if (be[i]?).getD true && !chipReadOnly (a + i) then d.sramWrite (a + i) ((bs.drop i).take 1) else d) d

/-- Cut `n` bytes from `a` at the 1 KiB boundaries at which areas may change: start and length of each piece. -/
def pieces : Nat → Nat → Nat → List (Nat × Nat)
  | 0, _, _ => []
  | f + 1, a, n => if n = 0 then [] else
    let k := min n (1024 - a % 1024)
    (a, k) :: pieces f (a + k) (n - k)

def chipRead (d : Dev) (a n : Nat) : Dev × List Byte :=
  (pieces (n / 1024 + 2) a n).foldl (fun (x : Dev × List Byte) q =>
    let r := x.1.chipRead1 q.1 q.2
    (r.1, x.2 ++ r.2)) (d, [])

def chipWrite (d : Dev) (a : Nat) (bs : List Byte) (be : List Bool) : Dev :=
  (pieces (bs.length / 1024 + 2) a bs.length).foldl (fun (d : Dev) q =>
    d.chipWrite1 q.1 ((bs.drop (q.1 - a)).take q.2) ((be.drop (q.1 - a)).take q.2)) d

/-- Bits of a byte-enable mask, four to a dword. -/
def beBits (n be : Nat) : List Bool := (List.range n).map (nbit be)

/-- BAR4_ACCESS (R42): `words` of a write, `n` dwords of a read, byte enables `be`, four to a dword; `waits`: cycles in which the access
waited while another master held its bank (R412). -/
def bar4 (d : Dev) (write : Bool) (off n : Nat) (words : List Nat) (be waits : Nat) : Dev :=
  if !d.hostUp then d
  else
    let d := d.marchAdvance
    let d := match bankOf off with
      | some b => d.cnt (if b < 64 then R.srmBcc6 b else if b = 64 then R.srmBcc1 b else R.srmBcc0 b) F.all waits
      | none => d
    if write then d.chipWrite off (wordsBytes words) (beBits (4 * words.length) be)
    else
      let r := d.chipRead off (4 * n)
      r.1.answer ((List.range n).map (fun i => leNat ((r.2.drop (4 * i)).take 4)))

/-! ### The DRAM window (R39, R40) -/

/-- One line's part of a window write: a whole line, or a merge of the enabled bytes (R376). -/
def windowLine (d : Dev) (a : Nat) (bs : List (Byte × Bool)) : Dev :=
  if a % 64 = 0 ∧ bs.length = 64 ∧ bs.all (fun x => x.2) then d.dramFull a (bs.map Prod.fst)
  else
    let old := mread d.dram a bs.length
    let new := (List.range bs.length).map (fun i => match bs[i]? with
      | some (b, true) => b
      | _ => (old[i]?).getD 0)
    if bs.any (fun x => x.2) then d.dramPart 3 8 a new else d

/-- Cut at line boundaries. -/
def linePieces : Nat → Nat → Nat → List (Nat × Nat)
  | 0, _, _ => []
  | f + 1, a, n => if n = 0 then [] else
    let k := min n (64 - a % 64)
    (a, k) :: linePieces f (a + k) (n - k)

/-- BAR2_ACCESS (R40); `bad`: a line read is uncorrectable, so that the data is undefined. -/
def bar2 (d : Dev) (write : Bool) (off n : Nat) (words : List Nat) (be : Nat) (bad : Bool) : Dev :=
  if !d.hostUp then d
  else
    let a := d.wide R.hifW2BaseLo 2 + off % 2 ^ 32
    let len := 4 * (if write then words.length else n)
    let inside := ((List.range (len / 4)).filter (fun i => d.dramOk (a + 4 * i) 4)).length
    let d := if inside < len / 4 then d.cnt R.hifW2ErrCnt F.all 1 else d
    if write then
      let bs := ((wordsBytes words).zip (beBits len be)).take (4 * inside)
      (linePieces (len / 64 + 2) a bs.length).foldl (fun (d : Dev) q => d.windowLine q.1 ((bs.drop (q.1 - a)).take q.2)) d
    else
      let r := d.dramRead 3 8 a (4 * inside)
      let free := bad || r.2.1
      let k := r.1.fresh
      let d := if free then r.1.burn else r.1
      d.answer ((List.range n).map (fun i =>
        if inside ≤ i then 0xFFFFFFFF
        else if free then Config.freeValue (2 ^ 42 + k * 2 ^ 16 + i)
        else leNat ((r.2.2.drop (4 * i)).take 4)))

/-! ### DMA (R43 to R46, R467) -/

def dmaOf (d : Dev) (e : Nat) : Dma := tget (fun _ => Dma.reset) d.dma e
def putDma (d : Dev) (e : Nat) (x : Dma) : Dev := { d with dma := tset (fun _ => Dma.reset) d.dma e x }

/-- Put what the host has written into the model's host memory. -/
def hostPut (d : Dev) (l : List (Nat × List Nat)) : Dev := l.foldl (fun (d : Dev) x => d.hostWrite x.1 (x.2.map (BitVec.ofNat 8))) d

def dmaSize (d : Dev) (e : Nat) : Nat := 2 ^ d.rf (R.dmaCtrl e) F.dmaCtrlSizeLog2

/-- The engine takes its next descriptor where it may (R43). -/
def dmaKick (d : Dev) (e : Nat) : Dev :=
  let x := d.dmaOf e
  if x.desc.isSome ∨ !d.rb (R.dmaCtrl e) F.dmaCtrlEnable ∨ d.rb (R.dmaStat e) F.dmaStatStoppedErr ∨ d.hif.d3hot ∨
      d.rn (R.dmaHead e) = d.rn (R.dmaTail e) then d
  else
    let a := d.wide (R.dmaRingLo e) 2 + 32 * d.rn (R.dmaHead e)
    let ws := (List.range 8).map (fun i => BitVec.ofNat 32 (mnat d.hostMem (a + 4 * i) 4))
    (d.putDma e { x with desc := some ws, startGtc := d.now / hclk * hclk, wiped := false, aborting := false }).wf
      (R.dmaStat e) F.dmaStatRunning 1

/-- The engine stops at the next 4 KiB boundary; `ENABLE` reads 0 (R45). -/
def dmaAbort (d : Dev) (e : Nat) : Dev :=
  let d := d.wf (R.dmaCtrl e) F.dmaCtrlEnable 0
  if (d.dmaOf e).desc.isSome then d.putDma e { d.dmaOf e with aborting := true } else d

/-- `ENABLE` goes from 0 to 1 (R46). -/
def dmaEnable (d : Dev) (e : Nat) : Dev :=
  let d := ((d.setN (R.dmaHead e) 0).setN (R.dmaTail e) 0).setN (R.dmaDoneCnt e) 0
  (d.putDma e { d.dmaOf e with phase := true }).wf (R.dmaStat e) F.dmaStatStoppedErr 0

/-- Destination banks of a decrypting load: wholly in banks 0 to 7 or 12 to 13 of one pool (R467). -/
def decryptOk (a n : Nat) : Bool :=
  let o := a % 0x200000
  decide (a < 0x800000) && (decide (o + n ≤ 0x100000) || (decide (0x180000 ≤ o) && decide (o + n ≤ 0x1C0000)))

/-- Seal every bank of a range (R468). -/
def sealRange (d : Dev) (a n : Nat) : Dev :=
  if n = 0 then d
  else (List.range 64).foldl (fun (d : Dev) b =>
    let s := bankSpan b
    if a < s.1 + s.2 ∧ s.1 < a + n then d.setSeal b true else d) d

/-- Backed BAR4 range (Table 2-3). -/
def chipBacked (a n : Nat) : Bool := decide (a + n ≤ 0x820000) || (decide (0x1000000 ≤ a) && decide (a + n ≤ 0x2000000))

/-- The unit of some on-chip byte of the range is offline. -/
def chipAnyOff (d : Dev) (a n : Nat) : Bool := (pieces (n / 1024 + 2) a n).any (fun q => match chipArea q.1 with
  | .bank _ page => d.chipOffline page
  | .array page => d.offline false page
  | .none_ => false)

/-- Move the first `n` bytes of a descriptor. -/
def dmaMove (d : Dev) (e : Nat) (dir chip : Bool) (host dev n : Nat) : Dev :=
  if dir then
    let r := if chip then d.chipRead dev n else ((d.dramRead 3 e dev n).1, mread d.dram dev n)
    r.1.hostWrite host r.2
  else
    let bs := mread d.hostMem host n
    if chip then d.chipWrite dev bs [] else d.dramWrite 3 e dev bs

/-- The decrypting load of a descriptor: its status, and what it writes (R467, R471). -/
def dmaDecrypt (v : Vault) (d : Dev) (wiped : Bool) (slot host dev len : Nat) (x : DmaEnd) : Dev × Nat × Nat :=
  let bank := fun (d : Dev) n => if n = 0 then d else d.sealRange dev n
  if wiped ∨ 4 ≤ v.season ∨ !((d.vlt.slots[slot]?).map KeySlot.valid).getD false then (d.raise Ev.decryptFail, 7, 0)
  else
    match x.plain, decide (32 ≤ len ∧ mnat d.hostMem (host + 12) 4 = len - 32) with
    | some p, true =>
      let bs := (List.range (len - 32)).map (fun i => BitVec.ofNat 8 ((p[i]?).getD 0))
      ((bank d (len - 32)).sramWrite dev bs, 0, len)
    | _, _ =>
      let n := min x.moved (len - 32)
      let k := d.fresh
      let bs := (List.range n).map (fun i => BitVec.ofNat 8 (Config.freeValue (2 ^ 43 + k * 2 ^ 20 + i)))
      (((bank d.burn n).sramWrite dev bs).raise Ev.decryptFail, 7, n)

/-- Carry a descriptor to its end: status, bytes moved and NOINIT (Tables 2-4 to 2-6). -/
def dmaRun (v : Vault) (d : Dev) (e : Nat) (q : Dma) (ws : List Nat) (x : DmaEnd) : Dev × Nat × Nat × Bool :=
  let w := fun i => (ws[i]?).getD 0
  let len := w 1
  let host := w 2 + 2 ^ 32 * w 3
  let hi := w 5
  let dev := w 4 + 2 ^ 32 * (hi % 64)
  let chip := nbits hi 7 6 == 1
  let dir := nbit (w 0) 20
  let dec := nbit (w 0) 23
  let bad := nbits (w 0) 31 28 ≠ 0 ∨ nbits (w 0) 19 16 ≠ 0 ∨ hi / 2 ^ 8 ≠ 0 ∨ 2 ≤ nbits hi 7 6 ∨ w 6 ≠ 0 ∨ w 7 ≠ 0 ∨ host % 4 ≠ 0 ∨
    dev % 4 ≠ 0 ∨ len % 4 ≠ 0 ∨ (chip ∧ 2 ^ 26 ≤ dev) ∨ (dec ∧ (dir ∨ !chip)) ∨ (dec ∧ !decryptOk dev (len - 32))
  if bad then (d, 8, 0, false)
  else if len = 0 then (d, 1, 0, false)
  else if (chip ∧ !chipBacked dev len) ∨ (!chip ∧ !d.dramOk dev len) then (d, 4, 0, false)
  else if chip ∧ d.chipAnyOff dev len then (d, 5, min x.moved len, false)
  else if dec then
    let r := dmaDecrypt v d q.wiped (nbits (w 0) 27 24) host dev len x
    (r.1, r.2.1, r.2.2, false)
  else
    let noinit := dir && !chip && d.dramNoinit dev len
    let bl := if dir ∧ !chip then
        ((List.range (lineCount dev len)).map (fun i => (dev / 64 + i) * 64)).find? (fun l =>
          (d.poisonOf l).isSome || x.uncorr == some l)
      else none
    let stop := min x.moved len / 4 * 4
    if x.hostErr then (d.dmaMove e dir chip host dev stop, 3, stop, noinit)
    else match bl with
      | some l =>
        let n := l - dev
        let d := d.dmaMove e dir chip host dev n
        ((d.dramRead 3 e l 1).1, 2, n, noinit)
      | none =>
        -- an abort takes effect at a 4 KiB boundary (R45)
        if q.aborting ∧ stop / 4096 * 4096 < len then
          (d.dmaMove e dir chip host dev (stop / 4096 * 4096), 6, stop / 4096 * 4096, noinit)
        else (d.dmaMove e dir chip host dev len, if q.aborting then 6 else 0, len, noinit)

/-- DMA_DESCRIPTOR_COMPLETE: the descriptor in progress ends, its completion record is written, and the next one begins (R43 to R45). -/
def dmaComplete (v : Vault) (d : Dev) (e : Nat) (x : DmaEnd) : Dev :=
  let q := d.dmaOf e
  match q.desc with
  | none => d
  | some words =>
    if 8 ≤ e then d
    else
      let ws := words.map BitVec.toNat
      let w0 := ws.headD 0
      let d := (d.hostPut x.host).marchAdvance
      let r := dmaRun v d e q ws x
      let d := r.1
      let st := r.2.1
      let i := d.rn (R.dmaHead e)
      let n := d.dmaSize e
      let el := min (2 ^ 32 - 1) ((d.now - q.startGtc) / hclk)
      let del := min x.delayed el
      let thr := min x.throttled (el - del)
      let sag := x.sag || d.rb R.pwrSagStat F.pwrSagStatActive
      let rec0 := st * 2 ^ 24 + b2n q.phase * 2 ^ 23 + b2n r.2.2.2 * 2 ^ 22 + b2n x.corrected * 2 ^ 21 + b2n sag * 2 ^ 20 + w0 % 2 ^ 16
      let d := d.hostWrite (d.wide (R.dmaCplLo e) 2 + 32 * i) (wordsBytes [rec0, r.2.2.1, q.startGtc % 2 ^ 32, q.startGtc / 2 ^ 32 % 2 ^ 32,
        q.startGtc / 2 ^ 64 % 2 ^ 16, el, del, thr])
      let d := d.putDma e { phase := if i + 1 = n then !q.phase else q.phase, desc := none, startGtc := 0, wiped := false, aborting := false }
      let d := (d.setN (R.dmaHead e) ((i + 1) % n)).setN (R.dmaDoneCnt e) ((d.rn (R.dmaDoneCnt e) + 1) % 2 ^ 32)
      let d := (d.wf (R.dmaStat e) F.dmaStatRunning 0).wf (R.dmaStat e) F.dmaStatLastStatus st
      let d := if 2 ≤ st ∧ d.rb (R.dmaCtrl e) F.dmaCtrlStopOnErr then d.wf (R.dmaStat e) F.dmaStatStoppedErr 1 else d
      let d := if nbit w0 21 then d.msixAssert (d.rf (R.dmaCtrl e) F.dmaCtrlVector) else d
      let d := if 2 ≤ st ∧ st ≠ 6 then d.raise Ev.dmaError else d
      let d := if x.aer then d.raise Ev.pcieAerUncorr else d
      d.dmaKick e

/-! ### The PCIe function (R36, R37, R48, R101) -/

/-- Send every message that was held (R48). -/
def msixAll (d : Dev) : Dev := (List.range 64).foldl (fun (d : Dev) v => d.msixRelease v) d

/-- PCIE_LINK_UP (R101): once HOSTLINK has made the endpoint ready. -/
def linkUp (d : Dev) : Dev :=
  if d.boot.done < 6 ∨ d.rb R.bootDegraded F.bootDegradedHostlink ∨ d.hif.linkUp then d
  else (({ d with hif := { d.hif with linkUp := true, linkWasUp := true } }).setCond Ev.pcieLinkDown false).msixAll

/-- HOST_INTERFACE_RESET (R36): `kind` 0 PERST_N, 1 link-down, 2 hot reset, 3 Function Level Reset, which alone leaves the link up. -/
def hifReset (d : Dev) (kind : Nat) : Dev :=
  if d.boot.done < 6 then d
  else
    let d := if d.updating && d.rb R.bootKupdCtrl F.bootKupdCtrlSrc then d.updateFail 0 5 else d
    let d := { d.clrPage 0x60 with dma := [] }
    let d := { d with hif := { d.hif with fmask := false, d3hot := false, linkUp := d.hif.linkUp && kind == 3 } }
    let d := d.setCond Ev.pcieLinkDown (d.hif.linkWasUp && !d.hif.linkUp)
    d.raise Ev.hifReset

/-- D3HOT_ENTRY (R37): every engine stops as if `ABORT` had been written. -/
def d3Enter (d : Dev) : Dev :=
  if !d.hif.linkUp ∨ d.hif.d3hot then d
  else
    let d := (List.range 8).foldl (fun (d : Dev) e => d.dmaAbort e) d
    { d with hif := { d.hif with d3hot := true } }

/-- D3HOT_EXIT. -/
def d3Leave (d : Dev) : Dev := if d.hif.d3hot then ({ d with hif := { d.hif with d3hot := false } }).msixAll else d

end Dev
end Sys2Proof.Machine
end

