-- ==== Sys2Proof/Machine/WriteRules.lean ====
section
/-! DEFINITION. What a register refuses (Table 2-11 tests 7 and 8): reserved encodings, writes that a chapter declares illegal in the
present state, and refused zeros.  One row per register that has such a rule; the bits of a register that belong to no field come
from the register map. -/
namespace Sys2Proof.Machine

/-- A signed 24-bit deskew within ±8,388 ticks (Table 7-9). -/
def deskewOk (w : Nat) : Bool := decide (w % 2 ^ 24 ≤ 8388) || decide (2 ^ 24 - 8388 ≤ w % 2 ^ 24)

/-- A condition unit's `TYPE`, `MODE` and `SEL` (Table 11-1); `n` is the unit's own number. -/
def cuLegal (n w : Nat) : Bool :=
  let sel := nbits w 19 16
  let mode := nbits w 11 8
  match nbits w 3 0 with
  | 0 => true
  | 1 => decide (sel ≤ 7 ∧ mode ≤ 1)
  | 2 => decide (sel = 0 ∧ mode = 0)
  | 3 => decide (sel ≤ 3 ∧ mode ≤ 3)
  | 4 => decide (2 ≤ mode ∧ mode ≤ 7)
  | 5 => decide (mode ≤ 3)
  | 6 => decide (mode ≤ 7)
  | 7 => decide (sel ≤ 3 ∧ 1 ≤ mode ∧ mode ≤ 5)
  | 8 => decide (sel = 0 ∧ mode = 0)
  | 9 => decide (sel ≤ 7 ∧ mode ≤ 1)
  | 10 => decide (sel < n ∧ mode ≤ 1)
  | _ => false

/-- `CEC_LA`: no two enabled fields alike, and none 0xF (R345). -/
def cecLaLegal (w : Nat) : Bool :=
  let la := fun (i : Nat) => nbits w (4 * i + 3) (4 * i)
  let en := fun (i : Nat) => nbit w (16 + i)
  [0, 1, 2, 3].all (fun i => !en i || (decide (la i ≠ 15) && [0, 1, 2, 3].all (fun j => decide (j ≤ i) || !en j || decide (la i ≠ la j))))

/-- `EVG_CFGk`: `REACT` is reserved for PORT_REACT and for reserved sources (R438). -/
def evgLegal (g o w : Nat) : Bool :=
  let s := 32 * g + (o - 0x100) / 4
  !(decide (0x100 ≤ o ∧ o < 0x180) && (srcIsReact s || (srcBase s).isNone)) || decide (nbits w 14 12 = 0)

/-- The owner code of a utility channel in the two ownership words. -/
def ownCode (w0 w1 u : Nat) : Nat := if u < 8 then nbits w0 (4 * u + 3) (4 * u) else nbits w1 (4 * (u - 8) + 3) (4 * (u - 8))

namespace Dev

/-- The port's acquisition engine is not IDLE or DONE (R332, R375). -/
def acqBusy (d : Dev) (p : Nat) : Bool := d.acqState p != 0 && d.acqState p != 6

/-- A write would change the stored bits of a mask. -/
def moves (d : Dev) (a w mask : Nat) : Bool := (d.rn a ^^^ w) &&& mask != 0

/-- The fetcher or drain is using descriptor `i` of a ring (R149). -/
def descInUse (d : Dev) (p : Nat) (rx : Bool) (i : Nat) : Bool :=
  let w := walkOf (d.seqOf p) rx
  d.running p && w.idx == i && !w.ended && !w.waiting && !w.bad && d.descValid p rx i

/-- An owner is active (R17). -/
def ownerActive (d : Dev) (p code : Nat) : Bool :=
  match code with
  | 1 => d.running p
  | 2 => d.sbOn p 0
  | 3 | 4 => d.sbOn p 1
  | 5 | 6 => d.sbOn p 2
  | 7 => d.sbOn p 3
  | _ => false

/-- A write of the ownership registers is legal (R17, R262): `w0`, `w1` as both would stand after it. -/
def ucownLegal (d : Dev) (p w0 w1 : Nat) : Bool :=
  let o0 := d.rn (R.prtUcown0 p)
  let o1 := d.rn (R.prtUcown1 p)
  (List.range 16).all (fun u =>
    let new := ownCode w0 w1 u
    let old := ownCode o0 o1 u
    let m := 16 * p + u
    decide (new ≤ 8) &&
      (decide (new < 2 ∨ 7 < new) || (List.range u).all (fun v => ownCode w0 w1 v != new)) &&
      (decide (new = old) || (!d.ownerActive p old && !d.ownerActive p new &&
        !(old == ownPmu && d.rb (pctl (0x240 + m)) F.ctlEnable && d.pmuMode m != 0))))

/-- A responder entry `n` as written is legal beside the others (Table 12-9). -/
def respLegal (d : Dev) (p n w : Nat) : Bool :=
  let e := fun (i : Nat) => if i = n then w else d.rn (R.ddcRespCfg p i)
  let en := fun (i : Nat) => nbit (e i) 31
  let adr := fun (i : Nat) => nbits (e i) 22 16
  let seg := (List.range 8).any (fun i => en i && nbit (e i) 28)
  decide (nbits w 15 8 ≤ 128) && decide (nbits w 6 0 + nbits w 15 8 ≤ 128) &&
    (List.range 8).all (fun i => !en i || ((List.range i).all (fun j => !en j || adr j != adr i) && !(adr i == 0x30 && seg)))

/-- An AUX window `n` as written is legal beside the others (R354). -/
def winLegal (d : Dev) (p n wa wb : Nat) : Bool :=
  let a := fun (i : Nat) => if i = n then wa else d.rn (R.auxWinA p i)
  let b := fun (i : Nat) => if i = n then wb else d.rn (R.auxWinB p i)
  let start := fun (i : Nat) => nbits (a i) 19 0
  let len := fun (i : Nat) => nbits (b i) 13 0
  decide (nbits wb 28 16 + nbits wb 13 0 ≤ 8192) &&
    (List.range 8).all (fun i => i == n || !nbit (a i) 31 || !nbit wa 31 ||
      decide (start i + len i ≤ start n) || decide (start n + len n ≤ start i))

/-- Fast channels of a packer's lane list within its lane count, from its two registers; a C-PHY lane is a pair (R178). -/
def laneChans (pack lanes : Nat) : List Nat :=
  (List.range (nbits pack 7 4)).flatMap (fun i =>
    let c := nbits lanes (3 * i + 2) (3 * i)
    if nbits pack 3 0 = 7 then [2 * c, 2 * c + 1] else [c])

/-- A write of `w` at offset `o` of the APG page leaves no channel in both lane lists (R178). -/
def lanesApart (d : Dev) (p o w : Nat) : Bool :=
  let v := fun (k : Nat) => if o = k then w else d.rn (portPage p 3 + k)
  let tx := laneChans (v 0xF0) (v 0xF4)
  (laneChans (v 0xF8) (v 0xFC)).all (fun c => !tx.contains c)

/-- A write of an APG register other than under R166: its encodings (06), and no channel in both lane lists (R178). -/
def apgLegal (d : Dev) (p o : Nat) (ws : List Nat) : Bool :=
  let w := ws.headD 0
  if o = 0x48 ∨ o = 0x4C then decide (w ≤ 65536)
  else if o = 0x60 then decide (nbits w 3 0 ≤ 8)
  else if o = 0xF4 ∨ o = 0xFC then d.lanesApart p o w
  else if o = 0xF0 ∨ o = 0xF8 then
    d.lanesApart p o w && decide (nbits w 3 0 ≤ 7) && decide (nbits w 7 4 ≤ 8) && decide (nbits w 10 8 ≤ 4) && decide (nbits w 13 12 ≤ 2)
  else if 0xB0 ≤ o ∧ o < 0xD0 ∧ o % 8 = 0 then decide (nbits w 2 0 ≤ 5)
  else if 0x100 ≤ o ∧ o < 0x180 then U.legal (w + 2 ^ 32 * (ws[1]?).getD 0)
  else true

/-- A write of a codec register: its encodings (R179, R180, Table 6-11). -/
def cdcLegal (d : Dev) (p o w : Nat) : Bool :=
  let c := (o - 0x40) / 0x10
  if 0x40 ≤ o ∧ o < 0xC0 ∧ o % 0x10 = 0 then
    decide (nbits w 3 0 ≤ 7) && !(nbits w 3 0 == 1 && nbits w 5 4 == 3) && !(nbits w 3 0 == 7 && c % 2 == 1)
  else if 0x40 ≤ o ∧ o < 0xC0 ∧ o % 0x10 = 4 then decide (nbits w 7 0 < groupLen (d.rf (R.cdcCfg p c) F.cdcCfgMode))
  else true

/-- A write of a `TSA` register: period, spread, jitter (R191, R208, R211, R212). -/
def tsaLegal (o : Nat) (ws : List Nat) : Bool :=
  let w := ws.headD 0
  let w1 := (ws[1]?).getD 0
  if o < 0x100 then true
  else match o % 0x40 with
    | 0x00 => decide (2048 * 2 ^ 24 ≤ w + 2 ^ 24 * w1) && decide (w + 2 ^ 24 * w1 ≤ 262144 * 2 ^ 24)
    | 0x14 => decide (1048576000 ≤ w ∧ w ≤ 2097152000 ∧ w1 ≤ 83886)
    | 0x1C => decide (nbits w 25 0 ≤ 52429)
    | 0x20 => decide (nbits w 18 0 ≤ 262)
    | _ => true

/-- A write of a trigger register beyond R332 (Tables 11-1, 11-5). -/
def trgLegal (d : Dev) (p o w : Nat) : Bool :=
  if o = 0x40 then decide (2097152 ≤ w)
  else if o = 0x44 then d.trgClaimOk p (BitVec.ofNat 32 w)
  else if 0x80 ≤ o ∧ o < 0xA0 ∧ o % 8 = 0 then decide (nbits w 10 9 ≤ 1)
  else if 0x100 ≤ o ∧ o < 0x200 ∧ o % 0x20 = 0 then cuLegal ((o - 0x100) / 0x20) w
  else true

/-- A write of an `FCH` register (Table 7-9, R225, R238, R249, R287, R290, R294, R305). -/
def fchLegal (d : Dev) (n o w : Nat) : Bool :=
  let a := (0x200 + n) * 0x1000 + o
  let on := d.rb (pctl (0x200 + n)) F.ctlEnable
  let run := d.running (n / 8)
  let scan := decide (d.eyeState n = 1 ∨ d.eyeState n = 2)
  if o = 0x40 ∨ o = 0x44 then deskewOk w
  else if o = 0x60 then
    decide (nbits w 15 14 ≤ 2) && decide (nbits w 13 12 ≤ 1) && decide (nbits w 9 8 ≤ 1) &&
      !(nbits w 9 8 == 1 && nbits w 15 14 == 0) && !(on && d.moves a w 0x300)
  else if o = 0x64 then decide (nbits w 10 0 ≠ 0 ∧ nbits w 10 0 < nbits w 21 11)
  else if o = 0x68 then !(on && d.moves a w 1)
  else if o = 0x80 then decide (nbits w 19 16 ≤ 3) && !(run && d.moves a w 0xFFFFFFFF)
  else if o = 0x84 then
    decide (nbits w 1 0 ≤ 2) && decide (nbits w 11 8 ≤ 6) && !(nbits w 1 0 == 2 && nbits w 18 16 == n % 8) &&
      !(run && d.moves a w 0xFFFFFFFF)
  else if o = 0x88 then decide (d.rf (R.fchCdrCfg n) F.fchCdrCfgPreset = 0) && decide (nbits w 31 28 ≤ 8)
  else if o = 0x94 then !(nbit w 31 && scan) && decide (nbits w 25 24 ≤ 1)
  else if o = 0xA4 then !scan && decide (nbits w 24 16 ≤ 256) && decide (nbits w 8 0 ≤ 256)
  else if 0x98 ≤ o ∧ o ≤ 0xB0 then !scan
  else if 0x100 ≤ o ∧ o < 0x300 ∧ o % 0x20 = 0x18 then decide (nbits w 3 0 ≤ 7) && decide (nbits w 6 4 ≤ 4)
  else true

/-- A write of a `UCH` register (Tables 8-8, 8-14, R249, R261). -/
def uchLegal (d : Dev) (m o w : Nat) : Bool :=
  let a := (0x240 + m) * 0x1000 + o
  let on := d.rb (pctl (0x240 + m)) F.ctlEnable
  if o = 0x40 ∨ o = 0x44 then deskewOk w
  else if o = 0x48 then
    decide (nbits w 10 8 ≤ 5) && decide (nbits w 7 6 ≤ 1) && decide (nbits w 5 4 ≤ 2) && decide (nbits w 1 0 ≤ 2) &&
      !(on && d.moves a w 3)
  else if o = 0x5C then
    let old := d.rf a F.uchPmuCtrlPmode
    let new := nbits w 25 24
    decide (nbits w 30 28 ≤ 4) && decide (new ≤ 2) && !(old != 0 && new != 0 && old != new)
  else if 0x100 ≤ o ∧ o < 0x200 ∧ o % 0x10 = 0xC then decide (nbits w 3 0 ≤ 4) && decide (nbits w 6 4 ≤ 4)
  else true

/-- A write of a register of the `HIF` page (R46). -/
def hifLegal (d : Dev) (o w : Nat) : Bool :=
  if 0x100 ≤ o ∧ o < 0x300 then
    let e := (o - 0x100) / 0x40
    let on := d.rb (R.dmaCtrl e) F.dmaCtrlEnable
    match o % 0x40 with
    | 0x00 => decide (4 ≤ nbits w 11 8) && !(on && d.moves (R.dmaCtrl e) w 0xF00)
    | 0x08 | 0x10 => !on
    | 0x18 => decide (w < d.dmaSize e)
    | _ => true
  else true

/-- A write of a register of a sideband page (R339, R345, R358, R359, R360). -/
def sbLegal (d : Dev) (p e o w : Nat) : Bool :=
  let a := sbReg p e o
  let on := d.sbOn p e
  if o = 0x48 then d.wptrOk p e (BitVec.ofNat 32 w)
  else match e with
    | 0 => if o = 0x80 then !(on && d.moves a w 0x00FF0001)
      else if o = 0x84 then cecLaLegal w && !(on && d.moves a w 0xFFFFF) else true
    | 1 => if o = 0x80 then decide (nbits w 3 2 ≤ 2) && !(on && d.moves a w 0xFD)
      else if 0xC0 ≤ o then d.respLegal p ((o - 0xC0) / 4) w else true
    | 2 => if o = 0x80 then decide (nbits w 19 18 ≤ 2) && decide (nbits w 17 16 ≤ 2) && !(on && d.moves a w 0x300FF)
      else if 0xC0 ≤ o then
        let n := (o - 0xC0) / 8
        if o % 8 = 0 then d.winLegal p n w (d.rn (R.auxWinB p n)) else d.winLegal p n (d.rn (R.auxWinA p n)) w
      else true
    | _ =>
      if o = 0x80 ∨ o = 0x84 then
        let cfg := if o = 0x80 then w else d.rn (R.hpdCfg p)
        let lim := if o = 0x84 then w else d.rn (R.hpdLim p)
        !(on && d.moves a w 0xFFFFFFFF) && decide (nbits cfg 31 16 < nbits lim 31 16) && decide (nbits lim 15 0 ≤ nbits cfg 31 16)
      else if o = 0x88 then decide (nbits w 15 0 ≠ 0) && !(nbit w 31 && d.hpdDrives p && !d.hpdPulseOk p)
      else true

/-- A write of a register of the `SEQ` or `LKS` page (R149, R160, R332). -/
def seqLegal (d : Dev) (p o w : Nat) : Bool :=
  let run := d.running p
  if o = 0x48 ∨ (0x68 ≤ o ∧ o ≤ 0x78) then !run
  else if o = 0x4C then !run && decide (w ≤ 65536)
  else true

def lksLegal (d : Dev) (p o w : Nat) : Bool :=
  let run := d.running p
  if o = 0x44 then !run && !(d.acqBusy p && d.moves (R.lksRxFmt p) w 0xFFFFFFFF)
  else if o = 0x40 ∨ o = 0x48 ∨ o = 0x64 ∨ o = 0x68 then !run
  else if 0x100 ≤ o ∧ o < 0x200 then !d.descInUse p false ((o - 0x100) / 0x10)
  else if 0x200 ≤ o ∧ o < 0x300 then !d.descInUse p true ((o - 0x200) / 0x10)
  else true

/-- A write of a register of the `FLP` page (R296, R304, R305). -/
def flpLegal (d : Dev) (p o : Nat) (same : Bool) (w : Nat) : Bool :=
  let run := d.running p
  if o = 0x40 then decide (nbits w 17 16 ≤ 2) && !(run && d.moves (R.flpCtrl p) w 0x0D030000)
  else if o = 0x48 ∨ o = 0x4C ∨ o = 0x58 ∨ o = 0x60 ∨ o = 0x70 ∨ o = 0x78 ∨ o = 0x80 then !(run && !same)
  else true

/-- A write of a register of the `ACQ` page beyond its control register (R308, R332). -/
def acqLegal (d : Dev) (p o : Nat) (same : Bool) (w : Nat) : Bool :=
  if o = 0x44 then !(d.running p && d.moves (R.acqCfg p) w 1) && !(d.acqBusy p && !same)
  else if o = 0x54 then decide (w ≤ 65536) && !(d.acqBusy p && !same)
  else if 0x4C ≤ o ∧ o ≤ 0x64 then !(d.acqBusy p && !same)
  else true

/-- A write of a register of the `MSK` page (R327, R330, R332). -/
def mskLegal (d : Dev) (p o : Nat) (same : Bool) (w : Nat) : Bool :=
  if o = 0x40 then decide (nbits w 5 4 ≤ 2)
  else if o = 0x48 then decide (nbits w 20 16 ≤ 16 ∧ nbits w 20 16 ≠ 1 ∧ nbits w 20 16 ≠ 2) && !(d.acqBusy p && !same)
  else if o = 0x4C ∨ o = 0x50 ∨ 0x100 ≤ o then !(d.acqBusy p && !same)
  else true

/-- A write of a register of the `MEAS` page (R267, R271, R274, R275). -/
def measLegal (d : Dev) (p o w : Nat) : Bool :=
  let idle := decide (d.measState p = 0)
  if o = 0x40 then idle || (!nbit w 0 && !d.moves (R.measCtrl p) w 0xF04)
  else if o = 0x48 then decide (100 ≤ w)
  else if o = 0x4C then decide (nbits w 26 24 ≤ 3) && !(nbit w 31 && d.calbusBusy p)
  else if o = 0x50 then decide (2450000 ≤ w ∧ w ≤ 2550000)
  else if 0x100 ≤ o ∧ o < 0x140 then idle && decide (nbits w 7 6 ≤ 2)
  else true

/-- No port runs, no acquisition engine is busy and no DMA engine is enabled (R375). -/
def mapFree (d : Dev) : Bool :=
  !d.anyRunning && [0, 1, 2, 3].all (fun p => !d.acqBusy p) && (List.range 8).all (fun e => !d.rb (R.dmaCtrl e) F.dmaCtrlEnable)

/-- Test 7 of Table 2-11 beyond unused bits: the value `ws` (lowest word first, refused zeros already replaced by what stands) may be
written to the register at offset `o` of instance `i` of a kind of page. -/
def writeLegal (d : Dev) (k : PageKind) (i o : Nat) (ws : List Nat) (same : Bool) : Bool :=
  let w := ws.headD 0
  let w1 := (ws[1]?).getD 0
  match k with
  | .gtc =>
    if o = 0x50 then !d.anyRunning
    else if o = 0x60 then d.syncLegal (BitVec.ofNat 32 w)
    else if o = 0x68 then decide (64 ≤ w)
    else true
  | .boot =>
    if o = 0x54 then d.kupdLegal (BitVec.ofNat 32 w) && !(nbit w 31 && d.winter)
    else if o = 0x60 then decide (w ≤ 0x80000)
    else if 0x80 ≤ o ∧ o ≤ 0xB0 then d.policyLegal ((o - 0x7C) / 4) (BitVec.ofNat 32 w)
    else true
  | .mc =>
    if o = 0x44 then decide (nbits w 2 0 ≤ 4)
    else if o = 0x4C then decide (8 ≤ nbits w 4 0 ∧ nbits w 4 0 ≤ 16)
    else if o = 0x54 then [0, 1, 2, 3].all (fun j => decide (nbits w (18 + 4 * j) (16 + 4 * j) ≤ 4))
    else true
  | .mcg =>
    if o = 0x40 then decide (nbits w 9 8 ≤ 2) && decide (nbits w 1 0 ≤ 2) && d.mapFree
    else if o = 0x44 then decide (nbits w 1 0 ≤ 2)
    else true
  | .srm =>
    if o = 0x40 then
      decide (nbits w 6 0 ≤ nbits w 14 8 ∧ nbits w 14 8 ≤ 71) && !(nbit w 27 && nbit w 26) && !(nbit w 31 && d.marchStartBad w)
    else true
  | .vlt =>
    if o = 0x48 then decide (nbits w 1 0 = 1 ∨ nbits w 1 0 = 2)
    else if o = 0x100 then !(nbit w 31 && d.applyBad w)
    else true
  | .hif => d.hifLegal o w
  | .pwr =>
    if o = 0x40 then decide (10 ≤ nbits w 7 0 ∧ nbits w 7 0 ≤ 60)
    else if o = 0x54 then decide (700 ≤ nbits w 15 0 ∧ nbits w 15 0 ≤ 800)
    else if o = 0x58 then decide (60 ≤ nbits w 23 16 ∧ nbits w 23 16 ≤ 110 ∧ nbits w 15 8 ≤ 20)
    else true
  | .prt =>
    if o = 0x50 then d.ucownLegal i w (d.rn (R.prtUcown1 i))
    else if o = 0x54 then d.ucownLegal i (d.rn (R.prtUcown0 i)) w
    else true
  | .seq => d.seqLegal i o w
  | .lks => d.lksLegal i o w
  | .apg => !d.running i && d.apgLegal i o ws
  | .cdc => !d.running i && d.cdcLegal i o w
  | .tsa => tsaLegal o ws
  | .dds => if o = 0x44 then decide (w + 2 ^ 32 * w1 ≤ 2 ^ 45) else true
  | .trg => d.trgLegal i o w && !(d.acqBusy i && o != 0x44 && !same)
  | .acq => d.acqLegal i o same w
  | .msk => d.mskLegal i o same w
  | .flp => d.flpLegal i o same w
  | .cec => d.sbLegal i 0 o w
  | .ddc => d.sbLegal i 1 o w
  | .aux => d.sbLegal i 2 o w
  | .hpd => d.sbLegal i 3 o w
  | .meas => d.measLegal i o w
  | .fch => d.fchLegal i o w
  | .uch => d.uchLegal i o w
  | .evg => evgLegal i o w
  | .glb | .clk | .evc | .qos | .mbx | .bmp => true

/-! ### Refused zeros (R7, R8) -/

/-- Fields of one register whose written zero is refused keep what stands; the answer says whether one was. -/
def zeroFields (r : RegDef) (old w : Nat) : Nat × Bool :=
  r.nz.foldl (fun (x : Nat × Bool) f => if nbits x.1 f.1 f.2 = 0 then (setNbits x.1 f.1 f.2 (nbits old f.1 f.2), true) else x) (w, false)

/-- Refused zeros that a field of one register does not show: a period as a whole (R191), the spread period (R208), and LFSR seeds for the
polynomial in force or written (R171).  `ws`: words written, `olds`: words that stand. -/
def zeroWhole (d : Dev) (k : PageKind) (i o : Nat) (olds ws : List Nat) : List Nat × Bool :=
  let w := ws.headD 0
  match k with
  | .tsa =>
    if 0x100 ≤ o ∧ o % 0x40 = 0 ∧ ws.all (· == 0) then (olds, true)
    else if 0x100 ≤ o ∧ o % 0x40 = 0x14 ∧ w = 0 then (olds.headD 0 :: ws.tail, true)
    else (ws, false)
  | .apg =>
    if 0xB0 ≤ o ∧ o < 0xD0 then
      let n := (o - 0xB0) / 8
      if o % 8 = 4 then
        if w % 2 ^ (lfsrMT (d.rf (R.apgLfsrCfg i n) F.apgLfsrCfgPoly)).1 = 0 then (olds, true) else (ws, false)
      else if nbits w 2 0 ≤ 5 ∧ d.rn (R.apgLfsrSeed i n) % 2 ^ (lfsrMT (nbits w 2 0)).1 = 0 then
        ([setNbits w 2 0 (nbits (olds.headD 0) 2 0)], true)
      else (ws, false)
    else (ws, false)
  | _ => (ws, false)

end Dev
end Sys2Proof.Machine
end

