-- ==== Sys2Proof/Machine/RegWrite.lean ====
section
/-! DEFINITION. One write to a register, by every path (R5 to R8, R55 to R62, Table 2-11): the tests in their order, the staging of wide
values, and the effect that the register's chapter gives the write. -/
namespace Sys2Proof.Machine

/-- A write on its way: the path it comes by, what the outside world adds to it, and for a delivered timed command its stamp with its
tag, `NOTIFY` and lateness (R89, R90). -/
structure Access where
  path : Nat
  out : Sys2Proof.Outside
  defer : Option (Nat × (Nat × Bool × Bool))
  deriving DecidableEq, Repr

/-- Statuses of a write (Table 3-2): what a timed command reports. -/
def St.done : Nat := 0
def St.denied : Nat := 2
def St.offline : Nat := 3
def St.locked : Nat := 4
def St.badWrite : Nat := 5
def St.paramZero : Nat := 6
/-- Not a status: a delivered change waits for its boundary, and ends the command there. -/
def St.waits : Nat := 7

/-- Page of the engine `e` of port `p` by kind of page. -/
def sbEngine : PageKind → Option Nat
  | .cec => some 0
  | .ddc => some 1
  | .aux => some 2
  | .hpd => some 3
  | _ => none

/-- Channel number of a channel page: fast 0 to 31, utility from 32. -/
def pageChan : PageKind → Nat → Option Nat
  | .fch, n => some n
  | .uch, m => some (32 + m)
  | _, _ => none

namespace Dev

/-! ### Page locks (Table 2-11 tests 4 and 5, R61, R436, R511) -/

def pageLocked (d : Dev) (page : Nat) : Bool := (d.hif.keys.find? (fun x => x.1 == page)).isSome

/-- The pages that show the event bits of a page: its group pages, or the block pages of a group (R56, R436). -/
def bitPages (k : PageKind) (i : Nat) : List Nat :=
  let x := pageSources k i
  match k with
  | .evg => ((List.range 32).filter (fun j => (srcBase (x.1 + j)).isSome)).map (fun j => srcBlockPage (x.1 + j))
  | _ => if x.2 = 0 then [] else [0x10 + x.1 / 32]

/-- Test 4: the write falls under a page lock. -/
def lockBars (d : Dev) (page off : Nat) (k : PageKind) (i : Nat) : Bool :=
  (d.pageLocked page && (off == 8 || off == 0x18 || off == 0x1C || decide (0x40 ≤ off))) ||
    ((off == 0x18 || off == 0x1C) && (bitPages k i).any d.pageLocked) ||
    (k == .evg && decide (0x100 ≤ off ∧ off < 0x180) && (srcBase (32 * i + (off - 0x100) / 4)).isSome &&
      d.pageLocked (srcBlockPage (32 * i + (off - 0x100) / 4)))

/-- Test 5: a write of `PAGE_LOCK`. -/
def lockWrite (d : Dev) (page : Nat) (k : PageKind) (w : Nat) : Dev × Nat :=
  let key := w / 2 ^ 16
  let want := nbit w 0
  if k == .hif || key == 0 || nbits w 7 1 != 0 then (d.badWrite page, St.badWrite)
  else match d.hif.keys.find? (fun x => x.1 == page) with
    | none =>
      if want then
        let d := { d with hif := { d.hif with keys := d.hif.keys ++ [(page, key)] } }
        ((d.wf (plock page) F.lockLocked 1).wf (pstat page) F.stLocked 1, St.done)
      else (d, St.done)
    | some x =>
      if x.2 = key then
        if want then (d, St.done)
        else
          let d := { d with hif := { d.hif with keys := d.hif.keys.filter (fun y => y.1 != page) } }
          (((d.wf (plock page) F.lockLocked 0).wf (plock page) F.lockFail 0).wf (pstat page) F.stLocked 0, St.done)
      else ((d.cnt (plock page) F.lockFail 1).lockViol page, St.locked)

/-! ### Common registers (R55, Table 2-10) -/

/-- `RESET_REQ` on a page that has it (Table 4-10). -/
def resetReq (d : Dev) (out : Sys2Proof.Outside) (page : Nat) (k : PageKind) (i : Nat) : Dev :=
  match k with
  | .glb => d.warmReset out.fails out.passes
  | .prt => d.portReset i out.fails out.passes
  | .cec => d.sbReset i 0
  | .ddc => d.sbReset i 1
  | .aux => d.sbReset i 2
  | .hpd => d.sbReset i 3
  | .fch => d.recalStart i
  | .uch => d.recalStart (32 + i)
  | .mc =>
    let r := d.retrainStart i
    if r.2 then r.1 else d.badWrite page
  | _ => d

/-- `ENABLE` on a page that has it (R210, R245, R246, R248, R334, R342). -/
def enableBit (d : Dev) (out : Sys2Proof.Outside) (page : Nat) (k : PageKind) (i : Nat) (on : Bool) : Dev :=
  match sbEngine k, pageChan k i with
  | some e, _ =>
    if !on then d.sbDisable i e out.passed
    else if d.sbOn i e then d
    else if d.linesOwned i e then d.sbEnable i e
    else d.badWrite page
  | none, some c =>
    if !on then (if d.rb (pctl page) F.ctlEnable then d.chDisable c else d)
    else if d.enableOk c then d.chEnable c
    else d.badWrite page
  | none, none => d.wf (pctl page) F.ctlEnable (b2n on)

/-- `FREEZE` on a page that has it (R304, R322). -/
def freezeBit (d : Dev) (k : PageKind) (i : Nat) (on : Bool) : Dev :=
  let was := d.rb (pctl (ppage i (if k == .acq then 8 else 0xA))) F.ctlFreeze
  if was == on then d
  else if k == .acq then (if on then d.acqFreeze i else d.acqThaw i)
  else d.flpFreezeWrite i on

/-- A write of `PAGE_CTRL`: a reset goes before the other bits of the same write. -/
def ctrlWrite (d : Dev) (out : Sys2Proof.Outside) (page : Nat) (k : PageKind) (i w : Nat) : Dev :=
  if nbit w 1 then d.resetReq out page k i
  else
    let d := if hasEnable k then d.enableBit out page k i (nbit w 0) else d
    if hasFreeze k then d.freezeBit k i (nbit w 2) else d

/-- Bits of `PAGE_CTRL` that a kind of page has. -/
def ctrlMask (k : PageKind) : Nat := b2n (hasEnable k) + 2 * b2n (resettable k) + 4 * b2n (hasFreeze k)

/-- Run an action that may refuse the write by setting `BADWRITE` of its page: the answer says whether it did. -/
def judged (d : Dev) (page : Nat) (f : Dev → Dev) : Dev × Bool :=
  let was := d.rb (pstat page) F.stBadWrite
  let d := f (d.wf (pstat page) F.stBadWrite 0)
  let bad := d.rb (pstat page) F.stBadWrite
  (if was then d.badWrite page else d, bad)

/-- A write of a common register other than `PAGE_LOCK`. -/
def commonWrite (d : Dev) (x : Access) (page : Nat) (k : PageKind) (i off w : Nat) : Dev × Nat :=
  if off = 8 then
    if w &&& (0xFFFFFFFF ^^^ ctrlMask k) ≠ 0 ∨ ((k == .apg || k == .cdc) ∧ d.running i) then (d.badWrite page, St.badWrite)
    else
      let r := d.judged page (fun d => d.ctrlWrite x.out page k i w)
      (r.1, if r.2 then St.badWrite else St.done)
  else if off = 0xC then
    if w &&& 0xFF00FFC0 ≠ 0 then (d.badWrite page, St.badWrite)
    else (d.setN (pstat page) (d.rn (pstat page) - (d.rn (pstat page) &&& w &&& 0x2C)), St.done)
  else if !hasEvents k then (d, St.done)
  else if off = 0x14 then (d.stickyClear k i w, St.done)
  else if off = 0x18 then (d.enableWrite k i w, St.done)
  else if off = 0x1C then (d.forceWrite k i w, St.done)
  else (d, St.done)

/-! ### Effects by page -/

def clkEffect (d : Dev) (o old : Nat) : Dev := if o = 0x40 then d.refSelect (BitVec.ofNat 32 old) else d

def gtcEffect (d : Dev) (o : Nat) (ws : List Nat) : Dev :=
  let w := ws.headD 0
  if o = 0x50 then d.gtcStep (d.wide R.gtcStep0 3)
  else if o = 0x60 then d.syncWrite
  else if o = 0x124 then d.tcqRemove (fun e => e.tag == w % 2 ^ 16)
  else if o = 0x128 then (if nbit w 0 then d.tcqRemove (fun _ => true) else d)
  else d

/-- `raw`: the word as written, whose refused zero announces no chunk. -/
def bootEffect (d : Dev) (o raw w : Nat) : Dev :=
  if o = 0x50 then d.ledgerItem ledSsid w
  else if o = 0x54 then
    let d := if nbit w 31 then d.updateStart else d
    if nbits raw 16 0 ≠ 0 then d.chunkTake else d
  else if o = 0x6C then (if nbit w 0 then d.keeperRestart else d)
  else if 0x80 ≤ o ∧ o ≤ 0xB0 then d.policyStore ((o - 0x7C) / 4) (nbit w 31)
  else d

def evcEffect (d : Dev) (o w : Nat) : Dev :=
  if o = 0x70 then (if nbit w 0 then d.ffClear else d)
  else if o = 0x90 then d.ledgerItem ledEvcCfg (d.rn R.evcLedgerCfg)
  else d

def mcgEffect (o_ d : Dev) (o : Nat) : Dev :=
  if o = 0x40 then remap o_ d
  else if o = 0x44 then d.ledgerItem ledMcgCfg (d.rn R.mcgCfg)
  else d

def srmEffect (d : Dev) (out : Sys2Proof.Outside) (o w : Nat) : Dev :=
  if o = 0x40 then
    let d := if nbit w 30 then d.marchStop out.fails out.passes else d
    if nbit w 31 then d.marchStart else d
  else if 0x50 ≤ o ∧ o ≤ 0x58 then d.retWrite ((o - 0x50) / 4) w
  else d

def vltEffect (v : Vault) (d : Dev) (out : Sys2Proof.Outside) (o w : Nat) : Dev :=
  if o = 0x48 then
    if nbits w 1 0 = 1 then seasonArm v d (nbits w 31 28) else seasonCommit v d (nbits w 31 28) out.auth
  else if 0x60 ≤ o ∧ o < 0xC0 then d.setN (0x52000 + o) w
  else if o = 0xC0 then keyLoad v d w
  else if 0xE0 ≤ o ∧ o < 0x100 then d.setN (0x52000 + o) w
  else d

def hifEffect (d : Dev) (o old w : Nat) : Dev :=
  if 0x100 ≤ o ∧ o < 0x300 then
    let e := (o - 0x100) / 0x40
    if o % 0x40 = 0 then
      let d := if nbit w 0 && !nbit old 0 then d.dmaEnable e else d
      if nbit w 1 then d.dmaAbort e else d
    else if o % 0x40 = 0x18 then d.dmaKick e
    else d
  else if 0x800 ≤ o ∧ o < 0xC00 ∧ o % 0x10 = 0xC then d.msixRelease ((o - 0x800) / 0x10)
  else d

def pwrEffect (d : Dev) (o w : Nat) : Dev :=
  if o = 0x40 then (if nbits w 11 8 = 0 then d.sagEnd else d)
  else if o = 0x54 then d.avsJudge
  else d

def prtEffect (d : Dev) (p o old : Nat) : Dev :=
  if o = 0x40 then d.timingProfile p (BitVec.ofNat 32 old)
  else if o = 0x50 ∨ o = 0x54 then
    (List.range 16).foldl (fun (d : Dev) u => (d.clampJudge (16 * p + u)).pmuJudge (16 * p + u) d.now) d
  else d

/-- `SEQ_CTRL`: a refused start leaves the whole write without effect (R156); `STOP` acts after `START`. -/
def seqEffect (d : Dev) (p o old w : Nat) : Dev :=
  if o = 0x40 then
    let r := if nbit w 0 then d.judged (ppage p 1) (fun d => d.portStart p d.winter) else (d, false)
    if r.2 then (r.1.setN (R.seqCtrl p) old).badWrite (ppage p 1)
    else if nbit w 1 then r.1.seqStop p
    else r.1
  else if o = 0x90 then (if nbit w 31 then d.seqErrClear p else d)
  else d

/-- `ACQ_CTRL`: a refused `ARM` leaves the whole write without effect (R318); `DISARM` acts last. -/
def acqEffect (d : Dev) (p o w : Nat) : Dev :=
  if o = 0x40 then
    let r := if nbit w 0 then d.judged (ppage p 8) (fun d => d.acqArm p) else (d, false)
    if r.2 then r.1.badWrite (ppage p 8)
    else
      let d := if nbit w 3 then r.1.acqForce p else r.1
      if nbit w 1 then d.acqDisarm p else d
  else if o = 0x78 then d.rptrWrite p
  else d

def flpEffect (d : Dev) (p o w : Nat) : Dev :=
  if o = 0x40 then
    let d := d.snapAsk p (nbit w 0) (nbit w 1)
    let d := if nbit w 2 then d.firstClr p else d
    if nbit w 3 then d.bmFlush p else d
  else if o = 0x68 then d.logRptr p
  else d

/-- A commit to the descriptor that the fetcher or the drain waits for: the walk reaches it (R149, R150). -/
def lksEffect (d : Dev) (p o : Nat) : Dev :=
  if 0x100 ≤ o ∧ o < 0x300 then
    let rx := decide (0x200 ≤ o)
    let s := d.seqOf p
    let w := walkOf s rx
    if d.running p && w.waiting && w.idx == o % 0x100 / 0x10 then
      (walkReady p rx 17 (d.putSeq p (putWalk s rx { w with bad := false }))).1
    else d
  else d

/-- A write of a sideband page's register; record pointers live in the header block (R338). -/
def sbEffect (d : Dev) (out : Sys2Proof.Outside) (p e o w : Nat) : Dev :=
  if o = 0x48 then d.kick p e
  else if o = 0x54 then d.sramPut (sbHdr p e + 4) w
  else if o = 0x5C ∧ e < 3 then d.abortWrite p e (nbit w 0) (nbit w 1) out.passed
  else if e = 2 ∧ o = 0x8C then (if nbit w 0 then d.auxRelease p else d)
  else if e = 2 ∧ 0xC0 ≤ o then d.auxWinWritten p ((o - 0xC0) / 8)
  else if e = 3 ∧ o = 0x88 then d.hpdCtrl p (nbit w 31) out.back
  else d

def measEffect (d : Dev) (p o w : Nat) : Dev :=
  if o = 0x40 then
    let d := if nbit w 0 then d.measStart p else d
    if nbit w 1 then d.measStop p else d
  else if o = 0x4C then
    if nbit w 31 then d.calbusRequest p else if d.calbusBusy p then d.calbusRelease p else d
  else if o = 0x50 then
    ([0, 1, 2, 3].foldl (fun (d : Dev) q => d.setN (R.measCalval q) w) d).ledgerItem ledCalval w
  else d

def fchEffect (d : Dev) (n o old w : Nat) : Dev :=
  if o = 0x84 then (if nbits old 1 0 = 0 ∧ nbits w 1 0 ≠ 0 then d.cdrReset n else d)
  else if o = 0x94 then
    let d := if nbit w 31 then d.eyeStart n else d
    if nbit w 30 then d.eyeStop n else d
  else d

/-- The effect that the chapter of a register gives a write of it, once its bits are stored; `o_` is the state before the write, `old` and
`raw` the lowest word that stood and that was written, `ws` the words with refused zeros replaced by what stood. -/
def writeEffect (v : Vault) (x : Access) (o_ : Dev) (k : PageKind) (i o old raw : Nat) (ws : List Nat) (d : Dev) : Dev :=
  let w := ws.headD 0
  match k with
  | .glb => if o = 0x60 then d.capJudge else d
  | .clk => d.clkEffect o old
  | .gtc => d.gtcEffect o ws
  | .boot => d.bootEffect o raw w
  | .evc => d.evcEffect o w
  | .mc => if o = 0x54 then d.suspectJudge i else d
  | .mcg => mcgEffect o_ d o
  | .srm => d.srmEffect x.out o w
  | .mbx => if o = 0x48 then d.doorbell true (x.path != 1) w else if o = 0x4C then d.doorbell false (x.path != 1) w else d
  | .vlt => vltEffect v d x.out o w
  | .hif => d.hifEffect o old w
  | .pwr => d.pwrEffect o w
  | .prt => d.prtEffect i o old
  | .seq => d.seqEffect i o old w
  | .trg => if o = 0x44 then d.trgShow else d
  | .acq => d.acqEffect i o w
  | .msk => if o = 0x40 ∧ nbit w 8 then d.mskClr i else d
  | .flp => d.flpEffect i o w
  | .cec => d.sbEffect x.out i 0 o w
  | .ddc => d.sbEffect x.out i 1 o w
  | .aux => d.sbEffect x.out i 2 o w
  | .hpd => d.sbEffect x.out i 3 o w
  | .meas => d.measEffect i o w
  | .fch => d.fchEffect i o old w
  | .lks => d.lksEffect i o
  | .evg | .qos | .bmp | .apg | .cdc | .tsa | .dds | .uch => d

/-! ### Storing and committing -/

/-- The word that a register of a row holds after a write: RW bits as written, W1C bits cleared, the rest as it stood (R5). -/
def stored (r : RegDef) (old w : Nat) : Nat := (old ^^^ (old &&& (r.rw ||| (r.w1c &&& w)))) ||| (w &&& r.rw)

/-- Registers whose bits are kept by their own effect: retention requests, and the event configuration in its source. -/
def storesItself (k : PageKind) (o : Nat) : Bool :=
  (k == .srm && decide (0x50 ≤ o ∧ o ≤ 0x58)) || k == .evg

/-- Store the words of a value. -/
def storeWords (d : Dev) (a : Nat) : List Nat → Dev
  | [] => d
  | w :: ws =>
    let r := (regDef a).getD ⟨0, 0, 0, 0, 0, 0, 0, 0, 0, 0, [], (0, 1)⟩
    (d.setN a (stored r (d.rn a) w)).storeWords (a + 4) ws

/-- A timing-affecting value, stored and given to its unit (R89, R193). -/
def timingCommit (d : Dev) (x : Access) (a n : Nat) : Dev × Nat :=
  let words := (List.range n).map (fun j => d.get (a + 4 * j))
  match x.defer with
  | none => (d.timingWrite x.path a words, St.done)
  | some (stamp, cmd) =>
    let c : PendCh := if d.affInUse a then ⟨a, words, x.path, if cmd.2.2 then max stamp (d.now + 5242880) else stamp, false, some cmd⟩
      else ⟨a, words, x.path, stamp, true, some cmd⟩
    if c.bare && decide (d.edgeAt hclk stamp ≤ d.now) then
      ((d.takeEffect d.now a words).sjJudge (pagePort (a / 0x1000)), St.done)
    else ({ d with pend := d.pend ++ [c] }, St.waits)

/-- Tests 7 to 9 on a whole value at address `a`, lowest word first. -/
def regCommit (v : Vault) (x : Access) (d : Dev) (k : PageKind) (i a : Nat) (ws : List Nat) : Dev × Nat :=
  let page := a / 0x1000
  let o := a % 0x1000
  let adr := fun (j : Nat) => a + 4 * j
  let olds := (List.range ws.length).map (fun j => d.rn (adr j))
  let rows := (List.range ws.length).map (fun j => (regDef (adr j)).getD ⟨0, 0, 0, 0, 0, 0, 0, 0, 0, 0, [], (0, 1)⟩)
  let unused := (rows.zip ws).any (fun y => y.2 &&& (0xFFFFFFFF ^^^ (y.1.rw ||| y.1.ro ||| y.1.w1c ||| y.1.w1s ||| y.1.wo ||| y.1.rc)) != 0)
  let z := ((rows.zip olds).zip ws).map (fun y => zeroFields y.1.1 y.1.2 y.2)
  let z2 := d.zeroWhole k i o olds (z.map Prod.fst)
  let ws' := z2.1
  let refused := z2.2 || z.any Prod.snd
  if unused || !d.writeLegal k i o ws' (((rows.zip olds).zip ws').all (fun y => stored y.1.1 y.1.2 y.2 == y.1.2)) then
    (d.badWrite page, St.badWrite)
  else
    let s := if storesItself k o then d else d.storeWords a ws'
    let s := if refused then s.paramZero page else s
    if timingAff a then
      let r := s.timingCommit x a ws.length
      (r.1, if refused ∧ r.2 = St.done then St.paramZero else r.2)
    else
      let r := s.judged page (fun s => if k == .evg then s.evgCfgWrite i ((o - 0x100) / 4) (BitVec.ofNat 32 (ws'.headD 0))
        else writeEffect v x d k i o (olds.headD 0) (ws.headD 0) ws' s)
      (r.1, if r.2 then St.badWrite else if refused then St.paramZero else St.done)

/-- The words that a path has staged for a wide value, or those that stand (R59). -/
def staging (d : Dev) (path base n : Nat) : List Word :=
  match d.hif.staged.find? (fun y => y.1 == pathKey path base) with
  | some y => y.2
  | none => (List.range n).map (fun j => d.get (base + 4 * j))

def setStaging (d : Dev) (path base : Nat) (ws : List Word) : Dev :=
  let rest := d.hif.staged.filter (fun y => y.1 != pathKey path base)
  { d with hif := { d.hif with staged := rest ++ [(pathKey path base, ws)] } }

def dropStaging (d : Dev) (path base : Nat) : Dev :=
  { d with hif := { d.hif with staged := d.hif.staged.filter (fun y => y.1 != pathKey path base) } }

/-- A write of `TCQ_ENTRYj`: staged for its path; word 7 commits the push (R86). -/
def tcqEntryWrite (d : Dev) (path j w : Nat) : Dev × Nat :=
  let st := match d.hif.staged.find? (fun y => y.1 == pathKey path (R.tcqEntry 0)) with
    | some y => y.2
    | none => List.replicate 8 0
  let st := lset st j (BitVec.ofNat 32 w)
  let d := d.setStaging path (R.tcqEntry 0) st
  if j = 7 then
    let r := d.judged 2 (fun d => d.tcqPush path (st.map BitVec.toNat))
    (r.1, if r.2 then St.badWrite else St.done)
  else (d, St.done)

/-- A write of a register at offset 0x040 and up that test 6 does not end. -/
def regWrite (v : Vault) (x : Access) (d : Dev) (k : PageKind) (i a : Nat) (r : RegDef) (w : Nat) : Dev × Nat :=
  if k == .gtc && decide (0x100 ≤ a % 0x1000 ∧ a % 0x1000 < 0x120) then d.tcqEntryWrite x.path ((a % 0x1000 - 0x100) / 4) w
  else if r.wide.2 ≤ 1 then regCommit v x d k i a [w]
  else
    let base := a - 4 * r.wide.1
    let st := lset (d.staging x.path base r.wide.2) r.wide.1 (BitVec.ofNat 32 w)
    if r.wide.1 + 1 = r.wide.2 then
      regCommit v x (d.dropStaging x.path base) k i base (st.map BitVec.toNat)
    else (d.setStaging x.path base st, St.done)

/-- Tests 2 to 5 of Table 2-11, and what lies behind them (`f` gets the page's kind, its instance and the offset). -/
def gate (d : Dev) (path a w : Nat) (f : PageKind → Nat → Nat → Dev × Nat) : Dev × Nat :=
  let page := a / 0x1000
  let off := a % 0x1000
  match pageOf page with
  | none => (if path = 0 then d.cnt R.hifDropCnt F.hifDropCntUnassigned 1 else d, St.denied)
  | some (k, i) =>
    if path = 1 ∧ bmpAccess k ≠ 3 then (d, St.denied)
    else if d.offline (path == 1) page then (d.cnt (pstat page) F.stDrops 1, St.offline)
    else if d.lockBars page off k i then (d.lockViol page, St.locked)
    else if off = 0x20 then d.lockWrite page k w
    else f k i off

/-- A register write of one word that is no `VLT_APPLY`. -/
def plainWrite (v : Vault) (x : Access) (d : Dev) (a w : Nat) : Dev × Nat :=
  d.gate x.path a w (fun k i off =>
    if off < 0x40 then d.commonWrite x (a / 0x1000) k i off w
    else match findReg (pageMap k) off with
      | none => (d, St.done)
      | some r => if r.rw ||| r.w1c ||| r.w1s ||| r.wo = 0 then (d, St.done) else regWrite v x d k i a r w)

/-- `VLT_APPLY.GO` applies the entries of a register image in order, on the port's sequencer path (R469). -/
def applyImage (v : Vault) (x : Access) (d : Dev) (w : Nat) : Dev :=
  let p := nbits w 29 28
  let go := (d.applyEntries w).foldl (fun (s : Dev × Bool) e =>
    if s.2 then s
    else if !ownPage p (e.1 / 0x1000) then (s.1, true)
    else ((plainWrite v { x with path := 3 + p, defer := none } s.1 e.1 e.2).1, false)) (d, false)
  let d := go.1.wf R.vltStat F.vltStatApplyErr (b2n go.2)
  { d with vlt := { d.vlt with applied := if d.vlt.applied.contains p then d.vlt.applied else p :: d.vlt.applied } }

/-- One register write by any path: the state after it and its status. -/
def busWrite (v : Vault) (x : Access) (d : Dev) (a w : Nat) : Dev × Nat :=
  let r := plainWrite v x d a w
  if a = R.vltApply ∧ nbit w 31 ∧ r.2 = St.done ∧ x.path ≠ 1 then (applyImage v x r.1 w, St.done) else r

/-- A write of a whole value by a timed command: one commit where the words are the register's words, else word by word at ascending
addresses; the last status that is not DONE stands (R86, R88). -/
def busWriteAll (v : Vault) (x : Access) (d : Dev) (a : Nat) (ws : List Nat) : Dev × Nat :=
  match regDef a with
  | some r =>
    if r.wide = (0, ws.length) ∧ 1 < ws.length then
      d.gate x.path a 0 (fun k i _ =>
        if r.rw ||| r.w1c ||| r.w1s ||| r.wo = 0 then (d, St.done) else regCommit v x d k i a ws)
    else go a ws d
  | none => go a ws d
where
  go (a : Nat) : List Nat → Dev → Dev × Nat
    | [], d => (d, St.done)
    | w :: ws, d =>
      let r := busWrite v x d a w
      let q := go (a + 4) ws r.1
      (q.1, if q.2 = St.done then r.2 else q.2)

/-- A write that arrives by a path: the host needs its link, and a supervisor command is answered from the end of CLOCKS (R36, R50). -/
def arrives (v : Vault) (out : Sys2Proof.Outside) (path a w : Nat) (d : Dev) : Dev :=
  if path = 0 ∧ !d.hostUp then d
  else if path = 1 ∧ d.boot.done < 3 then d
  else (busWrite v ⟨path, out, none⟩ d (a - a % 4) w).1

end Dev
end Sys2Proof.Machine
end

