-- ==== Sys2Proof/Machine/RegRead.lean ====
section
/-! DEFINITION. One read of a register, by every path (R5, R52, R54, R58, R59, R62): what it returns and what it clears, latches or
removes; and the supervisor's transactions (R49 to R53). -/
namespace Sys2Proof.Machine
namespace Dev

/-- A register that an applied image has filled, as the host and the supervisor see it: 0 (R469). -/
def appliedMask (d : Dev) (path : Nat) (k : PageKind) (i o : Nat) : Bool :=
  let p := match k with | .fch => i / 8 | .uch => i / 16 | _ => i
  decide (path < 2) && d.vlt.applied.contains p &&
    (match k with
      | .apg => true
      | .seq => decide (0x100 ≤ o ∧ o < 0x200)
      | .fch => decide (0x100 ≤ o ∧ o < 0x300)
      | .uch => decide (0x100 ≤ o ∧ o < 0x200)
      | _ => false)

/-- The value of a register that no RC rule touches: its stored word, or what its chapter computes for the read. -/
def regView (d : Dev) (path : Nat) (k : PageKind) (i o : Nat) (r : RegDef) (a : Nat) : Nat :=
  let plain := let w := d.rn a; w - (w &&& r.wo)
  match k with
  | .gtc =>
    let t := d.now - (d.now + (hclk - d.rn R.gtcPhase % hclk)) % hclk
    if o = 0x40 then t % 2 ^ 32 else if o = 0x44 then t / 2 ^ 32 % 2 ^ 32 else if o = 0x48 then t / 2 ^ 64
    else if 0x100 ≤ o ∧ o < 0x120 then
      match d.hif.staged.find? (fun y => y.1 == pathKey path (R.tcqEntry 0)) with
      | some y => ((y.2[(o - 0x100) / 4]?).getD 0).toNat
      | none => 0
    else plain
  | .evc =>
    if o = 0x44 then d.evcStatView
    else if o = 0x48 ∨ o = 0x4C then d.gsevView ((o - 0x48) / 4)
    else if o = 0x50 ∨ o = 0x54 then d.ganyView ((o - 0x50) / 4)
    else plain
  | .evg =>
    if o = 0x40 then d.evgEscView i
    else if o = 0x44 then d.evgSevView i
    else if 0x100 ≤ o ∧ o < 0x180 then (d.evgCfgView i ((o - 0x100) / 4)).toNat
    else d.evgCntView i ((o - 0x180) / 4)
  | .qos => if o = 0x40 then d.qosBudget else plain
  | .srm =>
    if o = 0x44 then setNbits plain 18 16 d.marchElem
    else if 0x400 ≤ o ∧ o < 0x520 then setNbits plain 28 28 (b2n (bankUrgent ((o - 0x400) / 4)))
    else plain
  | .glb => if o = 0x44 then d.vlt.serial % 2 ^ 32 else if o = 0x48 then d.vlt.serial / 2 ^ 32 % 2 ^ 32 else plain
  | .tsa =>
    if o = 0x48 then d.trimAgeRead i
    else if 0x100 ≤ o ∧ o % 0x40 = 0x24 then
      let s := (o - 0x100) / 0x40
      setNbits (setNbits plain 31 31 (b2n (d.setInUse i s))) 30 30 (b2n (d.setWaits i s))
    else plain
  | .dds => if o = 0x5C then setNbits plain 15 0 (d.ddsPhase i (d.ddsIndex i d.now) / 2 ^ 32) else plain
  | .acq => if o = 0x6C then d.acqLs i else if o = 0x70 then d.acqRb i else plain
  | .cec | .ddc | .aux | .hpd =>
    let e := (sbEngine k).getD 0
    if o = 0x44 then d.sbStat i e
    else if o = 0x50 then d.sramWord (sbHdr i e)
    else if o = 0x54 then d.sramWord (sbHdr i e + 4)
    else if o = 0x58 then d.sramWord (sbHdr i e + 8)
    else plain
  | .uch => if o = 0x60 then (d.pmuStatRead i).toNat else plain
  | _ => plain

/-- What the read of one register changes beyond its RC bits. -/
def readEffect (d : Dev) (k : PageKind) (i o : Nat) : Dev :=
  match k with
  | .mc => if 0x80 ≤ o ∧ o < 0xD0 then d.suspectJudge i else d
  | .qos => if o = 0x80 then { d with dramc := { d.dramc with late := false } } else d
  | .acq => if o = 0x7C then d.putAcq i { d.acqOf i with missed := false } else d
  | .pwr => if o = 0x50 ∨ o = 0x64 then d.clr (0x70000 + o) else d
  | .cec | .ddc | .aux | .hpd => if o = 0x58 then d.sramPut (sbHdr i ((sbEngine k).getD 0) + 8) 0 else d
  | _ => d

/-- What must be brought up to date before a read shows it: march progress and the time of a sag. -/
def readReady (d : Dev) (k : PageKind) (o : Nat) : Dev :=
  match k with
  | .srm => d.marchAdvance
  | .pwr => if o = 0x4C then d.sagCount else d
  | _ => d

def setLatch (d : Dev) (path base : Nat) (ws : List Word) : Dev :=
  let rest := d.hif.latch.filter (fun y => y.1 != pathKey path base)
  { d with hif := { d.hif with latch := rest ++ [(pathKey path base, ws)] } }

/-- The higher words that a path latched with the lowest word of a wide value (R59). -/
def latched (d : Dev) (path base j : Nat) : Option Nat :=
  match d.hif.latch.find? (fun y => y.1 == pathKey path base) with
  | some y => (y.2[j - 1]?).map BitVec.toNat
  | none => none

/-- One word of a register at offset 0x040 and up of an online page. -/
def readOne (d : Dev) (path : Nat) (k : PageKind) (i o : Nat) (r : RegDef) (a : Nat) : Dev × Nat :=
  let d := d.readReady k o
  let v := d.regView path k i o r a
  let d := if r.rc = 0 then d else d.setN a (d.rn a - (d.rn a &&& r.rc))
  (d.readEffect k i o, if d.appliedMask path k i o then 0 else v)

/-- A read of a register at offset 0x040 and up of an online page: the records that a read removes, wide values, and single words. -/
def readReg (d : Dev) (path : Nat) (k : PageKind) (i o : Nat) (r : RegDef) (a : Nat) : Dev × Nat :=
  if k == .gtc && o == 0x130 then
    let x := d.tcqPop
    (x.1.setLatch path a x.2.tail, ((x.2.headD 0).toNat))
  else if k == .boot && o == 0x204 then
    let x := d.ledgerWindow
    (x.1, x.2.toNat)
  else if k == .mc && decide (0xD0 ≤ o ∧ o < 0xF0) then
    if o = 0xD0 then
      let x := d.elogTake i
      (x.1.setLatch path a (x.2.tail.map (BitVec.ofNat 32)), x.2.headD 0)
    else (d, (d.latched path (R.mcElog i 0) ((o - 0xD0) / 4)).getD 0)
  else
  let wide := if k == .flp && decide (0xC0 ≤ o ∧ o < 0xE0) then ((o - 0xC0) / 4, 8) else r.wide
  if wide.2 ≤ 1 then d.readOne path k i o r a
  else if wide.1 = 0 then
    let hi := (List.range (wide.2 - 1)).map (fun j =>
      let a' := a + 4 * (j + 1)
      match regDef a' with
      | some q => BitVec.ofNat 32 (d.readOne path k i (a' % 0x1000) q a').2
      | none => 0)
    let x := d.readOne path k i o r a
    (x.1.setLatch path a hi, x.2)
  else match d.latched path (a - 4 * wide.1) wide.1 with
    | some v => (d, v)
    | none => d.readOne path k i o r a

/-- A read of a common register. -/
def readCommon (d : Dev) (page : Nat) (k : PageKind) (i off : Nat) : Nat :=
  if off = 0 then pageId k i
  else if off = 4 then pageCap k
  else if off = 8 then d.rn (pctl page)
  else if off = 0xC then d.rn (pstat page)
  else if 0x10 ≤ off ∧ off ≤ 0x1C then d.evtView k i ((off - 0x10) / 4)
  else if off = 0x20 then d.rn (plock page)
  else 0

/-- One register read by any path: the state after it, its value, and whether the path may not reach the page. -/
def busRead (d : Dev) (path a : Nat) : Dev × Nat × Bool :=
  let page := a / 0x1000
  let off := a % 0x1000
  match pageOf page with
  | none => (if path = 0 then d.cnt R.hifDropCnt F.hifDropCntUnassigned 1 else d, 0, true)
  | some (k, i) =>
    if path = 1 ∧ bmpAccess k = 0 then (d, 0, true)
    else if d.offline (path == 1) page then
      (d, if off = 0 then pageId k i else if off = 0xC then d.rf (pstat page) F.stDrops * 2 ^ 16 + 2 else 0, false)
    else if off < 0x40 then (d, d.readCommon page k i off, false)
    else match findReg (pageMap k) off with
      | none => (d, 0, false)
      | some r => let x := d.readReg path k i off r a; (x.1, x.2, false)

/-- READ_CLEAR: a read that arrives by a path; its word goes to the reader. -/
def readArrives (d : Dev) (path a : Nat) : Dev :=
  if path = 0 ∧ !d.hostUp then d
  else if path = 1 ∧ d.boot.done < 3 then d
  else
    let x := d.busRead path (a - a % 4)
    x.1.answer [x.2.1]

/-! ### The supervisor's transactions (R49 to R53) -/

/-- The sticky flags of the BMP status: each access that sets one (R51, R52), whether it was set before or not, raises BMP_ERROR (R50). -/
def bmpFlag (d : Dev) (denied align trunc : Bool) : Dev :=
  let h := d.hif
  let d := { d with hif := { h with bmpDenied := h.bmpDenied || denied, bmpAlign := h.bmpAlign || align, bmpTrunc := h.bmpTrunc || trunc } }
  if denied || align || trunc then d.raise Ev.bmpError else d

/-- READ_STATUS (R50, R416). -/
def bmpStatusRead (d : Dev) : Dev :=
  if d.boot.done < 3 then d
  else
    let h := d.hif
    let v := 128 + b2n h.bmpDenied * 64 + b2n h.bmpAlign * 32 + b2n h.bmpTrunc * 16 + d.rf R.mbxStat F.mbxStatBmpWarn * 8
    { d with hif := { h with bmpDenied := false, bmpAlign := false, bmpTrunc := false, bmpStatus := v } }

/-- A BMP address lies in the mailbox (R52). -/
def bmpMbx (a : Nat) : Option Nat := if 0x400000 ≤ a ∧ a < 0x410000 then some ((a - 0x400000) / 4) else none

/-- One word written by the supervisor. -/
def bmpWord (v : Vault) (out : Sys2Proof.Outside) (d : Dev) (a w : Nat) : Dev :=
  if a < 0x400000 then
    let r := busWrite v ⟨1, out, none⟩ d a w
    if r.2 = St.denied then r.1.bmpFlag true false false else r.1
  else match bmpMbx a with
    | some m => (d.mbxEdge none (some ⟨true, m, w, 15, d.now / pclk⟩)).1
    | none => d.bmpFlag true false false

/-- BMP_WRITE: words at ascending addresses; `part`: BMP_CS_N rose inside a further word, which is discarded. -/
def bmpWrite (v : Vault) (out : Sys2Proof.Outside) (d : Dev) (a : Nat) (ws : List Nat) (part : Bool) : Dev :=
  if d.boot.done < 3 then d
  else if a % 4 ≠ 0 then d.bmpFlag false true false
  else
    let x := ws.foldl (fun (x : Dev × Nat) w => (bmpWord v out x.1 x.2 w, x.2 + 4)) (d, a)
    if part then x.1.bmpFlag false false true else x.1

/-- BMP_READ: `n` words from ascending addresses; `part`: BMP_CS_N rose inside the word after them, whose access has completed (R51). -/
def bmpRead (d : Dev) (a n : Nat) (part : Bool) : Dev :=
  if d.boot.done < 3 then d
  else if a % 4 ≠ 0 then d.bmpFlag false true false
  else
    let one := fun (d : Dev) (a : Nat) =>
      if a < 0x400000 then
        let x := d.busRead 1 a
        (if x.2.2 then x.1.bmpFlag true false false else x.1, x.2.1)
      else match bmpMbx a with
        | some m => let x := d.mbxEdge none (some ⟨false, m, 0, 15, d.now / pclk⟩); (x.1, x.2.headD 0)
        | none => (d.bmpFlag true false false, 0)
    let x := (List.range n).foldl (fun (x : Dev × List Nat) j => let r := one x.1 (a + 4 * j); (r.1, x.2 ++ [r.2])) (d, [])
    let d := if part then (one x.1 (a + 4 * n)).1.bmpFlag false false true else x.1
    d.answer x.2

end Dev
end Sys2Proof.Machine
end

