-- ==== Sys2Proof/Machine/TimedExec.lean ====
section
/-! DEFINITION. What brings writes to registers without a bus: the dispatch of timed commands (R87 to R92), the register and timed modes of
SET (R138); and the passing of one HCLK cycle. -/
namespace Sys2Proof.Machine
namespace Dev

/-- The entry at the head of the queue is due for dispatch in this HCLK cycle: an ordinary command at its stamp, a timing-affecting one
128 HCLK cycles before it, a late one at once (R88 to R90). -/
def tcqDue (d : Dev) (e : TcqEntry) : Bool :=
  e.late || decide (if timingAff e.addr then e.stamp ≤ d.now + leadTicks else e.stamp ≤ d.now)

/-- An entry leaves the queue, which has then dispatched in this HCLK cycle (R87); a held entry takes its place (R91). -/
def tcqLeave (d : Dev) (q : List TcqEntry) : Dev :=
  { d with tcq := { d.tcq with q := q, lastDisp := d.cycNo } }.tcqAdmit.tcqShow

/-- The write of a dispatched entry, and its completion unless its change waits for a boundary (R92). -/
def tcqWrite (v : Vault) (out : Sys2Proof.Outside) (d : Dev) (e : TcqEntry) : Dev :=
  let defer := if timingAff e.addr then some (e.stamp, (e.tag, e.notify, e.late)) else none
  let r := busWriteAll v ⟨2, out, defer⟩ d e.addr (e.data.map BitVec.toNat)
  if r.2 = St.waits then r.1
  else r.1.tcqEnd (if e.late ∧ r.2 = St.done then 1 else r.2) e.tag e.notify (d.edgeAt hclk d.now)

/-- TCQ_EXECUTE (R88): the ordinary command at the head of the queue executes. -/
def tcqExecute (v : Vault) (out : Sys2Proof.Outside) (d : Dev) : Dev :=
  match d.tcq.q.find? (fun e => !timingAff e.addr) with
  | none => d
  | some e =>
    if d.tcq.lastDisp = d.cycNo ∨ !d.tcqDue e ∨ (d.tcq.q.takeWhile (fun x => x != e)).any d.tcqDue then d
    else (d.tcqLeave (d.tcq.q.erase e)).tcqWrite v out e

/-- TCQ_DELIVER (R89): the first timing-affecting command that is due is delivered to its unit. -/
def tcqDeliver (v : Vault) (out : Sys2Proof.Outside) (d : Dev) : Dev :=
  match d.tcq.q.find? (fun e => timingAff e.addr) with
  | none => d
  | some e =>
    if d.tcq.lastDisp = d.cycNo ∨ !d.tcqDue e ∨ (d.tcq.q.takeWhile (fun x => x != e)).any d.tcqDue then d
    else (d.tcqLeave (d.tcq.q.erase e)).tcqWrite v out e

/-- A SET in REG mode (R138): the front end goes on, and the write takes effect on the sequencer's path. -/
def setReg (v : Vault) (out : Sys2Proof.Outside) (d : Dev) (p : Nat) : Dev :=
  match d.fetchOp p 13 with
  | none => d
  | some (w, _, s) =>
    if I.setMode w = 1 then
      (busWrite v ⟨3 + p, out, none⟩ ((d.putSeq p s).setPc p (d.pc p + 1)) (I.addr w) (I.data w)).1
    else d

/-- A SET in TIMED mode (R138): a one-word timed command is pushed on the sequencer's path. -/
def setTimed (d : Dev) (p : Nat) : Dev := d.setTimedOp tcqPush p

/-- One HCLK cycle passes (R4, R69, R446): the GTC counts the time, and what depends on time alone follows. -/
def tick (d : Dev) : Dev :=
  let d := d.advance (if d.rb R.clkStat F.clkStatHclkStretch then 2 * hclk else hclk)
  ([0, 1, 2, 3].foldl (fun (d : Dev) c => d.urgent1Due c false) d.trgShow.marchAdvance)

end Dev
end Sys2Proof.Machine
end

