-- ==== Sys2Proof/Machine/Exec.lean ====
section
/-! DEFINITION. The shapes that the meanings share: a change of the device, a register write and a register read.  No meaning touches
the queue of waiting commands. -/
namespace Sys2Proof.Machine

/-- The command changes the device. -/
def onDev (f : Dev → Dev) (s : State) : Host.Outcome State Fault Refusal := .next { s with dev := f s.dev }

/-- Nothing comes from outside but the write itself. -/
def noOut : Sys2Proof.Outside := ⟨[], false, [], [], false⟩

/-- A register write by a path, with what the outside world adds (Table 2-11). -/
def writeWith (out : Sys2Proof.Outside) (path a : Nat) (w : Word) (s : State) : Host.Outcome State Fault Refusal :=
  onDev (Dev.arrives s.vault out path a w.toNat) s

/-- A register write by a path. -/
def writeBy (path a : Nat) (w : Word) (s : State) : Host.Outcome State Fault Refusal := writeWith noOut path a w s

/-- A register read by a path. -/
def readBy (path a : Nat) (s : State) : Host.Outcome State Fault Refusal := onDev (fun d => d.readArrives path a) s

end Sys2Proof.Machine
end

