-- ==== Sys2Proof/Machine/AcquisitionCmds.lean ====
section
/-! DEFINITION. Meanings: triggers, acquisition and masks (11_trigger_and_acquisition.md). -/
namespace Sys2Proof.Machine

/-- TRIG_IN_EDGE (R313). -/
def execTrigInEdge (k : Fin 4) (t : Nat) (lvl : Bool) (s : State) : Host.Outcome State Fault Refusal :=
  onDev (fun d => d.trigInEdge k.val t lvl) s

/-- UTILITY_COMPARATOR_EDGE (R313). -/
def execUtilityComparatorEdge (m : Fin 64) (c : Fin 2) (t : Nat) (lvl : Bool) (s : State) : Host.Outcome State Fault Refusal :=
  onDev (fun d => d.ucEdge m.val c.val t lvl) s

/-- SAMPLE_DECISION (R314). -/
def execSampleDecision (p : Fin 4) (s : State) : Host.Outcome State Fault Refusal :=
  onDev (fun d => d.sampleDecision p.val) s

/-- REARM (R320). -/
def execRearm (p : Fin 4) (s : State) : Host.Outcome State Fault Refusal :=
  onDev (fun d => d.rearm p.val) s

/-- ACQ_ROUND_WRITE (R323). -/
def execAcqRoundWrite (p : Fin 4) (bad : Bool) (s : State) : Host.Outcome State Fault Refusal :=
  onDev (fun d => d.acqRoundWrite p.val bad) s

/-- ACQ_ARM (R318). -/
def execAcqArm (path : Fin 7) (p : Fin 4) (w : Word) (s : State) : Host.Outcome State Fault Refusal :=
  writeBy path.val (R.acqCtrl p.val) w s

/-- ACQ_DISARM (R318). -/
def execAcqDisarm (path : Fin 7) (p : Fin 4) (w : Word) (s : State) : Host.Outcome State Fault Refusal :=
  writeBy path.val (R.acqCtrl p.val) w s

/-- ACQ_FORCE (R317). -/
def execAcqForce (path : Fin 7) (p : Fin 4) (w : Word) (s : State) : Host.Outcome State Fault Refusal :=
  writeBy path.val (R.acqCtrl p.val) w s

/-- ACQ_FREEZE (R322). -/
def execAcqFreeze (path : Fin 7) (p : Fin 4) (w : Word) (s : State) : Host.Outcome State Fault Refusal :=
  writeBy path.val (pctl (ppage p.val 8)) w s

/-- TRG_OUT_WRITE (R324). -/
def execTrgOutWrite (path : Fin 7) (p : Fin 4) (w : Word) (s : State) : Host.Outcome State Fault Refusal :=
  writeBy path.val (R.trgOut p.val) w s

/-- MSK_VIOL_DECISION (R330). -/
def execMskViolDecision (p : Fin 4) (s : State) : Host.Outcome State Fault Refusal :=
  onDev (fun d => d.mskDecision p.val) s

/-- MSK_CLR (R330). -/
def execMskClr (path : Fin 7) (p : Fin 4) (w : Word) (s : State) : Host.Outcome State Fault Refusal :=
  writeBy path.val (R.mskCtrl p.val) w s

end Sys2Proof.Machine
end

