-- ==== Sys2Proof/Machine/ChannelCmds.lean ====
section
/-! DEFINITION. Meanings: channels, drivers, levels and PMU (08, 09). -/
namespace Sys2Proof.Machine

/-- PRT_UCOWN_WRITE (R17). -/
def execPrtUcownWrite (path : Fin 7) (p : Fin 4) (hi : Bool) (w : Word) (s : State) : Host.Outcome State Fault Refusal :=
  writeBy path.val (if hi then R.prtUcown1 p.val else R.prtUcown0 p.val) w s

/-- CHANNEL_ENABLE (R245). -/
def execChannelEnable (path : Fin 7) (i : Fin 96) (w : Word) (s : State) : Host.Outcome State Fault Refusal :=
  writeBy path.val (pctl (Dev.chPage i.val)) w s

/-- CHANNEL_READY (R245): a sideband engine that waited for its lines goes on (R338). -/
def execChannelReady (i : Fin 96) (s : State) : Host.Outcome State Fault Refusal :=
  onDev (fun d => (d.channelReady i.val).sbReadyKick (Dev.chPort i.val)) s

/-- CHANNEL_DISABLE (R246). -/
def execChannelDisable (path : Fin 7) (i : Fin 96) (w : Word) (s : State) : Host.Outcome State Fault Refusal :=
  writeBy path.val (pctl (Dev.chPage i.val)) w s

/-- COMPLIANCE_FAULT_START (R231). -/
def execComplianceFaultStart (n : Fin 32) (kinds : Fin 64) (s : State) : Host.Outcome State Fault Refusal :=
  onDev (fun d => d.complianceStart n.val kinds.val) s

/-- COMPLIANCE_FAULT_END (R231). -/
def execComplianceFaultEnd (n : Fin 32) (legs : Fin 4) (s : State) : Host.Outcome State Fault Refusal :=
  onDev (fun d => d.complianceEnd n.val legs.val) s

/-- DRIVER_SHORT_DETECT (R227). -/
def execDriverShortDetect (n : Fin 32) (legs : Fin 4) (s : State) : Host.Outcome State Fault Refusal :=
  onDev (fun d => d.shortDetect n.val legs.val) s

/-- CLAMP_OVERDRIVE_DETECT (R242). -/
def execClampOverdriveDetect (m : Fin 64) (what : Fin 8) (s : State) : Host.Outcome State Fault Refusal :=
  onDev (fun d => d.overdriveDetect m.val what.val) s

/-- AUTO_TERMINATE (R235). -/
def execAutoTerminate (n : Fin 32) (low : Bool) (s : State) : Host.Outcome State Fault Refusal :=
  onDev (fun d => d.autoTerminate n.val low) s

/-- LDAC_SETTLED (R256). -/
def execLdacSettled (i : Fin 96) (j : Fin 8) (s : State) : Host.Outcome State Fault Refusal :=
  onDev (fun d => d.ldacSettled i.val j.val) s

/-- TONE_SAMPLE (R271). -/
def execToneSample (p : Fin 4) (s : State) : Host.Outcome State Fault Refusal :=
  onDev (fun d => d.toneSample p.val) s

/-- PMU_CTRL_WRITE (R261). -/
def execPmuCtrlWrite (path : Fin 7) (m : Fin 64) (w : Word) (s : State) : Host.Outcome State Fault Refusal :=
  writeBy path.val (R.uchPmuCtrl m.val) w s

/-- RANGE_CHANGE_END (R264). -/
def execRangeChangeEnd (m : Fin 64) (s : State) : Host.Outcome State Fault Refusal :=
  onDev (fun d => d.rangeChangeEnd m.val) s

/-- PMU_FAULT_START (R263). -/
def execPmuFaultStart (m : Fin 64) (rows : Fin 8) (s : State) : Host.Outcome State Fault Refusal :=
  onDev (fun d => d.pmuFaultStart m.val rows.val) s

/-- PMU_FAULT_END (R263). -/
def execPmuFaultEnd (m : Fin 64) (opens : Bool) (compl : Bool) (s : State) : Host.Outcome State Fault Refusal :=
  onDev (fun d => d.pmuFaultEnd m.val opens compl) s

/-- DRIVER_SHORT_END (R227). -/
def execDriverShortEnd (n : Fin 32) (legs : Fin 4) (s : State) : Host.Outcome State Fault Refusal :=
  onDev (fun d => d.shortEnd n.val legs.val) s

/-- CLAMP_OVERDRIVE_END (R242). -/
def execClampOverdriveEnd (m : Fin 64) (what : Fin 8) (s : State) : Host.Outcome State Fault Refusal :=
  onDev (fun d => d.overdriveEnd m.val what.val) s

/-- DISABLE_SEQUENCE_END (R246). -/
def execDisableSequenceEnd (i : Fin 96) (s : State) : Host.Outcome State Fault Refusal :=
  onDev (fun d => d.disableEnd i.val) s

/-- PMU_SWITCH_CLOSE (R261). -/
def execPmuSwitchClose (m : Fin 64) (s : State) : Host.Outcome State Fault Refusal :=
  onDev (fun d => d.pmuSwitchClose m.val) s

end Sys2Proof.Machine
end

