-- ==== Sys2Proof/Machine/CompareCmds.lean ====
section
/-! DEFINITION. Meanings: decoders, CDR, compares, fail processor and eye monitor (06, 10). -/
namespace Sys2Proof.Machine

/-- CODE_GROUP_RECEIVED (R188). -/
def execCodeGroupReceived (ch : Fin 32) (last : Nat) (word : Nat) (kind : Fin 3) (codeErr : Bool) (dispErr : Bool) (s : State) : Host.Outcome State Fault Refusal :=
  onDev (fun d => d.codeGroup ch.val last word kind.val codeErr dispErr) s

/-- CDR_UPDATE (R285). -/
def execCdrUpdate (n : Fin 32) (s : State) : Host.Outcome State Fault Refusal :=
  onDev (fun d => d.cdrUpdate n.val) s

/-- COMPARE_RESULT (R282). -/
def execCompareResult (p : Fin 4) (fc : List Nat) (uc : List Nat) (s : State) : Host.Outcome State Fault Refusal :=
  onDev (fun d => d.compareResult p.val fc uc) s

/-- SNAP (R295). -/
def execSnap (path : Fin 7) (p : Fin 4) (w : Word) (s : State) : Host.Outcome State Fault Refusal :=
  writeBy path.val (R.flpCtrl p.val) w s

/-- CNT_CLR (R295). -/
def execCntClr (path : Fin 7) (p : Fin 4) (w : Word) (s : State) : Host.Outcome State Fault Refusal :=
  writeBy path.val (R.flpCtrl p.val) w s

/-- COUNTER_SNAPSHOT_TAKEN (R295). -/
def execCounterSnapshotTaken (p : Fin 4) (s : State) : Host.Outcome State Fault Refusal :=
  onDev (fun d => d.counterSnapshot p.val) s

/-- FIRST_CLR (R296). -/
def execFirstClr (path : Fin 7) (p : Fin 4) (w : Word) (s : State) : Host.Outcome State Fault Refusal :=
  writeBy path.val (R.flpCtrl p.val) w s

/-- BM_FLUSH (R301). -/
def execBmFlush (path : Fin 7) (p : Fin 4) (w : Word) (s : State) : Host.Outcome State Fault Refusal :=
  writeBy path.val (R.flpCtrl p.val) w s

/-- FAIL_LOG_WRITE (R299). -/
def execFailLogWrite (p : Fin 4) (s : State) : Host.Outcome State Fault Refusal :=
  onDev (fun d => d.failLogWrite p.val) s

/-- BITMAP_LINE_WRITE (R301). -/
def execBitmapLineWrite (p : Fin 4) (bad : Bool) (s : State) : Host.Outcome State Fault Refusal :=
  onDev (fun d => d.bitmapWrite p.val bad) s

/-- EYE_START (R290). -/
def execEyeStart (path : Fin 7) (n : Fin 32) (w : Word) (s : State) : Host.Outcome State Fault Refusal :=
  writeBy path.val (R.fchEyeCtrl n.val) w s

/-- EYE_STOP (R294). -/
def execEyeStop (path : Fin 7) (n : Fin 32) (w : Word) (s : State) : Host.Outcome State Fault Refusal :=
  writeBy path.val (R.fchEyeCtrl n.val) w s

/-- EYE_POINT_DONE (R290). -/
def execEyePointDone (n : Fin 32) (bad : Bool) (s : State) : Host.Outcome State Fault Refusal :=
  onDev (fun d => d.eyePointDone n.val bad) s

end Sys2Proof.Machine
end

