-- ==== Sys2Proof/Machine/DramCmds.lean ====
section
/-! DEFINITION. Meanings: DRAM controllers (13_dram_controller.md, 14_arbitration_and_streaming_budget.md). -/
namespace Sys2Proof.Machine

/-- DRAM_READ_COMPLETE (R367). -/
def execDramReadComplete (req : Nat) (a : Nat) (devs : List Nat) (wrong : Bool) (rmw : Bool) (s : State) : Host.Outcome State Fault Refusal :=
  onDev (fun d => d.readComplete req a devs wrong rmw) s

/-- WRITE_CRC_ALERT (R369). -/
def execWriteCrcAlert (req : Nat) (a : Nat) (s : State) : Host.Outcome State Fault Refusal :=
  onDev (fun d => d.writeCrcAlert req a) s

/-- ELOG_READ (R370). -/
def execElogRead (path : Fin 7) (c : Fin 4) (s : State) : Host.Outcome State Fault Refusal :=
  readBy path.val (R.mcElog c.val 0) s

/-- ACT (R383). -/
def execAct (a : Nat) (req : Nat) (t : Nat) (s : State) : Host.Outcome State Fault Refusal :=
  onDev (fun d => match d.mcPlace a with | some (c, x) => d.activate c x req t | none => d) s

/-- ACT_WINDOW_END (R383). -/
def execActWindowEnd (c : Fin 4) (s : State) : Host.Outcome State Fault Refusal :=
  onDev (fun d => d.actWindowEnd c.val) s

/-- RH_WINDOW_END (R385). -/
def execRhWindowEnd (c : Fin 4) (s : State) : Host.Outcome State Fault Refusal :=
  onDev (fun d => d.rhWindowEnd c.val) s

/-- REFRESH_INTERVAL (R379). -/
def execRefreshInterval (c : Fin 4) (r : Fin 2) (s : State) : Host.Outcome State Fault Refusal :=
  onDev (fun d => d.refreshInterval c.val r.val) s

/-- MR4_POLL (R381). -/
def execMr4Poll (rs : List (Nat × Nat)) (s : State) : Host.Outcome State Fault Refusal :=
  onDev (fun d => d.mr4Poll rs) s

/-- URGENT_REFRESH_END (R382). -/
def execUrgentRefreshEnd (c : Fin 4) (r : Fin 2) (s : State) : Host.Outcome State Fault Refusal :=
  onDev (fun d => d.urgentEnd c.val r.val) s

/-- DQS_OSC_RUN (R389). -/
def execDqsOscRun (c : Fin 4) (rank : Fin 2) (sc : Fin 2) (steps : Int) (s : State) : Host.Outcome State Fault Refusal :=
  onDev (fun d => d.dqsOscRun c.val rank.val sc.val steps) s

/-- PATROL_SCRUB (R371). -/
def execPatrolScrub (n : Nat) (hits : List (Nat × List Nat × Bool)) (s : State) : Host.Outcome State Fault Refusal :=
  onDev (fun d => d.patrolScrub n hits) s

/-- LAZY_SWEEP (R387). -/
def execLazySweep (n : Nat) (s : State) : Host.Outcome State Fault Refusal :=
  onDev (fun d => d.lazySweep n) s

/-- MCG_MAP_WRITE (R375). -/
def execMcgMapWrite (path : Fin 7) (w : Word) (s : State) : Host.Outcome State Fault Refusal :=
  writeBy path.val R.mcgMap w s

/-- COMMAND_SLOT (R377). -/
def execCommandSlot (c : Fin 4) (sc : Fin 2) (t : Nat) (arr : List (Nat × Nat × Bool × Bool)) (s : State) : Host.Outcome State Fault Refusal :=
  onDev (fun d => d.commandSlot c.val sc.val t arr) s

end Sys2Proof.Machine
end

