-- ==== Sys2Proof/Machine/EventCmds.lean ====
section
/-! DEFINITION. Meanings: events, forces and the fault record (16_events_and_faults.md). -/
namespace Sys2Proof.Machine

/-- STICKY_CLEAR (R434). -/
def execStickyClear (path : Fin 7) (page : Fin 1024) (w : Word) (s : State) : Host.Outcome State Fault Refusal :=
  writeBy path.val (page.val * 0x1000 + 0x14) w s

/-- EVENT_FORCE_WRITE (R435). -/
def execEventForceWrite (path : Fin 7) (page : Fin 1024) (w : Word) (s : State) : Host.Outcome State Fault Refusal :=
  writeBy path.val (page.val * 0x1000 + 0x1C) w s

/-- EVG_CFG_WRITE (R437). -/
def execEvgCfgWrite (path : Fin 7) (g : Fin 36) (k : Fin 32) (w : Word) (s : State) : Host.Outcome State Fault Refusal :=
  writeBy path.val (R.evgCfg g.val k.val) w s

/-- EVC_FF_CLR (R441). -/
def execEvcFfClr (path : Fin 7) (w : Word) (s : State) : Host.Outcome State Fault Refusal :=
  writeBy path.val R.evcFfClr w s

/-- LEDGER_FAULT_RECORD (R444). -/
def execLedgerFaultRecord (s : State) : Host.Outcome State Fault Refusal :=
  onDev (fun d => d.faultLedger) s

end Sys2Proof.Machine
end

