-- ==== Sys2Proof/Machine/HostCmds.lean ====
section
/-! DEFINITION. Meanings: host windows, DMA, MSI-X and the supervisor's port (02_host_interface_and_registers.md). -/
namespace Sys2Proof.Machine

/-- W2_BASE_COMMIT (R39). -/
def execW2BaseCommit (path : Fin 7) (w : Word) (s : State) : Host.Outcome State Fault Refusal :=
  writeBy path.val R.hifW2BaseHi w s

/-- BAR2_ACCESS (R40). -/
def execBar2Access (write : Bool) (off : Nat) (n : Nat) (words : List Nat) (be : Nat) (bad : Bool) (s : State) : Host.Outcome State Fault Refusal :=
  onDev (fun d => d.bar2 write off n words be bad) s

/-- BAR4_ACCESS (R42). -/
def execBar4Access (write : Bool) (off : Nat) (n : Nat) (words : List Nat) (be : Nat) (waits : Nat) (s : State) : Host.Outcome State Fault Refusal :=
  onDev (fun d => d.bar4 write off n words be waits) s

/-- HOST_INTERFACE_RESET (R36). -/
def execHostInterfaceReset (kind : Fin 4) (s : State) : Host.Outcome State Fault Refusal :=
  onDev (fun d => d.hifReset kind.val) s

/-- D3HOT_ENTRY (R37). -/
def execD3hotEntry (s : State) : Host.Outcome State Fault Refusal :=
  onDev (fun d => d.d3Enter) s

/-- DMA_ENABLE (R46). -/
def execDmaEnable (path : Fin 7) (e : Fin 8) (w : Word) (s : State) : Host.Outcome State Fault Refusal :=
  writeBy path.val (R.dmaCtrl e.val) w s

/-- DMA_TAIL_WRITE (R43): the engine reads its next descriptor from what the host has put in its memory. -/
def execDmaTailWrite (path : Fin 7) (e : Fin 8) (w : Word) (host : List (Nat × List Nat)) (s : State) : Host.Outcome State Fault Refusal :=
  writeBy path.val (R.dmaTail e.val) w { s with dev := s.dev.hostPut host }

/-- DMA_ABORT (R45). -/
def execDmaAbort (path : Fin 7) (e : Fin 8) (w : Word) (s : State) : Host.Outcome State Fault Refusal :=
  writeBy path.val (R.dmaCtrl e.val) w s

/-- DMA_DESCRIPTOR_COMPLETE (R43). -/
def execDmaDescriptorComplete (e : Fin 8) (x : Sys2Proof.DmaEnd) (s : State) : Host.Outcome State Fault Refusal :=
  onDev (fun d => Dev.dmaComplete s.vault d e.val x) s

/-- MSIX_UNMASK (R48): one vector, or all of them by the function mask. -/
def execMsixUnmask (fn : Bool) (path : Fin 7) (v : Fin 64) (w : Word) (s : State) : Host.Outcome State Fault Refusal :=
  if fn then onDev (fun d => if d.hostUp then ({ d with hif := { d.hif with fmask := false } }).msixAll else d) s
  else writeBy path.val (R.msixVctrl v.val) w s

/-- READ_STATUS (R50). -/
def execReadStatus (s : State) : Host.Outcome State Fault Refusal :=
  onDev (fun d => d.bmpStatusRead) s

/-- BMP_WRITE (R51). -/
def execBmpWrite (a : Nat) (words : List Nat) (part : Bool) (out : Sys2Proof.Outside) (s : State) : Host.Outcome State Fault Refusal :=
  onDev (fun d => Dev.bmpWrite s.vault out d a words part) s

/-- BMP_READ (R51). -/
def execBmpRead (a : Nat) (n : Nat) (part : Bool) (s : State) : Host.Outcome State Fault Refusal :=
  onDev (fun d => d.bmpRead a n part) s

/-- PCIE_LINK_UP (R101). -/
def execPcieLinkUp (s : State) : Host.Outcome State Fault Refusal :=
  onDev (fun d => d.linkUp) s

/-- D3HOT_EXIT (R37). -/
def execD3hotExit (s : State) : Host.Outcome State Fault Refusal :=
  onDev (fun d => d.d3Leave) s

end Sys2Proof.Machine
end

