-- ==== Sys2Proof/Machine/MeasurementCmds.lean ====
section
/-! DEFINITION. Meanings: measurement scans and the calibration bus (09_levels_pmu_and_analog_dds.md). -/
namespace Sys2Proof.Machine

/-- MEAS_START (R267). -/
def execMeasStart (path : Fin 7) (p : Fin 4) (w : Word) (s : State) : Host.Outcome State Fault Refusal :=
  writeBy path.val (R.measCtrl p.val) w s

/-- MEAS_STOP (R267). -/
def execMeasStop (path : Fin 7) (p : Fin 4) (w : Word) (s : State) : Host.Outcome State Fault Refusal :=
  writeBy path.val (R.measCtrl p.val) w s

/-- MEAS_ENTRY_DONE (R267). -/
def execMeasEntryDone (p : Fin 4) (sum : Int) (moved : Bool) (s : State) : Host.Outcome State Fault Refusal :=
  onDev (fun d => d.measEntryDone p.val sum moved) s

/-- CALBUS_REQUEST (R275). -/
def execCalbusRequest (path : Fin 7) (p : Fin 4) (w : Word) (s : State) : Host.Outcome State Fault Refusal :=
  writeBy path.val (R.measCalbus p.val) w s

/-- CALBUS_GRANT (R275). -/
def execCalbusGrant (s : State) : Host.Outcome State Fault Refusal :=
  onDev (fun d => d.calbusGrant) s

end Sys2Proof.Machine
end

