-- ==== Sys2Proof/Machine/PatternCmds.lean ====
section
/-! DEFINITION. Meanings: micro-instructions of the pattern generator (06_algorithmic_generators_and_codecs.md). -/
namespace Sys2Proof.Machine

/-- BLOCK (R173). -/
def execBlock (p : Fin 4) (s : State) : Host.Outcome State Fault Refusal :=
  onDev (fun d => d.apgMicro p.val 1) s

/-- FIELD (R173). -/
def execField (p : Fin 4) (s : State) : Host.Outcome State Fault Refusal :=
  onDev (fun d => d.apgMicro p.val 2) s

/-- NEXT (R174). -/
def execNext (p : Fin 4) (s : State) : Host.Outcome State Fault Refusal :=
  onDev (fun d => d.apgMicro p.val 3) s

/-- APG_LOOP (R174). -/
def execApgLoop (p : Fin 4) (s : State) : Host.Outcome State Fault Refusal :=
  onDev (fun d => d.apgMicro p.val 4) s

/-- ORDER (R168). -/
def execOrder (p : Fin 4) (s : State) : Host.Outcome State Fault Refusal :=
  onDev (fun d => d.apgMicro p.val 5) s

/-- CRC (R172). -/
def execCrc (p : Fin 4) (s : State) : Host.Outcome State Fault Refusal :=
  onDev (fun d => d.apgMicro p.val 6) s

/-- END (R175). -/
def execEndMicro (p : Fin 4) (s : State) : Host.Outcome State Fault Refusal :=
  onDev (fun d => d.apgMicro p.val 7) s

/-- SETLC (R173). -/
def execSetlc (p : Fin 4) (s : State) : Host.Outcome State Fault Refusal :=
  onDev (fun d => d.apgMicro p.val 8) s

end Sys2Proof.Machine
end

