-- ==== Sys2Proof/Machine/PowerCmds.lean ====
section
/-! DEFINITION. Meanings: power profile, sag governor, voltage and thermal (17_power_and_thermal.md). -/
namespace Sys2Proof.Machine

/-- POWER_PROFILE_WRITE (R32). -/
def execPowerProfileWrite (path : Fin 7) (w : Word) (s : State) : Host.Outcome State Fault Refusal :=
  writeBy path.val R.glbProfile w s

/-- SAG_START (R448). -/
def execSagStart (pt : Fin 4) (mv : Nat) (s : State) : Host.Outcome State Fault Refusal :=
  onDev (fun d => d.sagStart pt.val mv) s

/-- SAG_PERSIST_TIMEOUT (R450). -/
def execSagPersistTimeout (s : State) : Host.Outcome State Fault Refusal :=
  onDev (fun d => d.sagPersist) s

/-- SAG_END (R447). -/
def execSagEnd (s : State) : Host.Outcome State Fault Refusal :=
  onDev (fun d => d.sagEnd) s

/-- AVS_MEASURE (R451). -/
def execAvsMeasure (mv : Nat) (s : State) : Host.Outcome State Fault Refusal :=
  onDev (fun d => d.avsMeasure mv) s

/-- SENSOR_READING (R452). -/
def execSensorReading (rs : List Int) (s : State) : Host.Outcome State Fault Refusal :=
  onDev (fun d => d.sensorReading rs) s

end Sys2Proof.Machine
end

