-- ==== Sys2Proof/Machine/RegisterCmds.lean ====
section
/-! DEFINITION. Meanings: accesses to registers without a row of their own (02_host_interface_and_registers.md). -/
namespace Sys2Proof.Machine

/-- REGISTER_WRITE (R60).  A host dword with byte enables other than 0b1111 is dropped and counted (R57). -/
def execRegisterWrite (path : Fin 7) (a : Fin 0x400000) (w : Word) (be : Fin 16) (out : Sys2Proof.Outside) (s : State) :
    Host.Outcome State Fault Refusal :=
  if path.val = 0 ∧ be.val ≠ 15 then onDev (fun d => if d.hostUp then d.cnt R.hifDropCnt F.hifDropCntPartial 1 else d) s
  else writeWith out path.val a.val w s

/-- READ_CLEAR (R5). -/
def execReadClear (path : Fin 7) (a : Fin 0x400000) (s : State) : Host.Outcome State Fault Refusal :=
  readBy path.val a.val s

/-- PAGE_LOCK_WRITE (R60). -/
def execPageLockWrite (path : Fin 7) (page : Fin 1024) (w : Word) (s : State) : Host.Outcome State Fault Refusal :=
  writeBy path.val (plock page.val) w s

end Sys2Proof.Machine
end

