-- ==== Sys2Proof/Machine/ResetCmds.lean ====
section
/-! DEFINITION. Meanings: resets and recalibrations (04_startup_reset_and_partial_service.md, R215, R390). -/
namespace Sys2Proof.Machine

/-- WARM_RESET (R112). -/
def execWarmReset (path : Fin 7) (w : Word) (out : Sys2Proof.Outside) (s : State) : Host.Outcome State Fault Refusal :=
  writeWith out path.val (pctl 0) w s

/-- PORT_RESET (R114). -/
def execPortReset (path : Fin 7) (p : Fin 4) (w : Word) (out : Sys2Proof.Outside) (s : State) : Host.Outcome State Fault Refusal :=
  writeWith out path.val (pctl (ppage p.val 0)) w s

/-- PORT_RESET_DONE (R112). -/
def execPortResetDone (p : Fin 4) (s : State) : Host.Outcome State Fault Refusal :=
  onDev (fun d => d.portResetDone p.val) s

/-- SIDEBAND_RESET (R115). -/
def execSidebandReset (path : Fin 7) (p : Fin 4) (e : Fin 4) (w : Word) (s : State) : Host.Outcome State Fault Refusal :=
  writeBy path.val (pctl (ppage p.val (0xB + e.val))) w s

/-- CHANNEL_RECALIBRATION (R215). -/
def execChannelRecalibration (path : Fin 7) (i : Fin 96) (w : Word) (s : State) : Host.Outcome State Fault Refusal :=
  writeBy path.val (pctl (Dev.chPage i.val)) w s

/-- CHANNEL_RECALIBRATION_END (R215). -/
def execChannelRecalibrationEnd (i : Fin 96) (tOk : Bool) (lOk : Bool) (dtc : List Nat) (dly : List Nat) (lv : List Nat) (s : State) : Host.Outcome State Fault Refusal :=
  onDev (fun d => d.recalEnd i.val tOk lOk dtc dly lv) s

/-- DRAM_RETRAIN (R390). -/
def execDramRetrain (path : Fin 7) (c : Fin 4) (w : Word) (s : State) : Host.Outcome State Fault Refusal :=
  writeBy path.val (pctl (0x40 + c.val)) w s

/-- RETRAIN_END (R390). -/
def execRetrainEnd (c : Fin 4) (ok : Bool) (res : List Nat) (fails : List Sys2Proof.MarchFail) (passes : List Nat) (s : State) : Host.Outcome State Fault Refusal :=
  onDev (fun d => d.retrainOver c.val ok res fails passes) s

/-- SIDEBAND_RESET_DONE (R112). -/
def execSidebandResetDone (p : Fin 4) (e : Fin 4) (s : State) : Host.Outcome State Fault Refusal :=
  onDev (fun d => d.sbResetDone p.val e.val) s

end Sys2Proof.Machine
end

