-- ==== Sys2Proof/Machine/SecurityCmds.lean ====
section
/-! DEFINITION. Meanings: seasons, tamper, vault and JTAG (18_security_identity_and_seasons.md). -/
namespace Sys2Proof.Machine

/-- SEASON_ARM (R459). -/
def execSeasonArm (path : Fin 7) (w : Word) (s : State) : Host.Outcome State Fault Refusal :=
  writeBy path.val R.vltSeasonReq w s

/-- SEASON_COMMIT (R459). -/
def execSeasonCommit (path : Fin 7) (w : Word) (out : Sys2Proof.Outside) (s : State) : Host.Outcome State Fault Refusal :=
  writeWith out path.val R.vltSeasonReq w s

/-- SEASON_ARM_EXPIRY (R459). -/
def execSeasonArmExpiry (s : State) : Host.Outcome State Fault Refusal :=
  onDev (fun d => if d.vlt.arm.isSome then d.endArm else d) s

/-- SEASON_CHANGE_DONE (R460): the target's fuse is blown. -/
def execSeasonChangeDone (s : State) : Host.Outcome State Fault Refusal :=
  match s.dev.vlt.trans with
  | none => .next s
  | some t =>
    let v := s.vault.blow t
    .next { s with vault := v, dev := Dev.seasonDone v s.dev }

/-- TAMPER_N_LOW (R463). -/
def execTamperNLow (s : State) : Host.Outcome State Fault Refusal :=
  onDev (fun d => Dev.tamperLow s.vault d) s

/-- TAMPER_WIPE_DONE (R463): the next tamper fuse is blown. -/
def execTamperWipeDone (s : State) : Host.Outcome State Fault Refusal :=
  if s.dev.rb R.vltStat F.vltStatWipeBusy then
    let v := s.vault.blowTamper
    .next { s with vault := v, dev := Dev.tamperDone v s.dev }
  else .next s

/-- LOAD (R466). -/
def execLoad (path : Fin 7) (w : Word) (s : State) : Host.Outcome State Fault Refusal :=
  writeBy path.val R.vltKeyctrl w s

/-- VLT_APPLY (R469). -/
def execVltApply (path : Fin 7) (w : Word) (out : Sys2Proof.Outside) (s : State) : Host.Outcome State Fault Refusal :=
  writeWith out path.val R.vltApply w s

/-- JTAG_INSTRUCTION (R487). -/
def execJtagInstruction (i : Sys2Proof.JtagInstr) (low : Bool) (s : State) : Host.Outcome State Fault Refusal :=
  onDev (fun d => d.jtagLoad i low) s

/-- TAMPER_N_HIGH (R463). -/
def execTamperNHigh (s : State) : Host.Outcome State Fault Refusal :=
  onDev (fun d => d.tamperHigh) s

end Sys2Proof.Machine
end

