-- ==== Sys2Proof/Machine/SequencerCmds.lean ====
section
/-! DEFINITION. Meanings: the ports' sequencers, their instructions and streams (05_vector_sequencer.md). -/
namespace Sys2Proof.Machine

/-- PORT_START (R156). -/
def execPortStart (path : Fin 7) (p : Fin 4) (w : Word) (s : State) : Host.Outcome State Fault Refusal :=
  writeBy path.val (R.seqCtrl p.val) w s

/-- FILL_COMPLETE (R156). -/
def execFillComplete (p : Fin 4) (s : State) : Host.Outcome State Fault Refusal :=
  onDev (fun d => d.fillComplete p.val) s

/-- SEQ_STOP (R157). -/
def execSeqStop (path : Fin 7) (p : Fin 4) (w : Word) (s : State) : Host.Outcome State Fault Refusal :=
  writeBy path.val (R.seqCtrl p.val) w s

/-- SEQ_ERR_CLEAR (R158). -/
def execSeqErrClear (path : Fin 7) (p : Fin 4) (w : Word) (s : State) : Host.Outcome State Fault Refusal :=
  writeBy path.val (R.seqErr p.val) w s

/-- STREAM_DESCRIPTOR_COMMIT (R149). -/
def execStreamDescriptorCommit (path : Fin 7) (p : Fin 4) (rx : Bool) (i : Fin 16) (w : Word) (s : State) : Host.Outcome State Fault Refusal :=
  writeBy path.val (Dev.descReg p.val rx i.val 3) w s

/-- ISSUE (R126). -/
def execIssue (p : Fin 4) (s : State) : Host.Outcome State Fault Refusal :=
  onDev (fun d => d.issueOp p.val 1) s

/-- APG_RUN (R162). -/
def execApgRun (p : Fin 4) (s : State) : Host.Outcome State Fault Refusal :=
  onDev (fun d => d.issueOp p.val 2) s

/-- IDLE (R512). -/
def execIdle (p : Fin 4) (s : State) : Host.Outcome State Fault Refusal :=
  onDev (fun d => d.issueOp p.val 3) s

/-- LOOP (R136). -/
def execLoop (p : Fin 4) (s : State) : Host.Outcome State Fault Refusal :=
  onDev (fun d => d.loopOp p.val) s

/-- ENDLOOP (R136). -/
def execEndloop (p : Fin 4) (s : State) : Host.Outcome State Fault Refusal :=
  onDev (fun d => d.endloopOp p.val) s

/-- CALL (R136). -/
def execCall (p : Fin 4) (s : State) : Host.Outcome State Fault Refusal :=
  onDev (fun d => d.callOp p.val) s

/-- RET (R136). -/
def execRet (p : Fin 4) (s : State) : Host.Outcome State Fault Refusal :=
  onDev (fun d => d.retOp p.val) s

/-- JUMP (R135). -/
def execJump (p : Fin 4) (s : State) : Host.Outcome State Fault Refusal :=
  onDev (fun d => d.jumpOp p.val) s

/-- JUMP_IF (R133). -/
def execJumpIf (p : Fin 4) (s : State) : Host.Outcome State Fault Refusal :=
  onDev (fun d => d.jumpIfOp p.val) s

/-- MATCH (R147). -/
def execMatchUnits (p : Fin 4) (s : State) : Host.Outcome State Fault Refusal :=
  onDev (fun d => d.matchOp p.val) s

/-- WAIT_TIME (R139). -/
def execWaitTime (p : Fin 4) (s : State) : Host.Outcome State Fault Refusal :=
  onDev (fun d => d.waitTimeOp p.val) s

/-- WAIT_EVENT (R140). -/
def execWaitEvent (p : Fin 4) (s : State) : Host.Outcome State Fault Refusal :=
  onDev (fun d => d.waitEventOp p.val) s

/-- WAIT_EVENT_TIMEOUT (R140). -/
def execWaitEventTimeout (p : Fin 4) (s : State) : Host.Outcome State Fault Refusal :=
  onDev (fun d => d.waitEventTimeout p.val) s

/-- SET_LOCAL (R137). -/
def execSetLocal (p : Fin 4) (s : State) : Host.Outcome State Fault Refusal :=
  onDev (fun d => d.setLocalOp p.val) s

/-- SET_REG (R138). -/
def execSetReg (p : Fin 4) (out : Sys2Proof.Outside) (s : State) : Host.Outcome State Fault Refusal :=
  onDev (fun d => Dev.setReg s.vault out d p.val) s

/-- SET_TIMED (R138). -/
def execSetTimed (p : Fin 4) (s : State) : Host.Outcome State Fault Refusal :=
  onDev (fun d => d.setTimed p.val) s

/-- SYNC (R139). -/
def execSync (p : Fin 4) (s : State) : Host.Outcome State Fault Refusal :=
  onDev (fun d => d.syncOp p.val) s

/-- HALT (R141). -/
def execHalt (p : Fin 4) (s : State) : Host.Outcome State Fault Refusal :=
  onDev (fun d => d.haltOp p.val) s

/-- ILLEGAL_INSTRUCTION (R134). -/
def execIllegalInstruction (p : Fin 4) (s : State) : Host.Outcome State Fault Refusal :=
  onDev (fun d => d.illegalInstr p.val) s

/-- BEAT_ISSUE (R122). -/
def execBeatIssue (p : Fin 4) (s : State) : Host.Outcome State Fault Refusal :=
  onDev (fun d => d.beatIssue p.val) s

/-- VECTOR_LAUNCH (R123). -/
def execVectorLaunch (p : Fin 4) (s : State) : Host.Outcome State Fault Refusal :=
  onDev (fun d => d.vectorStep p.val) s

/-- COMPARE_DECISION (R144). -/
def execCompareDecision (p : Fin 4) (s : State) : Host.Outcome State Fault Refusal :=
  onDev (fun d => d.compareDecision p.val) s

/-- MOORING_RELEASE (R152). -/
def execMooringRelease (p : Fin 4) (s : State) : Host.Outcome State Fault Refusal :=
  onDev (fun d => d.mooringRelease p.val) s

/-- BARGE_FILL (R151). -/
def execBargeFill (p : Fin 4) (poison : Bool) (s : State) : Host.Outcome State Fault Refusal :=
  onDev (fun d => d.bargeFill p.val poison) s

/-- BARGE_DRAIN (R151). -/
def execBargeDrain (p : Fin 4) (s : State) : Host.Outcome State Fault Refusal :=
  onDev (fun d => d.bargeDrain p.val) s

end Sys2Proof.Machine
end

