-- ==== Sys2Proof/Machine/SidebandCmds.lean ====
section
/-! DEFINITION. Meanings: CEC, DDC, AUX and HPD engines (12_sideband_engines.md). -/
namespace Sys2Proof.Machine

/-- SIDEBAND_ENABLE (R334). -/
def execSidebandEnable (path : Fin 7) (p : Fin 4) (e : Fin 4) (w : Word) (s : State) : Host.Outcome State Fault Refusal :=
  writeBy path.val (pctl (ppage p.val (0xB + e.val))) w s

/-- SIDEBAND_DISABLE (R342). -/
def execSidebandDisable (path : Fin 7) (p : Fin 4) (e : Fin 4) (w : Word) (out : Sys2Proof.Outside) (s : State) : Host.Outcome State Fault Refusal :=
  writeWith out path.val (pctl (ppage p.val (0xB + e.val))) w s

/-- ABORT (R342). -/
def execAbort (path : Fin 7) (p : Fin 4) (e : Fin 3) (w : Word) (out : Sys2Proof.Outside) (s : State) : Host.Outcome State Fault Refusal :=
  writeWith out path.val (Dev.sbReg p.val e.val 0x5C) w s

/-- FLUSH (R342). -/
def execFlush (path : Fin 7) (p : Fin 4) (e : Fin 3) (w : Word) (out : Sys2Proof.Outside) (s : State) : Host.Outcome State Fault Refusal :=
  writeWith out path.val (Dev.sbReg p.val e.val 0x5C) w s

/-- LINE_LOST (R343). -/
def execLineLost (p : Fin 4) (e : Fin 4) (rx : Bool) (t : Nat) (passed : List Nat) (s : State) : Host.Outcome State Fault Refusal :=
  onDev (fun d => d.lineLost p.val e.val rx t passed) s

/-- SEND (R346). -/
def execSend (p : Fin 4) (status : Nat) (blocks : Nat) (acks : Nat) (t : Nat) (times : List Nat) (s : State) : Host.Outcome State Fault Refusal :=
  onDev (fun d => d.cecSend p.val status blocks acks t times) s

/-- CEC_ATTEMPT_START (R346). -/
def execCecAttemptStart (p : Fin 4) (s : State) : Host.Outcome State Fault Refusal :=
  onDev (fun d => d.cecAttempt p.val) s

/-- CEC_MESSAGE_RECEIVED (R347). -/
def execCecMessageReceived (p : Fin 4) (t : Nat) (fault : Nat) (bytes : List Nat) (acks : Nat) (times : List Nat) (s : State) : Host.Outcome State Fault Refusal :=
  onDev (fun d => d.cecReceived p.val t fault bytes acks times) s

/-- DDC_WRITE (R349). -/
def execDdcWrite (p : Fin 4) (t : Nat) (losses : Nat) (status : Nat) (sent : Nat) (nack : Nat) (times : List Nat) (s : State) : Host.Outcome State Fault Refusal :=
  onDev (fun d => d.ddcMaster p.val 1 t losses status sent nack [] times) s

/-- DDC_READ (R349). -/
def execDdcRead (p : Fin 4) (t : Nat) (losses : Nat) (status : Nat) (sent : Nat) (nack : Nat) (rd : List Nat) (times : List Nat) (s : State) : Host.Outcome State Fault Refusal :=
  onDev (fun d => d.ddcMaster p.val 2 t losses status sent nack rd times) s

/-- DDC_WRITE_READ (R349). -/
def execDdcWriteRead (p : Fin 4) (t : Nat) (losses : Nat) (status : Nat) (sent : Nat) (nack : Nat) (rd : List Nat) (times : List Nat) (s : State) : Host.Outcome State Fault Refusal :=
  onDev (fun d => d.ddcMaster p.val 3 t losses status sent nack rd times) s

/-- DDC_STUCK_BUS_TIMEOUT (R349). -/
def execDdcStuckBusTimeout (p : Fin 4) (t : Nat) (s : State) : Host.Outcome State Fault Refusal :=
  onDev (fun d => d.ddcStuck p.val t) s

/-- DDC_TRANSACTION_OBSERVED (R351). -/
def execDdcTransactionObserved (p : Fin 4) (t : Nat) (phases : List (Nat × Bool × List Nat)) (broken : Bool) (nack : Nat) (times : List Nat) (s : State) : Host.Outcome State Fault Refusal :=
  onDev (fun d => d.ddcObserved p.val t phases broken nack times) s

/-- NATIVE_WR (R353). -/
def execNativeWr (p : Fin 4) (t : Nat) (s : State) : Host.Outcome State Fault Refusal :=
  onDev (fun d => d.auxRequest p.val 1 t) s

/-- NATIVE_RD (R353). -/
def execNativeRd (p : Fin 4) (t : Nat) (s : State) : Host.Outcome State Fault Refusal :=
  onDev (fun d => d.auxRequest p.val 2 t) s

/-- I2C_WR (R353). -/
def execI2cWr (p : Fin 4) (t : Nat) (s : State) : Host.Outcome State Fault Refusal :=
  onDev (fun d => d.auxRequest p.val 3 t) s

/-- I2C_RD (R353). -/
def execI2cRd (p : Fin 4) (t : Nat) (s : State) : Host.Outcome State Fault Refusal :=
  onDev (fun d => d.auxRequest p.val 4 t) s

/-- AUX_REPLY_TIMEOUT (R353). -/
def execAuxReplyTimeout (p : Fin 4) (t : Nat) (s : State) : Host.Outcome State Fault Refusal :=
  onDev (fun d => d.auxTimeout p.val t) s

/-- AUX_DEFER_RETRY (R353). -/
def execAuxDeferRetry (p : Fin 4) (t : Nat) (s : State) : Host.Outcome State Fault Refusal :=
  onDev (fun d => d.auxDeferRetry p.val t) s

/-- AUX_REQUEST_RECEIVED (R354). -/
def execAuxRequestReceived (p : Fin 4) (t : Nat) (comm : Nat) (addr : Nat) (len : Nat) (data : List Nat) (bad : Bool) (times : List Nat) (s : State) : Host.Outcome State Fault Refusal :=
  onDev (fun d => d.auxReqReceived p.val t comm addr len data bad times) s

/-- AUX_RELEASE (R355). -/
def execAuxRelease (path : Fin 7) (p : Fin 4) (w : Word) (s : State) : Host.Outcome State Fault Refusal :=
  writeBy path.val (R.auxRelease p.val) w s

/-- HPD_LEVEL_WRITE (R358). -/
def execHpdLevelWrite (path : Fin 7) (p : Fin 4) (w : Word) (out : Sys2Proof.Outside) (s : State) : Host.Outcome State Fault Refusal :=
  writeWith out path.val (R.hpdCtrl p.val) w s

/-- HPD_PULSE (R358). -/
def execHpdPulse (path : Fin 7) (p : Fin 4) (w : Word) (out : Sys2Proof.Outside) (s : State) : Host.Outcome State Fault Refusal :=
  writeWith out path.val (R.hpdCtrl p.val) w s

/-- HPD_PULSE_END (R358). -/
def execHpdPulseEnd (p : Fin 4) (back : Bool) (s : State) : Host.Outcome State Fault Refusal :=
  onDev (fun d => d.hpdPulseEnd p.val back) s

/-- HPD_LINE_CHANGE (R359). -/
def execHpdLineChange (p : Fin 4) (t : Nat) (lvl : Bool) (s : State) : Host.Outcome State Fault Refusal :=
  onDev (fun d => d.hpdChange p.val t lvl) s

/-- HPD_UNPLUG_TIMEOUT (R359). -/
def execHpdUnplugTimeout (p : Fin 4) (s : State) : Host.Outcome State Fault Refusal :=
  onDev (fun d => d.hpdUnplug p.val) s

/-- AUX_REPLY_RECEIVED (R353). -/
def execAuxReplyReceived (p : Fin 4) (t : Nat) (comm : Nat) (data : List Nat) (bad : Bool) (times : List Nat) (s : State) : Host.Outcome State Fault Refusal :=
  onDev (fun d => d.auxReply p.val t comm data bad times) s

end Sys2Proof.Machine
end

