-- ==== Sys2Proof/Machine/SramCmds.lean ====
section
/-! DEFINITION. Meanings: SRAM march, retention and the mailbox (15_onchip_memories.md). -/
namespace Sys2Proof.Machine

/-- MARCH_START (R419). -/
def execMarchStart (path : Fin 7) (w : Word) (out : Sys2Proof.Outside) (s : State) : Host.Outcome State Fault Refusal :=
  writeWith out path.val R.srmMarchCtrl w s

/-- MARCH_STOP (R420). -/
def execMarchStop (path : Fin 7) (w : Word) (out : Sys2Proof.Outside) (s : State) : Host.Outcome State Fault Refusal :=
  writeWith out path.val R.srmMarchCtrl w s

/-- MARCH_RUN_END (R424). -/
def execMarchRunEnd (fails : List Sys2Proof.MarchFail) (passes : List Nat) (s : State) : Host.Outcome State Fault Refusal :=
  onDev (fun d => d.marchEnd fails passes) s

/-- MARCH_YIELD (R422). -/
def execMarchYield (j : Nat) (s : State) : Host.Outcome State Fault Refusal :=
  onDev (fun d => d.marchYield j) s

/-- MARCH_WINDOW_RETRY (R422). -/
def execMarchWindowRetry (s : State) : Host.Outcome State Fault Refusal :=
  onDev (fun d => d.marchRetry) s

/-- RETENTION_REQUEST (R426). -/
def execRetentionRequest (path : Fin 7) (i : Fin 3) (w : Word) (s : State) : Host.Outcome State Fault Refusal :=
  writeBy path.val (R.srmRetReq0 + 4 * i.val) w s

/-- RETENTION_WAKE (R427). -/
def execRetentionWake (path : Fin 7) (i : Fin 3) (w : Word) (s : State) : Host.Outcome State Fault Refusal :=
  writeBy path.val (R.srmRetReq0 + 4 * i.val) w s

/-- WAKE_COMPLETE (R427). -/
def execWakeComplete (b : Fin 68) (s : State) : Host.Outcome State Fault Refusal :=
  onDev (fun d => d.wakeComplete b.val) s

/-- MAILBOX_ACCESS (R415): a word read goes to its reader. -/
def execMailboxAccess (h : Option Sys2Proof.MbxAcc) (b : Option Sys2Proof.MbxAcc) (s : State) : Host.Outcome State Fault Refusal :=
  onDev (fun d => let r := d.mbxEdge (if d.hostUp then h else none) b; if r.2.isEmpty then r.1 else r.1.answer r.2) s

/-- MBX_DOORBELL_WRITE (R417). -/
def execMbxDoorbellWrite (path : Fin 7) (h2b : Bool) (w : Word) (s : State) : Host.Outcome State Fault Refusal :=
  writeBy path.val (if h2b then R.mbxDbH2b else R.mbxDbB2h) w s

end Sys2Proof.Machine
end

