-- ==== Sys2Proof/Machine/StartupCmds.lean ====
section
/-! DEFINITION. Meanings: start-up, boot policy and the Keeper (04_startup_reset_and_partial_service.md). -/
namespace Sys2Proof.Machine

/-- POWER_COMPLETE (R97). -/
def execPowerComplete (readable : Bool) (s : State) : Host.Outcome State Fault Refusal :=
  onDev (fun d => Dev.powerComplete s.vault d readable) s

/-- RAIL_LOSS (R98). -/
def execRailLoss (s : State) : Host.Outcome State Fault Refusal :=
  onDev (fun d => Dev.railLoss s.vault d) s

/-- COLD_RESET (R99). -/
def execColdReset (ns : Nat) (s : State) : Host.Outcome State Fault Refusal :=
  onDev (fun d => Dev.resetN s.vault d ns) s

/-- STARTUP_STEP_END (R100). -/
def execStartupStepEnd (x : Sys2Proof.StepResult) (s : State) : Host.Outcome State Fault Refusal :=
  onDev (fun d => Dev.stepEnd s.vault d x) s

/-- STARTUP_ATTEMPT_TIMEOUT (R100). -/
def execStartupAttemptTimeout (s : State) : Host.Outcome State Fault Refusal :=
  onDev (fun d => Dev.stepTimeout s.vault d) s

/-- BOOT_POLICY_WRITE (R106). -/
def execBootPolicyWrite (path : Fin 7) (n : Fin 13) (w : Word) (s : State) : Host.Outcome State Fault Refusal :=
  writeBy path.val (R.bootPolicy1 + 4 * n.val) w s

/-- CLEAR_HIST (R106). -/
def execClearHist (path : Fin 7) (n : Fin 13) (w : Word) (s : State) : Host.Outcome State Fault Refusal :=
  writeBy path.val (R.bootPolicy1 + 4 * n.val) w s

/-- LEDGER_WINDOW_READ (R108). -/
def execLedgerWindowRead (path : Fin 7) (s : State) : Host.Outcome State Fault Refusal :=
  readBy path.val R.bootLwinData s

/-- KEEPER_UPDATE_START (R109). -/
def execKeeperUpdateStart (path : Fin 7) (w : Word) (s : State) : Host.Outcome State Fault Refusal :=
  writeBy path.val R.bootKupdCtrl w s

/-- KEEPER_UPDATE_END (R109). -/
def execKeeperUpdateEnd (reason : Nat) (version : Nat) (s : State) : Host.Outcome State Fault Refusal :=
  onDev (fun d => d.updateEnd reason version) s

/-- MAILBOX_UPDATE_START (R111). -/
def execMailboxUpdateStart (path : Fin 7) (w : Word) (s : State) : Host.Outcome State Fault Refusal :=
  writeBy path.val R.bootKupdCtrl w s

/-- CHUNK_LEN_WRITE (R111). -/
def execChunkLenWrite (path : Fin 7) (w : Word) (s : State) : Host.Outcome State Fault Refusal :=
  writeBy path.val R.bootKupdCtrl w s

/-- KEEPER_RESTART_CMD (R109). -/
def execKeeperRestartCmd (path : Fin 7) (w : Word) (s : State) : Host.Outcome State Fault Refusal :=
  writeBy path.val R.bootKeeperCmd w s

/-- KEEPER_TRIAL_END (R110). -/
def execKeeperTrialEnd (ok : Bool) (s : State) : Host.Outcome State Fault Refusal :=
  onDev (fun d => d.trialEnd ok) s

/-- KEEPER_WATCHDOG_EXPIRY (R117). -/
def execKeeperWatchdogExpiry (s : State) : Host.Outcome State Fault Refusal :=
  onDev (fun d => d.keeperWatchdog) s

/-- KEEPER_RESTART_DONE (R117). -/
def execKeeperRestartDone (s : State) : Host.Outcome State Fault Refusal :=
  onDev (fun d => d.keeperBack) s

end Sys2Proof.Machine
end

