-- ==== Sys2Proof/Machine/TimeCmds.lean ====
section
/-! DEFINITION. Meanings: references, the GTC, SYNC links and timed commands (03_time_base_and_clocks.md). -/
namespace Sys2Proof.Machine

/-- REFERENCE_LOST (R65). -/
def execReferenceLost (r : Fin 2) (s : State) : Host.Outcome State Fault Refusal :=
  onDev (fun d => d.refLost r.val) s

/-- REFERENCE_RETURN (R67). -/
def execReferenceReturn (r : Fin 2) (s : State) : Host.Outcome State Fault Refusal :=
  onDev (fun d => d.refReturn r.val) s

/-- CLK_REF_SEL_WRITE (R66). -/
def execClkRefSelWrite (path : Fin 7) (w : Word) (s : State) : Host.Outcome State Fault Refusal :=
  writeBy path.val R.clkRef w s

/-- ROOT_PLL_LOCK_LOSS (R68). -/
def execRootPllLockLoss (s : State) : Host.Outcome State Fault Refusal :=
  onDev (fun d => d.pllLost) s

/-- GTC_STEP_COMMIT (R73). -/
def execGtcStepCommit (path : Fin 7) (w : Word) (s : State) : Host.Outcome State Fault Refusal :=
  writeBy path.val R.gtcStep2 w s

/-- TOWPATH_CHECK (R75). -/
def execTowpathCheck (agree : Bool) (s : State) : Host.Outcome State Fault Refusal :=
  onDev (fun d => d.towpath agree) s

/-- SYNC_OUT_ARM (R80). -/
def execSyncOutArm (path : Fin 7) (w : Word) (s : State) : Host.Outcome State Fault Refusal :=
  writeBy path.val R.syncCtrl w s

/-- SYNC_OUT_PULSE (R80). -/
def execSyncOutPulse (s : State) : Host.Outcome State Fault Refusal :=
  onDev (fun d => d.syncPulse) s

/-- SYNC_IN_OFF (R83). -/
def execSyncInOff (path : Fin 7) (w : Word) (s : State) : Host.Outcome State Fault Refusal :=
  writeBy path.val R.syncCtrl w s

/-- SYNC_CAPTURE_MODE (R83). -/
def execSyncCaptureMode (path : Fin 7) (w : Word) (s : State) : Host.Outcome State Fault Refusal :=
  writeBy path.val R.syncCtrl w s

/-- SYNC_ALIGN_MODE (R83). -/
def execSyncAlignMode (path : Fin 7) (w : Word) (s : State) : Host.Outcome State Fault Refusal :=
  writeBy path.val R.syncCtrl w s

/-- SYNC_RELAY_MODE (R83). -/
def execSyncRelayMode (path : Fin 7) (w : Word) (s : State) : Host.Outcome State Fault Refusal :=
  writeBy path.val R.syncCtrl w s

/-- SYNC_IN_CAPTURE (R81). -/
def execSyncInCapture (t : Nat) (s : State) : Host.Outcome State Fault Refusal :=
  onDev (fun d => d.syncCapture t) s

/-- SYNC_IN_MISSING (R82). -/
def execSyncInMissing (s : State) : Host.Outcome State Fault Refusal :=
  onDev (fun d => d.syncMissing) s

/-- RELAY_PULSE (R83). -/
def execRelayPulse (s : State) : Host.Outcome State Fault Refusal :=
  onDev (fun d => d.relayPulse) s

/-- TCQ_PUSH (R86). -/
def execTcqPush (path : Fin 7) (w : Word) (s : State) : Host.Outcome State Fault Refusal :=
  writeBy path.val (R.tcqEntry 7) w s

/-- TCQ_EXECUTE (R88). -/
def execTcqExecute (out : Sys2Proof.Outside) (s : State) : Host.Outcome State Fault Refusal :=
  onDev (fun d => Dev.tcqExecute s.vault out d) s

/-- TCQ_DELIVER (R89). -/
def execTcqDeliver (out : Sys2Proof.Outside) (s : State) : Host.Outcome State Fault Refusal :=
  onDev (fun d => Dev.tcqDeliver s.vault out d) s

/-- TCQ_CANCEL (R93). -/
def execTcqCancel (path : Fin 7) (w : Word) (s : State) : Host.Outcome State Fault Refusal :=
  writeBy path.val R.tcqCancel w s

/-- TCQ_FLUSH (R93). -/
def execTcqFlush (path : Fin 7) (w : Word) (s : State) : Host.Outcome State Fault Refusal :=
  writeBy path.val R.tcqFlush w s

/-- TCQ_COMPLETION_READ (R92). -/
def execTcqCompletionRead (path : Fin 7) (s : State) : Host.Outcome State Fault Refusal :=
  readBy path.val R.tcqCpl0 s

end Sys2Proof.Machine
end

