-- ==== Sys2Proof/Machine/TimingCmds.lean ====
section
/-! DEFINITION. Meanings: timing-affecting changes and tracking (07_timing_generators.md). -/
namespace Sys2Proof.Machine

/-- TIMING_AFFECTING_WRITE (R193). -/
def execTimingAffectingWrite (path : Fin 7) (a : Fin 0x400000) (w : Word) (s : State) : Host.Outcome State Fault Refusal :=
  writeBy path.val a.val w s

/-- TIMING_CHANGE_APPLY (R203). -/
def execTimingChangeApply (p : Fin 4) (s : State) : Host.Outcome State Fault Refusal :=
  onDev (fun d => d.applyDue p.val) s

/-- TIMING_PROFILE_WRITE (R25). -/
def execTimingProfileWrite (path : Fin 7) (p : Fin 4) (w : Word) (s : State) : Host.Outcome State Fault Refusal :=
  writeBy path.val (R.prtProfile p.val) w s

/-- TRACKING_CONVERGED (R26). -/
def execTrackingConverged (p : Fin 4) (s : State) : Host.Outcome State Fault Refusal :=
  onDev (fun d => d.trackConverged p.val) s

/-- TRACKING_UPDATE (R217). -/
def execTrackingUpdate (i : Fin 96) (want : Int) (s : State) : Host.Outcome State Fault Refusal :=
  onDev (fun d => d.trackUpdate i.val want) s

/-- TRIM (R217). -/
def execTrim (i : Fin 96) (want : Int) (s : State) : Host.Outcome State Fault Refusal :=
  onDev (fun d => d.trim i.val want) s

end Sys2Proof.Machine
end

