-- ==== Sys2Proof/Machine/Dispatch.lean ====
section
/-! DEFINITION. The effect of each command: one arm per row of the table. -/
namespace Sys2Proof.Machine

def exec (i : Instr) (s : State) : Host.Outcome State Fault Refusal :=
  match i with
  | .powerComplete readable => Sys2Proof.Machine.execPowerComplete readable s
  | .railLoss => Sys2Proof.Machine.execRailLoss s
  | .coldReset ns => Sys2Proof.Machine.execColdReset ns s
  | .startupStepEnd x => Sys2Proof.Machine.execStartupStepEnd x s
  | .startupAttemptTimeout => Sys2Proof.Machine.execStartupAttemptTimeout s
  | .bootPolicyWrite path n w => Sys2Proof.Machine.execBootPolicyWrite path n w s
  | .clearHist path n w => Sys2Proof.Machine.execClearHist path n w s
  | .ledgerWindowRead path => Sys2Proof.Machine.execLedgerWindowRead path s
  | .keeperUpdateStart path w => Sys2Proof.Machine.execKeeperUpdateStart path w s
  | .keeperUpdateEnd reason version => Sys2Proof.Machine.execKeeperUpdateEnd reason version s
  | .mailboxUpdateStart path w => Sys2Proof.Machine.execMailboxUpdateStart path w s
  | .chunkLenWrite path w => Sys2Proof.Machine.execChunkLenWrite path w s
  | .keeperRestartCmd path w => Sys2Proof.Machine.execKeeperRestartCmd path w s
  | .keeperTrialEnd ok => Sys2Proof.Machine.execKeeperTrialEnd ok s
  | .keeperWatchdogExpiry => Sys2Proof.Machine.execKeeperWatchdogExpiry s
  | .warmReset path w out => Sys2Proof.Machine.execWarmReset path w out s
  | .portReset path p w out => Sys2Proof.Machine.execPortReset path p w out s
  | .portResetDone p => Sys2Proof.Machine.execPortResetDone p s
  | .sidebandReset path p e w => Sys2Proof.Machine.execSidebandReset path p e w s
  | .channelRecalibration path ix w => Sys2Proof.Machine.execChannelRecalibration path ix w s
  | .channelRecalibrationEnd ix tOk lOk dtc dly lv => Sys2Proof.Machine.execChannelRecalibrationEnd ix tOk lOk dtc dly lv s
  | .dramRetrain path c w => Sys2Proof.Machine.execDramRetrain path c w s
  | .retrainEnd c ok res fails passes => Sys2Proof.Machine.execRetrainEnd c ok res fails passes s
  | .registerWrite path a w be out => Sys2Proof.Machine.execRegisterWrite path a w be out s
  | .readClear path a => Sys2Proof.Machine.execReadClear path a s
  | .pageLockWrite path page w => Sys2Proof.Machine.execPageLockWrite path page w s
  | .w2BaseCommit path w => Sys2Proof.Machine.execW2BaseCommit path w s
  | .bar2Access write off n words be bad => Sys2Proof.Machine.execBar2Access write off n words be bad s
  | .bar4Access write off n words be waits => Sys2Proof.Machine.execBar4Access write off n words be waits s
  | .hostInterfaceReset kind => Sys2Proof.Machine.execHostInterfaceReset kind s
  | .d3hotEntry => Sys2Proof.Machine.execD3hotEntry s
  | .dmaEnable path e w => Sys2Proof.Machine.execDmaEnable path e w s
  | .dmaTailWrite path e w host => Sys2Proof.Machine.execDmaTailWrite path e w host s
  | .dmaAbort path e w => Sys2Proof.Machine.execDmaAbort path e w s
  | .dmaDescriptorComplete e x => Sys2Proof.Machine.execDmaDescriptorComplete e x s
  | .msixUnmask fn path v w => Sys2Proof.Machine.execMsixUnmask fn path v w s
  | .readStatus => Sys2Proof.Machine.execReadStatus s
  | .bmpWrite a words part out => Sys2Proof.Machine.execBmpWrite a words part out s
  | .bmpRead a n part => Sys2Proof.Machine.execBmpRead a n part s
  | .referenceLost r => Sys2Proof.Machine.execReferenceLost r s
  | .referenceReturn r => Sys2Proof.Machine.execReferenceReturn r s
  | .clkRefSelWrite path w => Sys2Proof.Machine.execClkRefSelWrite path w s
  | .rootPllLockLoss => Sys2Proof.Machine.execRootPllLockLoss s
  | .gtcStepCommit path w => Sys2Proof.Machine.execGtcStepCommit path w s
  | .towpathCheck agree => Sys2Proof.Machine.execTowpathCheck agree s
  | .syncOutArm path w => Sys2Proof.Machine.execSyncOutArm path w s
  | .syncOutPulse => Sys2Proof.Machine.execSyncOutPulse s
  | .syncInOff path w => Sys2Proof.Machine.execSyncInOff path w s
  | .syncCaptureMode path w => Sys2Proof.Machine.execSyncCaptureMode path w s
  | .syncAlignMode path w => Sys2Proof.Machine.execSyncAlignMode path w s
  | .syncRelayMode path w => Sys2Proof.Machine.execSyncRelayMode path w s
  | .syncInCapture t => Sys2Proof.Machine.execSyncInCapture t s
  | .syncInMissing => Sys2Proof.Machine.execSyncInMissing s
  | .relayPulse => Sys2Proof.Machine.execRelayPulse s
  | .tcqPush path w => Sys2Proof.Machine.execTcqPush path w s
  | .tcqExecute out => Sys2Proof.Machine.execTcqExecute out s
  | .tcqDeliver out => Sys2Proof.Machine.execTcqDeliver out s
  | .tcqCancel path w => Sys2Proof.Machine.execTcqCancel path w s
  | .tcqFlush path w => Sys2Proof.Machine.execTcqFlush path w s
  | .tcqCompletionRead path => Sys2Proof.Machine.execTcqCompletionRead path s
  | .timingAffectingWrite path a w => Sys2Proof.Machine.execTimingAffectingWrite path a w s
  | .timingChangeApply p => Sys2Proof.Machine.execTimingChangeApply p s
  | .timingProfileWrite path p w => Sys2Proof.Machine.execTimingProfileWrite path p w s
  | .trackingConverged p => Sys2Proof.Machine.execTrackingConverged p s
  | .powerProfileWrite path w => Sys2Proof.Machine.execPowerProfileWrite path w s
  | .prtUcownWrite path p hi w => Sys2Proof.Machine.execPrtUcownWrite path p hi w s
  | .portStart path p w => Sys2Proof.Machine.execPortStart path p w s
  | .fillComplete p => Sys2Proof.Machine.execFillComplete p s
  | .seqStop path p w => Sys2Proof.Machine.execSeqStop path p w s
  | .seqErrClear path p w => Sys2Proof.Machine.execSeqErrClear path p w s
  | .streamDescriptorCommit path p rx ix w => Sys2Proof.Machine.execStreamDescriptorCommit path p rx ix w s
  | .issue p => Sys2Proof.Machine.execIssue p s
  | .apgRun p => Sys2Proof.Machine.execApgRun p s
  | .idle p => Sys2Proof.Machine.execIdle p s
  | .loop p => Sys2Proof.Machine.execLoop p s
  | .endloop p => Sys2Proof.Machine.execEndloop p s
  | .call p => Sys2Proof.Machine.execCall p s
  | .ret p => Sys2Proof.Machine.execRet p s
  | .jump p => Sys2Proof.Machine.execJump p s
  | .jumpIf p => Sys2Proof.Machine.execJumpIf p s
  | .matchUnits p => Sys2Proof.Machine.execMatchUnits p s
  | .waitTime p => Sys2Proof.Machine.execWaitTime p s
  | .waitEvent p => Sys2Proof.Machine.execWaitEvent p s
  | .waitEventTimeout p => Sys2Proof.Machine.execWaitEventTimeout p s
  | .setLocal p => Sys2Proof.Machine.execSetLocal p s
  | .setReg p out => Sys2Proof.Machine.execSetReg p out s
  | .setTimed p => Sys2Proof.Machine.execSetTimed p s
  | .sync p => Sys2Proof.Machine.execSync p s
  | .halt p => Sys2Proof.Machine.execHalt p s
  | .illegalInstruction p => Sys2Proof.Machine.execIllegalInstruction p s
  | .beatIssue p => Sys2Proof.Machine.execBeatIssue p s
  | .vectorLaunch p => Sys2Proof.Machine.execVectorLaunch p s
  | .compareDecision p => Sys2Proof.Machine.execCompareDecision p s
  | .mooringRelease p => Sys2Proof.Machine.execMooringRelease p s
  | .bargeFill p poison => Sys2Proof.Machine.execBargeFill p poison s
  | .bargeDrain p => Sys2Proof.Machine.execBargeDrain p s
  | .block p => Sys2Proof.Machine.execBlock p s
  | .field p => Sys2Proof.Machine.execField p s
  | .next p => Sys2Proof.Machine.execNext p s
  | .apgLoop p => Sys2Proof.Machine.execApgLoop p s
  | .order p => Sys2Proof.Machine.execOrder p s
  | .crc p => Sys2Proof.Machine.execCrc p s
  | .endMicro p => Sys2Proof.Machine.execEndMicro p s
  | .setlc p => Sys2Proof.Machine.execSetlc p s
  | .codeGroupReceived ch last word kind codeErr dispErr => Sys2Proof.Machine.execCodeGroupReceived ch last word kind codeErr dispErr s
  | .cdrUpdate n => Sys2Proof.Machine.execCdrUpdate n s
  | .trackingUpdate ix want => Sys2Proof.Machine.execTrackingUpdate ix want s
  | .trim ix want => Sys2Proof.Machine.execTrim ix want s
  | .channelEnable path ix w => Sys2Proof.Machine.execChannelEnable path ix w s
  | .channelReady ix => Sys2Proof.Machine.execChannelReady ix s
  | .channelDisable path ix w => Sys2Proof.Machine.execChannelDisable path ix w s
  | .complianceFaultStart n kinds => Sys2Proof.Machine.execComplianceFaultStart n kinds s
  | .complianceFaultEnd n legs => Sys2Proof.Machine.execComplianceFaultEnd n legs s
  | .driverShortDetect n legs => Sys2Proof.Machine.execDriverShortDetect n legs s
  | .clampOverdriveDetect m what => Sys2Proof.Machine.execClampOverdriveDetect m what s
  | .autoTerminate n low => Sys2Proof.Machine.execAutoTerminate n low s
  | .ldacSettled ix j => Sys2Proof.Machine.execLdacSettled ix j s
  | .toneSample p => Sys2Proof.Machine.execToneSample p s
  | .pmuCtrlWrite path m w => Sys2Proof.Machine.execPmuCtrlWrite path m w s
  | .rangeChangeEnd m => Sys2Proof.Machine.execRangeChangeEnd m s
  | .pmuFaultStart m rows => Sys2Proof.Machine.execPmuFaultStart m rows s
  | .pmuFaultEnd m opens compl => Sys2Proof.Machine.execPmuFaultEnd m opens compl s
  | .measStart path p w => Sys2Proof.Machine.execMeasStart path p w s
  | .measStop path p w => Sys2Proof.Machine.execMeasStop path p w s
  | .measEntryDone p sum moved => Sys2Proof.Machine.execMeasEntryDone p sum moved s
  | .calbusRequest path p w => Sys2Proof.Machine.execCalbusRequest path p w s
  | .calbusGrant => Sys2Proof.Machine.execCalbusGrant s
  | .compareResult p fc uc => Sys2Proof.Machine.execCompareResult p fc uc s
  | .snap path p w => Sys2Proof.Machine.execSnap path p w s
  | .cntClr path p w => Sys2Proof.Machine.execCntClr path p w s
  | .counterSnapshotTaken p => Sys2Proof.Machine.execCounterSnapshotTaken p s
  | .firstClr path p w => Sys2Proof.Machine.execFirstClr path p w s
  | .bmFlush path p w => Sys2Proof.Machine.execBmFlush path p w s
  | .failLogWrite p => Sys2Proof.Machine.execFailLogWrite p s
  | .bitmapLineWrite p bad => Sys2Proof.Machine.execBitmapLineWrite p bad s
  | .eyeStart path n w => Sys2Proof.Machine.execEyeStart path n w s
  | .eyeStop path n w => Sys2Proof.Machine.execEyeStop path n w s
  | .eyePointDone n bad => Sys2Proof.Machine.execEyePointDone n bad s
  | .trigInEdge k t lvl => Sys2Proof.Machine.execTrigInEdge k t lvl s
  | .utilityComparatorEdge m c t lvl => Sys2Proof.Machine.execUtilityComparatorEdge m c t lvl s
  | .sampleDecision p => Sys2Proof.Machine.execSampleDecision p s
  | .rearm p => Sys2Proof.Machine.execRearm p s
  | .acqRoundWrite p bad => Sys2Proof.Machine.execAcqRoundWrite p bad s
  | .acqArm path p w => Sys2Proof.Machine.execAcqArm path p w s
  | .acqDisarm path p w => Sys2Proof.Machine.execAcqDisarm path p w s
  | .acqForce path p w => Sys2Proof.Machine.execAcqForce path p w s
  | .acqFreeze path p w => Sys2Proof.Machine.execAcqFreeze path p w s
  | .trgOutWrite path p w => Sys2Proof.Machine.execTrgOutWrite path p w s
  | .mskViolDecision p => Sys2Proof.Machine.execMskViolDecision p s
  | .mskClr path p w => Sys2Proof.Machine.execMskClr path p w s
  | .sidebandEnable path p e w => Sys2Proof.Machine.execSidebandEnable path p e w s
  | .sidebandDisable path p e w out => Sys2Proof.Machine.execSidebandDisable path p e w out s
  | .abort path p e w out => Sys2Proof.Machine.execAbort path p e w out s
  | .flush path p e w out => Sys2Proof.Machine.execFlush path p e w out s
  | .lineLost p e rx t passed => Sys2Proof.Machine.execLineLost p e rx t passed s
  | .send p status blocks acks t times => Sys2Proof.Machine.execSend p status blocks acks t times s
  | .cecAttemptStart p => Sys2Proof.Machine.execCecAttemptStart p s
  | .cecMessageReceived p t fault bytes acks times => Sys2Proof.Machine.execCecMessageReceived p t fault bytes acks times s
  | .ddcWrite p t losses status sent nack times => Sys2Proof.Machine.execDdcWrite p t losses status sent nack times s
  | .ddcRead p t losses status sent nack rd times => Sys2Proof.Machine.execDdcRead p t losses status sent nack rd times s
  | .ddcWriteRead p t losses status sent nack rd times => Sys2Proof.Machine.execDdcWriteRead p t losses status sent nack rd times s
  | .ddcStuckBusTimeout p t => Sys2Proof.Machine.execDdcStuckBusTimeout p t s
  | .ddcTransactionObserved p t phases broken nack times => Sys2Proof.Machine.execDdcTransactionObserved p t phases broken nack times s
  | .nativeWr p t => Sys2Proof.Machine.execNativeWr p t s
  | .nativeRd p t => Sys2Proof.Machine.execNativeRd p t s
  | .i2cWr p t => Sys2Proof.Machine.execI2cWr p t s
  | .i2cRd p t => Sys2Proof.Machine.execI2cRd p t s
  | .auxReplyTimeout p t => Sys2Proof.Machine.execAuxReplyTimeout p t s
  | .auxDeferRetry p t => Sys2Proof.Machine.execAuxDeferRetry p t s
  | .auxRequestReceived p t comm addr len data bad times => Sys2Proof.Machine.execAuxRequestReceived p t comm addr len data bad times s
  | .auxRelease path p w => Sys2Proof.Machine.execAuxRelease path p w s
  | .hpdLevelWrite path p w out => Sys2Proof.Machine.execHpdLevelWrite path p w out s
  | .hpdPulse path p w out => Sys2Proof.Machine.execHpdPulse path p w out s
  | .hpdPulseEnd p back => Sys2Proof.Machine.execHpdPulseEnd p back s
  | .hpdLineChange p t lvl => Sys2Proof.Machine.execHpdLineChange p t lvl s
  | .hpdUnplugTimeout p => Sys2Proof.Machine.execHpdUnplugTimeout p s
  | .dramReadComplete req a devs wrong rmw => Sys2Proof.Machine.execDramReadComplete req a devs wrong rmw s
  | .writeCrcAlert req a => Sys2Proof.Machine.execWriteCrcAlert req a s
  | .elogRead path c => Sys2Proof.Machine.execElogRead path c s
  | .act a req t => Sys2Proof.Machine.execAct a req t s
  | .actWindowEnd c => Sys2Proof.Machine.execActWindowEnd c s
  | .rhWindowEnd c => Sys2Proof.Machine.execRhWindowEnd c s
  | .refreshInterval c r => Sys2Proof.Machine.execRefreshInterval c r s
  | .mr4Poll rs => Sys2Proof.Machine.execMr4Poll rs s
  | .urgentRefreshEnd c r => Sys2Proof.Machine.execUrgentRefreshEnd c r s
  | .dqsOscRun c rank sc steps => Sys2Proof.Machine.execDqsOscRun c rank sc steps s
  | .patrolScrub n hits => Sys2Proof.Machine.execPatrolScrub n hits s
  | .lazySweep n => Sys2Proof.Machine.execLazySweep n s
  | .mcgMapWrite path w => Sys2Proof.Machine.execMcgMapWrite path w s
  | .marchStart path w out => Sys2Proof.Machine.execMarchStart path w out s
  | .marchStop path w out => Sys2Proof.Machine.execMarchStop path w out s
  | .marchRunEnd fails passes => Sys2Proof.Machine.execMarchRunEnd fails passes s
  | .marchYield j => Sys2Proof.Machine.execMarchYield j s
  | .marchWindowRetry => Sys2Proof.Machine.execMarchWindowRetry s
  | .retentionRequest path ix w => Sys2Proof.Machine.execRetentionRequest path ix w s
  | .retentionWake path ix w => Sys2Proof.Machine.execRetentionWake path ix w s
  | .wakeComplete b => Sys2Proof.Machine.execWakeComplete b s
  | .mailboxAccess h b => Sys2Proof.Machine.execMailboxAccess h b s
  | .mbxDoorbellWrite path h2b w => Sys2Proof.Machine.execMbxDoorbellWrite path h2b w s
  | .stickyClear path page w => Sys2Proof.Machine.execStickyClear path page w s
  | .eventForceWrite path page w => Sys2Proof.Machine.execEventForceWrite path page w s
  | .evgCfgWrite path g k w => Sys2Proof.Machine.execEvgCfgWrite path g k w s
  | .evcFfClr path w => Sys2Proof.Machine.execEvcFfClr path w s
  | .ledgerFaultRecord => Sys2Proof.Machine.execLedgerFaultRecord s
  | .sagStart pt mv => Sys2Proof.Machine.execSagStart pt mv s
  | .sagPersistTimeout => Sys2Proof.Machine.execSagPersistTimeout s
  | .sagEnd => Sys2Proof.Machine.execSagEnd s
  | .avsMeasure mv => Sys2Proof.Machine.execAvsMeasure mv s
  | .sensorReading rs => Sys2Proof.Machine.execSensorReading rs s
  | .seasonArm path w => Sys2Proof.Machine.execSeasonArm path w s
  | .seasonCommit path w out => Sys2Proof.Machine.execSeasonCommit path w out s
  | .seasonArmExpiry => Sys2Proof.Machine.execSeasonArmExpiry s
  | .seasonChangeDone => Sys2Proof.Machine.execSeasonChangeDone s
  | .tamperNLow => Sys2Proof.Machine.execTamperNLow s
  | .tamperWipeDone => Sys2Proof.Machine.execTamperWipeDone s
  | .load path w => Sys2Proof.Machine.execLoad path w s
  | .vltApply path w out => Sys2Proof.Machine.execVltApply path w out s
  | .jtagInstruction ix low => Sys2Proof.Machine.execJtagInstruction ix low s
  | .keeperRestartDone => Sys2Proof.Machine.execKeeperRestartDone s
  | .pcieLinkUp => Sys2Proof.Machine.execPcieLinkUp s
  | .d3hotExit => Sys2Proof.Machine.execD3hotExit s
  | .auxReplyReceived p t comm data bad times => Sys2Proof.Machine.execAuxReplyReceived p t comm data bad times s
  | .commandSlot c sc t arr => Sys2Proof.Machine.execCommandSlot c sc t arr s
  | .driverShortEnd n legs => Sys2Proof.Machine.execDriverShortEnd n legs s
  | .clampOverdriveEnd m what => Sys2Proof.Machine.execClampOverdriveEnd m what s
  | .disableSequenceEnd ix => Sys2Proof.Machine.execDisableSequenceEnd ix s
  | .pmuSwitchClose m => Sys2Proof.Machine.execPmuSwitchClose m s
  | .sidebandResetDone p e => Sys2Proof.Machine.execSidebandResetDone p e s
  | .tamperNHigh => Sys2Proof.Machine.execTamperNHigh s

end Sys2Proof.Machine
end

