-- ==== Sys2Proof/WellFormed.lean ====
section
/-! DEFINITION. Which commands are well-formed: a write row's word holds the bits that make it that command, and what the outside world
reports is of the form and the range that the row's rule gives it. -/
namespace Sys2Proof
open Sys2Proof.Machine

/-- Bytes. -/
def bytesOk (l : List Nat) : Bool := l.all (fun b => decide (b < 256))

/-- A failing cell lies in a bank. -/
def MarchFail.ok (f : MarchFail) : Bool := decide (f.bank < 68)

def Outside.ok (o : Outside) : Bool := bytesOk o.passed && o.fails.all MarchFail.ok

/-- One result per run, at most one per channel. -/
def StepResult.ok (x : StepResult) : Bool := decide (x.oks.length ≤ 4) && decide (x.refs < 4) && x.cells.all (fun c => decide (c.1 < 68))

/-- A command is well-formed: its operands are ones that the row takes. -/
def Instr.wellFormed : Instr → Bool
  | .powerComplete _ => true
  | .railLoss => true
  | .coldReset _ => true
  | .startupStepEnd x => x.ok
  | .startupAttemptTimeout => true
  | .bootPolicyWrite _ _ _ => true
  | .clearHist _ _ w => nbit w.toNat 31
  | .ledgerWindowRead _ => true
  | .keeperUpdateStart _ w => nbit w.toNat 31 && !nbit w.toNat 30
  | .keeperUpdateEnd reason _ => (decide (reason < 8))
  | .mailboxUpdateStart _ w => nbit w.toNat 31 && nbit w.toNat 30
  | .chunkLenWrite _ w => nbits w.toNat 16 0 != 0
  | .keeperRestartCmd _ w => nbit w.toNat 0
  | .keeperTrialEnd _ => true
  | .keeperWatchdogExpiry => true
  | .warmReset _ w out => out.ok && nbit w.toNat 1
  | .portReset _ _ w out => out.ok && nbit w.toNat 1
  | .portResetDone _ => true
  | .sidebandReset _ _ _ w => nbit w.toNat 1
  | .channelRecalibration _ _ w => nbit w.toNat 1
  | .channelRecalibrationEnd _ _ _ _ _ _ => true
  | .dramRetrain _ _ w => nbit w.toNat 1
  | .retrainEnd _ _ _ fails _ => fails.all MarchFail.ok
  | .registerWrite _ _ _ _ out => out.ok
  | .readClear _ _ => true
  | .pageLockWrite _ _ _ => true
  | .w2BaseCommit _ _ => true
  | .bar2Access _ _ n words _ _ => decide (n ≤ 1024 ∧ words.length ≤ 1024)
  | .bar4Access _ _ n words _ _ => decide (n ≤ 1024 ∧ words.length ≤ 1024)
  | .hostInterfaceReset _ => true
  | .d3hotEntry => true
  | .dmaEnable _ _ w => nbit w.toNat 0
  | .dmaTailWrite _ _ _ _ => true
  | .dmaAbort _ _ w => nbit w.toNat 1
  | .dmaDescriptorComplete _ _ => true
  | .msixUnmask fn _ _ w => (fn || !nbit w.toNat 0)
  | .readStatus => true
  | .bmpWrite a _ _ out => out.ok && (decide (a < 2 ^ 24))
  | .bmpRead a _ _ => (decide (a < 2 ^ 24))
  | .referenceLost _ => true
  | .referenceReturn _ => true
  | .clkRefSelWrite _ _ => true
  | .rootPllLockLoss => true
  | .gtcStepCommit _ _ => true
  | .towpathCheck _ => true
  | .syncOutArm _ _ => true
  | .syncOutPulse => true
  | .syncInOff _ w => nbits w.toNat 5 4 == 0
  | .syncCaptureMode _ w => nbits w.toNat 5 4 == 1
  | .syncAlignMode _ w => nbits w.toNat 5 4 == 2
  | .syncRelayMode _ w => nbits w.toNat 5 4 == 3
  | .syncInCapture _ => true
  | .syncInMissing => true
  | .relayPulse => true
  | .tcqPush _ _ => true
  | .tcqExecute out => out.ok
  | .tcqDeliver out => out.ok
  | .tcqCancel _ _ => true
  | .tcqFlush _ w => nbit w.toNat 0
  | .tcqCompletionRead _ => true
  | .timingAffectingWrite _ a _ => Dev.timingAff a.val
  | .timingChangeApply _ => true
  | .timingProfileWrite _ _ _ => true
  | .trackingConverged _ => true
  | .powerProfileWrite _ _ => true
  | .prtUcownWrite _ _ _ _ => true
  | .portStart _ _ w => nbit w.toNat 0
  | .fillComplete _ => true
  | .seqStop _ _ w => nbit w.toNat 1
  | .seqErrClear _ _ w => nbit w.toNat 31
  | .streamDescriptorCommit _ _ _ _ _ => true
  | .issue _ => true
  | .apgRun _ => true
  | .idle _ => true
  | .loop _ => true
  | .endloop _ => true
  | .call _ => true
  | .ret _ => true
  | .jump _ => true
  | .jumpIf _ => true
  | .matchUnits _ => true
  | .waitTime _ => true
  | .waitEvent _ => true
  | .waitEventTimeout _ => true
  | .setLocal _ => true
  | .setReg _ out => out.ok
  | .setTimed _ => true
  | .sync _ => true
  | .halt _ => true
  | .illegalInstruction _ => true
  | .beatIssue _ => true
  | .vectorLaunch _ => true
  | .compareDecision _ => true
  | .mooringRelease _ => true
  | .bargeFill _ _ => true
  | .bargeDrain _ => true
  | .block _ => true
  | .field _ => true
  | .next _ => true
  | .apgLoop _ => true
  | .order _ => true
  | .crc _ => true
  | .endMicro _ => true
  | .setlc _ => true
  | .codeGroupReceived _ _ _ _ _ _ => true
  | .cdrUpdate _ => true
  | .trackingUpdate _ _ => true
  | .trim _ _ => true
  | .channelEnable _ _ w => nbit w.toNat 0
  | .channelReady _ => true
  | .channelDisable _ _ w => !nbit w.toNat 0
  | .complianceFaultStart _ _ => true
  | .complianceFaultEnd _ _ => true
  | .driverShortDetect _ _ => true
  | .clampOverdriveDetect _ _ => true
  | .autoTerminate _ _ => true
  | .ldacSettled _ _ => true
  | .toneSample _ => true
  | .pmuCtrlWrite _ _ _ => true
  | .rangeChangeEnd _ => true
  | .pmuFaultStart _ _ => true
  | .pmuFaultEnd _ _ _ => true
  | .measStart _ _ w => nbit w.toNat 0
  | .measStop _ _ w => nbit w.toNat 1
  | .measEntryDone _ _ _ => true
  | .calbusRequest _ _ _ => true
  | .calbusGrant => true
  | .compareResult _ fc uc => fc.length == 8 && uc.length == 16
  | .snap _ _ w => nbit w.toNat 0
  | .cntClr _ _ w => nbit w.toNat 1
  | .counterSnapshotTaken _ => true
  | .firstClr _ _ w => nbit w.toNat 2
  | .bmFlush _ _ w => nbit w.toNat 3
  | .failLogWrite _ => true
  | .bitmapLineWrite _ _ => true
  | .eyeStart _ _ w => nbit w.toNat 31
  | .eyeStop _ _ w => nbit w.toNat 30
  | .eyePointDone _ _ => true
  | .trigInEdge _ _ _ => true
  | .utilityComparatorEdge _ _ _ _ => true
  | .sampleDecision _ => true
  | .rearm _ => true
  | .acqRoundWrite _ _ => true
  | .acqArm _ _ w => nbit w.toNat 0
  | .acqDisarm _ _ w => nbit w.toNat 1
  | .acqForce _ _ w => nbit w.toNat 3
  | .acqFreeze _ _ _ => true
  | .trgOutWrite _ _ _ => true
  | .mskViolDecision _ => true
  | .mskClr _ _ w => nbit w.toNat 8
  | .sidebandEnable _ _ _ w => nbit w.toNat 0
  | .sidebandDisable _ _ _ w out => out.ok && !nbit w.toNat 0
  | .abort _ _ _ w out => out.ok && nbit w.toNat 0
  | .flush _ _ _ w out => out.ok && nbit w.toNat 1
  | .lineLost _ _ _ _ _ => true
  | .send _ status _ _ _ _ => [0, 1, 3, 4, 8].contains status
  | .cecAttemptStart _ => true
  | .cecMessageReceived _ _ fault _ _ _ => [0, 4, 8].contains fault
  | .ddcWrite _ _ _ status _ _ _ => [0, 1, 3, 4, 8].contains status
  | .ddcRead _ _ _ status _ _ _ _ => [0, 1, 3, 4, 8].contains status
  | .ddcWriteRead _ _ _ status _ _ _ _ => [0, 1, 3, 4, 8].contains status
  | .ddcStuckBusTimeout _ _ => true
  | .ddcTransactionObserved _ _ _ _ _ _ => true
  | .nativeWr _ _ => true
  | .nativeRd _ _ => true
  | .i2cWr _ _ => true
  | .i2cRd _ _ => true
  | .auxReplyTimeout _ _ => true
  | .auxDeferRetry _ _ => true
  | .auxRequestReceived _ _ _ _ _ _ _ _ => true
  | .auxRelease _ _ w => nbit w.toNat 0
  | .hpdLevelWrite _ _ _ out => out.ok
  | .hpdPulse _ _ w out => out.ok && nbit w.toNat 31
  | .hpdPulseEnd _ _ => true
  | .hpdLineChange _ _ _ => true
  | .hpdUnplugTimeout _ => true
  | .dramReadComplete req _ _ _ _ => (decide (req < 256))
  | .writeCrcAlert req _ => (decide (req < 256))
  | .elogRead _ _ => true
  | .act _ req _ => (decide (req < 256))
  | .actWindowEnd _ => true
  | .rhWindowEnd _ => true
  | .refreshInterval _ _ => true
  | .mr4Poll rs => rs.length == 8
  | .urgentRefreshEnd _ _ => true
  | .dqsOscRun _ _ _ _ => true
  | .patrolScrub _ _ => true
  | .lazySweep _ => true
  | .mcgMapWrite _ _ => true
  | .marchStart _ w out => out.ok && nbit w.toNat 31
  | .marchStop _ w out => out.ok && nbit w.toNat 30
  | .marchRunEnd fails _ => fails.all MarchFail.ok
  | .marchYield _ => true
  | .marchWindowRetry => true
  | .retentionRequest _ _ _ => true
  | .retentionWake _ _ _ => true
  | .wakeComplete _ => true
  | .mailboxAccess _ _ => true
  | .mbxDoorbellWrite _ _ _ => true
  | .stickyClear _ _ w => w != 0
  | .eventForceWrite _ _ _ => true
  | .evgCfgWrite _ _ _ _ => true
  | .evcFfClr _ w => nbit w.toNat 0
  | .ledgerFaultRecord => true
  | .sagStart _ _ => true
  | .sagPersistTimeout => true
  | .sagEnd => true
  | .avsMeasure _ => true
  | .sensorReading rs => rs.length == 16
  | .seasonArm _ w => nbits w.toNat 1 0 == 1
  | .seasonCommit _ w out => out.ok && nbits w.toNat 1 0 == 2
  | .seasonArmExpiry => true
  | .seasonChangeDone => true
  | .tamperNLow => true
  | .tamperWipeDone => true
  | .load _ _ => true
  | .vltApply _ w out => out.ok && nbit w.toNat 31
  | .jtagInstruction _ _ => true
  | .keeperRestartDone => true
  | .pcieLinkUp => true
  | .d3hotExit => true
  | .auxReplyReceived _ _ _ _ _ _ => true
  | .commandSlot _ _ _ _ => true
  | .driverShortEnd _ _ => true
  | .clampOverdriveEnd _ _ => true
  | .disableSequenceEnd _ => true
  | .pmuSwitchClose _ => true
  | .sidebandResetDone _ _ => true
  | .tamperNHigh => true

end Sys2Proof
end

