-- ==== Sys2Proof/Safety.lean ====
section
/-! DEFINITION. What the statements call a state in good order, and a register access that nothing turns away. -/
namespace Sys2Proof.Machine

/-- Every memory of the device is in canonical form. -/
def Dev.memOk (d : Dev) : Bool := Memory.wf d.dram && Memory.wf d.sram && Memory.wf d.ledger && Memory.wf d.hostMem

/-- Commands that wait are well-formed. -/
def State.queueOk (s : State) : Bool := s.pending.all Sys2Proof.Instr.wellFormed

/-- One season fuse state is at least another: no fuse is unblown, and the tamper count does not fall (R457, R463). -/
def Vault.atLeast (v w : Vault) : Bool :=
  (!w.spring || v.spring) && (!w.summer || v.summer) && (!w.autumn || v.autumn) && (!w.winter || v.winter) && decide (w.tampers ≤ v.tampers)

/-- The access of a path arrives: the host reaches the device (R36, R37), the supervisor is answered (R50). -/
def Dev.arriving (d : Dev) (path : Nat) : Bool := (path != 0 || d.hostUp) && (path != 1 || decide (3 ≤ d.boot.done))

/-- Tests 1 to 4 of Table 2-11 pass for a write at the word address `a`: the page is assigned, the path may write it, it is online, and no page
lock bars it. -/
def Dev.lets (d : Dev) (path a : Nat) : Bool :=
  d.arriving path && decide (a % 4 = 0) &&
    match pageOf (a / 0x1000) with
    | none => false
    | some (k, i) =>
      (path != 1 || bmpAccess k == 3) && !d.offline (path == 1) (a / 0x1000) && !d.lockBars (a / 0x1000) (a % 0x1000) k i

/-- Tests 6 to 8 of Table 2-11 pass for a write of `w` to a register of one word at offset 0x040 and up: it has a writable bit, `w` sets no bit
outside its fields, is legal in the present state, and holds no refused zero. -/
def Dev.fits (d : Dev) (a w : Nat) : Bool :=
  match pageOf (a / 0x1000) with
  | none => false
  | some (k, i) =>
    match findReg (pageMap k) (a % 0x1000) with
    | none => false
    | some r =>
      decide (0x40 ≤ a % 0x1000) && !(k == .gtc && decide (0x100 ≤ a % 0x1000 ∧ a % 0x1000 < 0x120)) && decide (r.wide.2 ≤ 1) &&
        decide (r.rw ||| r.w1c ||| r.w1s ||| r.wo ≠ 0) &&
        decide (w &&& (0xFFFFFFFF ^^^ (r.rw ||| r.ro ||| r.w1c ||| r.w1s ||| r.wo ||| r.rc)) = 0) &&
        decide (zeroFields r (d.rn a) w = (w, false)) && decide (d.zeroWhole k i (a % 0x1000) [d.rn a] [w] = ([w], false)) &&
        d.writeLegal k i (a % 0x1000) [w] (Dev.stored r (d.rn a) w == d.rn a)

/-- No test of Table 2-11 turns a write of one word away. -/
def Dev.takes (d : Dev) (path a w : Nat) : Bool := d.lets path a && d.fits a w

/-- A write of `PAGE_CTRL` that no test turns away: the page has the bits written (Table 2-10), and a page of the pattern generator or of the
codecs is not written while its port runs. -/
def Dev.takesCtrl (d : Dev) (path page w : Nat) : Bool :=
  d.lets path (pctl page) &&
    match pageOf page with
    | none => false
    | some (k, i) => decide (w &&& (0xFFFFFFFF ^^^ Dev.ctrlMask k) = 0) && !((k == .apg || k == .cdc) && d.running i)

/-- A read at the word address `a` reaches its page: assigned, permitted to the path, online. -/
def Dev.letsRead (d : Dev) (path a : Nat) : Bool :=
  d.arriving path && decide (a % 4 = 0) &&
    match pageOf (a / 0x1000) with
    | none => false
    | some (k, _) => (path != 1 || bmpAccess k != 0) && !d.offline (path == 1) (a / 0x1000)

/-- The registers that an occurrence of an event, or a reaction to it, may write: first fault, event queue, pending messages, and what a
stop, a safe state or a freeze shows of each port (R438, R441 to R443). -/
def eventRegs : List Nat :=
  [R.evcFf0, R.evcFf1, R.evcFf2, R.evcFf3, R.evcEvqWptr, R.evcEvqLost, R.msixPba 0, R.msixPba 1, R.qosUsed, R.glbProfile] ++
  ([0, 1, 2, 3] : List Nat).flatMap (fun p => [R.seqStat p, R.seqSflag p, R.ddsStat p, R.apgStat p, R.lksTxFill p, R.lksRxFill p, R.qosAdm p, R.qosChUsed p,
    pctl (ppage p 8), R.acqStat p, pctl (ppage p 0xA), R.flpStat p]) ++
  (List.range 32).flatMap (fun n => [pctl (0x200 + n), R.fchDrvStat n, R.fchEyeStat n]) ++
  (List.range 64).flatMap (fun m => [pctl (0x240 + m), R.uchDrvStat m, R.uchPmuStat m])

/-- A register that no event touches. -/
def quiet (a : Nat) : Bool := !eventRegs.contains a

/-- An occurrence of source `s` asks for no reaction (R438): neither it nor the loss of its queue entry is enabled with one. -/
def Dev.noReact (d : Dev) (s : Nat) : Bool :=
  [s, Ev.evqLost].all (fun k => !d.srcEn k || (d.srcClass k != 3 && (srcIsReact k || fget (d.esrc k).cfg Dev.F.cfgReact == 0)))

/-- Every register but those listed reads as before. -/
def Dev.sameRegs (e d : Dev) (l : List Nat) : Prop := ∀ a, a ∉ l → e.get a = d.get a

/-- Every register but those listed reads its reset value. -/
def Dev.resetRegs (d : Dev) (l : List Nat) : Prop := ∀ a, a ∉ l → d.get a = resetWord a

/-- Every register but those listed, and those that events touch, reads as before. -/
def Dev.sameQuiet (e d : Dev) (l : List Nat) : Prop := ∀ a, quiet a = true → a ∉ l → e.get a = d.get a

/-- The front end of port `p` runs, and the instruction at its program counter is a legal one of opcode `op` (R123, R134). -/
def Dev.runs (d : Dev) (p op : Nat) : Bool := (d.fetchOp p op).isSome

/-- The APG of port `p` produces the segment `g` at the head of the issue stage with the record `a`, and its micro-instruction is of opcode
`op` (R164). -/
def Dev.produces (d : Dev) (p op : Nat) (g : Seg) (a : Apg) : Bool :=
  decide (p < 4) && decide (2 ≤ d.seqState p) && decide ((d.seqOf p).segs.head? = some g) && decide (g.src = 2) && decide (d.apgOf p = a) &&
    decide (a.seg = some g.id) && a.ended.isNone && decide (Dev.U.op (d.ucode p a.upc) = op) && decide (d.apgPos p a < a.out + 128)

/-- Every register outside a page, but those that events touch, reads as before. -/
def Dev.sameOff (e d : Dev) (page : Nat) : Prop := ∀ a, quiet a = true → a / 0x1000 ≠ page → e.get a = d.get a

/-- After `d`, `e` holds the record `r` of engine `k` where the write pointer stood, and the pointer is behind it (R340). -/
def Dev.hasRecord (e d : Dev) (p k : Nat) (r : Dev.SbRec) : Bool :=
  let w := d.sramWord (Dev.sbHdr p k)
  let bs := Dev.recBytes r (d.sbOf p k).gap
  decide (e.sramWord (Dev.sbHdr p k) = (w + bs.length) % 2 ^ 32) &&
    decide (e.ringRead (Dev.recRing p k).1 (Dev.recRing p k).2 w bs.length = bs.map BitVec.toNat) && !(e.sbOf p k).gap

/-- The record ring of engine `k` has room for the longest record. -/
def Dev.ringRoom (d : Dev) (p k : Nat) : Bool :=
  decide ((d.sramWord (Dev.sbHdr p k) + 2 ^ 32 - d.sramWord (Dev.sbHdr p k + 4)) % 2 ^ 32 + 280 ≤ (Dev.recRing p k).2)

/-- Engine `k` works on the one command of its ring, whose opcode is `op` (R339). -/
def Dev.working (d : Dev) (p k op : Nat) : Bool :=
  d.sbLive p k && (d.sbOf p k).busy && decide ((d.sbOf p k).skip = none) && decide (d.cmdAvail p k = (d.sbCmd p k).size) &&
    decide ((d.sbCmd p k).op = op) && d.ringRoom p k

/-- Every byte of a memory outside `n` bytes from `a` reads as before. -/
def sameBut (e m : List Host.Cell) (a n : Nat) : Prop := ∀ x, x < a ∨ a + n ≤ x → mget e x = mget m x

end Sys2Proof.Machine
end

