-- ==== Sys2Proof/Certificates/Slice0/Obligations.lean ====
section
/-! DEFINITION. The statements for the provers.  Every one is about all states and operands that meet its premises; its frame says what the
command leaves alone: registers by `sameRegs` (or `sameQuiet` where events may follow), everything else by the equation for `t.dev`. -/

open Sys2Proof Sys2Proof.Machine

/-! ### The whole block -/

/-- A step takes the command at the front of the queue and runs it with the queue's rest, whatever the command and the state.  The queue is the
model's own (log 1). -/
def Obligations.StepRunsTheFrontCommand : Prop :=
  ∀ (c : Instr) (cs : List Instr) (s : State), step { s with pending := c :: cs } = exec c { s with pending := cs }

/-- With no command waiting, the step is the passing of one HCLK cycle of 131,072 ticks (262,144 while HCLK is stretched): the GTC advances by it
where it counts, and no register of another kind than those that time drives is written by a host.  That time passes on an empty queue is
the model's choice (log 1). -/
def Obligations.AnEmptyQueueLetsOneCyclePass : Prop :=
  ∀ (s : State), s.pending = [] → ∃ t, step s = .next t ∧ t.pending = [] ∧ t.vault = s.vault ∧ t.dev.dram = s.dev.dram ∧
    t.dev.ledger = s.dev.ledger ∧ t.dev.hif = s.dev.hif ∧
    t.dev.gtc = if s.dev.counting then s.dev.gtc + (if s.dev.rb R.clkStat F.clkStatHclkStretch then 262144#80 else 131072#80) else s.dev.gtc

/-- Every command of the table answers a next state in every state, with no fault and no refusal, and the commands that wait stand as they were.
The queue is the model's own (log 1). -/
def Obligations.CommandsLeaveTheQueue : Prop :=
  ∀ (c : Instr) (s : State), ∃ t, exec c s = .next t ∧ t.pending = s.pending

/-- Whatever the state, a command other than SEASON_CHANGE_DONE and TAMPER_WIPE_DONE leaves every season fuse and the count of tamper fuses as
they are: no register write, no reset, and no other occurrence blows or restores a fuse (R458, R460, R463). -/
def Obligations.OnlyTwoCommandsBlowFuses : Prop :=
  ∀ (c : Instr) (s t : State), c ≠ .seasonChangeDone → c ≠ .tamperWipeDone → exec c s = .next t → t.vault = s.vault

/-- The headline invariant: in every state, reachable or not, that has at least the fuses of some earlier state blown and no more tamper fuses than
the 32 there are, a step keeps it so.  No fuse is ever restored, the tamper count never falls nor passes 32, and so the season in force
never goes back (R458, R463). -/
def Obligations.FusesOnlyMoveForward : Prop :=
  ∀ (v : Vault) (s t : State), s.vault.atLeast v = true → s.vault.tampers ≤ 32 → step s = .next t →
    t.vault.atLeast v = true ∧ t.vault.tampers ≤ 32 ∧ v.season ≤ t.vault.season

/-- At reset every memory of the device is in its canonical form and lists nothing, the queue is empty, no tamper fuse is blown, and the season is
SPRING. -/
def Obligations.MemoriesAreCanonicalAtReset : Prop :=
  State.reset.dev.memOk = true ∧ State.reset.pending = [] ∧ State.reset.vault.tampers ≤ 32 ∧ State.reset.vault.season = 1 ∧
    State.reset.dev.dram = [] ∧ State.reset.dev.sram = [] ∧ State.reset.dev.ledger = []

/-! ### Register accesses (02_host_interface_and_registers.md) -/

/-- REGISTER_WRITE (R5, R57, R60).  On a page whose registers no chapter gives an effect of their own, a write that no test turns away changes exactly
that register: read/write bits take the written value, write-1-to-clear bits are cleared, all others stand.  A host dword without all four
byte enables changes nothing but its counter. -/
def Obligations.WritesThatNothingTurnsAwayAreStored : Prop :=
  (∀ (path : Fin 7) (a : Fin 0x400000) (w : Word) (be : Fin 16) (out : Outside) (k : PageKind) (i : Nat) (r : RegDef) (s : State),
    (path.val ≠ 0 ∨ be.val = 15) → s.dev.takes path a w.toNat = true → Dev.timingAff a = false → pageOf (a / 0x1000) = some (k, i) →
    k ∈ [.qos, .lks, .apg, .cdc, .tsa, .dds, .uch] → findReg (pageMap k) (a % 0x1000) = some r →
    ∃ t, exec (.registerWrite path a w be out) s = .next t ∧
      t.dev.rn a = Dev.stored r (s.dev.rn a) w.toNat ∧ t.dev.sameRegs s.dev [a.val, pstat (a / 0x1000)] ∧
      t.dev = { s.dev with regs := t.dev.regs }) ∧
  (∀ (a : Fin 0x400000) (w : Word) (be : Fin 16) (out : Outside) (s : State), be.val ≠ 15 → s.dev.hostUp = true →
    ∃ t, exec (.registerWrite 0 a w be out) s = .next t ∧
      t.dev.rf R.hifDropCnt F.hifDropCntPartial = min 65535 (s.dev.rf R.hifDropCnt F.hifDropCntPartial + 1) ∧
      t.dev.sameRegs s.dev [R.hifDropCnt] ∧ t.dev = { s.dev with regs := t.dev.regs })

/-- REGISTER_WRITE at a page that does not exist, is offline, or is locked (R54, R60 to R62).  An unassigned page counts the host's write; an
offline page counts it as a drop and does not take it; a locked page sets LOCK_VIOL.  No other register changes. -/
def Obligations.WritesTurnedAwayChangeNoRegister : Prop :=
  (∀ (a : Fin 0x400000) (w : Word) (out : Outside) (s : State), s.dev.hostUp = true → pageOf (a / 0x1000) = none →
    ∃ t, exec (.registerWrite 0 a w 15 out) s = .next t ∧
      t.dev.rf R.hifDropCnt F.hifDropCntUnassigned = min 65535 (s.dev.rf R.hifDropCnt F.hifDropCntUnassigned + 1) ∧
      t.dev.sameRegs s.dev [R.hifDropCnt] ∧ t.dev = { s.dev with regs := t.dev.regs }) ∧
  (∀ (path : Fin 7) (a : Fin 0x400000) (w : Word) (out : Outside) (k : PageKind) (i : Nat) (s : State), path.val ≠ 1 →
    s.dev.arriving path = true → pageOf (a / 0x1000) = some (k, i) → s.dev.offline false (a / 0x1000) = true →
    ∃ t, exec (.registerWrite path a w 15 out) s = .next t ∧
      t.dev.rf (pstat (a / 0x1000)) F.stDrops = min 255 (s.dev.rf (pstat (a / 0x1000)) F.stDrops + 1) ∧
      t.dev.sameRegs s.dev [pstat (a / 0x1000)] ∧ t.dev = { s.dev with regs := t.dev.regs }) ∧
  (∀ (path : Fin 7) (a : Fin 0x400000) (w : Word) (out : Outside) (k : PageKind) (i : Nat) (s : State), path.val ≠ 1 →
    s.dev.arriving path = true → pageOf (a / 0x1000) = some (k, i) → s.dev.offline false (a / 0x1000) = false →
    s.dev.pageLocked (a / 0x1000) = true → 0x40 ≤ a.val % 0x1000 → ∃ t, exec (.registerWrite path a w 15 out) s = .next t ∧
      t.dev.rb (pstat (a / 0x1000)) F.stLockViol = true ∧ t.dev.sameRegs s.dev [pstat (a / 0x1000)] ∧ t.dev = { s.dev with regs := t.dev.regs })

/-- READ_CLEAR and PAGE_LOCK_WRITE (R5, R61).  A read of a register of one word on a page without views of its own answers the word and clears its
read-clear bits.  The first write of PAGE_LOCK with a key and LOCKED = 1 locks the page; the same key with LOCKED = 0 unlocks it; another
key is counted and sets LOCK_VIOL. -/
def Obligations.ReadsClearAndLocksHold : Prop :=
  (∀ (path : Fin 7) (a : Fin 0x400000) (k : PageKind) (i : Nat) (r : RegDef) (s : State), s.dev.letsRead path a = true → 0x40 ≤ a.val % 0x1000 →
    pageOf (a / 0x1000) = some (k, i) → k ∈ [.clk, .prt, .lks, .cdc, .msk, .meas, .hif] → findReg (pageMap k) (a % 0x1000) = some r →
    r.wide.2 ≤ 1 → r.wo = 0 → ∃ t, exec (.readClear path a) s = .next t ∧
      t.dev.hif.rdata = [s.dev.get a] ∧ t.dev.rn a = s.dev.rn a - (s.dev.rn a &&& r.rc) ∧ t.dev.sameRegs s.dev [a.val] ∧
      t.dev = { s.dev with regs := t.dev.regs, hif := t.dev.hif }) ∧
  (∀ (path : Fin 7) (page : Fin 1024) (w : Word) (k : PageKind) (i : Nat) (s : State), s.dev.lets path (plock page) = true →
    pageOf page = some (k, i) → k ≠ .hif → nbits w.toNat 7 1 = 0 → w.toNat / 2 ^ 16 ≠ 0 →
    s.dev.hif.keys.find? (fun x => x.1 == page.val) = none → nbit w.toNat 0 = true → ∃ t, exec (.pageLockWrite path page w) s = .next t ∧
      t.dev.pageLocked page = true ∧ t.dev.rb (plock page) F.lockLocked = true ∧ t.dev.rb (pstat page) F.stLocked = true ∧
      t.dev.hif.keys = s.dev.hif.keys ++ [(page.val, w.toNat / 2 ^ 16)] ∧ t.dev.sameRegs s.dev [plock page, pstat page] ∧
      t.dev = { s.dev with regs := t.dev.regs, hif := t.dev.hif }) ∧
  (∀ (path : Fin 7) (page : Fin 1024) (w : Word) (k : PageKind) (i : Nat) (s : State), s.dev.lets path (plock page) = true →
    pageOf page = some (k, i) → k ≠ .hif → nbits w.toNat 7 1 = 0 → w.toNat / 2 ^ 16 ≠ 0 →
    s.dev.hif.keys.find? (fun x => x.1 == page.val) = some (page.val, w.toNat / 2 ^ 16) → nbit w.toNat 0 = false →
    ∃ t, exec (.pageLockWrite path page w) s = .next t ∧
      t.dev.pageLocked page = false ∧ t.dev.rb (plock page) F.lockLocked = false ∧ t.dev.rf (plock page) F.lockFail = 0 ∧
      t.dev.rb (pstat page) F.stLocked = false ∧ t.dev.sameRegs s.dev [plock page, pstat page] ∧
      t.dev = { s.dev with regs := t.dev.regs, hif := t.dev.hif }) ∧
  (∀ (path : Fin 7) (page : Fin 1024) (w : Word) (k : PageKind) (i : Nat) (key : Nat) (s : State), s.dev.lets path (plock page) = true →
    pageOf page = some (k, i) → k ≠ .hif → nbits w.toNat 7 1 = 0 → w.toNat / 2 ^ 16 ≠ 0 →
    s.dev.hif.keys.find? (fun x => x.1 == page.val) = some (page.val, key) → key ≠ w.toNat / 2 ^ 16 →
    ∃ t, exec (.pageLockWrite path page w) s = .next t ∧
      t.dev.pageLocked page = true ∧ t.dev.rf (plock page) F.lockFail = min 255 (s.dev.rf (plock page) F.lockFail + 1) ∧
      t.dev.rb (pstat page) F.stLockViol = true ∧ t.dev.sameRegs s.dev [plock page, pstat page] ∧ t.dev = { s.dev with regs := t.dev.regs })

/-! ### Start-up, boot policy and the Keeper (04_startup_reset_and_partial_service.md) -/

/-- COLD_RESET and RAIL_LOSS (R98, R99): a reset pulse of at least 1 µs, or a rail below its threshold once POWER has ended, returns every
register but four to its reset value and ends all volatile state; the four show the cause, the fuses and the Keeper's slot.  The ledger, host
memory and the fuses stand, and a shorter pulse changes nothing.  That unwritten memory reads zero afterwards is the model's choice (log 7). -/
def Obligations.ColdResetReturnsEveryRegister : Prop :=
  (∀ (ns : Nat) (s : State), 1000 ≤ ns → ∃ t, exec (.coldReset ns) s = .next t ∧
      t.dev.rf R.bootStat F.bootStatCause = 1 ∧ t.dev.resetRegs [R.bootKeeper, R.glbSeason, R.vltStat, R.bootStat] ∧
      t.dev.rf R.bootStat F.bootStatStep = 1 ∧ t.dev.boot.done = 0 ∧ t.dev.gtc = 0 ∧ t.dev.counting = false ∧ t.dev.tcq = Tcq.reset ∧
      t.dev.pend = [] ∧ t.dev.seq = [] ∧ t.dev.chans = [] ∧ (t.dev.hif = Hif.reset) ∧ t.dev.evt = Evt.reset ∧ t.dev.ledger = s.dev.ledger ∧
      t.dev.hostMem = s.dev.hostMem ∧ t.vault = s.vault) ∧
  (∀ (ns : Nat) (s : State), ns < 1000 → ∃ t, exec (.coldReset ns) s = .next t ∧
      t = s) ∧
  (∀ (s : State), s.dev.boot.done ≠ 0 → ∃ t, exec .railLoss s = .next t ∧
      t.dev.rf R.bootStat F.bootStatCause = 2 ∧ t.dev.resetRegs [R.bootKeeper, R.glbSeason, R.vltStat, R.bootStat] ∧
      t.dev.rf R.bootStat F.bootStatStep = 1 ∧ t.dev.boot.done = 0 ∧ t.dev.gtc = 0 ∧ t.dev.counting = false ∧ t.dev.tcq = Tcq.reset ∧
      t.dev.pend = [] ∧ t.dev.seq = [] ∧ t.dev.chans = [] ∧ (t.dev.hif = Hif.reset) ∧ t.dev.evt = Evt.reset ∧ t.dev.ledger = s.dev.ledger ∧
      t.dev.hostMem = s.dev.hostMem ∧ t.vault = s.vault)

/-- POWER_COMPLETE, STARTUP_STEP_END and STARTUP_ATTEMPT_TIMEOUT (R97, R100, R102).  POWER ends and ROOT is begun.  A successful attempt of
CLOCKS starts the GTC and begins LEDGER, where policy does not skip it.  A timed-out attempt of a step with attempts left is followed by
the next attempt of the same form. -/
def Obligations.StartupStepsAdvance : Prop :=
  (∀ (b : Bool) (s : State), s.dev.boot.done = 0 → s.dev.boot.runs = [StepRun.start] → s.dev.rf R.bootStat F.bootStatStep = 1 →
    ∃ t, exec (.powerComplete b) s = .next t ∧
      t.dev.boot.done = 1 ∧ t.dev.rf R.bootStat F.bootStatStep = 2 ∧ t.dev.gtc = s.dev.gtc ∧ t.dev.dram = s.dev.dram ∧
      t.dev.ledger = s.dev.ledger) ∧
  (∀ (x : StepResult) (r : StepRun) (s : State), s.dev.boot.done = 2 → s.dev.boot.warm = false → s.dev.boot.runs = [r] → r.form = 0 →
    r.outcome = none → s.dev.rf R.bootStat F.bootStatStep = 3 → x.oks = [true] → fget (s.dev.get R.bootPolicy4) F.bootPolicy4Action = 0 →
    fget (s.dev.get R.bootPolicy4) F.bootPolicy4PreferAlt = 0 → ∃ t, exec (.startupStepEnd x) s = .next t ∧
      t.dev.counting = true ∧ t.dev.boot.done = 3 ∧ t.dev.rf R.bootStat F.bootStatStep = 4 ∧ t.dev.rf (R.bootHist 2) F.bootHistLastOutcome = 1 ∧
      t.dev.rf (R.bootHist 2) F.bootHistFNorm = 0 ∧ t.dev.dram = s.dev.dram) ∧
  (∀ (r : StepRun) (c : Nat) (s : State), s.dev.boot.warm = false → s.dev.boot.runs = [r] → r.form = 0 → r.outcome = none →
    s.dev.rf R.bootStat F.bootStatStep = c → 2 ≤ c → c ≤ 13 → c ≠ 9 → r.attempt < fget (s.dev.get (Dev.policyReg c)) Dev.F.polAttempts →
    ∃ t, exec .startupAttemptTimeout s = .next t ∧
      t.dev.boot.runs = [{ r with attempt := r.attempt + 1, made := r.made + 1 }] ∧ t.dev.boot.done = s.dev.boot.done ∧
      t.dev.sameQuiet s.dev [R.bootStat, R.bootHist (Dev.histIx c 0)] ∧
      t.dev = { s.dev with regs := t.dev.regs, boot := t.dev.boot, ledger := t.dev.ledger, evt := t.dev.evt, sram := t.dev.sram, hostMem := t.dev.hostMem, hif := t.dev.hif, seq := t.dev.seq, chans := t.dev.chans, lvls := t.dev.lvls, acq := t.dev.acq })

/-- BOOT_POLICY_WRITE, CLEAR_HIST and LEDGER_WINDOW_READ (R106, R108).  A policy write that nothing turns away is held, and its word reaches the
ledger while the Keeper runs; CLEAR_HIST clears both counts of the step's history; a read of the window returns the ledger's word and
advances the address by 4, around at 4 MiB.  Step DRAMTRAIN (index 8) has four histories.  The place of a policy in the ledger is the
model's own (log 12). -/
def Obligations.PolicyWritesReachTheLedger : Prop :=
  (∀ (path : Fin 7) (n : Fin 13) (w : Word) (s : State), s.dev.takes path (R.bootPolicy1 + 4 * n) w.toNat = true → nbit w.toNat 31 = false →
    s.dev.boot.keeperOn = true → s.dev.ledgerOk = true → ∃ t, exec (.bootPolicyWrite path n w) s = .next t ∧
      t.dev.rn (R.bootPolicy1 + 4 * n) = w.toNat ∧ t.dev.ledger = mputNat s.dev.ledger (4 * n) 4 w.toNat ∧
      t.dev.sameRegs s.dev [R.bootPolicy1 + 4 * n, pstat 3] ∧ t.dev = { s.dev with regs := t.dev.regs, ledger := t.dev.ledger }) ∧
  (∀ (path : Fin 7) (n : Fin 13) (w : Word) (s : State), s.dev.takes path (R.bootPolicy1 + 4 * n) w.toNat = true → nbit w.toNat 31 = true →
    s.dev.boot.keeperOn = true → s.dev.ledgerOk = true → n.val ≠ 8 → ∃ t, exec (.clearHist path n w) s = .next t ∧
      t.dev.rf (R.bootHist n) F.bootHistFNorm = 0 ∧ t.dev.rf (R.bootHist n) F.bootHistFAlt = 0 ∧
      t.dev.rn (R.bootPolicy1 + 4 * n) = w.toNat % 2 ^ 31 ∧ t.dev.sameRegs s.dev [R.bootPolicy1 + 4 * n, R.bootHist n, pstat 3] ∧
      t.dev = { s.dev with regs := t.dev.regs, ledger := t.dev.ledger }) ∧
  (∀ (path : Fin 7) (s : State), s.dev.letsRead path R.bootLwinData = true → ∃ t, exec (.ledgerWindowRead path) s = .next t ∧
      t.dev.hif.rdata = [BitVec.ofNat 32 (s.dev.ledgerWord (s.dev.rn R.bootLwinAddr))] ∧
      t.dev.rn R.bootLwinAddr = (s.dev.rn R.bootLwinAddr + 4) % 0x400000 ∧ t.dev.sameRegs s.dev [R.bootLwinAddr] ∧
      t.dev = { s.dev with regs := t.dev.regs, hif := t.dev.hif })

/-- KEEPER_UPDATE_START, MAILBOX_UPDATE_START, CHUNK_LEN_WRITE and KEEPER_UPDATE_END (R109, R111).  An update makes its target slot invalid: the
slot not running, or slot A from the mailbox; its CHUNK_LEN of 0 keeps what stands and sets PARAM_ZERO (R7).  A chunk announced in RECOVERY is copied behind the bytes already taken and flagged.  An
image from DRAM that passed its checks is written to the target slot, which becomes valid; a failed one leaves it invalid and reports
the reason. -/
def Obligations.KeeperUpdateWritesTheOtherSlot : Prop :=
  (∀ (path : Fin 7) (s : State), s.dev.lets path R.bootKupdCtrl = true →
    s.dev.kupdLegal (s.dev.get R.bootKupdCtrl &&& 0x1FFFF#32 ||| 0x80000000#32) = true → s.dev.winter = false →
    ∃ t, exec (.keeperUpdateStart path 0x80000000#32) s = .next t ∧
      t.dev.rf R.bootKupdStat F.bootKupdStatState = 1 ∧ t.dev.rf R.bootKupdStat F.bootKupdStatReason = 0 ∧
      t.dev.slotOk (1 - s.dev.rf R.bootKeeper F.bootKeeperSlot) = false ∧ t.dev.boot.fresh = none ∧ t.dev.boot.mbxBytes = 0 ∧
      t.dev.rb (pstat 3) F.stParamZero = true ∧ t.dev.sameRegs s.dev [R.bootKupdCtrl, R.bootKupdStat, R.bootKeeper, pstat 3] ∧
      t.dev = { s.dev with regs := t.dev.regs, boot := t.dev.boot }) ∧
  (∀ (path : Fin 7) (s : State), s.dev.lets path R.bootKupdCtrl = true →
    s.dev.kupdLegal (s.dev.get R.bootKupdCtrl &&& 0x1FFFF#32 ||| 0xC0000000#32) = true → s.dev.winter = false →
    ∃ t, exec (.mailboxUpdateStart path 0xC0000000#32) s = .next t ∧
      t.dev.rf R.bootKupdStat F.bootKupdStatState = 1 ∧ t.dev.slotOk 0 = false ∧ t.dev.boot.fresh = none ∧ t.dev.boot.mbxBytes = 0 ∧
      t.dev.rb (pstat 3) F.stParamZero = true ∧ t.dev.sameRegs s.dev [R.bootKupdCtrl, R.bootKupdStat, R.bootKeeper, pstat 3] ∧
      t.dev = { s.dev with regs := t.dev.regs, boot := t.dev.boot }) ∧
  (∀ (path : Fin 7) (w : Word) (s : State), s.dev.takes path R.bootKupdCtrl w.toNat = true → nbit w.toNat 31 = false → nbit w.toNat 30 = true →
    nbits w.toNat 16 0 ≠ 0 → s.dev.updating = true → ∃ t, exec (.chunkLenWrite path w) s = .next t ∧
      t.dev.rb R.bootKupdStat F.bootKupdStatChunkTaken = true ∧ t.dev.boot.mbxBytes = s.dev.boot.mbxBytes + nbits w.toNat 16 0 ∧
      t.dev.ledger = mwrite s.dev.ledger (Dev.ledKeeper 0 + s.dev.boot.mbxBytes) (mread s.dev.sram 0x810000 (nbits w.toNat 16 0)) ∧
      t.dev.sameRegs s.dev [R.bootKupdCtrl, R.bootKupdStat, pstat 3] ∧
      t.dev = { s.dev with regs := t.dev.regs, boot := t.dev.boot, ledger := t.dev.ledger }) ∧
  (∀ (version : Nat) (s : State), s.dev.updating = true → s.dev.rb R.bootKupdCtrl F.bootKupdCtrlSrc = false → s.dev.ledgerOk = true →
    s.dev.rn R.bootKupdLen ≠ 0 → s.dev.rn R.bootKupdLen ≤ 0x80000 → ∃ t, exec (.keeperUpdateEnd 0 version) s = .next t ∧
      t.dev.rf R.bootKupdStat F.bootKupdStatState = 2 ∧ t.dev.slotOk (1 - s.dev.rf R.bootKeeper F.bootKeeperSlot) = true ∧
      t.dev.boot.fresh = some (1 - s.dev.rf R.bootKeeper F.bootKeeperSlot) ∧
      t.dev.ledger = mwrite s.dev.ledger (Dev.ledKeeper (1 - s.dev.rf R.bootKeeper F.bootKeeperSlot)) (mread s.dev.dram (s.dev.wide R.bootKupdSrcLo 2) (s.dev.rn R.bootKupdLen)) ∧
      t.dev.sameRegs s.dev [R.bootKupdStat, R.bootKeeper] ∧ t.dev = { s.dev with regs := t.dev.regs, boot := t.dev.boot, ledger := t.dev.ledger }) ∧
  (∀ (reason version : Nat) (s : State), s.dev.updating = true → s.dev.rb R.bootKupdCtrl F.bootKupdCtrlSrc = false → s.dev.ledgerOk = true →
    s.dev.rn R.bootKupdLen ≠ 0 → s.dev.rn R.bootKupdLen ≤ 0x80000 → reason ≠ 0 → reason < 16 →
    ∃ t, exec (.keeperUpdateEnd reason version) s = .next t ∧
      t.dev.rf R.bootKupdStat F.bootKupdStatState = 6 ∧ t.dev.rf R.bootKupdStat F.bootKupdStatReason = reason ∧
      t.dev.slotOk (1 - s.dev.rf R.bootKeeper F.bootKeeperSlot) = false ∧ t.dev.sameQuiet s.dev [R.bootKupdStat, R.bootKeeper] ∧
      t.dev = { s.dev with regs := t.dev.regs, boot := t.dev.boot, evt := t.dev.evt, sram := t.dev.sram, hostMem := t.dev.hostMem, hif := t.dev.hif, seq := t.dev.seq, chans := t.dev.chans, lvls := t.dev.lvls, acq := t.dev.acq })

/-- KEEPER_RESTART_CMD, KEEPER_TRIAL_END, KEEPER_WATCHDOG_EXPIRY and KEEPER_RESTART_DONE (R110, R117, R27).  A restart stops the Keeper, and every
port's TIMING_ACTIVE reads PERIODIC; a trial that passes commits, a failed one goes back to the slot before; at the first heartbeat
the queued ledger writes are made. -/
def Obligations.KeeperRestartsAndResumes : Prop :=
  (∀ (path : Fin 7) (w : Word) (s : State), s.dev.takes path R.bootKeeperCmd w.toNat = true → nbit w.toNat 0 = true →
    ∃ t, exec (.keeperRestartCmd path w) s = .next t ∧
      t.dev.boot.keeperOn = false ∧ (∀ p : Fin 4, t.dev.rf (R.prtProfile p) F.prtProfileTimingActive = 1) ∧
      t.dev.sameQuiet s.dev [R.bootKeeperCmd, R.bootKupdStat, R.bootKeeper, R.prtProfile 0, R.prtProfile 1, R.prtProfile 2, R.prtProfile 3, pstat 3] ∧
      t.dev = { s.dev with regs := t.dev.regs, boot := t.dev.boot, evt := t.dev.evt, sram := t.dev.sram, hostMem := t.dev.hostMem, hif := t.dev.hif, seq := t.dev.seq, chans := t.dev.chans, lvls := t.dev.lvls, acq := t.dev.acq }) ∧
  (∀ (s : State), s.dev.rf R.bootKupdStat F.bootKupdStatState = 3 → ∃ t, exec (.keeperTrialEnd true) s = .next t ∧
      t.dev.rf R.bootKupdStat F.bootKupdStatState = 4 ∧ t.dev.boot.prevSlot = none ∧ t.dev.sameRegs s.dev [R.bootKupdStat] ∧
      t.dev = { s.dev with regs := t.dev.regs, boot := t.dev.boot }) ∧
  (∀ (k : Nat) (s : State), s.dev.rf R.bootKupdStat F.bootKupdStatState = 3 → s.dev.boot.prevSlot = some k → k < 2 → s.dev.boot.fresh = none →
    ∃ t, exec (.keeperTrialEnd false) s = .next t ∧
      t.dev.rf R.bootKupdStat F.bootKupdStatState = 5 ∧ t.dev.boot.prevSlot = none ∧ t.dev.rf R.bootKeeper F.bootKeeperSlot = k ∧
      t.dev.boot.keeperOn = false ∧ (∀ p : Fin 4, t.dev.rf (R.prtProfile p) F.prtProfileTimingActive = 1) ∧
      t.dev.sameQuiet s.dev [R.bootKeeperCmd, R.bootKupdStat, R.bootKeeper, R.prtProfile 0, R.prtProfile 1, R.prtProfile 2, R.prtProfile 3] ∧
      t.dev = { s.dev with regs := t.dev.regs, boot := t.dev.boot, evt := t.dev.evt, sram := t.dev.sram, hostMem := t.dev.hostMem, hif := t.dev.hif, seq := t.dev.seq, chans := t.dev.chans, lvls := t.dev.lvls, acq := t.dev.acq }) ∧
  (∀ (s : State), s.dev.boot.keeperOn = true → ∃ t, exec .keeperWatchdogExpiry s = .next t ∧
      t.dev.boot.keeperOn = false ∧ (∀ p : Fin 4, t.dev.rf (R.prtProfile p) F.prtProfileTimingActive = 1) ∧
      t.dev.sameQuiet s.dev [R.bootKeeperCmd, R.bootKupdStat, R.bootKeeper, R.prtProfile 0, R.prtProfile 1, R.prtProfile 2, R.prtProfile 3] ∧
      t.dev = { s.dev with regs := t.dev.regs, boot := t.dev.boot, evt := t.dev.evt, sram := t.dev.sram, hostMem := t.dev.hostMem, hif := t.dev.hif, seq := t.dev.seq, chans := t.dev.chans, lvls := t.dev.lvls, acq := t.dev.acq }) ∧
  (∀ (s : State), s.dev.boot.keeperOn = false → 7 ≤ s.dev.boot.done → (∀ p : Fin 4, s.dev.resettingOf p ≠ 2) →
    ∃ t, exec .keeperRestartDone s = .next t ∧
      t.dev.boot.keeperOn = true ∧ t.dev.boot.ledgerQ = [] ∧ t.dev.ledger = s.dev.boot.ledgerQ.foldl (fun m x => mwrite m x.1 x.2) s.dev.ledger ∧
      t.dev.rn R.evcLedgerSeq = (s.dev.rn R.evcLedgerSeq + s.dev.queuedFaults) % 2 ^ 32 ∧ t.dev.sameRegs s.dev [R.evcLedgerSeq] ∧
      t.dev = { s.dev with regs := t.dev.regs, boot := t.dev.boot, ledger := t.dev.ledger })

/-! ### Resets and recalibration (04_startup_reset_and_partial_service.md) -/

/-- PORT_RESET, PORT_RESET_DONE and WARM_RESET (R112 to R114, R117, R118).  A port reset takes every page of the port off line and returns its
sequencer, pattern generator, fail processor and acquisition engine to reset; at its end the pages are online again, unless the Keeper
restarts, for which the port waits.  A warm reset runs from TIMECAL in the stored form, with the timed-command queue empty and the Keeper
restarting; during a DRAM retrain it waits. -/
def Obligations.PortAndWarmResetsTakeTheirScope : Prop :=
  (∀ (path : Fin 7) (p : Fin 4) (w : Word) (out : Outside) (s : State), s.dev.takesCtrl path (ppage p 0) w.toNat = true →
    nbit w.toNat 1 = true → ∃ t, exec (.portReset path p w out) s = .next t ∧
      t.dev.resettingOf p = 1 ∧ (∀ pg ∈ Dev.portPages p, t.dev.offline false pg = true) ∧ t.dev.seqOf p = Seq.reset ∧ t.dev.apgOf p = Apg.reset ∧
      t.dev.flpOf p = Flp.reset ∧ (t.dev.acqOf p).open_ = none ∧ t.dev.ledger = s.dev.ledger ∧ t.dev.gtc = s.dev.gtc ∧
      t.dev.vlt.slots = s.dev.vlt.slots) ∧
  (∀ (p : Fin 4) (s : State), s.dev.resettingOf p = 1 → s.dev.boot.keeperOn = true → ∃ t, exec (.portResetDone p) s = .next t ∧
      t.dev.resettingOf p = 0 ∧ (∀ pg ∈ Dev.portPages p, tget (fun _ => false) t.dev.boot.off pg = false) ∧ t.dev.dram = s.dev.dram ∧
      t.dev.ledger = s.dev.ledger) ∧
  (∀ (p : Fin 4) (s : State), s.dev.resettingOf p = 1 → s.dev.boot.keeperOn = false → ∃ t, exec (.portResetDone p) s = .next t ∧
      t.dev.resettingOf p = 2 ∧ t.dev.sameRegs s.dev [] ∧ t.dev = { s.dev with regs := t.dev.regs, boot := t.dev.boot }) ∧
  (∀ (path : Fin 7) (w : Word) (out : Outside) (s : State), s.dev.takesCtrl path 0 w.toNat = true → nbit w.toNat 1 = true →
    (∀ c : Fin 4, s.dev.mcHolding c = false) → ∃ t, exec (.warmReset path w out) s = .next t ∧
      t.dev.boot.done = 10 ∧ t.dev.boot.warm = true ∧ t.dev.boot.keeperOn = false ∧ t.dev.boot.runs = [{ StepRun.start with form := 1 }] ∧
      t.dev.rf R.bootStat F.bootStatStep = 11 ∧ t.dev.rf R.bootStat F.bootStatCause = 3 ∧ t.dev.rf R.bootStat F.bootStatState = 0 ∧
      t.dev.tcq.q = [] ∧ t.dev.gtc = s.dev.gtc) ∧
  (∀ (path : Fin 7) (w : Word) (out : Outside) (s : State), s.dev.takesCtrl path 0 w.toNat = true → nbit w.toNat 1 = true →
    (∃ c : Fin 4, s.dev.mcHolding c = true) → ∃ t, exec (.warmReset path w out) s = .next t ∧
      t.dev.boot.warmWait = true ∧ t.dev.sameRegs s.dev [pstat 0] ∧ t.dev = { s.dev with regs := t.dev.regs, boot := t.dev.boot })

/-- SIDEBAND_RESET, SIDEBAND_RESET_DONE, CHANNEL_RECALIBRATION, CHANNEL_RECALIBRATION_END, DRAM_RETRAIN and RETRAIN_END (R112, R115, R116, R215, R390).
A sideband reset takes the engine's page off line until it is done.  A recalibration of a disabled channel sets BUSY until it ends.  A
retrain takes a channel that no stream maps off line; a successful one clears RETRAIN and its drift, a failed one reports FAILED. -/
def Obligations.SidebandResetsAndRecalibrations : Prop :=
  (∀ (path : Fin 7) (p e : Fin 4) (w : Word) (s : State), s.dev.takesCtrl path (ppage p (0xB + e)) w.toNat = true → nbit w.toNat 1 = true →
    ∃ t, exec (.sidebandReset path p e w) s = .next t ∧
      t.dev.resettingOf (4 + 4 * p + e) = 1 ∧ t.dev.offline false (ppage p (0xB + e)) = true ∧ (t.dev.sbOf p e).busy = false ∧
      t.dev.rb (pctl (ppage p (0xB + e))) F.ctlEnable = false ∧ t.dev.dram = s.dev.dram ∧ t.dev.ledger = s.dev.ledger) ∧
  (∀ (p e : Fin 4) (s : State), s.dev.resettingOf (4 + 4 * p + e) ≠ 0 → ∃ t, exec (.sidebandResetDone p e) s = .next t ∧
      t.dev.resettingOf (4 + 4 * p + e) = 0 ∧ tget (fun _ => false) t.dev.boot.off (ppage p (0xB + e)) = false ∧ t.dev.sameQuiet s.dev [] ∧
      t.dev = { s.dev with regs := t.dev.regs, boot := t.dev.boot, evt := t.dev.evt, sram := t.dev.sram, hostMem := t.dev.hostMem, hif := t.dev.hif, seq := t.dev.seq, chans := t.dev.chans, lvls := t.dev.lvls, acq := t.dev.acq }) ∧
  (∀ (path : Fin 7) (i : Fin 96) (w : Word) (s : State), s.dev.takesCtrl path (Dev.chPage i) w.toNat = true → nbit w.toNat 1 = true →
    s.dev.rb (pctl (Dev.chPage i)) F.ctlEnable = false → (s.dev.trimOf i).recal = false →
    ∃ t, exec (.channelRecalibration path i w) s = .next t ∧
      (t.dev.trimOf i).recal = true ∧ t.dev.rb (pstat (Dev.chPage i)) F.stBusy = true ∧
      (t.dev.measOf (Dev.chPort i)).borrow = (s.dev.measOf (Dev.chPort i)).borrow + 1 ∧ t.dev.sameRegs s.dev [pstat (Dev.chPage i)] ∧
      t.dev = { s.dev with regs := t.dev.regs, trims := t.dev.trims, meas := t.dev.meas }) ∧
  (∀ (i : Fin 96) (dtc dly lv : List Nat) (s : State), (s.dev.trimOf i).recal = true →
    ∃ t, exec (.channelRecalibrationEnd i true true dtc dly lv) s = .next t ∧
      (t.dev.trimOf i).recal = false ∧ t.dev.rb (pstat (Dev.chPage i)) F.stBusy = false ∧ t.dev.track i = 0 ∧ (t.dev.trimOf i).at_ = s.dev.now ∧
      t.dev.dram = s.dev.dram) ∧
  (∀ (path : Fin 7) (c : Fin 4) (w : Word) (s : State), s.dev.takesCtrl path (0x40 + c) w.toNat = true → nbit w.toNat 1 = true →
    s.dev.mcInUse c = true → (∀ p : Fin 4, s.dev.streamMaps p c = false) → ∃ t, exec (.dramRetrain path c w) s = .next t ∧
      t.dev.rf (R.mcStat c) F.mcStatRetrain = 1 ∧ t.dev.offline false (0x40 + c) = true ∧ t.dev.mcHolding c = true ∧
      t.dev.sameRegs s.dev [R.mcStat c, pstat (0x40 + c)] ∧ t.dev = { s.dev with regs := t.dev.regs, boot := t.dev.boot }) ∧
  (∀ (c : Fin 4) (rd : List Nat) (fails : List MarchFail) (passes : List Nat) (s : State), s.dev.mcHolding c = true →
    s.dev.boot.warmWait = false → s.dev.boot.keeperOn = true → s.dev.ledgerOk = true →
    ∃ t, exec (.retrainEnd c true rd fails passes) s = .next t ∧
      t.dev.rf (R.mcStat c) F.mcStatRetrain = 0 ∧ tget (fun _ => false) t.dev.boot.off (0x40 + c) = false ∧ (t.dev.mcOf c).drift = 0 ∧
      t.dev.rn (R.mcOscStat c) = 0 ∧ t.dev.ledger = mwrite s.dev.ledger (Dev.ledDram c + 16) (Dev.wordsBytes (rd.take 64)) ∧
      t.dev.sameQuiet s.dev [R.mcStat c, R.mcOscStat c, pstat (0x40 + c)] ∧
      t.dev = { s.dev with regs := t.dev.regs, boot := t.dev.boot, mc := t.dev.mc, ledger := t.dev.ledger, evt := t.dev.evt, sram := t.dev.sram, hostMem := t.dev.hostMem, hif := t.dev.hif, seq := t.dev.seq, chans := t.dev.chans, lvls := t.dev.lvls, acq := t.dev.acq }) ∧
  (∀ (c : Fin 4) (rd : List Nat) (fails : List MarchFail) (passes : List Nat) (s : State), s.dev.mcHolding c = true →
    s.dev.boot.warmWait = false → ∃ t, exec (.retrainEnd c false rd fails passes) s = .next t ∧
      t.dev.rf (R.mcStat c) F.mcStatRetrain = 2 ∧ tget (fun _ => false) t.dev.boot.off (0x40 + c) = false ∧
      t.dev.sameQuiet s.dev [R.mcStat c, pstat (0x40 + c)] ∧
      t.dev = { s.dev with regs := t.dev.regs, boot := t.dev.boot, evt := t.dev.evt, sram := t.dev.sram, hostMem := t.dev.hostMem, hif := t.dev.hif, seq := t.dev.seq, chans := t.dev.chans, lvls := t.dev.lvls, acq := t.dev.acq })

/-! ### Host windows, DMA and the supervisor (02_host_interface_and_registers.md) -/

/-- W2_BASE_COMMIT, BAR2_ACCESS and BAR4_ACCESS (R39 to R42).  The write of HIF_W2_BASE_HI takes the staged low word with it.  A dword in the DRAM
window stands at base + offset; beyond populated memory a read answers all ones and is counted.  A dword in the on-chip window stands in a
port bank that is online, unsealed and awake, outside the areas that only the device writes.  No other byte of memory changes. -/
def Obligations.HostWindowsReachTheirMemories : Prop :=
  (∀ (path : Fin 7) (w : Word) (s : State), s.dev.lets path R.hifW2BaseHi = true → w.toNat < 64 →
    ((s.dev.staging path R.hifW2BaseLo 2).headD 0).toNat % 2 ^ 20 = 0 → ∃ t, exec (.w2BaseCommit path w) s = .next t ∧
      t.dev.rn R.hifW2BaseHi = w.toNat ∧ t.dev.get R.hifW2BaseLo = (s.dev.staging path R.hifW2BaseLo 2).headD 0 ∧
      t.dev.sameRegs s.dev [R.hifW2BaseLo, R.hifW2BaseHi, pstat 0x60] ∧ t.dev = { s.dev with regs := t.dev.regs, hif := t.dev.hif }) ∧
  (∀ (off x : Nat) (bad : Bool) (s : State), s.dev.hostUp = true → off % 4 = 0 → off < 2 ^ 32 →
    s.dev.dramOk (s.dev.wide R.hifW2BaseLo 2 + off) 4 = true → s.dev.poisonOf ((s.dev.wide R.hifW2BaseLo 2 + off) / 64 * 64) = none →
    s.dev.wide R.hifW2BaseLo 2 % 64 = 0 → x < 2 ^ 32 → ∃ t, exec (.bar2Access true off 1 [x] 15 bad) s = .next t ∧
      mnat t.dev.dram (s.dev.wide R.hifW2BaseLo 2 + off) 4 = x ∧ sameBut t.dev.dram s.dev.dram (s.dev.wide R.hifW2BaseLo 2 + off) 4 ∧
      t.dev.sameRegs s.dev [] ∧ t.dev = { s.dev with regs := t.dev.regs, dram := t.dev.dram, dramc := t.dev.dramc }) ∧
  (∀ (off : Nat) (s : State), s.dev.hostUp = true → off % 4 = 0 → off < 2 ^ 32 → s.dev.dramOk (s.dev.wide R.hifW2BaseLo 2 + off) 4 = true →
    s.dev.poisonOf ((s.dev.wide R.hifW2BaseLo 2 + off) / 64 * 64) = none → s.dev.wide R.hifW2BaseLo 2 % 64 = 0 →
    ∃ t, exec (.bar2Access false off 1 [] 15 false) s = .next t ∧
      t.dev.hif.rdata = [BitVec.ofNat 32 (mnat s.dev.dram (s.dev.wide R.hifW2BaseLo 2 + off) 4)] ∧ t.dev.sameRegs s.dev [] ∧
      t.dev = { s.dev with regs := t.dev.regs, hif := t.dev.hif }) ∧
  (∀ (off : Nat) (bad : Bool) (s : State), s.dev.hostUp = true → off % 4 = 0 → off < 2 ^ 32 →
    s.dev.dramOk (s.dev.wide R.hifW2BaseLo 2 + off) 4 = false → ∃ t, exec (.bar2Access false off 1 [] 15 bad) s = .next t ∧
      (bad = true ∨ t.dev.hif.rdata = [0xFFFFFFFF#32]) ∧ t.dev.rn R.hifW2ErrCnt = min 0xFFFFFFFF (s.dev.rn R.hifW2ErrCnt + 1) ∧
      t.dev.sameRegs s.dev [R.hifW2ErrCnt] ∧ t.dev = { s.dev with regs := t.dev.regs, hif := t.dev.hif, fresh := t.dev.fresh }) ∧
  (∀ (off x : Nat) (s : State), s.dev.hostUp = true → off < 0x800000 → off % 4 = 0 → s.dev.srm.run = none →
    s.dev.chipOffline (ppage (off / 0x200000) 0) = false → s.dev.sealed (off / 0x20000) = false → s.dev.retained (off / 0x20000) = false →
    s.dev.srm.waking = [] → Dev.chipReadOnly off = false → x < 2 ^ 32 → ∃ t, exec (.bar4Access true off 1 [x] 15 0) s = .next t ∧
      mnat t.dev.sram off 4 = x ∧ sameBut t.dev.sram s.dev.sram off 4 ∧ t.dev.sameRegs s.dev [] ∧
      t.dev = { s.dev with regs := t.dev.regs, sram := t.dev.sram }) ∧
  (∀ (off waits : Nat) (s : State), s.dev.hostUp = true → off < 0x800000 → off % 4 = 0 → s.dev.srm.run = none →
    s.dev.chipOffline (ppage (off / 0x200000) 0) = false → s.dev.sealed (off / 0x20000) = false → s.dev.retained (off / 0x20000) = false →
    s.dev.srm.waking = [] → ∃ t, exec (.bar4Access false off 1 [] 15 waits) s = .next t ∧
      t.dev.hif.rdata = [BitVec.ofNat 32 (mnat s.dev.sram off 4)] ∧
      t.dev.rn (R.srmBcc6 (off / 0x20000)) = min 0xFFFFFFFF (s.dev.rn (R.srmBcc6 (off / 0x20000)) + waits) ∧
      t.dev.sameRegs s.dev [R.srmBcc6 (off / 0x20000)] ∧ t.dev = { s.dev with regs := t.dev.regs, hif := t.dev.hif })

/-- PCIE_LINK_UP, HOST_INTERFACE_RESET, D3HOT_ENTRY and D3HOT_EXIT (R36, R37, R48, R101).  The link comes up once HOSTLINK has ended well.  A reset of
the host interface clears its page and its engines and leaves every other register alone; only the Function Level Reset leaves the link up.
D3hot stops every engine as ABORT does. -/
def Obligations.HostStatesStopAndRestoreTheLink : Prop :=
  (∀ (s : State), 6 ≤ s.dev.boot.done → s.dev.rb R.bootDegraded F.bootDegradedHostlink = false → s.dev.hif.linkUp = false →
    ∃ t, exec .pcieLinkUp s = .next t ∧
      t.dev.hif.linkUp = true ∧ t.dev.hif.linkWasUp = true ∧ t.dev.sameQuiet s.dev [] ∧
      t.dev = { s.dev with regs := t.dev.regs, evt := t.dev.evt, sram := t.dev.sram, hostMem := t.dev.hostMem, hif := t.dev.hif, seq := t.dev.seq, chans := t.dev.chans, lvls := t.dev.lvls, acq := t.dev.acq }) ∧
  (∀ (k : Fin 4) (s : State), 6 ≤ s.dev.boot.done → s.dev.updating = false → ∃ t, exec (.hostInterfaceReset k) s = .next t ∧
      t.dev.hif.linkUp = (s.dev.hif.linkUp && decide (k.val = 3)) ∧ t.dev.hif.d3hot = false ∧ t.dev.hif.fmask = false ∧ t.dev.dma = [] ∧
      (∀ e : Fin 8, t.dev.get (R.dmaCtrl e) = resetWord (R.dmaCtrl e) ∧ t.dev.rn (R.dmaTail e) = 0 ∧ t.dev.rb (R.dmaStat e) F.dmaStatRunning = false) ∧
      t.dev.sameOff s.dev 0x60 ∧ t.dev.dram = s.dev.dram ∧ t.dev.ledger = s.dev.ledger ∧ t.dev.gtc = s.dev.gtc) ∧
  (∀ (s : State), s.dev.hif.linkUp = true → s.dev.hif.d3hot = false → ∃ t, exec .d3hotEntry s = .next t ∧
      t.dev.hif.d3hot = true ∧ (∀ e : Fin 8, t.dev.rb (R.dmaCtrl e) F.dmaCtrlEnable = false) ∧
      (∀ e : Fin 8, (t.dev.dmaOf e).aborting = ((s.dev.dmaOf e).aborting || (s.dev.dmaOf e).desc.isSome)) ∧
      t.dev.sameRegs s.dev [R.dmaCtrl 0, R.dmaCtrl 1, R.dmaCtrl 2, R.dmaCtrl 3, R.dmaCtrl 4, R.dmaCtrl 5, R.dmaCtrl 6, R.dmaCtrl 7] ∧
      t.dev = { s.dev with regs := t.dev.regs, hif := t.dev.hif, dma := t.dev.dma }) ∧
  (∀ (s : State), s.dev.hif.d3hot = true → s.dev.hif.linkUp = true → s.dev.hif.fmask = false → ∃ t, exec .d3hotExit s = .next t ∧
      t.dev.hif.d3hot = false ∧ (∀ v : Fin 64, s.dev.rb (R.msixVctrl v) F.msixVctrlMask = false → t.dev.msixPending v = false) ∧
      t.dev.sameRegs s.dev [R.msixPba 0, R.msixPba 1] ∧ t.dev = { s.dev with regs := t.dev.regs, hif := t.dev.hif, hostMem := t.dev.hostMem })

/-- DMA_ENABLE, DMA_TAIL_WRITE, DMA_ABORT and DMA_DESCRIPTOR_COMPLETE (R43 to R46).  Enabling clears head, tail and count and sets the phase.  A tail
beyond the head makes an idle engine read its next descriptor from host memory.  ABORT clears ENABLE.  A completion of a host-to-device
descriptor of whole lines puts the bytes into device DRAM, writes its record to the completion ring and moves the head. -/
def Obligations.DmaEnginesWorkTheirRings : Prop :=
  (∀ (path : Fin 7) (e : Fin 8) (w : Word) (s : State), s.dev.takes path (R.dmaCtrl e) w.toNat = true → nbits w.toNat 1 0 = 1 →
    s.dev.rb (R.dmaCtrl e) F.dmaCtrlEnable = false → ∃ t, exec (.dmaEnable path e w) s = .next t ∧
      t.dev.rb (R.dmaCtrl e) F.dmaCtrlEnable = true ∧ t.dev.rn (R.dmaHead e) = 0 ∧ t.dev.rn (R.dmaTail e) = 0 ∧ t.dev.rn (R.dmaDoneCnt e) = 0 ∧
      (t.dev.dmaOf e).phase = true ∧ t.dev.rb (R.dmaStat e) F.dmaStatStoppedErr = false ∧
      t.dev.sameRegs s.dev [R.dmaCtrl e, R.dmaHead e, R.dmaTail e, R.dmaDoneCnt e, R.dmaStat e, pstat 0x60] ∧
      t.dev = { s.dev with regs := t.dev.regs, dma := t.dev.dma }) ∧
  (∀ (path : Fin 7) (e : Fin 8) (w : Word) (host : List (Nat × List Nat)) (s : State), s.dev.takes path (R.dmaTail e) w.toNat = true →
    (s.dev.dmaOf e).desc = none → s.dev.rb (R.dmaCtrl e) F.dmaCtrlEnable = true → s.dev.rb (R.dmaStat e) F.dmaStatStoppedErr = false →
    s.dev.hif.d3hot = false → w.toNat < 65536 → s.dev.rn (R.dmaHead e) ≠ w.toNat → ∃ t, exec (.dmaTailWrite path e w host) s = .next t ∧
      t.dev.rn (R.dmaTail e) = w.toNat ∧ t.dev.rb (R.dmaStat e) F.dmaStatRunning = true ∧ t.dev.hostMem = (s.dev.hostPut host).hostMem ∧
      (t.dev.dmaOf e).desc = some ((List.range 8).map (fun i => BitVec.ofNat 32 (mnat t.dev.hostMem (s.dev.wide (R.dmaRingLo e) 2 + 32 * s.dev.rn (R.dmaHead e) + 4 * i) 4))) ∧
      t.dev.sameRegs s.dev [R.dmaTail e, R.dmaStat e, pstat 0x60] ∧
      t.dev = { s.dev with regs := t.dev.regs, dma := t.dev.dma, hostMem := t.dev.hostMem }) ∧
  (∀ (path : Fin 7) (e : Fin 8) (w : Word) (s : State), s.dev.takes path (R.dmaCtrl e) w.toNat = true → nbits w.toNat 1 0 = 2 →
    (s.dev.dmaOf e).desc.isSome = true → ∃ t, exec (.dmaAbort path e w) s = .next t ∧
      t.dev.rb (R.dmaCtrl e) F.dmaCtrlEnable = false ∧ (t.dev.dmaOf e).aborting = true ∧ (t.dev.dmaOf e).desc = (s.dev.dmaOf e).desc ∧
      t.dev.sameRegs s.dev [R.dmaCtrl e, pstat 0x60] ∧ t.dev = { s.dev with regs := t.dev.regs, dma := t.dev.dma }) ∧
  (∀ (e : Fin 8) (x : DmaEnd) (w0 len hlo hhi dlo dhi : Word) (s : State), (s.dev.dmaOf e).desc = some [w0, len, hlo, hhi, dlo, dhi, 0, 0] →
    (s.dev.dmaOf e).aborting = false → w0.toNat < 2 ^ 16 → s.dev.srm.run = none → x.host = [] → x.hostErr = false → x.aer = false →
    (s.dev.rn (R.dmaHead e) + 1) % s.dev.dmaSize e = s.dev.rn (R.dmaTail e) → len = 0 → hlo.toNat % 4 = 0 → dlo.toNat % 4 = 0 → dhi.toNat < 64 →
    ∃ t, exec (.dmaDescriptorComplete e x) s = .next t ∧
      t.dev.rn (R.dmaHead e) = (s.dev.rn (R.dmaHead e) + 1) % s.dev.dmaSize e ∧
      t.dev.rn (R.dmaDoneCnt e) = (s.dev.rn (R.dmaDoneCnt e) + 1) % 2 ^ 32 ∧ (t.dev.dmaOf e).desc = none ∧
      t.dev.rb (R.dmaStat e) F.dmaStatRunning = false ∧ t.dev.rf (R.dmaStat e) F.dmaStatLastStatus = 1 ∧
      sameBut t.dev.hostMem s.dev.hostMem (s.dev.wide (R.dmaCplLo e) 2 + 32 * s.dev.rn (R.dmaHead e)) 32 ∧
      mnat t.dev.hostMem (s.dev.wide (R.dmaCplLo e) 2 + 32 * s.dev.rn (R.dmaHead e)) 2 = w0.toNat ∧
      t.dev.sameRegs s.dev [R.dmaHead e, R.dmaDoneCnt e, R.dmaStat e] ∧
      t.dev = { s.dev with regs := t.dev.regs, dma := t.dev.dma, hostMem := t.dev.hostMem }) ∧
  (∀ (e : Fin 8) (x : DmaEnd) (w0 len hlo hhi dlo dhi : Word) (s : State), (s.dev.dmaOf e).desc = some [w0, len, hlo, hhi, dlo, dhi, 0, 0] →
    (s.dev.dmaOf e).aborting = false → w0.toNat < 2 ^ 16 → s.dev.srm.run = none → x.host = [] → x.hostErr = false → x.aer = false →
    (s.dev.rn (R.dmaHead e) + 1) % s.dev.dmaSize e = s.dev.rn (R.dmaTail e) → 0 < len.toNat → len.toNat % 64 = 0 → hlo.toNat % 4 = 0 →
    dlo.toNat % 64 = 0 → dhi.toNat < 64 → s.dev.dramOk (dlo.toNat + 2 ^ 32 * dhi.toNat) len.toNat = true →
    ∃ t, exec (.dmaDescriptorComplete e x) s = .next t ∧
      t.dev.rn (R.dmaHead e) = (s.dev.rn (R.dmaHead e) + 1) % s.dev.dmaSize e ∧
      t.dev.rn (R.dmaDoneCnt e) = (s.dev.rn (R.dmaDoneCnt e) + 1) % 2 ^ 32 ∧ (t.dev.dmaOf e).desc = none ∧
      t.dev.rb (R.dmaStat e) F.dmaStatRunning = false ∧ t.dev.rf (R.dmaStat e) F.dmaStatLastStatus = 0 ∧
      mread t.dev.dram (dlo.toNat + 2 ^ 32 * dhi.toNat) len.toNat = mread s.dev.hostMem (hlo.toNat + 2 ^ 32 * hhi.toNat) len.toNat ∧
      sameBut t.dev.dram s.dev.dram (dlo.toNat + 2 ^ 32 * dhi.toNat) len.toNat ∧
      t.dev.sameRegs s.dev [R.dmaHead e, R.dmaDoneCnt e, R.dmaStat e, R.mcStat 0, R.mcStat 1, R.mcStat 2, R.mcStat 3] ∧
      t.dev = { s.dev with regs := t.dev.regs, dma := t.dev.dma, hostMem := t.dev.hostMem, dram := t.dev.dram, dramc := t.dev.dramc, mc := t.dev.mc })

/-- MSIX_UNMASK, READ_STATUS, BMP_WRITE and BMP_READ (R47, R48, R50 to R53).  A vector that is unmasked with its pending bit set sends one message and
clears the bit; the function mask releases all.  The supervisor's status byte clears its sticky flags; a word outside the pages and the
mailbox is denied; a mailbox word and a register answer. -/
def Obligations.MessagesAndTheSupervisorsPort : Prop :=
  (∀ (v : Fin 64) (w : Word) (p : Fin 7) (s : State), s.dev.hostUp = true → ∃ t, exec (.msixUnmask true p v w) s = .next t ∧
      t.dev.hif.fmask = false ∧ (∀ v : Fin 64, s.dev.rb (R.msixVctrl v) F.msixVctrlMask = false → t.dev.msixPending v = false) ∧
      (∀ v : Fin 64, s.dev.rb (R.msixVctrl v) F.msixVctrlMask = true → t.dev.msixPending v = s.dev.msixPending v) ∧
      t.dev.sameRegs s.dev [R.msixPba 0, R.msixPba 1] ∧ t.dev = { s.dev with regs := t.dev.regs, hif := t.dev.hif, hostMem := t.dev.hostMem }) ∧
  (∀ (path : Fin 7) (v : Fin 64) (s : State), s.dev.takes path (R.msixVctrl v) 0 = true → s.dev.hostUp = true → s.dev.hif.fmask = false →
    s.dev.msixPending v = true → ∃ t, exec (.msixUnmask false path v 0) s = .next t ∧
      t.dev.msixPending v = false ∧ t.dev.hif.msgCnt = s.dev.hif.msgCnt + 1 ∧ t.dev.rb (R.msixVctrl v) F.msixVctrlMask = false ∧
      mnat t.dev.hostMem (s.dev.rn (R.msixAddrLo v) + 2 ^ 32 * s.dev.rn (R.msixAddrHi v)) 4 = s.dev.rn (R.msixData v) ∧
      sameBut t.dev.hostMem s.dev.hostMem (s.dev.rn (R.msixAddrLo v) + 2 ^ 32 * s.dev.rn (R.msixAddrHi v)) 4 ∧
      t.dev.sameRegs s.dev [R.msixPba 0, R.msixPba 1, R.msixVctrl v, pstat 0x60] ∧
      t.dev = { s.dev with regs := t.dev.regs, hif := t.dev.hif, hostMem := t.dev.hostMem }) ∧
  (∀ (s : State), 3 ≤ s.dev.boot.done → ∃ t, exec .readStatus s = .next t ∧
      t.dev.hif.bmpStatus = 128 + b2n s.dev.hif.bmpDenied * 64 + b2n s.dev.hif.bmpAlign * 32 + b2n s.dev.hif.bmpTrunc * 16 + s.dev.rf R.mbxStat F.mbxStatBmpWarn * 8 ∧
      t.dev.hif.bmpDenied = false ∧ t.dev.hif.bmpAlign = false ∧ t.dev.hif.bmpTrunc = false ∧ t.dev.sameRegs s.dev [] ∧
      t.dev = { s.dev with regs := t.dev.regs, hif := t.dev.hif }) ∧
  (∀ (a x : Nat) (out : Outside) (s : State), 3 ≤ s.dev.boot.done → s.dev.srm.run = none → 0x400000 ≤ a → a < 0x410000 → a % 4 = 0 →
    x < 2 ^ 32 → ∃ t, exec (.bmpWrite a [x] false out) s = .next t ∧
      mnat t.dev.sram (0x810000 + (a - 0x400000)) 4 = x ∧ sameBut t.dev.sram s.dev.sram (0x810000 + (a - 0x400000)) 4 ∧ t.dev.sameRegs s.dev [] ∧
      t.dev = { s.dev with regs := t.dev.regs, sram := t.dev.sram }) ∧
  (∀ (a : Nat) (r : RegDef) (s : State), 3 ≤ s.dev.boot.done → s.dev.letsRead 1 a = true → a / 0x1000 = 0x70 → 0x40 ≤ a % 0x1000 →
    findReg (pageMap .pwr) (a % 0x1000) = some r → a % 0x1000 ∉ [0x4C, 0x50, 0x64] → r.wide.2 ≤ 1 → r.wo = 0 →
    ∃ t, exec (.bmpRead a 1 false) s = .next t ∧
      t.dev.hif.rdata = [s.dev.get a] ∧ t.dev.rn a = s.dev.rn a - (s.dev.rn a &&& r.rc) ∧ t.dev.sameRegs s.dev [a] ∧
      t.dev = { s.dev with regs := t.dev.regs, hif := t.dev.hif })

/-! ### Time base (03_time_base_and_clocks.md) -/

/-- REFERENCE_LOST, REFERENCE_RETURN, CLK_REF_SEL_WRITE and ROOT_PLL_LOCK_LOSS (R65 to R68).  The loss of the active reference switches to the other
where FAILOVER is set and the other is valid, and else holds over while the root PLL is locked.  A return ends holdover.  A selection of a
valid reference takes effect at once, of an invalid one when it becomes valid. -/
def Obligations.ReferencesFailOverAndReturn : Prop :=
  (∀ (r : Fin 2) (s : State), s.dev.refOk r = true → s.dev.rf R.clkRef F.clkRefActive = r + 1 → s.dev.rb R.clkRef F.clkRefFailover = true →
    s.dev.refOk (1 - r) = true → ∃ t, exec (.referenceLost r) s = .next t ∧
      t.dev.refOk r = false ∧ t.dev.rf R.clkRef F.clkRefActive = 2 - r ∧
      t.dev.rf R.clkStat F.clkStatSwitchCnt = (if s.dev.clk.lastRef = 2 - r then s.dev.rf R.clkStat F.clkStatSwitchCnt else min 255 (s.dev.rf R.clkStat F.clkStatSwitchCnt + 1)) ∧
      t.dev.clk.lastRef = 2 - r ∧ t.dev.sameQuiet s.dev [R.clkRef, R.clkStat] ∧
      t.dev = { s.dev with regs := t.dev.regs, clk := t.dev.clk, evt := t.dev.evt, sram := t.dev.sram, hostMem := t.dev.hostMem, hif := t.dev.hif, seq := t.dev.seq, chans := t.dev.chans, lvls := t.dev.lvls, acq := t.dev.acq }) ∧
  (∀ (r : Fin 2) (s : State), s.dev.refOk r = true → s.dev.rf R.clkRef F.clkRefActive = r + 1 → s.dev.rb R.clkRef F.clkRefFailover = false →
    s.dev.rb R.clkStat F.clkStatRootLock = true → ∃ t, exec (.referenceLost r) s = .next t ∧
      t.dev.refOk r = false ∧ t.dev.rf R.clkRef F.clkRefActive = 0 ∧ t.dev.rb R.clkStat F.clkStatHoldover = true ∧
      t.dev.rb R.clkStat F.clkStatRootLock = true ∧ t.dev.sameQuiet s.dev [R.clkRef, R.clkStat] ∧
      t.dev = { s.dev with regs := t.dev.regs, evt := t.dev.evt, sram := t.dev.sram, hostMem := t.dev.hostMem, hif := t.dev.hif, seq := t.dev.seq, chans := t.dev.chans, lvls := t.dev.lvls, acq := t.dev.acq }) ∧
  (∀ (r : Fin 2) (s : State), s.dev.refOk r = false → s.dev.rb R.clkStat F.clkStatHoldover = true → ∃ t, exec (.referenceReturn r) s = .next t ∧
      t.dev.refOk r = true ∧ t.dev.rf R.clkRef F.clkRefActive = r + 1 ∧ t.dev.rb R.clkStat F.clkStatHoldover = false ∧
      t.dev.sameQuiet s.dev [R.clkRef, R.clkStat] ∧
      t.dev = { s.dev with regs := t.dev.regs, clk := t.dev.clk, evt := t.dev.evt, sram := t.dev.sram, hostMem := t.dev.hostMem, hif := t.dev.hif, seq := t.dev.seq, chans := t.dev.chans, lvls := t.dev.lvls, acq := t.dev.acq }) ∧
  (∀ (path : Fin 7) (w : Word) (s : State), s.dev.takes path R.clkRef w.toNat = true → nbits w.toNat 0 0 ≠ s.dev.rf R.clkRef F.clkRefSel →
    s.dev.refOk (nbits w.toNat 0 0) = true → s.dev.rf R.clkRef F.clkRefActive = 2 - nbits w.toNat 0 0 →
    ∃ t, exec (.clkRefSelWrite path w) s = .next t ∧
      t.dev.rf R.clkRef F.clkRefSel = nbits w.toNat 0 0 ∧ t.dev.rb R.clkRef F.clkRefFailover = nbit w.toNat 1 ∧
      t.dev.rf R.clkRef F.clkRefActive = nbits w.toNat 0 0 + 1 ∧ t.dev.sameRegs s.dev [R.clkRef, R.clkStat, pstat 1] ∧
      t.dev = { s.dev with regs := t.dev.regs, clk := t.dev.clk }) ∧
  (∀ (path : Fin 7) (w : Word) (s : State), s.dev.takes path R.clkRef w.toNat = true → nbits w.toNat 0 0 ≠ s.dev.rf R.clkRef F.clkRefSel →
    s.dev.refOk (nbits w.toNat 0 0) = false → ∃ t, exec (.clkRefSelWrite path w) s = .next t ∧
      t.dev.rf R.clkRef F.clkRefSel = nbits w.toNat 0 0 ∧ t.dev.rf R.clkRef F.clkRefActive = s.dev.rf R.clkRef F.clkRefActive ∧
      t.dev.clk.selWait = true ∧ t.dev.sameRegs s.dev [R.clkRef, pstat 1] ∧ t.dev = { s.dev with regs := t.dev.regs, clk := t.dev.clk }) ∧
  (∀ (s : State), s.dev.rb R.clkStat F.clkStatRootLock = true → ∃ t, exec .rootPllLockLoss s = .next t ∧
      t.dev.rb R.clkStat F.clkStatRootLock = false ∧ t.dev.rb R.clkStat F.clkStatHoldover = false ∧ t.dev.sameQuiet s.dev [R.clkStat] ∧
      t.dev = { s.dev with regs := t.dev.regs, evt := t.dev.evt, sram := t.dev.sram, hostMem := t.dev.hostMem, hif := t.dev.hif, seq := t.dev.seq, chans := t.dev.chans, lvls := t.dev.lvls, acq := t.dev.acq })

/-- GTC_STEP_COMMIT and TOWPATH_CHECK (R69, R72, R73, R75).  The write of the highest word of GTC_STEP adds the signed 80-bit value to the GTC, which
wraps, and to GTC_PHASE modulo 524,288, if no port runs; while a port runs it is a bad write.  A towpath check that agrees changes nothing. -/
def Obligations.GtcStepsAreAddedToTheGtc : Prop :=
  (∀ (path : Fin 7) (w l0 l1 l2 : Word) (s : State), s.dev.lets path R.gtcStep2 = true → w.toNat < 65536 →
    s.dev.staging path R.gtcStep0 3 = [l0, l1, l2] → s.dev.anyRunning = false → ∃ t, exec (.gtcStepCommit path w) s = .next t ∧
      t.dev.gtc = s.dev.gtc + BitVec.ofNat 80 (l0.toNat + 2 ^ 32 * l1.toNat + 2 ^ 64 * w.toNat) ∧
      t.dev.rn R.gtcPhase = (s.dev.rn R.gtcPhase + (l0.toNat + 2 ^ 32 * l1.toNat + 2 ^ 64 * w.toNat)) % 524288 ∧ t.dev.rn R.gtcStep0 = l0.toNat ∧
      t.dev.rn R.gtcStep1 = l1.toNat ∧ t.dev.rn R.gtcStep2 = w.toNat ∧
      t.dev.sameQuiet s.dev [R.gtcStep0, R.gtcStep1, R.gtcStep2, R.gtcPhase, pstat 2] ∧
      t.dev = { s.dev with regs := t.dev.regs, gtc := t.dev.gtc, evt := t.dev.evt, sram := t.dev.sram, hostMem := t.dev.hostMem, hif := t.dev.hif, seq := t.dev.seq, chans := t.dev.chans, lvls := t.dev.lvls, acq := t.dev.acq }) ∧
  (∀ (path : Fin 7) (w l0 l1 l2 : Word) (s : State), s.dev.lets path R.gtcStep2 = true → w.toNat < 65536 →
    s.dev.staging path R.gtcStep0 3 = [l0, l1, l2] → s.dev.anyRunning = true → ∃ t, exec (.gtcStepCommit path w) s = .next t ∧
      t.dev.rb (pstat 2) F.stBadWrite = true ∧ t.dev.gtc = s.dev.gtc ∧ t.dev.sameRegs s.dev [pstat 2] ∧
      t.dev = { s.dev with regs := t.dev.regs, hif := t.dev.hif }) ∧
  (∀ (b : Bool) (s : State), (b = true ∨ s.dev.counting = false) → ∃ t, exec (.towpathCheck b) s = .next t ∧
      t = s) ∧
  (∀ (s : State), s.dev.counting = true → (s.dev.esrc Ev.towpathMismatch).en = true → ∃ t, exec (.towpathCheck false) s = .next t ∧
      (t.dev.esrc Ev.towpathMismatch).sticky = true ∧ t.dev.gtc = s.dev.gtc)

/-- SYNC_OUT_ARM, SYNC_OUT_PULSE, SYNC_IN_OFF, SYNC_CAPTURE_MODE, SYNC_ALIGN_MODE and SYNC_RELAY_MODE (R79, R80, R83).  Arming sets the first pulse at
SYNC_OUT_AT; each pulse moves it by the period; after the last, OUT_ARM and OUT_BUSY read 0.  A write of SYNC_CTRL restarts capture in the
mode written with its counts and results cleared; ALIGN is busy from then on. -/
def Obligations.SyncOutTrainsRunAndEnd : Prop :=
  (∀ (path : Fin 7) (w : Word) (s : State), s.dev.takes path R.syncCtrl w.toNat = true → nbit w.toNat 0 = true →
    ∃ t, exec (.syncOutArm path w) s = .next t ∧
      t.dev.sync.outNext = some (s.dev.wide R.syncOutAt0 3) ∧
      t.dev.sync.outLeft = (if nbit w.toNat 8 = true then none else some (nbits w.toNat 31 16)) ∧ t.dev.rb R.syncStat F.syncStatOutBusy = true ∧
      t.dev.rb R.syncCtrl F.syncCtrlOutArm = true ∧ t.dev.sameRegs s.dev [R.syncCtrl, R.syncStat, pstat 2] ∧
      t.dev = { s.dev with regs := t.dev.regs, sync := t.dev.sync }) ∧
  (∀ (path : Fin 7) (w : Word) (s : State), s.dev.takes path R.syncCtrl w.toNat = true → nbits w.toNat 5 4 = 0 → nbit w.toNat 0 = false →
    ∃ t, exec (.syncInOff path w) s = .next t ∧
      t.dev.sync.n = 0 ∧ t.dev.sync.errs = [] ∧ t.dev.sync.lastCap = none ∧ t.dev.sync.relay = [] ∧ t.dev.rf R.syncStat F.syncStatCapCnt = 0 ∧
      t.dev.rf R.syncCtrl F.syncCtrlInMode = nbits w.toNat 5 4 ∧ t.dev.sync.outNext = none ∧ t.dev.rb R.syncStat F.syncStatAlignBusy = false ∧
      t.dev.rb R.syncStat F.syncStatAlignFail = false ∧ t.dev.sameRegs s.dev [R.syncCtrl, R.syncStat, pstat 2] ∧
      t.dev = { s.dev with regs := t.dev.regs, sync := t.dev.sync }) ∧
  (∀ (path : Fin 7) (w : Word) (s : State), s.dev.takes path R.syncCtrl w.toNat = true → nbits w.toNat 5 4 = 1 → nbit w.toNat 0 = false →
    ∃ t, exec (.syncCaptureMode path w) s = .next t ∧
      t.dev.sync.n = 0 ∧ t.dev.sync.errs = [] ∧ t.dev.sync.lastCap = none ∧ t.dev.sync.relay = [] ∧ t.dev.rf R.syncStat F.syncStatCapCnt = 0 ∧
      t.dev.rf R.syncCtrl F.syncCtrlInMode = nbits w.toNat 5 4 ∧ t.dev.sync.outNext = none ∧ t.dev.rb R.syncStat F.syncStatAlignBusy = false ∧
      t.dev.rb R.syncStat F.syncStatAlignFail = false ∧ t.dev.sameRegs s.dev [R.syncCtrl, R.syncStat, pstat 2] ∧
      t.dev = { s.dev with regs := t.dev.regs, sync := t.dev.sync }) ∧
  (∀ (path : Fin 7) (w : Word) (s : State), s.dev.takes path R.syncCtrl w.toNat = true → nbits w.toNat 5 4 = 2 → nbit w.toNat 0 = false →
    ∃ t, exec (.syncAlignMode path w) s = .next t ∧
      t.dev.sync.n = 0 ∧ t.dev.sync.errs = [] ∧ t.dev.sync.lastCap = none ∧ t.dev.sync.relay = [] ∧ t.dev.rf R.syncStat F.syncStatCapCnt = 0 ∧
      t.dev.rf R.syncCtrl F.syncCtrlInMode = nbits w.toNat 5 4 ∧ t.dev.sync.outNext = none ∧ t.dev.rb R.syncStat F.syncStatAlignBusy = true ∧
      t.dev.rb R.syncStat F.syncStatAlignFail = false ∧ t.dev.sameRegs s.dev [R.syncCtrl, R.syncStat, pstat 2] ∧
      t.dev = { s.dev with regs := t.dev.regs, sync := t.dev.sync }) ∧
  (∀ (path : Fin 7) (w : Word) (s : State), s.dev.takes path R.syncCtrl w.toNat = true → nbits w.toNat 5 4 = 3 → nbit w.toNat 0 = false →
    ∃ t, exec (.syncRelayMode path w) s = .next t ∧
      t.dev.sync.n = 0 ∧ t.dev.sync.errs = [] ∧ t.dev.sync.lastCap = none ∧ t.dev.sync.relay = [] ∧ t.dev.rf R.syncStat F.syncStatCapCnt = 0 ∧
      t.dev.rf R.syncCtrl F.syncCtrlInMode = nbits w.toNat 5 4 ∧ t.dev.sync.outNext = none ∧ t.dev.rb R.syncStat F.syncStatAlignBusy = false ∧
      t.dev.rb R.syncStat F.syncStatAlignFail = false ∧ t.dev.sameRegs s.dev [R.syncCtrl, R.syncStat, pstat 2] ∧
      t.dev = { s.dev with regs := t.dev.regs, sync := t.dev.sync }) ∧
  (∀ (a n : Nat) (s : State), s.dev.sync.outNext = some a → a < s.dev.now + 131072 → s.dev.sync.outLeft = some (n + 1) →
    ∃ t, exec .syncOutPulse s = .next t ∧
      t.dev.sync.outNext = some (a + s.dev.rn R.syncPeriod * 65536) ∧ t.dev.sync.outLeft = some n ∧ t.dev.sameRegs s.dev [] ∧
      t.dev = { s.dev with regs := t.dev.regs, sync := t.dev.sync }) ∧
  (∀ (a : Nat) (s : State), s.dev.sync.outNext = some a → a < s.dev.now + 131072 → s.dev.sync.outLeft = some 0 →
    ∃ t, exec .syncOutPulse s = .next t ∧
      t.dev.sync.outNext = none ∧ t.dev.rb R.syncCtrl F.syncCtrlOutArm = false ∧ t.dev.rb R.syncStat F.syncStatOutBusy = false ∧
      t.dev.sameRegs s.dev [R.syncCtrl, R.syncStat] ∧ t.dev = { s.dev with regs := t.dev.regs, sync := t.dev.sync })

/-- SYNC_IN_CAPTURE, SYNC_IN_MISSING and RELAY_PULSE (R81 to R84).  A capture is held to the nearest 32 ticks.  Its error against the expected time
and the cable delay goes to SYNC_ERR as the saturated mean of the captures.  The 64th capture of ALIGN steps the GTC by the mean error and
ends the mode while no port runs.  RELAY re-emits 1,048,576 ticks later.  A missing pulse fails an alignment. -/
def Obligations.SyncCapturesMeasureAlignAndRelay : Prop :=
  (∀ (x : Nat) (s : State), s.dev.rf R.syncCtrl F.syncCtrlInMode = 1 → s.dev.sync.lastCap = none → s.dev.sync.errs = [] →
    s.dev.rn R.syncDriftLim = 0 → ∃ t, exec (.syncInCapture x) s = .next t ∧
      t.dev.wide R.syncInCap0 3 = ((x + 16) / 32 * 32 % 2 ^ 80) ∧
      t.dev.rn R.syncErr = wrapInt 32 (max (-(2 ^ 31 : Int)) (min (2 ^ 31 - 1) (sext 80 (wrapInt 80 ((((x + 16) / 32 * 32 % 2 ^ 80) : Int) - (s.dev.wide R.syncExp0 3 + s.dev.sync.n * s.dev.syncTicks + s.dev.rn R.syncCableDly)))))) ∧
      t.dev.sync.n = s.dev.sync.n + 1 ∧ t.dev.sync.lastCap = some ((x + 16) / 32 * 32 % 2 ^ 80) ∧
      t.dev.rf R.syncStat F.syncStatCapCnt = min 255 (s.dev.rf R.syncStat F.syncStatCapCnt + 1) ∧
      t.dev.sameRegs s.dev [R.syncInCap0, R.syncInCap1, R.syncInCap2, R.syncErr, R.syncStat] ∧
      t.dev = { s.dev with regs := t.dev.regs, sync := t.dev.sync }) ∧
  (∀ (x c : Nat) (s : State), s.dev.rf R.syncCtrl F.syncCtrlInMode = 2 → s.dev.sync.lastCap = some c →
    (((((x + 16) / 32 * 32 % 2 ^ 80) : Int) - c - s.dev.syncTicks).natAbs) ≤ 1024 → s.dev.sync.n = 63 → s.dev.anyRunning = false →
    ∃ t, exec (.syncInCapture x) s = .next t ∧
      t.dev.gtc = s.dev.gtc + BitVec.ofNat 80 (wrapInt 80 (-(Dev.meanErr ((sext 80 (wrapInt 80 ((((x + 16) / 32 * 32 % 2 ^ 80) : Int) - (s.dev.wide R.syncExp0 3 + s.dev.sync.n * s.dev.syncTicks + s.dev.rn R.syncCableDly))) :: s.dev.sync.errs).take 64)))) ∧
      t.dev.rb R.syncStat F.syncStatStepped = true ∧ t.dev.rf R.syncCtrl F.syncCtrlInMode = 0 ∧ t.dev.rb R.syncStat F.syncStatAlignBusy = false ∧
      t.dev.sameQuiet s.dev [R.syncInCap0, R.syncInCap1, R.syncInCap2, R.syncErr, R.syncStat, R.syncCtrl, R.gtcStep0, R.gtcStep1, R.gtcStep2, R.gtcPhase] ∧
      t.dev = { s.dev with regs := t.dev.regs, sync := t.dev.sync, gtc := t.dev.gtc, evt := t.dev.evt, sram := t.dev.sram, hostMem := t.dev.hostMem, hif := t.dev.hif, seq := t.dev.seq, chans := t.dev.chans, lvls := t.dev.lvls, acq := t.dev.acq }) ∧
  (∀ (x : Nat) (s : State), s.dev.rf R.syncCtrl F.syncCtrlInMode = 3 → s.dev.sync.lastCap = none → ∃ t, exec (.syncInCapture x) s = .next t ∧
      t.dev.sync.relay = s.dev.sync.relay ++ [((x + 16) / 32 * 32 % 2 ^ 80) + 1048576] ∧ t.dev.rb R.syncStat F.syncStatOutBusy = true ∧
      t.dev.rn R.syncErr = s.dev.rn R.syncErr ∧ t.dev.sameRegs s.dev [R.syncInCap0, R.syncInCap1, R.syncInCap2, R.syncStat] ∧
      t.dev = { s.dev with regs := t.dev.regs, sync := t.dev.sync }) ∧
  (∀ (c : Nat) (s : State), s.dev.rf R.syncCtrl F.syncCtrlInMode = 2 → s.dev.sync.lastCap = some c → s.dev.sync.missed = false →
    c + s.dev.syncTicks + 1024 < s.dev.now → ∃ t, exec .syncInMissing s = .next t ∧
      t.dev.sync.missed = true ∧ t.dev.rf R.syncCtrl F.syncCtrlInMode = 0 ∧ t.dev.rb R.syncStat F.syncStatAlignFail = true ∧
      t.dev.rb R.syncStat F.syncStatAlignBusy = false ∧ t.dev.sameQuiet s.dev [R.syncStat, R.syncCtrl] ∧
      t.dev = { s.dev with regs := t.dev.regs, sync := t.dev.sync, evt := t.dev.evt, sram := t.dev.sram, hostMem := t.dev.hostMem, hif := t.dev.hif, seq := t.dev.seq, chans := t.dev.chans, lvls := t.dev.lvls, acq := t.dev.acq }) ∧
  (∀ (a : Nat) (l : List Nat) (s : State), s.dev.sync.relay = a :: l → a < s.dev.now + 131072 → ∃ t, exec .relayPulse s = .next t ∧
      t.dev.sync.relay = l ∧ t.dev.rb R.syncStat F.syncStatOutBusy = !l.isEmpty ∧ t.dev.sameRegs s.dev [R.syncStat] ∧
      t.dev = { s.dev with regs := t.dev.regs, sync := t.dev.sync })

/-- TCQ_PUSH, TCQ_EXECUTE and TCQ_DELIVER (R86 to R89, R91, R92).  The write of the eighth word of an entry puts the command into a queue with room, in
stamp order and behind equal stamps.  An ordinary command at the head that is due makes its write and, late or with NOTIFY, leaves a
completion record.  A timing-affecting one for a unit not in use is handed over with its stamp. -/
def Obligations.TimedCommandsQueueAndExecute : Prop :=
  (∀ (path : Fin 7) (w : Word) (ws : List Word) (e : TcqEntry) (s : State), s.dev.lets path (R.tcqEntry 7) = true →
    (path.val = 0 ∨ 3 ≤ path.val) → (s.dev.hif.staged.find? (fun y => y.1 == Dev.pathKey path (R.tcqEntry 0))).map Prod.snd = some ws →
    ws.length = 8 → Dev.tcqParse path ((lset ws 7 w).map BitVec.toNat) = some e → s.dev.tcq.q.length < 256 →
    ∃ t, exec (.tcqPush path w) s = .next t ∧
      t.dev.tcq.q = insertBy TcqEntry.stamp { e with late := Dev.tcqLate e (s.dev.fabricTime path) } s.dev.tcq.q ∧
      t.dev.tcq.held = s.dev.tcq.held ∧ t.dev.rf R.tcqStat F.tcqStatFill = s.dev.tcq.q.length + 1 ∧ t.dev.sameQuiet s.dev [R.tcqStat, pstat 2] ∧
      t.dev = { s.dev with regs := t.dev.regs, tcq := t.dev.tcq, hif := t.dev.hif, evt := t.dev.evt, sram := t.dev.sram, hostMem := t.dev.hostMem, seq := t.dev.seq, chans := t.dev.chans, lvls := t.dev.lvls, acq := t.dev.acq }) ∧
  (∀ (e : TcqEntry) (l : List TcqEntry) (w : Word) (k : PageKind) (i : Nat) (r : RegDef) (out : Outside) (s : State), s.dev.tcq.q = e :: l →
    s.dev.tcq.held = [] → Dev.timingAff e.addr = false → s.dev.tcq.lastDisp ≠ s.dev.cycNo → s.dev.tcqDue e = true → e.data = [w] →
    s.dev.takes 2 e.addr w.toNat = true → pageOf (e.addr / 0x1000) = some (k, i) → k ∈ [.qos, .lks, .apg, .cdc, .tsa, .uch] →
    findReg (pageMap k) (e.addr % 0x1000) = some r → s.dev.tcq.cpl = [] → ∃ t, exec (.tcqExecute out) s = .next t ∧
      t.dev.rn e.addr = Dev.stored r (s.dev.rn e.addr) w.toNat ∧ t.dev.tcq.q = l ∧ t.dev.tcq.lastDisp = s.dev.cycNo ∧
      t.dev.tcq.cpl = (if e.late = true ∨ e.notify = true then [[(if e.late then 1 else 0) * 2 ^ 24 + e.tag, s.dev.edgeAt 131072 s.dev.now, s.dev.edgeAt 131072 s.dev.now / 2 ^ 32, s.dev.edgeAt 131072 s.dev.now / 2 ^ 64 % 2 ^ 16].map (BitVec.ofNat 32)] else []) ∧
      t.dev.sameQuiet s.dev [e.addr, R.tcqStat, pstat (e.addr / 0x1000)] ∧
      t.dev = { s.dev with regs := t.dev.regs, tcq := t.dev.tcq, evt := t.dev.evt, sram := t.dev.sram, hostMem := t.dev.hostMem, hif := t.dev.hif, seq := t.dev.seq, chans := t.dev.chans, lvls := t.dev.lvls, acq := t.dev.acq }) ∧
  (∀ (e : TcqEntry) (l : List TcqEntry) (w : Word) (r : RegDef) (out : Outside) (s : State), s.dev.tcq.q = e :: l → s.dev.tcq.held = [] →
    Dev.timingAff e.addr = true → s.dev.tcq.lastDisp ≠ s.dev.cycNo → s.dev.tcqDue e = true → e.data = [w] → s.dev.takes 2 e.addr w.toNat = true →
    findReg (pageMap .tsa) (e.addr % 0x1000) = some r → (pageOf (e.addr / 0x1000)).map Prod.fst = some .tsa → s.dev.affInUse e.addr = false →
    s.dev.now < e.stamp → ∃ t, exec (.tcqDeliver out) s = .next t ∧
      t.dev.tcq.q = l ∧ t.dev.pend = s.dev.pend ++ [⟨e.addr, [t.dev.get e.addr], 2, e.stamp, true, some (e.tag, e.notify, e.late)⟩] ∧
      t.dev.rn e.addr = Dev.stored r (s.dev.rn e.addr) w.toNat ∧ t.dev.live = s.dev.live ∧
      t.dev.sameQuiet s.dev [e.addr, R.tcqStat, pstat (e.addr / 0x1000)] ∧
      t.dev = { s.dev with regs := t.dev.regs, tcq := t.dev.tcq, pend := t.dev.pend, evt := t.dev.evt, sram := t.dev.sram, hostMem := t.dev.hostMem, hif := t.dev.hif, seq := t.dev.seq, chans := t.dev.chans, lvls := t.dev.lvls, acq := t.dev.acq })

/-- TCQ_CANCEL, TCQ_FLUSH and TCQ_COMPLETION_READ (R92, R93).  Cancel removes every waiting command with the tag written, flush removes all, and
neither leaves a completion.  A read of the lowest completion word takes the oldest record; an empty FIFO reads all ones. -/
def Obligations.TimedCommandsAreCancelledAndReported : Prop :=
  (∀ (path : Fin 7) (w : Word) (s : State), s.dev.takes path R.tcqCancel w.toNat = true → s.dev.tcq.held = [] →
    ∃ t, exec (.tcqCancel path w) s = .next t ∧
      t.dev.tcq.q = s.dev.tcq.q.filter (fun e => !(e.tag == w.toNat % 2 ^ 16)) ∧ t.dev.tcq.held = [] ∧ t.dev.tcq.cpl = s.dev.tcq.cpl ∧
      t.dev.sameQuiet s.dev [R.tcqCancel, R.tcqStat, pstat 2] ∧
      t.dev = { s.dev with regs := t.dev.regs, tcq := t.dev.tcq, evt := t.dev.evt, sram := t.dev.sram, hostMem := t.dev.hostMem, hif := t.dev.hif, seq := t.dev.seq, chans := t.dev.chans, lvls := t.dev.lvls, acq := t.dev.acq }) ∧
  (∀ (path : Fin 7) (w : Word) (s : State), s.dev.takes path R.tcqFlush w.toNat = true → nbit w.toNat 0 = true →
    ∃ t, exec (.tcqFlush path w) s = .next t ∧
      t.dev.tcq.q = [] ∧ t.dev.tcq.held = [] ∧ t.dev.tcq.cpl = s.dev.tcq.cpl ∧ t.dev.rf R.tcqStat F.tcqStatFill = 0 ∧
      t.dev.sameQuiet s.dev [R.tcqFlush, R.tcqStat, pstat 2] ∧
      t.dev = { s.dev with regs := t.dev.regs, tcq := t.dev.tcq, evt := t.dev.evt, sram := t.dev.sram, hostMem := t.dev.hostMem, hif := t.dev.hif, seq := t.dev.seq, chans := t.dev.chans, lvls := t.dev.lvls, acq := t.dev.acq }) ∧
  (∀ (path : Fin 7) (c0 c1 c2 c3 : Word) (l : List (List Word)) (s : State), s.dev.letsRead path R.tcqCpl0 = true →
    s.dev.tcq.cpl = [c0, c1, c2, c3] :: l → ∃ t, exec (.tcqCompletionRead path) s = .next t ∧
      t.dev.tcq.cpl = l ∧ t.dev.hif.rdata = [c0] ∧ (∃ y ∈ t.dev.hif.latch, y = (Dev.pathKey path R.tcqCpl0, [c1, c2, c3])) ∧
      t.dev.sameQuiet s.dev [R.tcqStat] ∧
      t.dev = { s.dev with regs := t.dev.regs, tcq := t.dev.tcq, hif := t.dev.hif, evt := t.dev.evt, sram := t.dev.sram, hostMem := t.dev.hostMem, seq := t.dev.seq, chans := t.dev.chans, lvls := t.dev.lvls, acq := t.dev.acq }) ∧
  (∀ (path : Fin 7) (s : State), s.dev.letsRead path R.tcqCpl0 = true → s.dev.tcq.cpl = [] → ∃ t, exec (.tcqCompletionRead path) s = .next t ∧
      t.dev.hif.rdata = [0xFFFFFFFF#32] ∧ t.dev.sameRegs s.dev [] ∧ t.dev = { s.dev with regs := t.dev.regs, hif := t.dev.hif })

/-! ### Timing changes and tracking (07_timing_generators.md, 01_architecture.md) -/

/-- TIMING_AFFECTING_WRITE and TIMING_CHANGE_APPLY (R89, R193, R203, R206).  A write of a jitter amplitude of a timing set stores the value; on a set not
in use it takes effect at once, on one in use it waits for a boundary at least 100 ns (5,242,880 ticks) later.  A waiting change that is due
takes effect, and it no longer waits. -/
def Obligations.TimingAffectingWritesWaitWhileInUse : Prop :=
  (∀ (path : Fin 7) (a : Fin 0x400000) (w : Word) (p : Nat) (r : RegDef) (s : State), s.dev.takes path a w.toNat = true →
    pageOf (a / 0x1000) = some (.tsa, p) → findReg (pageMap .tsa) (a % 0x1000) = some r → Dev.timingAff a = true → s.dev.affInUse a = false →
    ∃ t, exec (.timingAffectingWrite path a w) s = .next t ∧
      t.dev.rn a = Dev.stored r (s.dev.rn a) w.toNat ∧ t.dev.lv a = t.dev.get a ∧ t.dev.pend = s.dev.pend ∧
      t.dev.sameQuiet s.dev [a.val, R.ddsStat p, pstat (a / 0x1000)] ∧
      t.dev = { s.dev with regs := t.dev.regs, live := t.dev.live, evt := t.dev.evt, sram := t.dev.sram, hostMem := t.dev.hostMem, hif := t.dev.hif, seq := t.dev.seq, chans := t.dev.chans, lvls := t.dev.lvls, acq := t.dev.acq }) ∧
  (∀ (path : Fin 7) (a : Fin 0x400000) (w : Word) (p : Nat) (r : RegDef) (s : State), s.dev.takes path a w.toNat = true →
    pageOf (a / 0x1000) = some (.tsa, p) → findReg (pageMap .tsa) (a % 0x1000) = some r → Dev.timingAff a = true → s.dev.affInUse a = true →
    ∃ t, exec (.timingAffectingWrite path a w) s = .next t ∧
      t.dev.rn a = Dev.stored r (s.dev.rn a) w.toNat ∧ t.dev.pend = s.dev.pend ++ [⟨a, [t.dev.get a], path, s.dev.now + 5242880, false, none⟩] ∧
      t.dev.sameRegs s.dev [a.val, pstat (a / 0x1000)] ∧ t.dev = { s.dev with regs := t.dev.regs, pend := t.dev.pend }) ∧
  (∀ (p : Fin 4) (c : PendCh) (x : Word) (s : State), s.dev.pend = [c] → pageOf (c.addr / 0x1000) = some (.tsa, p.val) →
    Dev.gridReg c.addr = false → c.cmd = none → c.data = [x] → s.dev.isDue c = true → ∃ t, exec (.timingChangeApply p) s = .next t ∧
      t.dev.pend = [] ∧ t.dev.lv c.addr = x ∧ t.dev.sameQuiet s.dev [R.ddsStat p] ∧
      t.dev = { s.dev with regs := t.dev.regs, pend := t.dev.pend, live := t.dev.live, evt := t.dev.evt, sram := t.dev.sram, hostMem := t.dev.hostMem, hif := t.dev.hif, seq := t.dev.seq, chans := t.dev.chans, lvls := t.dev.lvls, acq := t.dev.acq }) ∧
  (∀ (p : Fin 4) (c : PendCh) (s : State), s.dev.pend = [c] → s.dev.isDue c = false → ∃ t, exec (.timingChangeApply p) s = .next t ∧
      t = s)

/-- TIMING_PROFILE_WRITE, TRACKING_CONVERGED, TRACKING_UPDATE and TRIM (R25, R26, R217).  A write of PERIODIC is in force at once; STILL is in force when
tracking has converged.  A tracking step moves the correction of a channel by at most 16 ticks towards what is wanted; a trim that is due
measures a new goal. -/
def Obligations.TrackingFollowsTheTimingProfile : Prop :=
  (∀ (path : Fin 7) (p : Fin 4) (w : Word) (s : State), s.dev.takes path (R.prtProfile p) w.toNat = true → nbit w.toNat 0 = true →
    s.dev.rf (R.prtProfile p) F.prtProfileTiming = 0 → ∃ t, exec (.timingProfileWrite path p w) s = .next t ∧
      t.dev.rf (R.prtProfile p) F.prtProfileTimingActive = 1 ∧ t.dev.rf (R.prtProfile p) F.prtProfileTiming = 1 ∧
      t.dev.rb (R.prtProfile p) F.prtProfileLock = nbit w.toNat 1 ∧ t.dev.sameQuiet s.dev [R.prtProfile p, pstat (ppage p 0)] ∧
      t.dev = { s.dev with regs := t.dev.regs, trims := t.dev.trims, evt := t.dev.evt, sram := t.dev.sram, hostMem := t.dev.hostMem, hif := t.dev.hif, seq := t.dev.seq, chans := t.dev.chans, lvls := t.dev.lvls, acq := t.dev.acq }) ∧
  (∀ (path : Fin 7) (p : Fin 4) (w : Word) (s : State), s.dev.takes path (R.prtProfile p) w.toNat = true → nbit w.toNat 0 = false →
    s.dev.rf (R.prtProfile p) F.prtProfileTiming = 1 → ∃ t, exec (.timingProfileWrite path p w) s = .next t ∧
      t.dev.rf (R.prtProfile p) F.prtProfileTimingActive = s.dev.rf (R.prtProfile p) F.prtProfileTimingActive ∧
      t.dev.rf (R.prtProfile p) F.prtProfileTiming = 0 ∧ (∀ i ∈ Dev.portChans p, (t.dev.trimOf i).goal = none ∧ (t.dev.trimOf i).due = false) ∧
      t.dev.sameQuiet s.dev [R.prtProfile p, pstat (ppage p 0)] ∧
      t.dev = { s.dev with regs := t.dev.regs, trims := t.dev.trims, evt := t.dev.evt, sram := t.dev.sram, hostMem := t.dev.hostMem, hif := t.dev.hif, seq := t.dev.seq, chans := t.dev.chans, lvls := t.dev.lvls, acq := t.dev.acq }) ∧
  (∀ (p : Fin 4) (s : State), s.dev.offline false (ppage p 0) = false → s.dev.periodic p = false → s.dev.boot.keeperOn = true →
    s.dev.rb R.bootDegraded F.bootDegradedTimecal = false → s.dev.rb R.bootDegraded F.bootDegradedLevelcal = false →
    ∃ t, exec (.trackingConverged p) s = .next t ∧
      t.dev.rf (R.prtProfile p) F.prtProfileTimingActive = 0 ∧ t.dev.sameRegs s.dev [R.prtProfile p] ∧ t.dev = { s.dev with regs := t.dev.regs }) ∧
  (∀ (i : Fin 96) (want : Int) (s : State), s.dev.chOnline i = true → s.dev.boot.keeperOn = true → s.dev.periodic (Dev.chPort i) = false →
    -2147483632 ≤ s.dev.track i → s.dev.track i < 2147483632 → ∃ t, exec (.trackingUpdate i want) s = .next t ∧
      t.dev.track i = s.dev.track i + max (-16) (min 16 (want - s.dev.track i)) ∧ sameBut t.dev.sram s.dev.sram (Dev.calAddr i + 0x240) 4 ∧
      t.dev.sameRegs s.dev [R.fchTrack i] ∧ t.dev = { s.dev with regs := t.dev.regs, sram := t.dev.sram }) ∧
  (∀ (i : Fin 96) (want g : Int) (s : State), s.dev.chOnline i = true → s.dev.boot.keeperOn = true → s.dev.periodic (Dev.chPort i) = true →
    (s.dev.trimOf i).goal = some g → -2147483632 ≤ s.dev.track i → s.dev.track i < 2147483632 → ∃ t, exec (.trackingUpdate i want) s = .next t ∧
      t.dev.track i = s.dev.track i + max (-16) (min 16 (g - s.dev.track i)) ∧
      (t.dev.trimOf i).goal = (if t.dev.track i = g then none else some g) ∧ sameBut t.dev.sram s.dev.sram (Dev.calAddr i + 0x240) 4 ∧
      t.dev.sameRegs s.dev [R.fchTrack i] ∧ t.dev = { s.dev with regs := t.dev.regs, sram := t.dev.sram, trims := t.dev.trims }) ∧
  (∀ (i : Fin 96) (want : Int) (s : State), s.dev.chOnline i = true → s.dev.boot.keeperOn = true → s.dev.periodic (Dev.chPort i) = true →
    s.dev.trimDue i = true → ∃ t, exec (.trim i want) s = .next t ∧
      (t.dev.trimOf i).goal = some want ∧ (t.dev.trimOf i).due = false ∧ (t.dev.trimOf i).at_ = s.dev.now ∧
      (t.dev.trimOf i).temp = s.dev.chTemp i ∧ t.dev.sameQuiet s.dev [R.fchTcalStat i] ∧
      t.dev = { s.dev with regs := t.dev.regs, trims := t.dev.trims, evt := t.dev.evt, sram := t.dev.sram, hostMem := t.dev.hostMem, hif := t.dev.hif, seq := t.dev.seq, chans := t.dev.chans, lvls := t.dev.lvls, acq := t.dev.acq })

/-! ### Power and temperature (17_power_and_thermal.md) -/

/-- SAG_START, SAG_PERSIST_TIMEOUT and SAG_END (R447, R448, R450).  The first enabled point below the threshold makes the governor active, stretches
HCLK and is counted; further points are recorded.  A sag that persists is counted once.  Its end counts the time stretched, clears the status
and the stretch. -/
def Obligations.SagsStretchTheClockAndEnd : Prop :=
  (∀ (pt : Fin 4) (mv : Nat) (s : State), nbit (s.dev.rf R.pwrSagCfg F.pwrSagCfgPtEn) pt = true →
    mv < s.dev.rf R.pwrAvs F.pwrAvsSetMv - s.dev.rf R.pwrSagCfg F.pwrSagCfgTh → s.dev.sagging = false → ∃ t, exec (.sagStart pt mv) s = .next t ∧
      t.dev.rb R.pwrSagStat F.pwrSagStatActive = true ∧ t.dev.rb R.clkStat F.clkStatHclkStretch = true ∧
      t.dev.rf R.pwrSagCnt F.pwrSagCntSags = min 65535 (s.dev.rf R.pwrSagCnt F.pwrSagCntSags + 1) ∧
      t.dev.rf R.pwrSagStat F.pwrSagStatPoints = (s.dev.rf R.pwrSagStat F.pwrSagStatPoints ||| 2 ^ pt.val) ∧ t.dev.pwr.sag = some s.dev.now ∧
      t.dev.rf R.pwrSagMin F.pwrSagMinMv = min mv (s.dev.rf R.pwrSagMin F.pwrSagMinMv) ∧
      t.dev.sameQuiet s.dev [R.pwrSagStat, R.clkStat, R.pwrSagCnt, R.pwrSagMin] ∧
      t.dev = { s.dev with regs := t.dev.regs, pwr := t.dev.pwr, evt := t.dev.evt, sram := t.dev.sram, hostMem := t.dev.hostMem, hif := t.dev.hif, seq := t.dev.seq, chans := t.dev.chans, lvls := t.dev.lvls, acq := t.dev.acq }) ∧
  (∀ (pt : Fin 4) (mv : Nat) (s : State), nbit (s.dev.rf R.pwrSagCfg F.pwrSagCfgPtEn) pt = true →
    mv < s.dev.rf R.pwrAvs F.pwrAvsSetMv - s.dev.rf R.pwrSagCfg F.pwrSagCfgTh → s.dev.sagging = true → ∃ t, exec (.sagStart pt mv) s = .next t ∧
      t.dev.rf R.pwrSagStat F.pwrSagStatPoints = (s.dev.rf R.pwrSagStat F.pwrSagStatPoints ||| 2 ^ pt.val) ∧
      t.dev.rf R.pwrSagMin F.pwrSagMinMv = min mv (s.dev.rf R.pwrSagMin F.pwrSagMinMv) ∧ t.dev.sameRegs s.dev [R.pwrSagStat, R.pwrSagMin] ∧
      t.dev = { s.dev with regs := t.dev.regs }) ∧
  (∀ (s : State), s.dev.sagging = true → s.dev.rb R.pwrSagStat F.pwrSagStatPersist = false → ∃ t, exec .sagPersistTimeout s = .next t ∧
      t.dev.rb R.pwrSagStat F.pwrSagStatPersist = true ∧
      t.dev.rf R.pwrSagCnt F.pwrSagCntPersist = min 65535 (s.dev.rf R.pwrSagCnt F.pwrSagCntPersist + 1) ∧
      t.dev.sameQuiet s.dev [R.pwrSagStat, R.pwrSagCnt] ∧
      t.dev = { s.dev with regs := t.dev.regs, evt := t.dev.evt, sram := t.dev.sram, hostMem := t.dev.hostMem, hif := t.dev.hif, seq := t.dev.seq, chans := t.dev.chans, lvls := t.dev.lvls, acq := t.dev.acq }) ∧
  (∀ (t0 : Nat) (s : State), s.dev.pwr.sag = some t0 → s.dev.srm.run = none → ∃ t, exec .sagEnd s = .next t ∧
      t.dev.pwr.sag = none ∧ t.dev.rn R.pwrSagStat = 0 ∧ t.dev.rb R.clkStat F.clkStatHclkStretch = false ∧
      t.dev.rn R.pwrSagTime = min 0xFFFFFFFF (s.dev.rn R.pwrSagTime + (s.dev.now - s.dev.pwr.upTo) / 131072) ∧
      t.dev.sameQuiet s.dev [R.pwrSagStat, R.clkStat, R.pwrSagTime] ∧
      t.dev = { s.dev with regs := t.dev.regs, pwr := t.dev.pwr, evt := t.dev.evt, sram := t.dev.sram, hostMem := t.dev.hostMem, hif := t.dev.hif, seq := t.dev.seq, chans := t.dev.chans, lvls := t.dev.lvls, acq := t.dev.acq })

/-- POWER_PROFILE_WRITE, AVS_MEASURE and SENSOR_READING (R32, R451 to R454).  A profile written FULL never reads CAP_OVER.  The supply asked for is the
measured minimum plus 15 mV in 5 mV steps from 700 to 800 mV.  Sixteen equal readings in range are all valid, trip at 115 °C and end a trip
at 100 °C (in 0.25 °C: 460 and 400); a reading out of range makes its sensor invalid. -/
def Obligations.SupplyAndTemperatureAreWatched : Prop :=
  (∀ (path : Fin 7) (w : Word) (s : State), s.dev.takes path R.glbProfile w.toNat = true → ∃ t, exec (.powerProfileWrite path w) s = .next t ∧
      t.dev.rb R.glbProfile F.glbProfilePower = nbit w.toNat 0 ∧ (nbit w.toNat 0 = true ∨ t.dev.rb R.glbProfile F.glbProfileCapOver = false) ∧
      t.dev.sameQuiet s.dev [R.glbProfile, pstat 0] ∧
      t.dev = { s.dev with regs := t.dev.regs, evt := t.dev.evt, sram := t.dev.sram, hostMem := t.dev.hostMem, hif := t.dev.hif, seq := t.dev.seq, chans := t.dev.chans, lvls := t.dev.lvls, acq := t.dev.acq }) ∧
  (∀ (mv : Nat) (s : State), s.dev.boot.keeperOn = true → ∃ t, exec (.avsMeasure mv) s = .next t ∧
      t.dev.rf R.pwrAvs F.pwrAvsReqMv = max 700 (min 800 (5 * ceilDiv (mv + 15) 5)) ∧
      t.dev.rf R.pwrAvs F.pwrAvsSetMv = s.dev.rf R.pwrAvs F.pwrAvsSetMv ∧ t.dev.sameQuiet s.dev [R.pwrAvs] ∧
      t.dev = { s.dev with regs := t.dev.regs, pwr := t.dev.pwr, evt := t.dev.evt, sram := t.dev.sram, hostMem := t.dev.hostMem, hif := t.dev.hif, seq := t.dev.seq, chans := t.dev.chans, lvls := t.dev.lvls, acq := t.dev.acq }) ∧
  (∀ (x : Int) (s : State), 3 ≤ s.dev.boot.done → s.dev.pwr.failed = [] → -160 ≤ x → x ≤ 600 →
    ∃ t, exec (.sensorReading (List.replicate 16 x)) s = .next t ∧
      (∀ i : Fin 16, t.dev.rn (R.pwrTemp i) = 2 ^ 31 + wrapInt 16 x) ∧ t.dev.rf R.pwrThermStat F.pwrThermStatValid = 0xFFFF ∧
      t.dev.rn R.pwrTmax = wrapInt 16 x ∧ (x < 460 ∨ t.dev.rb R.pwrThermStat F.pwrThermStatTripped = true) ∧
      (400 < x ∨ t.dev.rb R.pwrThermStat F.pwrThermStatTripped = false) ∧
      t.dev.sameQuiet s.dev [R.pwrTemp 0, R.pwrTemp 1, R.pwrTemp 2, R.pwrTemp 3, R.pwrTemp 4, R.pwrTemp 5, R.pwrTemp 6, R.pwrTemp 7, R.pwrTemp 8, R.pwrTemp 9, R.pwrTemp 10, R.pwrTemp 11, R.pwrTemp 12, R.pwrTemp 13, R.pwrTemp 14, R.pwrTemp 15, R.pwrThermStat, R.pwrTmax, R.pwrTpeak] ∧
      t.dev = { s.dev with regs := t.dev.regs, pwr := t.dev.pwr, evt := t.dev.evt, sram := t.dev.sram, hostMem := t.dev.hostMem, hif := t.dev.hif, seq := t.dev.seq, chans := t.dev.chans, lvls := t.dev.lvls, acq := t.dev.acq }) ∧
  (∀ (rs : List Int) (i : Fin 16) (s : State), 3 ≤ s.dev.boot.done → Dev.tempInRange ((rs[i.val]?).getD 0) = false →
    ∃ t, exec (.sensorReading rs) s = .next t ∧
      t.dev.rb (R.pwrTemp i) F.pwrTempValid = false ∧ nbit (t.dev.rf R.pwrThermStat F.pwrThermStatValid) i = false ∧
      t.dev.sameQuiet s.dev [R.pwrTemp 0, R.pwrTemp 1, R.pwrTemp 2, R.pwrTemp 3, R.pwrTemp 4, R.pwrTemp 5, R.pwrTemp 6, R.pwrTemp 7, R.pwrTemp 8, R.pwrTemp 9, R.pwrTemp 10, R.pwrTemp 11, R.pwrTemp 12, R.pwrTemp 13, R.pwrTemp 14, R.pwrTemp 15, R.pwrThermStat, R.pwrTmax, R.pwrTpeak] ∧
      t.dev = { s.dev with regs := t.dev.regs, pwr := t.dev.pwr, evt := t.dev.evt, sram := t.dev.sram, hostMem := t.dev.hostMem, hif := t.dev.hif, seq := t.dev.seq, chans := t.dev.chans, lvls := t.dev.lvls, acq := t.dev.acq })

/-! ### The sequencer (05_vector_sequencer.md) -/

/-- PORT_START, FILL_COMPLETE, SEQ_STOP, SEQ_ERR_CLEAR and STREAM_DESCRIPTOR_COMMIT (R149, R156 to R158).  A start that no check refuses makes the state
FILLING with a new run; with no TX stream it then runs from SEQ_START_PC with START_TS.  STOP makes it IDLE and ends launch 262,144 ticks
later.  CLEAR empties the error record.  Other ports' sequencers are untouched.  That STOP leaves nothing before the first launch is log 72. -/
def Obligations.PortsStartFillAndStop : Prop :=
  (∀ (path : Fin 7) (p : Fin 4) (w : Word) (s : State), s.dev.takes path (R.seqCtrl p) w.toNat = true → nbits w.toNat 1 0 = 1 →
    s.dev.seqState p = 0 → s.dev.noReact Ev.capOver = true → s.dev.noReact (Ev.sjLimit p) = true → s.dev.anyFatal = false →
    s.dev.winter = false → (s.dev.wf (R.seqCtrl p) F.seqCtrlStartTs (nbits w.toNat 11 8)).utilRateBad p (nbits w.toNat 11 8) = false →
    s.dev.firstBad p false = none → s.dev.firstBad p true = none → s.dev.rb (R.acqCfg p) F.acqCfgDest = false →
    (s.dev.wf (R.seqCtrl p) F.seqCtrlStartTs (nbits w.toNat 11 8)).admitCheck p = none → ∃ t, exec (.portStart path p w) s = .next t ∧
      t.dev.seqState p = 1 ∧ (t.dev.seqOf p).ts = nbits w.toNat 11 8 ∧ (t.dev.seqOf p).n = 0 ∧ (t.dev.seqOf p).txFetched = 0 ∧
      t.dev.rf (R.seqErr p) F.seqErrCause = 0 ∧ t.dev.rf (R.qosDeny p) F.qosDenyReason = 0 ∧
      (∀ k : Fin 4, k ≠ p → t.dev.seqOf k = s.dev.seqOf k ∧ t.dev.seqState k = s.dev.seqState k) ∧ t.dev.dram = s.dev.dram ∧
      t.dev.ledger = s.dev.ledger ∧ t.dev.gtc = s.dev.gtc) ∧
  (∀ (p : Fin 4) (s : State), s.dev.seqState p = 1 → (s.dev.txFmt p).empty = true → s.dev.srm.waking = [] →
    ∃ t, exec (.fillComplete p) s = .next t ∧
      t.dev.seqState p = 2 ∧ t.dev.pc p = s.dev.rn (R.seqStartPc p) % 16384 ∧
      (t.dev.seqOf p) = { (s.dev.seqOf p) with fe := .run, decoded := s.dev.edgeAt Dev.sqclk s.dev.now - Dev.sqclk, ts := s.dev.rf (R.seqCtrl p) F.seqCtrlStartTs, issueTs := s.dev.rf (R.seqCtrl p) F.seqCtrlStartTs } ∧
      t.dev.sameRegs s.dev [R.seqStat p, R.seqSflag p, R.seqPc p] ∧ t.dev = { s.dev with regs := t.dev.regs, seq := t.dev.seq }) ∧
  (∀ (path : Fin 7) (p : Fin 4) (w : Word) (s : State), s.dev.takes path (R.seqCtrl p) w.toNat = true → nbits w.toNat 1 0 = 2 →
    s.dev.seqState p ≠ 0 → ∃ t, exec (.seqStop path p w) s = .next t ∧
      t.dev.seqState p = 0 ∧ (t.dev.seqOf p).fe = .off ∧ (t.dev.seqOf p).segs = [] ∧
      (t.dev.seqOf p).stopAt = (if (s.dev.seqOf p).tref then some (s.dev.now + 262144) else none) ∧
      (t.dev.seqOf p).fifo = (if (s.dev.seqOf p).tref then (s.dev.seqOf p).fifo else []) ∧
      (∀ k : Fin 4, k ≠ p → t.dev.seqOf k = s.dev.seqOf k ∧ t.dev.seqState k = s.dev.seqState k) ∧ t.dev.dram = s.dev.dram ∧
      t.dev.gtc = s.dev.gtc) ∧
  (∀ (path : Fin 7) (p : Fin 4) (w : Word) (s : State), s.dev.takes path (R.seqErr p) w.toNat = true → nbit w.toNat 31 = true →
    ∃ t, exec (.seqErrClear path p w) s = .next t ∧
      t.dev.rn (R.seqErr p) = 0 ∧ t.dev.rn (R.seqErrVofs p) = 0 ∧ t.dev.wide (R.seqErrGtc0 p) 3 = 0 ∧
      t.dev.sameRegs s.dev [R.seqErr p, R.seqErrVofs p, R.seqErrGtc0 p, R.seqErrGtc1 p, R.seqErrGtc2 p, pstat (ppage p 1)] ∧
      t.dev = { s.dev with regs := t.dev.regs }) ∧
  (∀ (path : Fin 7) (p : Fin 4) (rx : Bool) (i : Fin 16) (w l0 l1 l2 l3 : Word) (s : State), s.dev.lets path (Dev.descReg p rx i 3) = true →
    s.dev.staging path (Dev.descReg p rx i 0) 4 = [l0, l1, l2, l3] → l0.toNat % 2048 = 0 → l1.toNat < 64 → l2.toNat < 2 ^ 20 → l2 ≠ 0 →
    nbits w.toNat 28 16 = 0 → s.dev.writeLegal .lks p (Dev.descReg p rx i 0 % 4096) [l0.toNat, l1.toNat, l2.toNat, w.toNat] false = true →
    ∃ t, exec (.streamDescriptorCommit path p rx i w) s = .next t ∧
      (s.dev.writeLegal .lks p (Dev.descReg p rx i 0 % 4096) [l0.toNat, l1.toNat, l2.toNat, w.toNat] true = false ∨ (t.dev.get (Dev.descReg p rx i 0) = l0 ∧ t.dev.get (Dev.descReg p rx i 1) = l1 ∧ t.dev.get (Dev.descReg p rx i 2) = l2 ∧ t.dev.get (Dev.descReg p rx i 3) = w)) ∧
      t.dev.sameRegs s.dev [Dev.descReg p rx i 0, Dev.descReg p rx i 1, Dev.descReg p rx i 2, Dev.descReg p rx i 3, pstat (ppage p 2)] ∧
      t.dev = { s.dev with regs := t.dev.regs, hif := t.dev.hif })

/-- LOOP, ENDLOOP, CALL, RET, JUMP and JUMP_IF (R133, R136, R142).  A loop of no passes goes on behind TARGET; else it opens a loop, which ENDLOOP repeats
or ends at the call depth where it was opened.  CALL and RET push and pop.  JUMP_IF takes its target as its condition decides, and
CNT_DEC_NZ stores the counter decremented.  A ninth open loop stops the port with cause STACK. -/
def Obligations.LoopsCallsAndJumps : Prop :=
  (∀ (p : Fin 4) (s : State), s.dev.runs p 4 = true →
    (if Dev.I.bit100 (s.dev.instrAt p (s.dev.pc p)) then s.dev.rn (R.seqCnt p (Dev.I.csel (s.dev.instrAt p (s.dev.pc p)))) else Dev.I.count (s.dev.instrAt p (s.dev.pc p))) ≠ 0 →
    (s.dev.seqOf p).loops.length < 8 → ∃ t, exec (.loop p) s = .next t ∧
      (t.dev.seqOf p) = { (s.dev.seqOf p) with decoded := (Dev.decodeEdge (s.dev.seqOf p)), loops := (((s.dev.pc p + 1) % 16384), (if Dev.I.bit100 (s.dev.instrAt p (s.dev.pc p)) then s.dev.rn (R.seqCnt p (Dev.I.csel (s.dev.instrAt p (s.dev.pc p)))) else Dev.I.count (s.dev.instrAt p (s.dev.pc p))), (s.dev.seqOf p).calls.length) :: (s.dev.seqOf p).loops } ∧
      t.dev.pc p = ((s.dev.pc p + 1) % 16384) ∧ t.dev.seqState p = s.dev.seqState p ∧
      t.dev.sameRegs s.dev [R.seqStat p, R.seqSflag p, R.seqPc p] ∧ t.dev = { s.dev with regs := t.dev.regs, seq := t.dev.seq }) ∧
  (∀ (p : Fin 4) (s : State), s.dev.runs p 4 = true →
    (if Dev.I.bit100 (s.dev.instrAt p (s.dev.pc p)) then s.dev.rn (R.seqCnt p (Dev.I.csel (s.dev.instrAt p (s.dev.pc p)))) else Dev.I.count (s.dev.instrAt p (s.dev.pc p))) = 0 →
    ∃ t, exec (.loop p) s = .next t ∧
      (t.dev.seqOf p) = { (s.dev.seqOf p) with decoded := (Dev.decodeEdge (s.dev.seqOf p)) } ∧
      t.dev.pc p = (Dev.I.target (s.dev.instrAt p (s.dev.pc p)) + 1) % 16384 ∧ t.dev.seqState p = s.dev.seqState p ∧
      t.dev.sameRegs s.dev [R.seqStat p, R.seqSflag p, R.seqPc p] ∧ t.dev = { s.dev with regs := t.dev.regs, seq := t.dev.seq }) ∧
  (∀ (p : Fin 4) (s : State), s.dev.runs p 4 = true → s.dev.noReact (Ev.seqStack p) = true →
    (if Dev.I.bit100 (s.dev.instrAt p (s.dev.pc p)) then s.dev.rn (R.seqCnt p (Dev.I.csel (s.dev.instrAt p (s.dev.pc p)))) else Dev.I.count (s.dev.instrAt p (s.dev.pc p))) ≠ 0 →
    (s.dev.seqOf p).loops.length = 8 → ∃ t, exec (.loop p) s = .next t ∧
      t.dev.seqState p = 4 ∧ t.dev.rf (R.seqErr p) F.seqErrCause = 2 ∧ t.dev.rf (R.seqErr p) F.seqErrPc = s.dev.pc p % 16384 ∧
      (t.dev.seqOf p).fe = .off ∧ t.dev.pc p = s.dev.pc p ∧
      t.dev.sameQuiet s.dev [R.seqStat p, R.seqSflag p, R.seqPc p, R.seqErr p, R.seqErrVofs p] ∧
      t.dev = { s.dev with regs := t.dev.regs, seq := t.dev.seq, evt := t.dev.evt, sram := t.dev.sram, hostMem := t.dev.hostMem, hif := t.dev.hif, chans := t.dev.chans, lvls := t.dev.lvls, acq := t.dev.acq }) ∧
  (∀ (p : Fin 4) (a n : Nat) (l : List (Nat × Nat × Nat)) (s : State), s.dev.runs p 5 = true →
    (s.dev.seqOf p).loops = (a, n, (s.dev.seqOf p).calls.length) :: l → ∃ t, exec (.endloop p) s = .next t ∧
      (t.dev.seqOf p) = { (s.dev.seqOf p) with decoded := (Dev.decodeEdge (s.dev.seqOf p)), loops := if 1 < n then (a, n - 1, (s.dev.seqOf p).calls.length) :: l else l } ∧
      t.dev.pc p = (if 1 < n then a % 16384 else ((s.dev.pc p + 1) % 16384)) ∧ t.dev.seqState p = s.dev.seqState p ∧
      t.dev.sameRegs s.dev [R.seqStat p, R.seqSflag p, R.seqPc p] ∧ t.dev = { s.dev with regs := t.dev.regs, seq := t.dev.seq }) ∧
  (∀ (p : Fin 4) (s : State), s.dev.runs p 6 = true → (s.dev.seqOf p).calls.length < 16 → ∃ t, exec (.call p) s = .next t ∧
      (t.dev.seqOf p) = { (s.dev.seqOf p) with decoded := (Dev.decodeEdge (s.dev.seqOf p)), calls := ((s.dev.pc p + 1) % 16384) :: (s.dev.seqOf p).calls } ∧
      t.dev.pc p = Dev.I.target (s.dev.instrAt p (s.dev.pc p)) ∧ t.dev.seqState p = s.dev.seqState p ∧
      t.dev.sameRegs s.dev [R.seqStat p, R.seqSflag p, R.seqPc p] ∧ t.dev = { s.dev with regs := t.dev.regs, seq := t.dev.seq }) ∧
  (∀ (p : Fin 4) (a : Nat) (l : List Nat) (s : State), s.dev.runs p 7 = true → (s.dev.seqOf p).calls = a :: l →
    Dev.loopHere (s.dev.seqOf p) = false → ∃ t, exec (.ret p) s = .next t ∧
      (t.dev.seqOf p) = { (s.dev.seqOf p) with decoded := (Dev.decodeEdge (s.dev.seqOf p)), calls := l } ∧ t.dev.pc p = a % 16384 ∧
      t.dev.seqState p = s.dev.seqState p ∧ t.dev.sameRegs s.dev [R.seqStat p, R.seqSflag p, R.seqPc p] ∧
      t.dev = { s.dev with regs := t.dev.regs, seq := t.dev.seq }) ∧
  (∀ (p : Fin 4) (s : State), s.dev.runs p 8 = true → ∃ t, exec (.jump p) s = .next t ∧
      (t.dev.seqOf p) = { (s.dev.seqOf p) with decoded := (Dev.decodeEdge (s.dev.seqOf p)) } ∧
      t.dev.pc p = Dev.I.target (s.dev.instrAt p (s.dev.pc p)) ∧ t.dev.seqState p = s.dev.seqState p ∧
      t.dev.sameRegs s.dev [R.seqStat p, R.seqSflag p, R.seqPc p] ∧ t.dev = { s.dev with regs := t.dev.regs, seq := t.dev.seq }) ∧
  (∀ (p : Fin 4) (s : State), s.dev.runs p 9 = true → Dev.I.cond (s.dev.instrAt p (s.dev.pc p)) = 4 → ∃ t, exec (.jumpIf p) s = .next t ∧
      t.dev.rn (R.seqCnt p (Dev.I.csel (s.dev.instrAt p (s.dev.pc p)))) = (s.dev.rn (R.seqCnt p (Dev.I.csel (s.dev.instrAt p (s.dev.pc p)))) + 2 ^ 32 - 1) % 2 ^ 32 ∧
      t.dev.pc p = (if s.dev.rn (R.seqCnt p (Dev.I.csel (s.dev.instrAt p (s.dev.pc p)))) = 1 then ((s.dev.pc p + 1) % 16384) else Dev.I.target (s.dev.instrAt p (s.dev.pc p))) ∧
      (t.dev.seqOf p) = { (s.dev.seqOf p) with decoded := (Dev.decodeEdge (s.dev.seqOf p)) } ∧ t.dev.seqState p = s.dev.seqState p ∧
      t.dev.sameRegs s.dev [R.seqStat p, R.seqSflag p, R.seqPc p, R.seqCnt p (Dev.I.csel (s.dev.instrAt p (s.dev.pc p)))] ∧
      t.dev = { s.dev with regs := t.dev.regs, seq := t.dev.seq }) ∧
  (∀ (p : Fin 4) (s : State), s.dev.runs p 9 = true → Dev.I.cond (s.dev.instrAt p (s.dev.pc p)) ∈ [2, 3, 5, 6, 7] →
    ∃ t, exec (.jumpIf p) s = .next t ∧
      (t.dev.seqOf p) = { (s.dev.seqOf p) with decoded := (Dev.decodeEdge (s.dev.seqOf p)) } ∧
      t.dev.pc p = (if (match Dev.I.cond (s.dev.instrAt p (s.dev.pc p)) with | 2 => decide (s.dev.rn (R.seqCnt p (Dev.I.csel (s.dev.instrAt p (s.dev.pc p)))) = 0) | 3 => decide (s.dev.rn (R.seqCnt p (Dev.I.csel (s.dev.instrAt p (s.dev.pc p)))) ≠ 0) | 5 => nbit (s.dev.rn (R.seqHflag p)) (Dev.I.csel (s.dev.instrAt p (s.dev.pc p))) | 6 => !nbit (s.dev.rn (R.seqHflag p)) (Dev.I.csel (s.dev.instrAt p (s.dev.pc p))) | _ => s.dev.rb (R.acqStat p) F.acqStatTriggered) = true then Dev.I.target (s.dev.instrAt p (s.dev.pc p)) else ((s.dev.pc p + 1) % 16384)) ∧
      t.dev.seqState p = s.dev.seqState p ∧ t.dev.sameRegs s.dev [R.seqStat p, R.seqSflag p, R.seqPc p] ∧
      t.dev = { s.dev with regs := t.dev.regs, seq := t.dev.seq }) ∧
  (∀ (p : Fin 4) (s : State), s.dev.runs p 9 = true → Dev.I.cond (s.dev.instrAt p (s.dev.pc p)) < 2 → (s.dev.seqOf p).lastSeg = none →
    ∃ t, exec (.jumpIf p) s = .next t ∧
      (t.dev.seqOf p) = { (s.dev.seqOf p) with decoded := (Dev.decodeEdge (s.dev.seqOf p)) } ∧
      t.dev.pc p = (if Dev.I.cond (s.dev.instrAt p (s.dev.pc p)) = 1 then Dev.I.target (s.dev.instrAt p (s.dev.pc p)) else ((s.dev.pc p + 1) % 16384)) ∧
      t.dev.seqState p = s.dev.seqState p ∧ t.dev.sameRegs s.dev [R.seqStat p, R.seqSflag p, R.seqPc p] ∧
      t.dev = { s.dev with regs := t.dev.regs, seq := t.dev.seq }) ∧
  (∀ (p : Fin 4) (g : Nat) (s : State), s.dev.runs p 9 = true → Dev.I.cond (s.dev.instrAt p (s.dev.pc p)) < 2 →
    (s.dev.seqOf p).lastSeg = some g → ∃ t, exec (.jumpIf p) s = .next t ∧
      (t.dev.seqOf p).fe = .cmp g (Dev.I.target (s.dev.instrAt p (s.dev.pc p))) ((s.dev.pc p + 1) % 16384) (Dev.I.cond (s.dev.instrAt p (s.dev.pc p))) ∧
      (t.dev.seqOf p).inWait = true ∧ t.dev.pc p = s.dev.pc p ∧ t.dev.seqState p = s.dev.seqState p ∧
      t.dev.sameRegs s.dev [R.seqStat p, R.seqSflag p, R.seqPc p] ∧ t.dev = { s.dev with regs := t.dev.regs, seq := t.dev.seq })

/-- WAIT_TIME, SYNC, WAIT_EVENT, WAIT_EVENT_TIMEOUT, SET_LOCAL, SET_REG, SET_TIMED, HALT and ILLEGAL_INSTRUCTION (R134, R137 to R141).  Not-before times and
SYNC are kept for the next vector; an absolute time too early is counted late.  A wait holds until its condition or its timeout.  Local SETs
change counters at once, register SETs write the port's own pages, timed SETs queue a command.  HALT and an illegal instruction stop the
front end. -/
def Obligations.WaitsSetsAndEnds : Prop :=
  (∀ (p : Fin 4) (s : State), s.dev.runs p 11 = true → Dev.I.pad (s.dev.instrAt p (s.dev.pc p)) < 2 →
    nbit (s.dev.instrAt p (s.dev.pc p)) 111 = false → ∃ t, exec (.waitTime p) s = .next t ∧
      (t.dev.seqOf p) = { (s.dev.seqOf p) with decoded := (Dev.decodeEdge (s.dev.seqOf p)), nb := (s.dev.seqOf p).nb ++ [(false, Dev.I.time (s.dev.instrAt p (s.dev.pc p)))], nbPad := Dev.I.pad (s.dev.instrAt p (s.dev.pc p)) } ∧
      t.dev.pc p = ((s.dev.pc p + 1) % 16384) ∧
      t.dev.rn (R.seqWaitLate p) = (if Dev.I.time (s.dev.instrAt p (s.dev.pc p)) < (Dev.decodeEdge (s.dev.seqOf p)) + 327680 then min 0xFFFFFFFF (s.dev.rn (R.seqWaitLate p) + 1) else s.dev.rn (R.seqWaitLate p)) ∧
      t.dev.seqState p = s.dev.seqState p ∧ t.dev.sameRegs s.dev [R.seqStat p, R.seqSflag p, R.seqPc p, R.seqWaitLate p] ∧
      t.dev = { s.dev with regs := t.dev.regs, seq := t.dev.seq }) ∧
  (∀ (p : Fin 4) (s : State), s.dev.runs p 11 = true → nbit (s.dev.instrAt p (s.dev.pc p)) 111 = true → ∃ t, exec (.waitTime p) s = .next t ∧
      (t.dev.seqOf p) = { (s.dev.seqOf p) with decoded := (Dev.decodeEdge (s.dev.seqOf p)), nb := (s.dev.seqOf p).nb ++ [(true, Dev.I.time (s.dev.instrAt p (s.dev.pc p)))], nbPad := Dev.I.pad (s.dev.instrAt p (s.dev.pc p)) } ∧
      t.dev.pc p = ((s.dev.pc p + 1) % 16384) ∧ t.dev.seqState p = s.dev.seqState p ∧
      t.dev.sameRegs s.dev [R.seqStat p, R.seqSflag p, R.seqPc p, R.seqWaitLate p] ∧ t.dev = { s.dev with regs := t.dev.regs, seq := t.dev.seq }) ∧
  (∀ (p : Fin 4) (s : State), s.dev.runs p 14 = true → ∃ t, exec (.sync p) s = .next t ∧
      (t.dev.seqOf p) = { (s.dev.seqOf p) with decoded := (Dev.decodeEdge (s.dev.seqOf p)), sync := (s.dev.seqOf p).sync ++ [(Dev.I.period (s.dev.instrAt p (s.dev.pc p)), Dev.I.phase (s.dev.instrAt p (s.dev.pc p)), (Dev.decodeEdge (s.dev.seqOf p)) + 327680)], nbPad := Dev.I.pad (s.dev.instrAt p (s.dev.pc p)) } ∧
      t.dev.pc p = ((s.dev.pc p + 1) % 16384) ∧ t.dev.seqState p = s.dev.seqState p ∧
      t.dev.sameRegs s.dev [R.seqStat p, R.seqSflag p, R.seqPc p] ∧ t.dev = { s.dev with regs := t.dev.regs, seq := t.dev.seq }) ∧
  (∀ (p : Fin 4) (s : State), s.dev.runs p 12 = true →
    s.dev.eventCond p (s.dev.instrAt p (s.dev.pc p)) (max ((Dev.decodeEdge (s.dev.seqOf p)) + Dev.sqclk) (s.dev.edgeAt Dev.sqclk s.dev.now)) = false →
    ∃ t, exec (.waitEvent p) s = .next t ∧
      (t.dev.seqOf p).fe = .event (if Dev.I.timeout (s.dev.instrAt p (s.dev.pc p)) = 0 then none else some ((Dev.decodeEdge (s.dev.seqOf p)) + Dev.I.timeout (s.dev.instrAt p (s.dev.pc p)) * Dev.sqclk)) ∧
      (t.dev.seqOf p).inWait = true ∧ t.dev.pc p = s.dev.pc p ∧ t.dev.seqState p = s.dev.seqState p ∧
      t.dev.sameRegs s.dev [R.seqStat p, R.seqSflag p, R.seqPc p] ∧ t.dev = { s.dev with regs := t.dev.regs, seq := t.dev.seq }) ∧
  (∀ (p : Fin 4) (o : Option Nat) (s : State), s.dev.seqState p = 2 → (s.dev.seqOf p).fe = .event o →
    s.dev.eventCond p (s.dev.instrAt p (s.dev.pc p)) (max (Dev.decodeEdge (s.dev.seqOf p)) (s.dev.edgeAt Dev.sqclk s.dev.now)) = true →
    ∃ t, exec (.waitEvent p) s = .next t ∧
      (t.dev.seqOf p).fe = .run ∧ (t.dev.seqOf p).decoded = max (Dev.decodeEdge (s.dev.seqOf p)) (s.dev.edgeAt Dev.sqclk s.dev.now) - Dev.sqclk ∧
      t.dev.pc p = ((s.dev.pc p + 1) % 16384) ∧ t.dev.seqState p = s.dev.seqState p ∧
      t.dev.sameRegs s.dev [R.seqStat p, R.seqSflag p, R.seqPc p] ∧ t.dev = { s.dev with regs := t.dev.regs, seq := t.dev.seq }) ∧
  (∀ (p : Fin 4) (x : Nat) (s : State), s.dev.noReact (Ev.waitTimeout p) = true → s.dev.seqState p = 2 → (s.dev.seqOf p).fe = .event (some x) →
    s.dev.eventCond p (s.dev.instrAt p (s.dev.pc p)) x = false → ∃ t, exec (.waitEventTimeout p) s = .next t ∧
      (t.dev.seqOf p).fe = .run ∧ (t.dev.seqOf p).decoded = x - Dev.sqclk ∧ t.dev.pc p = Dev.I.target (s.dev.instrAt p (s.dev.pc p)) ∧
      t.dev.sameQuiet s.dev [R.seqStat p, R.seqSflag p, R.seqPc p]) ∧
  (∀ (p : Fin 4) (s : State), s.dev.runs p 13 = true → Dev.I.setMode (s.dev.instrAt p (s.dev.pc p)) = 0 →
    Dev.I.ltgt (s.dev.instrAt p (s.dev.pc p)) < 4 → ∃ t, exec (.setLocal p) s = .next t ∧
      t.dev.rn (R.seqCnt p (Dev.I.ltgt (s.dev.instrAt p (s.dev.pc p)))) = Dev.I.data (s.dev.instrAt p (s.dev.pc p)) ∧
      t.dev.pc p = ((s.dev.pc p + 1) % 16384) ∧ (t.dev.seqOf p) = { (s.dev.seqOf p) with decoded := (Dev.decodeEdge (s.dev.seqOf p)) } ∧
      t.dev.seqState p = s.dev.seqState p ∧
      t.dev.sameRegs s.dev [R.seqStat p, R.seqSflag p, R.seqPc p, R.seqCnt p (Dev.I.ltgt (s.dev.instrAt p (s.dev.pc p)))] ∧
      t.dev = { s.dev with regs := t.dev.regs, seq := t.dev.seq }) ∧
  (∀ (p : Fin 4) (s : State), s.dev.runs p 13 = true → Dev.I.setMode (s.dev.instrAt p (s.dev.pc p)) = 0 →
    4 ≤ Dev.I.ltgt (s.dev.instrAt p (s.dev.pc p)) → Dev.I.ltgt (s.dev.instrAt p (s.dev.pc p)) < 8 → ∃ t, exec (.setLocal p) s = .next t ∧
      t.dev.rn (R.seqCnt p (Dev.I.ltgt (s.dev.instrAt p (s.dev.pc p)) - 4)) = (s.dev.rn (R.seqCnt p (Dev.I.ltgt (s.dev.instrAt p (s.dev.pc p)) - 4)) + Dev.I.data (s.dev.instrAt p (s.dev.pc p))) % 2 ^ 32 ∧
      t.dev.pc p = ((s.dev.pc p + 1) % 16384) ∧ t.dev.seqState p = s.dev.seqState p ∧
      t.dev.sameRegs s.dev [R.seqStat p, R.seqSflag p, R.seqPc p, R.seqCnt p (Dev.I.ltgt (s.dev.instrAt p (s.dev.pc p)) - 4)] ∧
      t.dev = { s.dev with regs := t.dev.regs, seq := t.dev.seq }) ∧
  (∀ (p : Fin 4) (s : State), s.dev.runs p 13 = true → Dev.I.setMode (s.dev.instrAt p (s.dev.pc p)) = 0 →
    8 ≤ Dev.I.ltgt (s.dev.instrAt p (s.dev.pc p)) → s.dev.noReact (Ev.sjLimit p) = true → ∃ t, exec (.setLocal p) s = .next t ∧
      (t.dev.seqOf p) = { (s.dev.seqOf p) with decoded := (Dev.decodeEdge (s.dev.seqOf p)), sets := (s.dev.seqOf p).sets ++ [(Dev.I.ltgt (s.dev.instrAt p (s.dev.pc p)), Dev.I.data (s.dev.instrAt p (s.dev.pc p)))] } ∧
      t.dev.pc p = ((s.dev.pc p + 1) % 16384) ∧ t.dev.seqState p = s.dev.seqState p ∧
      t.dev.sameQuiet s.dev [R.seqStat p, R.seqSflag p, R.seqPc p, R.ddsStat p] ∧
      t.dev = { s.dev with regs := t.dev.regs, seq := t.dev.seq, evt := t.dev.evt, sram := t.dev.sram, hostMem := t.dev.hostMem, hif := t.dev.hif, chans := t.dev.chans, lvls := t.dev.lvls, acq := t.dev.acq }) ∧
  (∀ (p : Fin 4) (out : Outside) (k : PageKind) (i : Nat) (x : RegDef) (s : State), s.dev.runs p 13 = true →
    Dev.I.setMode (s.dev.instrAt p (s.dev.pc p)) = 1 →
    s.dev.takes (3 + p) (Dev.I.addr (s.dev.instrAt p (s.dev.pc p))) (Dev.I.data (s.dev.instrAt p (s.dev.pc p))) = true →
    Dev.timingAff (Dev.I.addr (s.dev.instrAt p (s.dev.pc p))) = false →
    pageOf (Dev.I.addr (s.dev.instrAt p (s.dev.pc p)) / 0x1000) = some (k, i) → k ∈ [.lks, .tsa, .uch] →
    findReg (pageMap k) (Dev.I.addr (s.dev.instrAt p (s.dev.pc p)) % 0x1000) = some x → ∃ t, exec (.setReg p out) s = .next t ∧
      t.dev.rn (Dev.I.addr (s.dev.instrAt p (s.dev.pc p))) = Dev.stored x (s.dev.rn (Dev.I.addr (s.dev.instrAt p (s.dev.pc p)))) (Dev.I.data (s.dev.instrAt p (s.dev.pc p))) ∧
      t.dev.pc p = ((s.dev.pc p + 1) % 16384) ∧ (t.dev.seqOf p) = { (s.dev.seqOf p) with decoded := (Dev.decodeEdge (s.dev.seqOf p)) } ∧
      t.dev.seqState p = s.dev.seqState p ∧
      t.dev.sameRegs s.dev [R.seqStat p, R.seqSflag p, R.seqPc p, Dev.I.addr (s.dev.instrAt p (s.dev.pc p)), pstat (Dev.I.addr (s.dev.instrAt p (s.dev.pc p)) / 0x1000)] ∧
      t.dev = { s.dev with regs := t.dev.regs, seq := t.dev.seq }) ∧
  (∀ (p : Fin 4) (s : State), s.dev.runs p 13 = true → Dev.I.setMode (s.dev.instrAt p (s.dev.pc p)) = 2 → (s.dev.seqOf p).tref = true →
    s.dev.noReact Ev.tcqFull = true → s.dev.tcq.q.length < 256 → Dev.timingAff (Dev.I.addr (s.dev.instrAt p (s.dev.pc p))) = false →
    ∃ t, exec (.setTimed p) s = .next t ∧
      t.dev.tcq.q = insertBy TcqEntry.stamp ⟨((s.dev.wide (R.seqTref0 p) 3 + Dev.I.offset (s.dev.instrAt p (s.dev.pc p))) % 2 ^ 80), 0, false, Dev.I.addr (s.dev.instrAt p (s.dev.pc p)), [BitVec.ofNat 32 (Dev.I.data (s.dev.instrAt p (s.dev.pc p)))], 3 + p, decide (((s.dev.wide (R.seqTref0 p) 3 + Dev.I.offset (s.dev.instrAt p (s.dev.pc p))) % 2 ^ 80) < s.dev.now)⟩ s.dev.tcq.q ∧
      t.dev.pc p = ((s.dev.pc p + 1) % 16384) ∧ t.dev.rf R.tcqStat F.tcqStatFill = s.dev.tcq.q.length + 1 ∧ t.dev.seqState p = s.dev.seqState p ∧
      t.dev.sameQuiet s.dev [R.seqStat p, R.seqSflag p, R.seqPc p, R.tcqStat] ∧
      t.dev = { s.dev with regs := t.dev.regs, seq := t.dev.seq, tcq := t.dev.tcq, evt := t.dev.evt, sram := t.dev.sram, hostMem := t.dev.hostMem, hif := t.dev.hif, chans := t.dev.chans, lvls := t.dev.lvls, acq := t.dev.acq }) ∧
  (∀ (p : Fin 4) (s : State), s.dev.runs p 15 = true → s.dev.noReact (Ev.seqHalt p) = true → ∃ t, exec (.halt p) s = .next t ∧
      t.dev.seqState p = 3 ∧ (t.dev.seqOf p).fe = .off ∧ (t.dev.seqOf p).idleOnly = true ∧ t.dev.pc p = s.dev.pc p ∧
      t.dev.sameQuiet s.dev [R.seqStat p, R.seqSflag p, R.seqPc p]) ∧
  (∀ (p : Fin 4) (s : State), s.dev.noReact (Ev.seqIllegal p) = true → s.dev.seqState p = 2 → (s.dev.seqOf p).fe = .run →
    Dev.I.legal p (s.dev.instrAt p (s.dev.pc p)) = false → ∃ t, exec (.illegalInstruction p) s = .next t ∧
      t.dev.seqState p = 4 ∧ t.dev.rf (R.seqErr p) F.seqErrCause = 1 ∧ t.dev.rf (R.seqErr p) F.seqErrPc = s.dev.pc p % 16384 ∧
      (t.dev.seqOf p).fe = .off ∧ t.dev.sameQuiet s.dev [R.seqStat p, R.seqSflag p, R.seqPc p, R.seqErr p, R.seqErrVofs p])

/-- ISSUE, APG_RUN, IDLE, MATCH, MOORING_RELEASE and COMPARE_DECISION (R120, R126, R133, R144, R147, R152).  An unmoored issuing instruction with room
queues its segment with what waits for the next vector; with two segments queued it waits.  MATCH queues one unit and waits.  A moored instruction stalls on a
low lock and goes on when released.  A decision takes target or next. -/
def Obligations.SegmentsAreQueuedAndDecided : Prop :=
  (∀ (p : Fin 4) (s : State), s.dev.runs p 1 = true → (s.dev.seqOf p).segs.length < 2 → Dev.I.count (s.dev.instrAt p (s.dev.pc p)) ≠ 0 →
    Dev.I.moor (s.dev.instrAt p (s.dev.pc p)) = false → Dev.I.flow (s.dev.instrAt p (s.dev.pc p)) ≤ 1 → ∃ t, exec (.issue p) s = .next t ∧
      (t.dev.seqOf p) = { (s.dev.seqOf p) with decoded := (Dev.decodeEdge (s.dev.seqOf p)), segs := (s.dev.seqOf p).segs ++ [{ id := (s.dev.seqOf p).nextSeg, src := Dev.I.src (s.dev.instrAt p (s.dev.pc p)), pc := s.dev.pc p, raddr := Dev.I.raddr (s.dev.instrAt p (s.dev.pc p)), count := Dev.I.count (s.dev.instrAt p (s.dev.pc p)), copies := 1, issued := 0, wsm := Dev.I.wsm (s.dev.instrAt p (s.dev.pc p)), rxrec := Dev.I.rxrec (s.dev.instrAt p (s.dev.pc p)), mark := Dev.I.mark (s.dev.instrAt p (s.dev.pc p)), apc := Dev.I.apc (s.dev.instrAt p (s.dev.pc p)), restart := Dev.I.bit100 (s.dev.instrAt p (s.dev.pc p)), decode := (Dev.decodeEdge (s.dev.seqOf p)), nb := (s.dev.seqOf p).nb, sync := (s.dev.seqOf p).sync, nbPad := (s.dev.seqOf p).nbPad, sets := (s.dev.seqOf p).sets }], nextSeg := (s.dev.seqOf p).nextSeg + 1, lastSeg := some (s.dev.seqOf p).nextSeg, nb := [], sync := [], sets := [] } ∧
      t.dev.pc p = (if Dev.I.flow (s.dev.instrAt p (s.dev.pc p)) = 1 then Dev.I.target (s.dev.instrAt p (s.dev.pc p)) else ((s.dev.pc p + 1) % 16384)) ∧
      t.dev.seqState p = s.dev.seqState p ∧ t.dev.sameRegs s.dev [R.seqStat p, R.seqSflag p, R.seqPc p] ∧
      t.dev = { s.dev with regs := t.dev.regs, seq := t.dev.seq }) ∧
  (∀ (p : Fin 4) (s : State), s.dev.runs p 2 = true → (s.dev.seqOf p).segs.length < 2 → Dev.I.count (s.dev.instrAt p (s.dev.pc p)) ≠ 0 →
    Dev.I.moor (s.dev.instrAt p (s.dev.pc p)) = false → Dev.I.flow (s.dev.instrAt p (s.dev.pc p)) ≤ 1 → ∃ t, exec (.apgRun p) s = .next t ∧
      (t.dev.seqOf p) = { (s.dev.seqOf p) with decoded := (Dev.decodeEdge (s.dev.seqOf p)), segs := (s.dev.seqOf p).segs ++ [{ id := (s.dev.seqOf p).nextSeg, src := 2, pc := s.dev.pc p, raddr := Dev.I.raddr (s.dev.instrAt p (s.dev.pc p)), count := Dev.I.count (s.dev.instrAt p (s.dev.pc p)), copies := 1, issued := 0, wsm := Dev.I.wsm (s.dev.instrAt p (s.dev.pc p)), rxrec := Dev.I.rxrec (s.dev.instrAt p (s.dev.pc p)), mark := Dev.I.mark (s.dev.instrAt p (s.dev.pc p)), apc := Dev.I.apc (s.dev.instrAt p (s.dev.pc p)), restart := Dev.I.bit100 (s.dev.instrAt p (s.dev.pc p)), decode := (Dev.decodeEdge (s.dev.seqOf p)), nb := (s.dev.seqOf p).nb, sync := (s.dev.seqOf p).sync, nbPad := (s.dev.seqOf p).nbPad, sets := (s.dev.seqOf p).sets }], nextSeg := (s.dev.seqOf p).nextSeg + 1, lastSeg := some (s.dev.seqOf p).nextSeg, nb := [], sync := [], sets := [] } ∧
      t.dev.pc p = (if Dev.I.flow (s.dev.instrAt p (s.dev.pc p)) = 1 then Dev.I.target (s.dev.instrAt p (s.dev.pc p)) else ((s.dev.pc p + 1) % 16384)) ∧
      t.dev.seqState p = s.dev.seqState p ∧ t.dev.sameRegs s.dev [R.seqStat p, R.seqSflag p, R.seqPc p] ∧
      t.dev = { s.dev with regs := t.dev.regs, seq := t.dev.seq }) ∧
  (∀ (p : Fin 4) (s : State), s.dev.runs p 3 = true → (s.dev.seqOf p).segs.length < 2 → Dev.I.count (s.dev.instrAt p (s.dev.pc p)) ≠ 0 →
    Dev.I.moor (s.dev.instrAt p (s.dev.pc p)) = false → Dev.I.flow (s.dev.instrAt p (s.dev.pc p)) ≤ 1 → ∃ t, exec (.idle p) s = .next t ∧
      (t.dev.seqOf p) = { (s.dev.seqOf p) with decoded := (Dev.decodeEdge (s.dev.seqOf p)), segs := (s.dev.seqOf p).segs ++ [{ id := (s.dev.seqOf p).nextSeg, src := 3, pc := s.dev.pc p, raddr := Dev.I.raddr (s.dev.instrAt p (s.dev.pc p)), count := Dev.I.count (s.dev.instrAt p (s.dev.pc p)), copies := 1, issued := 0, wsm := Dev.I.wsm (s.dev.instrAt p (s.dev.pc p)), rxrec := false, mark := Dev.I.mark (s.dev.instrAt p (s.dev.pc p)), apc := Dev.I.apc (s.dev.instrAt p (s.dev.pc p)), restart := Dev.I.bit100 (s.dev.instrAt p (s.dev.pc p)), decode := (Dev.decodeEdge (s.dev.seqOf p)), nb := (s.dev.seqOf p).nb, sync := (s.dev.seqOf p).sync, nbPad := (s.dev.seqOf p).nbPad, sets := (s.dev.seqOf p).sets }], nextSeg := (s.dev.seqOf p).nextSeg + 1, lastSeg := some (s.dev.seqOf p).nextSeg, nb := [], sync := [], sets := [] } ∧
      t.dev.pc p = (if Dev.I.flow (s.dev.instrAt p (s.dev.pc p)) = 1 then Dev.I.target (s.dev.instrAt p (s.dev.pc p)) else ((s.dev.pc p + 1) % 16384)) ∧
      t.dev.seqState p = s.dev.seqState p ∧ t.dev.sameRegs s.dev [R.seqStat p, R.seqSflag p, R.seqPc p] ∧
      t.dev = { s.dev with regs := t.dev.regs, seq := t.dev.seq }) ∧
  (∀ (p : Fin 4) (s : State), s.dev.runs p 1 = true → (s.dev.seqOf p).segs.length = 2 → Dev.I.count (s.dev.instrAt p (s.dev.pc p)) ≠ 0 →
    Dev.I.flow (s.dev.instrAt p (s.dev.pc p)) ≤ 2 → ∃ t, exec (.issue p) s = .next t ∧
      t = s) ∧
  (∀ (p : Fin 4) (s : State), s.dev.runs p 1 = true → (s.dev.seqOf p).segs.length < 2 → Dev.I.moor (s.dev.instrAt p (s.dev.pc p)) = true →
    (s.dev.seqOf p).moorOk = false → ((s.dev.seqOf p).txLow = true ∨ (s.dev.seqOf p).rxLow = true) → s.dev.noReact (Ev.lockLow p) = true →
    ∃ t, exec (.issue p) s = .next t ∧
      (t.dev.seqOf p).fe = .moor (s.dev.seqOf p).txLow (s.dev.seqOf p).rxLow ∧ (t.dev.seqOf p).segs = (s.dev.seqOf p).segs ∧
      t.dev.pc p = s.dev.pc p ∧ t.dev.sameQuiet s.dev [R.seqStat p, R.seqSflag p, R.seqPc p]) ∧
  (∀ (p : Fin 4) (s : State), s.dev.runs p 10 = true → (s.dev.seqOf p).segs.length < 2 → Dev.I.count (s.dev.instrAt p (s.dev.pc p)) ≠ 0 →
    Dev.I.limit (s.dev.instrAt p (s.dev.pc p)) ≠ 0 → Dev.I.moor (s.dev.instrAt p (s.dev.pc p)) = false → ∃ t, exec (.matchUnits p) s = .next t ∧
      (t.dev.seqOf p).fe = .match_ (s.dev.seqOf p).nextSeg 1 ∧ (t.dev.seqOf p).segs.length = (s.dev.seqOf p).segs.length + 1 ∧
      (t.dev.seqOf p).nextSeg = (s.dev.seqOf p).nextSeg + 1 ∧ t.dev.pc p = s.dev.pc p ∧ t.dev.seqState p = s.dev.seqState p ∧
      t.dev.sameRegs s.dev [R.seqStat p, R.seqSflag p, R.seqPc p] ∧ t.dev = { s.dev with regs := t.dev.regs, seq := t.dev.seq }) ∧
  (∀ (p : Fin 4) (s : State), s.dev.runs p 10 = true → Dev.I.moor (s.dev.instrAt p (s.dev.pc p)) = false →
    (Dev.I.count (s.dev.instrAt p (s.dev.pc p)) = 0 ∨ Dev.I.limit (s.dev.instrAt p (s.dev.pc p)) = 0) → ∃ t, exec (.matchUnits p) s = .next t ∧
      t.dev.rn (R.seqMatchLast p) = 0 ∧ t.dev.pc p = ((s.dev.pc p + 1) % 16384) ∧
      (t.dev.seqOf p) = { (s.dev.seqOf p) with decoded := (Dev.decodeEdge (s.dev.seqOf p)), lastSeg := none } ∧
      t.dev.seqState p = s.dev.seqState p ∧ t.dev.sameRegs s.dev [R.seqStat p, R.seqSflag p, R.seqPc p, R.seqMatchLast p] ∧
      t.dev = { s.dev with regs := t.dev.regs, seq := t.dev.seq }) ∧
  (∀ (p : Fin 4) (x y : Bool) (s : State), s.dev.seqState p = 2 → (s.dev.seqOf p).fe = .moor x y → s.dev.moorFree p x y = true →
    ∃ t, exec (.mooringRelease p) s = .next t ∧
      (t.dev.seqOf p) = { (s.dev.seqOf p) with fe := .run, moorOk := true, decoded := max (Dev.decodeEdge (s.dev.seqOf p)) (s.dev.edgeAt Dev.sqclk s.dev.now) - Dev.sqclk } ∧
      t.dev.rb (R.seqStat p) F.seqStatMoored = false ∧ t.dev.seqState p = s.dev.seqState p ∧ t.dev.sameRegs s.dev [R.seqStat p, R.seqSflag p] ∧
      t.dev = { s.dev with regs := t.dev.regs, seq := t.dev.seq }) ∧
  (∀ (p : Fin 4) (g a b c x : Nat) (s : State), s.dev.seqState p = 2 → (s.dev.seqOf p).fe = .cmp g a b c →
    s.dev.decideAt (s.dev.seqOf p) g = some x → ∃ t, exec (.compareDecision p) s = .next t ∧
      (t.dev.seqOf p) = { (s.dev.seqOf p) with fe := .run, decoded := max (s.dev.seqOf p).decoded (x - Dev.sqclk) } ∧
      t.dev.pc p = (if (Dev.segRes (s.dev.seqOf p) g).fail = (decide (c = 0)) then a else b) % 16384 ∧ t.dev.seqState p = s.dev.seqState p ∧
      t.dev.sameRegs s.dev [R.seqStat p, R.seqSflag p, R.seqPc p] ∧ t.dev = { s.dev with regs := t.dev.regs, seq := t.dev.seq }) ∧
  (∀ (p : Fin 4) (g n x : Nat) (s : State), s.dev.seqState p = 2 → (s.dev.seqOf p).fe = .match_ g n →
    s.dev.decideAt (s.dev.seqOf p) g = some x → (Dev.segRes (s.dev.seqOf p) g).fail = (Dev.I.cond (s.dev.instrAt p (s.dev.pc p)) == 0) →
    n < 65536 → ∃ t, exec (.compareDecision p) s = .next t ∧
      (t.dev.seqOf p) = { (s.dev.seqOf p) with fe := .run, decoded := max (s.dev.seqOf p).decoded (x - Dev.sqclk) } ∧
      t.dev.pc p = ((s.dev.pc p + 1) % 16384) ∧ t.dev.rb (R.seqMatchLast p) F.seqMatchLastHeld = true ∧
      t.dev.rf (R.seqMatchLast p) F.seqMatchLastUnits = n ∧ t.dev.sameRegs s.dev [R.seqStat p, R.seqSflag p, R.seqPc p, R.seqMatchLast p] ∧
      t.dev = { s.dev with regs := t.dev.regs, seq := t.dev.seq })

/-- BEAT_ISSUE, VECTOR_LAUNCH, BARGE_FILL and BARGE_DRAIN (R122, R123, R125, R126, R151).  A beat of a resident segment holds the next words of the vector memory.  On a
port whose channels are not ready, a due vector launches: it is counted, the next UI follows at the next boundary, and the beat gives it up.
A barge moves 2,048 bytes between device DRAM and its lock.  When a barge frees is log 33, the model's. -/
def Obligations.BeatsAreIssuedAndLaunched : Prop :=
  (∀ (p : Fin 4) (g : Seg) (n : Nat) (s : State), 2 ≤ s.dev.seqState p → (s.dev.seqOf p).segs = [g] → (s.dev.seqOf p).fifo.length < 16 →
    g.src = 0 → g.sets = [] → g.copies = 1 → g.issued < g.count →
    n = min (Dev.beatSize (s.dev.issuePeriod p (s.dev.seqOf p).issueTs (s.dev.issueEdge (s.dev.seqOf p) g) (s.dev.seqOf p))) (g.count - g.issued) →
    ∃ t, exec (.beatIssue p) s = .next t ∧
      (t.dev.seqOf p).fifo.map Beat.words = (s.dev.seqOf p).fifo.map Beat.words ++ [(List.range n).map (fun j => mnat s.dev.sram (p * 0x200000 + 4 * (g.raddr + g.issued) + 4 * j) 4)] ∧
      (t.dev.seqOf p).issuedAt = s.dev.issueEdge (s.dev.seqOf p) g ∧ (t.dev.seqOf p).beats = (s.dev.seqOf p).beats + 1 ∧
      (t.dev.seqOf p).segs = (if g.issued + n = g.count then [] else [{ g with issued := g.issued + n }]) ∧ t.dev.seqState p = s.dev.seqState p ∧
      t.dev.sameRegs s.dev [R.seqStat p, R.seqSflag p] ∧ t.dev = { s.dev with regs := t.dev.regs, seq := t.dev.seq }) ∧
  (∀ (p : Fin 4) (b : Beat) (l : List Beat) (s : State), (s.dev.seqOf p).tref = true → (s.dev.seqOf p).stopAt = none → s.dev.pend = [] →
    (s.dev.seqOf p).fifo = b :: l → Dev.beatTs b = none → b.issue + 262144 ≤ (s.dev.seqOf p).nextUi →
    s.dev.beatNb p (s.dev.seqOf p) b ≤ (s.dev.seqOf p).nextUi → b.sets = [] → b.src = 0 → (s.dev.acqOf p).basin = false →
    (s.dev.rxFmt p).empty = true →
    (∀ c : Fin 8, s.dev.fcReady (8 * p + c) = false ∧ s.dev.fcTrack (8 * p + c) = 0 ∧ (s.dev.chan (8 * p + c)).offAt = none) →
    (∀ c : Fin 16, s.dev.ucReady (16 * p + c) = false ∧ (s.dev.chan (32 + 16 * p + c)).offAt = none) → ∃ t, exec (.vectorLaunch p) s = .next t ∧
      (t.dev.seqOf p).n = (s.dev.seqOf p).n + 1 ∧ (t.dev.seqOf p).nextUi = s.dev.boundAfter p (s.dev.seqOf p).ts (s.dev.seqOf p).nextUi ∧
      t.dev.wide (R.seqVcount0 p) 2 = (s.dev.wide (R.seqVcount0 p) 2 + 1) % 2 ^ 64 ∧
      (t.dev.seqOf p).fifo = (if b.words.length ≤ 1 then l else { b with words := b.words.drop 1, cmp := b.cmp.drop 1, ofs := b.ofs + 1 } :: l) ∧
      t.dev.chans = s.dev.chans ∧ t.dev.sameRegs s.dev [R.seqStat p, R.seqSflag p, R.seqVcount0 p, R.seqVcount1 p] ∧
      t.dev = { s.dev with regs := t.dev.regs, seq := t.dev.seq }) ∧
  (∀ (p : Fin 4) (s : State), s.dev.seqState p ≠ 0 → (s.dev.txFmt p).empty = false → Dev.txFill (s.dev.seqOf p) < 128 →
    (s.dev.seqOf p).tx.ended = false → s.dev.descValid p false (s.dev.seqOf p).tx.idx = true →
    s.dev.descBad p false (s.dev.seqOf p).tx.idx = false → s.dev.descRepeat p false (s.dev.seqOf p).tx.idx ≠ 0 → (s.dev.seqOf p).tx.pos ≠ 0 →
    (s.dev.seqOf p).tx.pos + 1 < s.dev.descBarges p false (s.dev.seqOf p).tx.idx → (∀ c : Fin 4, (s.dev.mcOf c).poison = []) →
    ∃ t, exec (.bargeFill p false) s = .next t ∧
      mread t.dev.sram (Dev.txSlot p (s.dev.seqOf p).txFetched) 2048 = mread s.dev.dram (s.dev.descAddr p false (s.dev.seqOf p).tx.idx + 2048 * (s.dev.seqOf p).tx.pos) 2048 ∧
      sameBut t.dev.sram s.dev.sram (Dev.txSlot p (s.dev.seqOf p).txFetched) 2048 ∧ (t.dev.seqOf p).txFetched = (s.dev.seqOf p).txFetched + 1 ∧
      (t.dev.seqOf p).tx.pos = (s.dev.seqOf p).tx.pos + 1 ∧ t.dev.rf (R.lksTxFill p) F.lksTxFillFill = Dev.txFill (s.dev.seqOf p) + 1 ∧
      t.dev.sameRegs s.dev [R.seqStat p, R.seqSflag p, R.lksTxFill p, R.lksDescStat p] ∧
      t.dev = { s.dev with regs := t.dev.regs, seq := t.dev.seq, sram := t.dev.sram }) ∧
  (∀ (p : Fin 4) (s : State), s.dev.seqState p ≠ 0 → (s.dev.acqOf p).basin = false → (s.dev.seqOf p).rxDrained < s.dev.rxFull p →
    (s.dev.seqOf p).rx.ended = false → s.dev.descValid p true (s.dev.seqOf p).rx.idx = true →
    s.dev.descBad p true (s.dev.seqOf p).rx.idx = false → (s.dev.seqOf p).rx.pos + 1 < s.dev.descBarges p true (s.dev.seqOf p).rx.idx →
    s.dev.mcLazy = false → ∃ t, exec (.bargeDrain p) s = .next t ∧
      mread t.dev.dram (s.dev.descAddr p true (s.dev.seqOf p).rx.idx + 2048 * (s.dev.seqOf p).rx.pos) 2048 = mread s.dev.sram (Dev.rxSlot p (s.dev.seqOf p).rxDrained) 2048 ∧
      sameBut t.dev.dram s.dev.dram (s.dev.descAddr p true (s.dev.seqOf p).rx.idx + 2048 * (s.dev.seqOf p).rx.pos) 2048 ∧
      (t.dev.seqOf p).rxDrained = (s.dev.seqOf p).rxDrained + 1 ∧ (t.dev.seqOf p).rx.pos = (s.dev.seqOf p).rx.pos + 1 ∧
      t.dev.sameRegs s.dev [R.seqStat p, R.seqSflag p, R.lksRxFill p, R.lksDescStat p, R.mcStat 0, R.mcStat 1, R.mcStat 2, R.mcStat 3] ∧
      t.dev = { s.dev with regs := t.dev.regs, seq := t.dev.seq, dram := t.dev.dram, mc := t.dev.mc })

/-! ### The pattern generator (06_algorithmic_generators_and_codecs.md) -/

/-- BLOCK, FIELD, NEXT, APG_LOOP, ORDER, CRC, END and SETLC (R164, R168, R172 to R175), for the segment that the port's generator produces.  NEXT advances the
address and branches on the wrap; LOOP counts down or goes on; SETLC loads a loop counter; ORDER sets an order that fits; END stops at itself;
CRC emits and presets; a FIELD goes on to the next; a BLOCK of one step steps the address once.  That commands take these steps one by one is log 64. -/
def Obligations.MicroInstructionsDriveTheGenerator : Prop :=
  (∀ (p : Fin 4) (g : Seg) (a : Apg) (s : State), s.dev.produces p 3 g a = true → ∃ t, exec (.next p) s = .next t ∧
      (t.dev.apgOf p).k = (if a.k + 1 = s.dev.apgXs p * s.dev.apgYs p then 0 else a.k + 1) ∧
      ((t.dev.apgOf p).x, (t.dev.apgOf p).y) = Dev.orderXY (s.dev.apgXs p) (s.dev.apgYs p) a.order a.down a.swap (if a.k + 1 = s.dev.apgXs p * s.dev.apgYs p then 0 else a.k + 1) ∧
      (t.dev.apgOf p).wrapped = decide (a.k + 1 = s.dev.apgXs p * s.dev.apgYs p) ∧
      (t.dev.apgOf p).upc = (if (Dev.U.br (s.dev.ucode p a.upc) = 1 ∧ a.k + 1 ≠ s.dev.apgXs p * s.dev.apgYs p) ∨ (Dev.U.br (s.dev.ucode p a.upc) = 2 ∧ a.k + 1 = s.dev.apgXs p * s.dev.apgYs p) then Dev.U.target (s.dev.ucode p a.upc) else (a.upc + 1) % 16) ∧
      t.dev.seq = s.dev.seq ∧ t.dev.sameRegs s.dev [R.apgStat p, R.apgCrc p, R.apgK0 p, R.apgK1 p] ∧
      t.dev = { s.dev with regs := t.dev.regs, apg := t.dev.apg }) ∧
  (∀ (p : Fin 4) (g : Seg) (a : Apg) (s : State), s.dev.produces p 4 g a = true → ∃ t, exec (.apgLoop p) s = .next t ∧
      (t.dev.apgOf p).lc = (if ((a.lc[Dev.U.lcsel (s.dev.ucode p a.upc)]?).getD 0) = 0 then a.lc else lset a.lc (Dev.U.lcsel (s.dev.ucode p a.upc)) (((a.lc[Dev.U.lcsel (s.dev.ucode p a.upc)]?).getD 0) - 1)) ∧
      (t.dev.apgOf p).upc = (if ((a.lc[Dev.U.lcsel (s.dev.ucode p a.upc)]?).getD 0) = 0 then (a.upc + 1) % 16 else Dev.U.target (s.dev.ucode p a.upc)) ∧
      (t.dev.apgOf p).k = a.k ∧ t.dev.seq = s.dev.seq ∧ t.dev.sameRegs s.dev [R.apgStat p, R.apgCrc p, R.apgK0 p, R.apgK1 p] ∧
      t.dev = { s.dev with regs := t.dev.regs, apg := t.dev.apg }) ∧
  (∀ (p : Fin 4) (g : Seg) (a : Apg) (s : State), s.dev.produces p 8 g a = true → ∃ t, exec (.setlc p) s = .next t ∧
      (t.dev.apgOf p).lc = lset a.lc (Dev.U.lcsel (s.dev.ucode p a.upc)) (Dev.U.n (s.dev.ucode p a.upc)) ∧
      (t.dev.apgOf p).upc = (a.upc + 1) % 16 ∧ (t.dev.apgOf p).k = a.k ∧ t.dev.seq = s.dev.seq ∧
      t.dev.sameRegs s.dev [R.apgStat p, R.apgCrc p, R.apgK0 p, R.apgK1 p] ∧ t.dev = { s.dev with regs := t.dev.regs, apg := t.dev.apg }) ∧
  (∀ (p : Fin 4) (g : Seg) (a : Apg) (s : State), s.dev.produces p 7 g a = true → s.dev.noReact (Ev.apgProgErr p) = true →
    s.dev.noReact (Ev.apgEnd p) = true → ∃ t, exec (.endMicro p) s = .next t ∧
      (t.dev.apgOf p).ended = some a.upc ∧ (t.dev.apgOf p).upc = a.upc ∧ t.dev.rf (R.apgStat p) F.apgStatState = 3 ∧ t.dev.seq = s.dev.seq ∧
      t.dev.sameQuiet s.dev [R.apgStat p, R.apgCrc p, R.apgK0 p, R.apgK1 p] ∧
      t.dev = { s.dev with regs := t.dev.regs, apg := t.dev.apg, evt := t.dev.evt, sram := t.dev.sram, hostMem := t.dev.hostMem, hif := t.dev.hif, seq := t.dev.seq, chans := t.dev.chans, lvls := t.dev.lvls, acq := t.dev.acq }) ∧
  (∀ (p : Fin 4) (g : Seg) (a : Apg) (s : State), s.dev.produces p 5 g a = true →
    Dev.orderOk (s.dev.apgXs p) (s.dev.apgYs p) (nbits (s.dev.ucode p a.upc) 35 32) (nbit (s.dev.ucode p a.upc) 31) (nbit (s.dev.ucode p a.upc) 30) = true →
    ∃ t, exec (.order p) s = .next t ∧
      (t.dev.apgOf p).order = nbits (s.dev.ucode p a.upc) 35 32 ∧ (t.dev.apgOf p).down = nbit (s.dev.ucode p a.upc) 31 ∧
      (t.dev.apgOf p).swap = nbit (s.dev.ucode p a.upc) 30 ∧ (t.dev.apgOf p).k = (if nbit (s.dev.ucode p a.upc) 29 then 0 else a.k) ∧
      (t.dev.apgOf p).upc = (a.upc + 1) % 16 ∧ t.dev.seq = s.dev.seq ∧ t.dev.sameRegs s.dev [R.apgStat p, R.apgCrc p, R.apgK0 p, R.apgK1 p] ∧
      t.dev = { s.dev with regs := t.dev.regs, apg := t.dev.apg }) ∧
  (∀ (p : Fin 4) (g : Seg) (a : Apg) (s : State), s.dev.produces p 5 g a = true → s.dev.noReact (Ev.apgProgErr p) = true →
    s.dev.noReact (Ev.apgEnd p) = true →
    Dev.orderOk (s.dev.apgXs p) (s.dev.apgYs p) (nbits (s.dev.ucode p a.upc) 35 32) (nbit (s.dev.ucode p a.upc) 31) (nbit (s.dev.ucode p a.upc) 30) = false →
    ∃ t, exec (.order p) s = .next t ∧
      (t.dev.apgOf p).order = a.order ∧ (t.dev.apgOf p).upc = (a.upc + 1) % 16 ∧ t.dev.seq = s.dev.seq ∧
      t.dev.sameQuiet s.dev [R.apgStat p, R.apgCrc p, R.apgK0 p, R.apgK1 p] ∧
      t.dev = { s.dev with regs := t.dev.regs, apg := t.dev.apg, evt := t.dev.evt, sram := t.dev.sram, hostMem := t.dev.hostMem, hif := t.dev.hif, seq := t.dev.seq, chans := t.dev.chans, lvls := t.dev.lvls, acq := t.dev.acq }) ∧
  (∀ (p : Fin 4) (g : Seg) (a : Apg) (s : State), s.dev.produces p 6 g a = true → s.dev.noReact (Ev.apgProgErr p) = true →
    s.dev.noReact (Ev.apgEnd p) = true → Dev.U.stream (s.dev.ucode p a.upc) = 1 → ∃ t, exec (.crc p) s = .next t ∧
      (t.dev.apgOf p).crcTx = 0xFFFF ∧ (t.dev.apgOf p).crcCmp = a.crcCmp ∧ (t.dev.apgOf p).upc = (a.upc + 1) % 16 ∧ (t.dev.apgOf p).k = a.k ∧
      t.dev.seq = s.dev.seq ∧ t.dev.sameQuiet s.dev [R.apgStat p, R.apgCrc p, R.apgK0 p, R.apgK1 p] ∧
      t.dev = { s.dev with regs := t.dev.regs, apg := t.dev.apg, evt := t.dev.evt, sram := t.dev.sram, hostMem := t.dev.hostMem, hif := t.dev.hif, seq := t.dev.seq, chans := t.dev.chans, lvls := t.dev.lvls, acq := t.dev.acq }) ∧
  (∀ (p : Fin 4) (g : Seg) (a : Apg) (s : State), s.dev.produces p 2 g a = true → s.dev.noReact (Ev.apgProgErr p) = true →
    s.dev.noReact (Ev.apgEnd p) = true → ∃ t, exec (.field p) s = .next t ∧
      (t.dev.apgOf p).upc = (a.upc + 1) % 16 ∧ (t.dev.apgOf p).k = a.k ∧ (t.dev.apgOf p).order = a.order ∧ (t.dev.apgOf p).lc = a.lc ∧
      t.dev.seq = s.dev.seq ∧ t.dev.sameQuiet s.dev [R.apgStat p, R.apgCrc p, R.apgK0 p, R.apgK1 p] ∧
      t.dev = { s.dev with regs := t.dev.regs, apg := t.dev.apg, evt := t.dev.evt, sram := t.dev.sram, hostMem := t.dev.hostMem, hif := t.dev.hif, seq := t.dev.seq, chans := t.dev.chans, lvls := t.dev.lvls, acq := t.dev.acq }) ∧
  (∀ (p : Fin 4) (g : Seg) (a : Apg) (s : State), s.dev.produces p 1 g a = true → s.dev.noReact (Ev.apgProgErr p) = true →
    s.dev.noReact (Ev.apgEnd p) = true → Dev.U.n (s.dev.ucode p a.upc) = 1 → a.step = 0 → a.slot = 0 → ∃ t, exec (.block p) s = .next t ∧
      (t.dev.apgOf p).upc = (a.upc + 1) % 16 ∧ (t.dev.apgOf p).k = (if a.k + 1 = s.dev.apgXs p * s.dev.apgYs p then 0 else a.k + 1) ∧
      (t.dev.apgOf p).step = 0 ∧ (t.dev.apgOf p).lc = a.lc ∧ t.dev.seq = s.dev.seq ∧
      t.dev.sameQuiet s.dev [R.apgStat p, R.apgCrc p, R.apgK0 p, R.apgK1 p] ∧
      t.dev = { s.dev with regs := t.dev.regs, apg := t.dev.apg, evt := t.dev.evt, sram := t.dev.sram, hostMem := t.dev.hostMem, hif := t.dev.hif, seq := t.dev.seq, chans := t.dev.chans, lvls := t.dev.lvls, acq := t.dev.acq }) ∧
  (∀ (p : Fin 4) (g : Seg) (a : Apg) (s : State), s.dev.produces p 1 g a = true → Dev.U.n (s.dev.ucode p a.upc) = 0 →
    ∃ t, exec (.block p) s = .next t ∧
      (t.dev.apgOf p).upc = (a.upc + 1) % 16 ∧ (t.dev.apgOf p).k = a.k ∧ (t.dev.apgOf p).step = a.step ∧ t.dev.seq = s.dev.seq ∧
      t.dev.sameRegs s.dev [R.apgStat p, R.apgCrc p, R.apgK0 p, R.apgK1 p] ∧ t.dev = { s.dev with regs := t.dev.regs, apg := t.dev.apg })

/-! ### Channels, levels and PMU (08_formatters_and_drive.md, 09_levels_pmu_and_analog_dds.md) -/

/-- CHANNEL_ENABLE, CHANNEL_READY, CHANNEL_DISABLE and DISABLE_SEQUENCE_END (R245 to R248, R254).  ENABLE = 1 on a channel that is off begins the enable
sequence, clears SAFE and lets the levels follow their codes; READY then shows 1.  ENABLE = 0 begins the disable sequence, in which READY falls
at once where the port launches nothing, and at a boundary at least 80 ns later where it does; at its end the channel is off. -/
def Obligations.ChannelsEnableAndDisableInSequence : Prop :=
  (∀ (path : Fin 7) (i : Fin 96) (w : Word) (s : State), s.dev.takesCtrl path (Dev.chPage i) w.toNat = true → nbits w.toNat 1 0 = 1 →
    s.dev.noReact Ev.capOver = true → (s.dev.chan i).phase = 0 → s.dev.enableOk i = true → ∃ t, exec (.channelEnable path i w) s = .next t ∧
      t.dev.rb (pctl (Dev.chPage i)) F.ctlEnable = true ∧
      t.dev.rb (if i.val < 32 then R.fchDrvStat i.val else R.uchDrvStat (i.val - 32)) F.fchDrvStatSafe = false ∧ (t.dev.chan i).phase = 1 ∧
      (t.dev.lvl i).follow = true ∧
      t.dev.rb (if i.val < 32 then R.fchDrvStat i.val else R.uchDrvStat (i.val - 32)) F.fchDrvStatReady = s.dev.rb (if i.val < 32 then R.fchDrvStat i.val else R.uchDrvStat (i.val - 32)) F.fchDrvStatReady ∧
      t.dev.sameQuiet s.dev [pctl (Dev.chPage i), (if i.val < 32 then R.fchDrvStat i.val else R.uchDrvStat (i.val - 32)), (if i.val < 32 then R.fchLvlStat i.val else R.uchLvlStat (i.val - 32)), R.glbProfile, pstat (Dev.chPage i)] ∧
      t.dev = { s.dev with regs := t.dev.regs, chans := t.dev.chans, lvls := t.dev.lvls, fresh := t.dev.fresh, evt := t.dev.evt, sram := t.dev.sram, hostMem := t.dev.hostMem, hif := t.dev.hif, seq := t.dev.seq, acq := t.dev.acq }) ∧
  (∀ (i : Fin 96) (s : State), s.dev.chOnline i = true → (s.dev.chan i).phase = 1 → (∀ e : Fin 4, s.dev.sbOn (Dev.chPort i) e = false) →
    ∃ t, exec (.channelReady i) s = .next t ∧
      (t.dev.chan i).phase = 2 ∧ t.dev.rb (if i.val < 32 then R.fchDrvStat i.val else R.uchDrvStat (i.val - 32)) F.fchDrvStatReady = true ∧
      t.dev.sameQuiet s.dev [(if i.val < 32 then R.fchDrvStat i.val else R.uchDrvStat (i.val - 32)), R.fchEyeStat i, R.fchDrvCnt i] ∧
      t.dev = { s.dev with regs := t.dev.regs, chans := t.dev.chans, evt := t.dev.evt, sram := t.dev.sram, hostMem := t.dev.hostMem, hif := t.dev.hif, seq := t.dev.seq, lvls := t.dev.lvls, acq := t.dev.acq }) ∧
  (∀ (path : Fin 7) (i : Fin 96) (w : Word) (s : State), s.dev.takesCtrl path (Dev.chPage i) w.toNat = true → w = 0 →
    s.dev.noReact Ev.capOver = true → s.dev.rb (pctl (Dev.chPage i)) F.ctlEnable = true → (s.dev.chan i).phase = 2 →
    (s.dev.seqOf (Dev.chPort i)).tref = false → ∃ t, exec (.channelDisable path i w) s = .next t ∧
      t.dev.rb (pctl (Dev.chPage i)) F.ctlEnable = false ∧ (t.dev.chan i).phase = 3 ∧ (t.dev.chan i).offAt = none ∧
      t.dev.rb (if i.val < 32 then R.fchDrvStat i.val else R.uchDrvStat (i.val - 32)) F.fchDrvStatReady = false ∧
      t.dev.sameQuiet s.dev [pctl (Dev.chPage i), (if i.val < 32 then R.fchDrvStat i.val else R.uchDrvStat (i.val - 32)), R.fchEyeStat i, R.uchPmuStat (i.val - 32), R.glbProfile, pstat (Dev.chPage i)] ∧
      t.dev = { s.dev with regs := t.dev.regs, chans := t.dev.chans, lvls := t.dev.lvls, evt := t.dev.evt, sram := t.dev.sram, hostMem := t.dev.hostMem, hif := t.dev.hif, seq := t.dev.seq, acq := t.dev.acq }) ∧
  (∀ (path : Fin 7) (i : Fin 96) (w : Word) (s : State), s.dev.takesCtrl path (Dev.chPage i) w.toNat = true → w = 0 →
    s.dev.noReact Ev.capOver = true → s.dev.rb (pctl (Dev.chPage i)) F.ctlEnable = true → (s.dev.chan i).phase = 2 →
    (s.dev.seqOf (Dev.chPort i)).tref = true → ∃ t, exec (.channelDisable path i w) s = .next t ∧
      t.dev.rb (pctl (Dev.chPage i)) F.ctlEnable = false ∧ (t.dev.chan i).phase = 3 ∧
      (t.dev.chan i).offAt = some (s.dev.boundAt (Dev.chPort i) (s.dev.seqOf (Dev.chPort i)).ts (s.dev.now + 4194304)) ∧
      t.dev.rb (if i.val < 32 then R.fchDrvStat i.val else R.uchDrvStat (i.val - 32)) F.fchDrvStatReady = s.dev.rb (if i.val < 32 then R.fchDrvStat i.val else R.uchDrvStat (i.val - 32)) F.fchDrvStatReady ∧
      t.dev.sameQuiet s.dev [pctl (Dev.chPage i), R.uchPmuStat (i.val - 32), R.glbProfile, pstat (Dev.chPage i)] ∧
      t.dev = { s.dev with regs := t.dev.regs, chans := t.dev.chans, lvls := t.dev.lvls, evt := t.dev.evt, sram := t.dev.sram, hostMem := t.dev.hostMem, hif := t.dev.hif, seq := t.dev.seq, acq := t.dev.acq }) ∧
  (∀ (i : Fin 96) (s : State), ((s.dev.chan i).phase = 3 ∨ (s.dev.chan i).phase = 4) → ∃ t, exec (.disableSequenceEnd i) s = .next t ∧
      (t.dev.chan i).phase = 0 ∧ (t.dev.chan i).offAt = none ∧ (t.dev.chan i).driven = false ∧
      ((s.dev.chan i).offAt = none ∨ t.dev.rb (if i.val < 32 then R.fchDrvStat i.val else R.uchDrvStat (i.val - 32)) F.fchDrvStatReady = false) ∧
      t.dev.sameQuiet s.dev [(if i.val < 32 then R.fchDrvStat i.val else R.uchDrvStat (i.val - 32)), R.fchEyeStat i] ∧
      t.dev = { s.dev with regs := t.dev.regs, chans := t.dev.chans, evt := t.dev.evt, sram := t.dev.sram, hostMem := t.dev.hostMem, hif := t.dev.hif, seq := t.dev.seq, lvls := t.dev.lvls, acq := t.dev.acq })

/-- COMPLIANCE_FAULT_START and END, DRIVER_SHORT_DETECT and END, CLAMP_OVERDRIVE_DETECT and END, AUTO_TERMINATE (R227, R231, R235, R242).  A fault that
begins on a leg without one is counted once and shown until it ends.  The automatic termination is on from both legs low until one is high. -/
def Obligations.DriverFaultsAreCountedOnce : Prop :=
  (∀ (n : Fin 32) (kinds : Fin 64) (s : State), s.dev.chOnline n = true → s.dev.chLive n = true → s.dev.noReact (Ev.drvCompliance n) = true →
    s.dev.lf (R.fchDrvCfg n) F.fchDrvCfgMode = 1 → s.dev.rf (R.fchDrvStat n) F.fchDrvStatCmplLive = 0 → kinds.val % 8 ≠ 0 → kinds.val / 8 = 0 →
    ∃ t, exec (.complianceFaultStart n kinds) s = .next t ∧
      t.dev.rf (R.fchDrvCnt n) F.fchDrvCntCmpl = min 255 (s.dev.rf (R.fchDrvCnt n) F.fchDrvCntCmpl + 1) ∧
      t.dev.rf (R.fchDrvStat n) F.fchDrvStatCmplLive = 1 ∧
      t.dev.rf (R.fchDrvStat n) F.fchDrvStatCmplKind = (if nbit kinds 0 then 1 else if nbit kinds 1 then 2 else 3) ∧
      t.dev.sameQuiet s.dev [R.fchDrvCnt n, R.fchDrvStat n] ∧
      t.dev = { s.dev with regs := t.dev.regs, evt := t.dev.evt, sram := t.dev.sram, hostMem := t.dev.hostMem, hif := t.dev.hif, seq := t.dev.seq, chans := t.dev.chans, lvls := t.dev.lvls, acq := t.dev.acq }) ∧
  (∀ (n : Fin 32) (legs : Fin 4) (s : State), s.dev.chOnline n = true → s.dev.noReact (Ev.drvCompliance n) = true →
    ∃ t, exec (.complianceFaultEnd n legs) s = .next t ∧
      t.dev.rf (R.fchDrvStat n) F.fchDrvStatCmplLive = s.dev.rf (R.fchDrvStat n) F.fchDrvStatCmplLive - (s.dev.rf (R.fchDrvStat n) F.fchDrvStatCmplLive &&& legs.val) ∧
      t.dev.sameQuiet s.dev [R.fchDrvStat n] ∧
      t.dev = { s.dev with regs := t.dev.regs, evt := t.dev.evt, sram := t.dev.sram, hostMem := t.dev.hostMem, hif := t.dev.hif, seq := t.dev.seq, chans := t.dev.chans, lvls := t.dev.lvls, acq := t.dev.acq }) ∧
  (∀ (n : Fin 32) (legs : Fin 4) (s : State), s.dev.chOnline n = true → s.dev.chLive n = true → s.dev.lf (R.fchDrvCfg n) F.fchDrvCfgMode = 0 →
    legs.val ≠ 0 → s.dev.rf (R.fchDrvStat n) F.fchDrvStatShortLive = 0 → ∃ t, exec (.driverShortDetect n legs) s = .next t ∧
      t.dev.rf (R.fchDrvCnt n) F.fchDrvCntShort = min 255 (s.dev.rf (R.fchDrvCnt n) F.fchDrvCntShort + popCount 2 legs) ∧
      t.dev.rf (R.fchDrvStat n) F.fchDrvStatShortLive = legs ∧ t.dev.sameQuiet s.dev [R.fchDrvCnt n, R.fchDrvStat n] ∧
      t.dev = { s.dev with regs := t.dev.regs, evt := t.dev.evt, sram := t.dev.sram, hostMem := t.dev.hostMem, hif := t.dev.hif, seq := t.dev.seq, chans := t.dev.chans, lvls := t.dev.lvls, acq := t.dev.acq }) ∧
  (∀ (n : Fin 32) (legs : Fin 4) (s : State), s.dev.chOnline n = true → ∃ t, exec (.driverShortEnd n legs) s = .next t ∧
      t.dev.rf (R.fchDrvStat n) F.fchDrvStatShortLive = s.dev.rf (R.fchDrvStat n) F.fchDrvStatShortLive - (s.dev.rf (R.fchDrvStat n) F.fchDrvStatShortLive &&& legs.val) ∧
      t.dev.sameQuiet s.dev [R.fchDrvStat n] ∧
      t.dev = { s.dev with regs := t.dev.regs, evt := t.dev.evt, sram := t.dev.sram, hostMem := t.dev.hostMem, hif := t.dev.hif, seq := t.dev.seq, chans := t.dev.chans, lvls := t.dev.lvls, acq := t.dev.acq }) ∧
  (∀ (m : Fin 64) (what : Fin 8) (s : State), s.dev.chOnline (32 + m) = true → s.dev.chLive (32 + m) = true → s.dev.clampsOn m = true →
    s.dev.rf (R.uchDrvStat m) Dev.F.uchDrvOver = 0 → what.val ≠ 0 → ∃ t, exec (.clampOverdriveDetect m what) s = .next t ∧
      t.dev.rf (R.uchDrvStat m) Dev.F.uchDrvOver = what ∧
      t.dev.rf (R.uchDrvCnt m) F.uchDrvCntClamp = min 65535 (s.dev.rf (R.uchDrvCnt m) F.uchDrvCntClamp + popCount 2 (what.val / 2)) ∧
      t.dev.rf (R.uchDrvCnt m) F.uchDrvCntIlim = min 65535 (s.dev.rf (R.uchDrvCnt m) F.uchDrvCntIlim + what.val % 2) ∧
      t.dev.sameQuiet s.dev [R.uchDrvCnt m, R.uchDrvStat m] ∧
      t.dev = { s.dev with regs := t.dev.regs, evt := t.dev.evt, sram := t.dev.sram, hostMem := t.dev.hostMem, hif := t.dev.hif, seq := t.dev.seq, chans := t.dev.chans, lvls := t.dev.lvls, acq := t.dev.acq }) ∧
  (∀ (m : Fin 64) (what : Fin 8) (s : State), s.dev.chOnline (32 + m) = true → ∃ t, exec (.clampOverdriveEnd m what) s = .next t ∧
      t.dev.rf (R.uchDrvStat m) Dev.F.uchDrvOver = s.dev.rf (R.uchDrvStat m) Dev.F.uchDrvOver - (s.dev.rf (R.uchDrvStat m) Dev.F.uchDrvOver &&& what.val) ∧
      t.dev.sameQuiet s.dev [R.uchDrvStat m] ∧
      t.dev = { s.dev with regs := t.dev.regs, evt := t.dev.evt, sram := t.dev.sram, hostMem := t.dev.hostMem, hif := t.dev.hif, seq := t.dev.seq, chans := t.dev.chans, lvls := t.dev.lvls, acq := t.dev.acq }) ∧
  (∀ (n : Fin 32) (s : State), s.dev.fcReady n = true → s.dev.lf (R.fchLpCfg n) F.fchLpCfgAutoTerm = 1 → s.dev.cdcMode n = 5 →
    (s.dev.chan n).on = false → ∃ t, exec (.autoTerminate n true) s = .next t ∧
      (t.dev.chan n).term = true ∧ t.dev.sameRegs s.dev [] ∧ t.dev = { s.dev with regs := t.dev.regs, chans := t.dev.chans }) ∧
  (∀ (n : Fin 32) (s : State), ∃ t, exec (.autoTerminate n false) s = .next t ∧
      (t.dev.chan n).term = false ∧ t.dev.sameRegs s.dev [] ∧ t.dev = { s.dev with regs := t.dev.regs, chans := t.dev.chans })

/-- LDAC_SETTLED, TONE_SAMPLE and PRT_UCOWN_WRITE (R14, R17, R255, R256, R271).  A settling level stands at its target and no longer settles.  At a tone
edge every channel of the port takes the tone of that sample.  A write of the owners gives each utility channel of that word its code. -/
def Obligations.LevelsSettleAndTonesStep : Prop :=
  (∀ (i : Fin 96) (j : Fin 8) (s : State), (s.dev.ldacOf i j).due.isSome = true → ∃ t, exec (.ldacSettled i j) s = .next t ∧
      (t.dev.ldacOf i j).cur = (s.dev.ldacOf i j).tgt ∧ (t.dev.ldacOf i j).tgt = (s.dev.ldacOf i j).tgt ∧ (t.dev.ldacOf i j).due = none ∧
      nbit (t.dev.rn (if i.val < 32 then R.fchLvlStat i.val else R.uchLvlStat (i.val - 32))) (8 + j) = false ∧
      (∀ k : Fin 8, k ≠ j → t.dev.ldacOf i k = s.dev.ldacOf i k) ∧
      t.dev.sameRegs s.dev [(if i.val < 32 then R.fchLvlStat i.val else R.uchLvlStat (i.val - 32))] ∧
      t.dev = { s.dev with regs := t.dev.regs, lvls := t.dev.lvls }) ∧
  (∀ (p : Fin 4) (s : State), ∃ t, exec (.toneSample p) s = .next t ∧
      (∀ i ∈ Dev.portChans p, (t.dev.lvl i).tone = s.dev.toneOffset i (s.dev.ddsIndex p (s.dev.toneEdge p))) ∧
      t.dev.sameRegs s.dev ((Dev.portChans p).map (fun i => if i < 32 then R.fchLvlStat i else R.uchLvlStat (i - 32))) ∧
      t.dev.chans = s.dev.chans ∧ t.dev = { s.dev with regs := t.dev.regs, lvls := t.dev.lvls, fresh := t.dev.fresh }) ∧
  (∀ (path : Fin 7) (p : Fin 4) (hi : Bool) (w : Word) (s : State),
    s.dev.takes path (if hi then R.prtUcown1 p else R.prtUcown0 p) w.toNat = true → ∃ t, exec (.prtUcownWrite path p hi w) s = .next t ∧
      (∀ u : Fin 8, t.dev.ucOwner (16 * p + (if hi then 8 else 0) + u) = nbits w.toNat (4 * u + 3) (4 * u)) ∧
      (∀ u : Fin 8, t.dev.ucOwner (16 * p + (if hi then 0 else 8) + u) = s.dev.ucOwner (16 * p + (if hi then 0 else 8) + u)) ∧
      t.dev.sameQuiet s.dev ([if hi then R.prtUcown1 p else R.prtUcown0 p, pstat (ppage p 0)] ++ (List.range 32).map (fun k => if k < 16 then R.uchDrvStat (16 * p + k) else R.uchPmuStat (16 * p + k - 16))) ∧
      t.dev = { s.dev with regs := t.dev.regs, lvls := t.dev.lvls, evt := t.dev.evt, sram := t.dev.sram, hostMem := t.dev.hostMem, hif := t.dev.hif, seq := t.dev.seq, chans := t.dev.chans, acq := t.dev.acq })

/-- PMU_CTRL_WRITE, PMU_SWITCH_CLOSE, RANGE_CHANGE_END, PMU_FAULT_START and PMU_FAULT_END (R259, R261, R263 to R265).  A write that lets a PMU of an
idle port force closes its switch 2 µs after the next ACLK edge; it is on from then.  A range change ends with the new range in force and the
faults over.  A fault is counted and shown by its kind until it ends. -/
def Obligations.PmusForceMeasureRangesAndFaults : Prop :=
  (∀ (path : Fin 7) (m : Fin 64) (w : Word) (s : State), s.dev.takes path (R.uchPmuCtrl m) w.toNat = true → s.dev.running (m / 16) = false →
    s.dev.rangeBusy m = false → s.dev.ucOwner m = 8 → s.dev.rb (pctl (0x240 + m)) F.ctlEnable = true → nbits w.toNat 25 24 ≠ 0 →
    s.dev.pmuOn m = false → (s.dev.lvl (32 + m)).closeAt = none → ∃ t, exec (.pmuCtrlWrite path m w) s = .next t ∧
      t.dev.lv (R.uchPmuCtrl m) = w ∧ (t.dev.lvl (32 + m)).closeAt = some (s.dev.edgeAt 524288 s.dev.now + 104857600) ∧
      t.dev.rb (R.uchPmuStat m) F.uchPmuStatOn = false ∧
      t.dev.rf (R.uchPmuStat m) F.uchPmuStatRange = (if s.dev.lf (R.uchPmuCtrl m) F.uchPmuCtrlIrange = nbits w.toNat 30 28 then s.dev.rf (R.uchPmuStat m) F.uchPmuStatRange else nbits w.toNat 30 28) ∧
      t.dev.sameQuiet s.dev [R.uchPmuCtrl m, R.uchPmuStat m, R.uchLvlStat m, R.ddsStat (m / 16), pstat (0x240 + m)] ∧
      t.dev = { s.dev with regs := t.dev.regs, live := t.dev.live, lvls := t.dev.lvls, fresh := t.dev.fresh, evt := t.dev.evt, sram := t.dev.sram, hostMem := t.dev.hostMem, hif := t.dev.hif, seq := t.dev.seq, chans := t.dev.chans, acq := t.dev.acq }) ∧
  (∀ (m : Fin 64) (s : State), (s.dev.lvl (32 + m)).closeAt.isSome = true → s.dev.pmuMayForce m = true →
    ∃ t, exec (.pmuSwitchClose m) s = .next t ∧
      t.dev.rb (R.uchPmuStat m) F.uchPmuStatOn = true ∧ (t.dev.lvl (32 + m)).closeAt = none ∧ t.dev.sameRegs s.dev [R.uchPmuStat m] ∧
      t.dev = { s.dev with regs := t.dev.regs, lvls := t.dev.lvls }) ∧
  (∀ (m : Fin 64) (s : State), s.dev.rangeBusy m = true → (s.dev.lvl (32 + m)).stored = none → ∃ t, exec (.rangeChangeEnd m) s = .next t ∧
      t.dev.rb (R.uchPmuStat m) F.uchPmuStatRangeBusy = false ∧
      t.dev.rf (R.uchPmuStat m) F.uchPmuStatRange = s.dev.lf (R.uchPmuCtrl m) F.uchPmuCtrlIrange ∧
      t.dev.rb (R.uchPmuStat m) F.uchPmuStatOpenLive = false ∧ t.dev.rb (R.uchPmuStat m) F.uchPmuStatComplLive = false ∧
      (t.dev.lvl (32 + m)).rangeAt = none ∧ t.dev.sameQuiet s.dev [R.uchPmuStat m] ∧
      t.dev = { s.dev with regs := t.dev.regs, lvls := t.dev.lvls, evt := t.dev.evt, sram := t.dev.sram, hostMem := t.dev.hostMem, hif := t.dev.hif, seq := t.dev.seq, chans := t.dev.chans, acq := t.dev.acq }) ∧
  (∀ (m : Fin 64) (rows : Fin 8) (s : State), s.dev.noReact (Ev.pmuOpen m) = true → s.dev.noReact (Ev.pmuCompliance m) = true →
    s.dev.pmuOn m = true → s.dev.rangeBusy m = false → s.dev.pmuMode m = 2 → rows.val ≠ 0 → ∃ t, exec (.pmuFaultStart m rows) s = .next t ∧
      t.dev.rf (R.uchPmuStat m) F.uchPmuStatKind = (if nbit rows 0 then 1 else if nbit rows 1 then 2 else 3) ∧
      t.dev.rf (R.uchPmuCnt m) F.uchPmuCntOpen = min 65535 (s.dev.rf (R.uchPmuCnt m) F.uchPmuCntOpen + popCount 2 rows) ∧
      t.dev.rf (R.uchPmuCnt m) F.uchPmuCntCompl = min 65535 (s.dev.rf (R.uchPmuCnt m) F.uchPmuCntCompl + rows.val / 4) ∧
      (rows.val % 4 = 0 ∨ t.dev.rb (R.uchPmuStat m) F.uchPmuStatOpenLive = true) ∧
      (rows.val < 4 ∨ t.dev.rb (R.uchPmuStat m) F.uchPmuStatComplLive = true) ∧ t.dev.sameQuiet s.dev [R.uchPmuStat m, R.uchPmuCnt m] ∧
      t.dev = { s.dev with regs := t.dev.regs, evt := t.dev.evt, sram := t.dev.sram, hostMem := t.dev.hostMem, hif := t.dev.hif, seq := t.dev.seq, chans := t.dev.chans, lvls := t.dev.lvls, acq := t.dev.acq }) ∧
  (∀ (m : Fin 64) (o c : Bool) (s : State), s.dev.noReact (Ev.pmuOpen m) = true → s.dev.noReact (Ev.pmuCompliance m) = true →
    s.dev.rangeBusy m = false → ∃ t, exec (.pmuFaultEnd m o c) s = .next t ∧
      t.dev.rb (R.uchPmuStat m) F.uchPmuStatOpenLive = (s.dev.rb (R.uchPmuStat m) F.uchPmuStatOpenLive && !o) ∧
      t.dev.rb (R.uchPmuStat m) F.uchPmuStatComplLive = (s.dev.rb (R.uchPmuStat m) F.uchPmuStatComplLive && !c) ∧
      t.dev.sameQuiet s.dev [R.uchPmuStat m] ∧
      t.dev = { s.dev with regs := t.dev.regs, evt := t.dev.evt, sram := t.dev.sram, hostMem := t.dev.hostMem, hif := t.dev.hif, seq := t.dev.seq, chans := t.dev.chans, lvls := t.dev.lvls, acq := t.dev.acq })

/-! ### Compare, fail processor and eye monitor (06, 10_compare_and_fail.md) -/

/-- CODE_GROUP_RECEIVED (R187 to R189).  While the decoder of a lane is unlocked a group is counted and compared with nothing, and the group that
completes LOCK_N good ones locks it.  While it is locked a bad group counts, and LOSS_N of them in a row lose the lock.  A D-PHY lane locks at the
leader and leaves lock at the end of the burst. -/
def Obligations.DecodersCountAndLock : Prop :=
  (∀ (ch : Fin 32) (last word : Nat) (s : State), s.dev.fcReady ch = true → s.dev.trioOf ch = 0 → s.dev.cdcMode ch = 2 →
    s.dev.decLocked ch = false → ∃ t, exec (.codeGroupReceived ch last word 0 false false) s = .next t ∧
      t.dev.rn (R.cdcUnlocked (ch / 8)) = min 0xFFFFFFFF (s.dev.rn (R.cdcUnlocked (ch / 8)) + 1) ∧ t.dev.flp = s.dev.flp ∧
      t.dev.rf (R.cdcRxstat (ch / 8) (ch % 8)) F.cdcRxstatPhase = (last + 1) % 18 ∧
      t.dev.rb (R.cdcRxstat (ch / 8) (ch % 8)) F.cdcRxstatLocked = decide (s.dev.rf (R.cdcCfg (ch / 8) (ch % 8)) F.cdcCfgLockN ≤ (if s.dev.rf (R.cdcRxstat (ch / 8) (ch % 8)) F.cdcRxstatPhase = (last + 1) % 18 then (s.dev.chan ch).codec.good + 1 else 1)) ∧
      t.dev.rb (R.cdcRxstat (ch / 8) (ch % 8)) F.cdcRxstatHunting = !decide (s.dev.rf (R.cdcCfg (ch / 8) (ch % 8)) F.cdcCfgLockN ≤ (if s.dev.rf (R.cdcRxstat (ch / 8) (ch % 8)) F.cdcRxstatPhase = (last + 1) % 18 then (s.dev.chan ch).codec.good + 1 else 1)) ∧
      t.dev.sameQuiet s.dev [R.cdcUnlocked (ch / 8), R.cdcRxstat (ch / 8) (ch % 8)] ∧
      t.dev = { s.dev with regs := t.dev.regs, chans := t.dev.chans, evt := t.dev.evt, sram := t.dev.sram, hostMem := t.dev.hostMem, hif := t.dev.hif, seq := t.dev.seq, lvls := t.dev.lvls, acq := t.dev.acq }) ∧
  (∀ (ch : Fin 32) (last word : Nat) (s : State), s.dev.fcReady ch = true → s.dev.trioOf ch = 0 → s.dev.cdcMode ch = 2 →
    s.dev.rb (R.cdcRxstat (ch / 8) (ch % 8)) F.cdcRxstatLocked = true → s.dev.rb (R.cdcCfg (ch / 8) (ch % 8)) F.cdcCfgAlignFixed = false →
    s.dev.rb (R.cdcCfg (ch / 8) (ch % 8)) F.cdcCfgRxDec = false → ∃ t, exec (.codeGroupReceived ch last word 0 true false) s = .next t ∧
      t.dev.rf (R.cdcErr (ch / 8) (ch % 8)) F.cdcErrCode = min 65535 (s.dev.rf (R.cdcErr (ch / 8) (ch % 8)) F.cdcErrCode + 1) ∧
      t.dev.rn (R.cdcUnlocked (ch / 8)) = s.dev.rn (R.cdcUnlocked (ch / 8)) ∧
      t.dev.rb (R.cdcRxstat (ch / 8) (ch % 8)) F.cdcRxstatLocked = !decide (s.dev.rf (R.cdcCfg (ch / 8) (ch % 8)) F.cdcCfgLossN ≠ 0 ∧ s.dev.rf (R.cdcCfg (ch / 8) (ch % 8)) F.cdcCfgLossN ≤ (s.dev.chan ch).codec.bad + 1) ∧
      t.dev.rf (R.cdcRxstat (ch / 8) (ch % 8)) F.cdcRxstatLosses = (if (s.dev.rf (R.cdcCfg (ch / 8) (ch % 8)) F.cdcCfgLossN ≠ 0 ∧ s.dev.rf (R.cdcCfg (ch / 8) (ch % 8)) F.cdcCfgLossN ≤ (s.dev.chan ch).codec.bad + 1) then min 255 (s.dev.rf (R.cdcRxstat (ch / 8) (ch % 8)) F.cdcRxstatLosses + 1) else s.dev.rf (R.cdcRxstat (ch / 8) (ch % 8)) F.cdcRxstatLosses) ∧
      (t.dev.chan ch).codec.bad = (if (s.dev.rf (R.cdcCfg (ch / 8) (ch % 8)) F.cdcCfgLossN ≠ 0 ∧ s.dev.rf (R.cdcCfg (ch / 8) (ch % 8)) F.cdcCfgLossN ≤ (s.dev.chan ch).codec.bad + 1) then 0 else (s.dev.chan ch).codec.bad + 1) ∧
      t.dev.sameQuiet s.dev [R.cdcErr (ch / 8) (ch % 8), R.trgLateCnt (ch / 8), R.cdcRxstat (ch / 8) (ch % 8)] ∧
      t.dev = { s.dev with regs := t.dev.regs, chans := t.dev.chans, flp := t.dev.flp, sram := t.dev.sram, acq := t.dev.acq, evt := t.dev.evt, hostMem := t.dev.hostMem, hif := t.dev.hif, seq := t.dev.seq, lvls := t.dev.lvls }) ∧
  (∀ (ch : Fin 32) (last word : Nat) (s : State), s.dev.fcReady ch = true → s.dev.trioOf ch = 0 → s.dev.cdcMode ch = 5 →
    s.dev.rb (R.cdcCfg (ch / 8) (ch % 8)) F.cdcCfgAlignFixed = false → ∃ t, exec (.codeGroupReceived ch last word 1 false false) s = .next t ∧
      t.dev.rb (R.cdcRxstat (ch / 8) (ch % 8)) F.cdcRxstatLocked = true ∧ t.dev.rn (R.cdcUnlocked (ch / 8)) = s.dev.rn (R.cdcUnlocked (ch / 8)) ∧
      t.dev.flp = s.dev.flp ∧ t.dev.sameQuiet s.dev [R.cdcRxstat (ch / 8) (ch % 8)] ∧
      t.dev = { s.dev with regs := t.dev.regs, evt := t.dev.evt, sram := t.dev.sram, hostMem := t.dev.hostMem, hif := t.dev.hif, seq := t.dev.seq, chans := t.dev.chans, lvls := t.dev.lvls, acq := t.dev.acq }) ∧
  (∀ (ch : Fin 32) (last word : Nat) (s : State), s.dev.fcReady ch = true → s.dev.trioOf ch = 0 → s.dev.cdcMode ch = 5 →
    s.dev.rb (R.cdcCfg (ch / 8) (ch % 8)) F.cdcCfgAlignFixed = false → ∃ t, exec (.codeGroupReceived ch last word 2 false false) s = .next t ∧
      t.dev.rb (R.cdcRxstat (ch / 8) (ch % 8)) F.cdcRxstatLocked = false ∧
      t.dev.rb (R.cdcRxstat (ch / 8) (ch % 8)) F.cdcRxstatHunting = s.dev.rb (R.cdcRxstat (ch / 8) (ch % 8)) F.cdcRxstatHunting ∧
      t.dev.sameRegs s.dev [R.cdcRxstat (ch / 8) (ch % 8)] ∧ t.dev = { s.dev with regs := t.dev.regs })

/-- COMPARE_RESULT and CDR_UPDATE (R282, R283, R285, R295, R296).  The oldest launched vector of the port leaves the queue.  Its compare in mode EDGE counts
one compare, its bits and its errors on the pin, and one failing vector where the pin fails unmasked.  A full window moves f by KI times
the vote within its limit, and p by KP times the vote plus f; a frozen loop keeps p. -/
def Obligations.CompareResultsReachCountersAndTheCdr : Prop :=
  (∀ (p : Fin 4) (x : Fin 32) (v : CmpJob) (j : PinJob) (rest : List CmpJob) (s : State), (s.dev.flpOf p).jobs = v :: rest →
    (s.dev.flpOf p).snaps = [] → v.pins = [j] → v.dec = [] → v.prog = true → v.rx = none → j.pin < 8 → j.mode = 0 → j.cmp = true →
    j.slip = false → j.back = false → s.dev.flpFrozen p = false → s.dev.fcTrack (8 * p + j.pin) ≠ 1 →
    ∃ t, exec (.compareResult p (List.replicate 8 x.val) []) s = .next t ∧
      (t.dev.flpOf p).jobs = rest ∧
      tget (fun _ : Nat => (0 : Nat)) (t.dev.flpOf p).fails j.pin = min (2 ^ 48 - 1) (tget (fun _ : Nat => (0 : Nat)) (s.dev.flpOf p).fails j.pin + b2n (decide (0 < (List.range 4).foldl (fun n k => n + b2n (nbit j.cst k && (x / 2 ^ k % 2 != j.exp % 2))) 0))) ∧
      tget (fun _ : Nat => (0 : Nat)) (t.dev.flpOf p).bits j.pin = min (2 ^ 48 - 1) (tget (fun _ : Nat => (0 : Nat)) (s.dev.flpOf p).bits j.pin + popCount 4 j.cst) ∧
      tget (fun _ : Nat => (0 : Nat)) (t.dev.flpOf p).errs j.pin = min (2 ^ 48 - 1) (tget (fun _ : Nat => (0 : Nat)) (s.dev.flpOf p).errs j.pin + (List.range 4).foldl (fun n k => n + b2n (nbit j.cst k && (x / 2 ^ k % 2 != j.exp % 2))) 0) ∧
      t.dev.wide (R.flpFailvecLo p) 2 = (if 0 < (List.range 4).foldl (fun n k => n + b2n (nbit j.cst k && (x / 2 ^ k % 2 != j.exp % 2))) 0 ∧ nbit (s.dev.rn (R.flpPinmask p)) j.pin = true then min (2 ^ 48 - 1) (s.dev.wide (R.flpFailvecLo p) 2 + 1) else s.dev.wide (R.flpFailvecLo p) 2) ∧
      (Dev.segRes (t.dev.seqOf p) v.seg).open_ = (Dev.segRes (s.dev.seqOf p) v.seg).open_ - 1 ∧
      (∀ y : Fin 24, y.val ≠ j.pin → tget (fun _ : Nat => (0 : Nat)) (t.dev.flpOf p).fails y = tget (fun _ : Nat => (0 : Nat)) (s.dev.flpOf p).fails y) ∧
      (∀ q : Fin 4, q ≠ p → t.dev.flpOf q = s.dev.flpOf q) ∧
      t.dev.sameQuiet s.dev [R.fchCmpCnt (8 * p + j.pin), R.fchCdrFreq (8 * p + j.pin), R.fchCdrStat (8 * p + j.pin), R.flpFailvecLo p, R.flpFailvecLo p + 4, R.flpFirst p 0, R.flpFirst p 1, R.flpFirst p 2, R.flpFirst p 3, R.flpFirst p 4, R.flpFirst p 5, R.flpFirst p 6, R.flpFirst p 7, R.flpLogLost p, R.trgLateCnt p, R.flpStat p] ∧
      t.dev = { s.dev with regs := t.dev.regs, flp := t.dev.flp, evt := t.dev.evt, sram := t.dev.sram, hostMem := t.dev.hostMem, hif := t.dev.hif, seq := t.dev.seq, chans := t.dev.chans, lvls := t.dev.lvls, acq := t.dev.acq }) ∧
  (∀ (n : Fin 32) (st : Int) (s : State), (s.dev.chan n).cdr.due = some st → ∃ t, exec (.cdrUpdate n) s = .next t ∧
      (t.dev.chan n).cdr.f = max (-(s.dev.fLim n)) (min (s.dev.fLim n) ((s.dev.chan n).cdr.f + s.dev.rf (R.fchCdrGain n) F.fchCdrGainKi * (s.dev.chan n).cdr.vote)) ∧
      (t.dev.chan n).cdr.p = (if (s.dev.chan n).cdr.frozen = true ∧ (s.dev.chan n).cdr.vote = 0 then (s.dev.chan n).cdr.p else (s.dev.chan n).cdr.p + s.dev.rf (R.fchCdrGain n) F.fchCdrGainKp * (s.dev.chan n).cdr.vote * 65536 + (t.dev.chan n).cdr.f * s.dev.nUpd n) ∧
      (t.dev.chan n).cdr.vote = 0 ∧ (t.dev.chan n).cdr.n = 0 ∧ (t.dev.chan n).cdr.due = none ∧
      t.dev.rn (R.fchCdrFreq n) = wrapInt 32 (t.dev.chan n).cdr.f ∧
      (t.dev.chan n).cdr.next = some ((st + 229376).toNat, (t.dev.chan n).cdr.p / 65536) ∧
      t.dev.rb (R.fchCdrStat n) F.fchCdrStatFlim = (t.dev.chan n).cdr.flim ∧
      (t.dev.chan n).cdr.flim = decide ((t.dev.chan n).cdr.f = s.dev.fLim n ∨ (t.dev.chan n).cdr.f = -(s.dev.fLim n)) ∧
      t.dev.sameQuiet s.dev [R.fchCdrFreq n, R.fchCdrStat n] ∧
      t.dev = { s.dev with regs := t.dev.regs, chans := t.dev.chans, evt := t.dev.evt, sram := t.dev.sram, hostMem := t.dev.hostMem, hif := t.dev.hif, seq := t.dev.seq, lvls := t.dev.lvls, acq := t.dev.acq })

/-- SNAP, CNT_CLR, COUNTER_SNAPSHOT_TAKEN, FIRST_CLR, BM_FLUSH, FAIL_LOG_WRITE and BITMAP_LINE_WRITE (R295, R296, R298 to R301).  On an idle port the counters are copied, or
cleared, at the write; else at the first boundary of the active set 80 ns later or after.  FIRST_CLR empties the first-fail record, and BM_FLUSH
sends every cached bitmap line to be written.  A record is written at the write pointer's place in the ring, which advances; a full ring under
LOG_POL = 1 loses it and counts it.  A bitmap line is read, its bits are set and it is written back, and BM_NEW counts the bits that were 0.  That each request keeps a boundary of its own is log 76. -/
def Obligations.FailCountersLogAndBitmapAreKept : Prop :=
  (∀ (path : Fin 7) (p : Fin 4) (w : Word) (s : State), s.dev.takes path (R.flpCtrl p) w.toNat = true → nbit w.toNat 0 = true →
    s.dev.seqState p = 0 → ∃ t, exec (.snap path p w) s = .next t ∧
      (∀ i : Fin 24, t.dev.wide (R.flpFailsLo p i) 2 = tget (fun _ : Nat => (0 : Nat)) (s.dev.flpOf p).fails i % 2 ^ 64) ∧
      (∀ i : Fin 24, t.dev.wide (R.flpBitsLo p i) 2 = tget (fun _ : Nat => (0 : Nat)) (s.dev.flpOf p).bits i % 2 ^ 64) ∧
      (∀ i : Fin 24, t.dev.wide (R.flpErrbitsLo p i) 2 = tget (fun _ : Nat => (0 : Nat)) (s.dev.flpOf p).errs i % 2 ^ 64) ∧
      t.dev.wide (R.flpSnapGtc0 p) 3 = s.dev.now % 2 ^ 96 ∧ (t.dev.flpOf p).snaps = (s.dev.flpOf p).snaps ∧
      t.dev = { s.dev with regs := t.dev.regs, flp := t.dev.flp }) ∧
  (∀ (path : Fin 7) (p : Fin 4) (w : Word) (s : State), s.dev.takes path (R.flpCtrl p) w.toNat = true → nbit w.toNat 0 = true →
    s.dev.seqState p ≠ 0 → ∃ t, exec (.snap path p w) s = .next t ∧
      (t.dev.flpOf p).snaps = insertBy SnapReq.bound ⟨true, nbit w.toNat 1, s.dev.boundAt p (s.dev.seqOf p).ts (s.dev.now + 4194304)⟩ (s.dev.flpOf p).snaps ∧
      t.dev.rb (R.flpStat p) F.flpStatSnapBusy = true ∧ (t.dev.flpOf p).fails = (s.dev.flpOf p).fails ∧
      (∀ i : Fin 24, t.dev.wide (R.flpFailsLo p i) 2 = s.dev.wide (R.flpFailsLo p i) 2) ∧
      t.dev = { s.dev with regs := t.dev.regs, flp := t.dev.flp }) ∧
  (∀ (path : Fin 7) (p : Fin 4) (w : Word) (s : State), s.dev.takes path (R.flpCtrl p) w.toNat = true → nbit w.toNat 1 = true →
    s.dev.seqState p = 0 → ∃ t, exec (.cntClr path p w) s = .next t ∧
      (t.dev.flpOf p).fails = [] ∧ (t.dev.flpOf p).bits = [] ∧ (t.dev.flpOf p).errs = [] ∧ (t.dev.flpOf p).jobs = (s.dev.flpOf p).jobs ∧
      (nbit w.toNat 0 = true ∨ ∀ i : Fin 24, t.dev.wide (R.flpFailsLo p i) 2 = s.dev.wide (R.flpFailsLo p i) 2) ∧
      t.dev = { s.dev with regs := t.dev.regs, flp := t.dev.flp }) ∧
  (∀ (p : Fin 4) (x : SnapReq) (s : State), (s.dev.flpOf p).snaps = [x] → x.snap = true →
    (s.dev.flpOf p).jobs.all (fun j => decide (x.bound ≤ j.t)) = true →
    (if (s.dev.seqOf p).tref then decide (x.bound ≤ (s.dev.seqOf p).nextUi) else decide (x.bound ≤ s.dev.now)) = true →
    ∃ t, exec (.counterSnapshotTaken p) s = .next t ∧
      (∀ i : Fin 24, t.dev.wide (R.flpFailsLo p i) 2 = tget (fun _ : Nat => (0 : Nat)) (s.dev.flpOf p).fails i % 2 ^ 64) ∧
      (∀ i : Fin 24, t.dev.wide (R.flpBitsLo p i) 2 = tget (fun _ : Nat => (0 : Nat)) (s.dev.flpOf p).bits i % 2 ^ 64) ∧
      (∀ i : Fin 24, t.dev.wide (R.flpErrbitsLo p i) 2 = tget (fun _ : Nat => (0 : Nat)) (s.dev.flpOf p).errs i % 2 ^ 64) ∧
      t.dev.wide (R.flpSnapGtc0 p) 3 = x.bound % 2 ^ 96 ∧ t.dev.rb (R.flpStat p) F.flpStatSnapBusy = false ∧
      t.dev.flpOf p = { (s.dev.flpOf p) with snaps := [], fails := if x.clr then [] else (s.dev.flpOf p).fails, bits := if x.clr then [] else (s.dev.flpOf p).bits, errs := if x.clr then [] else (s.dev.flpOf p).errs } ∧
      t.dev = { s.dev with regs := t.dev.regs, flp := t.dev.flp }) ∧
  (∀ (path : Fin 7) (p : Fin 4) (w : Word) (s : State), s.dev.takes path (R.flpCtrl p) w.toNat = true → nbit w.toNat 2 = true →
    ∃ t, exec (.firstClr path p w) s = .next t ∧
      (∀ i : Fin 8, t.dev.rn (R.flpFirst p i) = 0) ∧ t.dev.rb (R.flpStat p) F.flpStatFirstValid = false ∧
      t.dev = { s.dev with regs := t.dev.regs, flp := t.dev.flp }) ∧
  (∀ (path : Fin 7) (p : Fin 4) (w : Word) (s : State), s.dev.takes path (R.flpCtrl p) w.toNat = true → nbit w.toNat 3 = true →
    ∃ t, exec (.bmFlush path p w) s = .next t ∧
      (t.dev.flpOf p).lines = [] ∧ (t.dev.flpOf p).wq = (s.dev.flpOf p).wq ++ (s.dev.flpOf p).lines ∧
      t.dev = { s.dev with regs := t.dev.regs, flp := t.dev.flp }) ∧
  (∀ (p : Fin 4) (y : List Nat) (l : List (List Nat)) (s : State), (s.dev.flpOf p).staged = y :: l → (s.dev.flpOf p).rlost = 0 → y.length = 8 →
    s.dev.rb (R.flpCtrl p) F.flpCtrlLogPol = false → 0 < s.dev.rn (R.flpLogLen p) → s.dev.wide (R.flpLogBaseLo p) 2 % 64 = 0 →
    s.dev.dramOk (s.dev.wide (R.flpLogBaseLo p) 2 + 32 * (s.dev.rn (R.flpLogWptr p) % (128 * s.dev.rn (R.flpLogLen p)))) 32 = true →
    s.dev.poisonOf ((s.dev.wide (R.flpLogBaseLo p) 2 + 32 * (s.dev.rn (R.flpLogWptr p) % (128 * s.dev.rn (R.flpLogLen p)))) / 64 * 64) = none →
    ∃ t, exec (.failLogWrite p) s = .next t ∧
      (t.dev.flpOf p).staged = l ∧ t.dev.rn (R.flpLogWptr p) = (s.dev.rn (R.flpLogWptr p) + 1) % 2 ^ 32 ∧
      mread t.dev.dram (s.dev.wide (R.flpLogBaseLo p) 2 + 32 * (s.dev.rn (R.flpLogWptr p) % (128 * s.dev.rn (R.flpLogLen p)))) 32 = Dev.wordsBytes y ∧
      sameBut t.dev.dram s.dev.dram (s.dev.wide (R.flpLogBaseLo p) 2 + 32 * (s.dev.rn (R.flpLogWptr p) % (128 * s.dev.rn (R.flpLogLen p)))) 32 ∧
      t.dev.sameRegs s.dev [R.flpLogWptr p, R.flpStat p] ∧
      t.dev = { s.dev with regs := t.dev.regs, flp := t.dev.flp, dram := t.dev.dram, dramc := t.dev.dramc }) ∧
  (∀ (p : Fin 4) (y : List Nat) (l : List (List Nat)) (s : State), (s.dev.flpOf p).staged = y :: l → y.headD 0 < 3 * 2 ^ 28 →
    s.dev.rb (R.flpCtrl p) F.flpCtrlLogPol = true →
    128 * s.dev.rn (R.flpLogLen p) ≤ (s.dev.rn (R.flpLogWptr p) + 2 ^ 32 - s.dev.rn (R.flpLogRptr p)) % 2 ^ 32 →
    ∃ t, exec (.failLogWrite p) s = .next t ∧
      (t.dev.flpOf p).staged = l ∧ (t.dev.flpOf p).rlost = (s.dev.flpOf p).rlost + 1 ∧
      t.dev.rn (R.flpLogLost p) = min 0xFFFFFFFF (s.dev.rn (R.flpLogLost p) + 1) ∧ t.dev.rb (R.flpStat p) F.flpStatLogFull = true ∧
      t.dev.sameQuiet s.dev [R.flpLogLost p, R.flpStat p] ∧
      t.dev = { s.dev with regs := t.dev.regs, flp := t.dev.flp, evt := t.dev.evt, sram := t.dev.sram, hostMem := t.dev.hostMem, hif := t.dev.hif, seq := t.dev.seq, chans := t.dev.chans, lvls := t.dev.lvls, acq := t.dev.acq }) ∧
  (∀ (p : Fin 4) (la b : Nat) (l : List (Nat × Nat)) (s : State), (s.dev.flpOf p).wq = (la, b) :: l → b < 2 ^ 512 →
    s.dev.dramOk (64 * la) 64 = true → s.dev.poisonOf (64 * la) = none → ∃ t, exec (.bitmapLineWrite p false) s = .next t ∧
      (t.dev.flpOf p).wq = l ∧ leNat (mread t.dev.dram (64 * la) 64) = leNat (mread s.dev.dram (64 * la) 64) ||| b ∧
      sameBut t.dev.dram s.dev.dram (64 * la) 64 ∧
      t.dev.rn (R.flpBmNew p) = min 0xFFFFFFFF (s.dev.rn (R.flpBmNew p) + popCount 512 ((leNat (mread s.dev.dram (64 * la) 64) ||| b) ^^^ leNat (mread s.dev.dram (64 * la) 64))) ∧
      t.dev.sameRegs s.dev [R.flpBmNew p, R.flpStat p] ∧
      t.dev = { s.dev with regs := t.dev.regs, flp := t.dev.flp, dram := t.dev.dram, dramc := t.dev.dramc })

/-- EYE_START, EYE_POINT_DONE and EYE_STOP (R290, R292 to R294).  A start on a channel that is ready on a launching port is RUNNING at column 0 and
row 0, with the row in progress zero.  A point whose dwell is complete goes on to the next column; the last column writes the row to
EYE_BASE + 1,024 × row and goes on to the next row, and the last row ends the scan unless CONT is set.  STOP ends it at the end of a row. -/
def Obligations.TheEyeMonitorScansAndStops : Prop :=
  (∀ (path : Fin 7) (n : Fin 32) (w : Word) (s : State), s.dev.takes path (R.fchEyeCtrl n) w.toNat = true → nbit w.toNat 31 = true →
    nbit w.toNat 30 = false → ∃ t, exec (.eyeStart path n w) s = .next t ∧
      t.dev.eyeState n = (if (s.dev.seqOf (n / 8)).tref = true ∧ s.dev.fcReady n = true then 1 else 2) ∧
      t.dev.rf (R.fchEyeStat n) F.fchEyeStatRow = 0 ∧ t.dev.rf (R.fchEyeStat n) F.fchEyeStatCol = 0 ∧ (t.dev.chan n).eye = Eye.reset ∧
      (∀ k : Fin 256, t.dev.sramWord (Dev.eyeRow n + 4 * k) = 0) ∧ t.dev.dram = s.dev.dram ∧
      t.dev.sameRegs s.dev [R.fchEyeCtrl n, R.fchEyeStat n, R.fchLvlStat n, pstat (0x200 + n)] ∧
      t.dev = { s.dev with regs := t.dev.regs, chans := t.dev.chans, lvls := t.dev.lvls, sram := t.dev.sram }) ∧
  (∀ (path : Fin 7) (n : Fin 32) (w : Word) (s : State), s.dev.takes path (R.fchEyeCtrl n) w.toNat = true → nbit w.toNat 31 = false →
    nbit w.toNat 30 = true → (s.dev.eyeState n = 1 ∨ s.dev.eyeState n = 2) → ∃ t, exec (.eyeStop path n w) s = .next t ∧
      (t.dev.chan n).eye.stopping = true ∧ t.dev.eyeState n = s.dev.eyeState n ∧ t.dev.sameRegs s.dev [R.fchEyeCtrl n, pstat (0x200 + n)] ∧
      t.dev = { s.dev with regs := t.dev.regs, chans := t.dev.chans }) ∧
  (∀ (n : Fin 32) (bad : Bool) (s : State), s.dev.eyeState n = 1 → s.dev.rn (R.fchEyeDwell n) ≤ (s.dev.chan n).eye.samples →
    s.dev.rf (R.fchEyeStat n) F.fchEyeStatCol + 1 < s.dev.rf (R.fchEyeN n) F.fchEyeNNt → s.dev.rf (R.fchEyeStat n) F.fchEyeStatCol < 256 →
    s.dev.rf (R.fchEyeN n) F.fchEyeNNt ≤ 256 → ∃ t, exec (.eyePointDone n bad) s = .next t ∧
      t.dev.rf (R.fchEyeStat n) F.fchEyeStatCol = s.dev.rf (R.fchEyeStat n) F.fchEyeStatCol + 1 ∧
      t.dev.rf (R.fchEyeStat n) F.fchEyeStatRow = s.dev.rf (R.fchEyeStat n) F.fchEyeStatRow ∧
      (t.dev.chan n).eye = { (s.dev.chan n).eye with samples := 0, count := 0 } ∧ t.dev.eyeState n = 1 ∧ t.dev.sameRegs s.dev [R.fchEyeStat n] ∧
      t.dev = { s.dev with regs := t.dev.regs, chans := t.dev.chans }) ∧
  (∀ (n : Fin 32) (s : State), s.dev.eyeState n = 1 → s.dev.rn (R.fchEyeDwell n) ≤ (s.dev.chan n).eye.samples →
    s.dev.rf (R.fchEyeN n) F.fchEyeNNt ≤ s.dev.rf (R.fchEyeStat n) F.fchEyeStatCol + 1 → 0 < s.dev.rf (R.fchEyeN n) F.fchEyeNNt →
    s.dev.rf (R.fchEyeN n) F.fchEyeNNt ≤ 256 → s.dev.wide (R.fchEyeBaseLo n) 2 % 1024 = 0 →
    s.dev.dramOk (s.dev.wide (R.fchEyeBaseLo n) 2 + 1024 * s.dev.rf (R.fchEyeStat n) F.fchEyeStatRow) (4 * s.dev.rf (R.fchEyeN n) F.fchEyeNNt) = true →
    (∀ k : Fin 16, s.dev.poisonOf ((s.dev.wide (R.fchEyeBaseLo n) 2 + 1024 * s.dev.rf (R.fchEyeStat n) F.fchEyeStatRow) + 64 * k) = none) →
    s.dev.rf (R.fchEyeStat n) F.fchEyeStatRow + 1 < s.dev.rf (R.fchEyeN n) F.fchEyeNNv → (s.dev.chan n).eye.stopping = false →
    ∃ t, exec (.eyePointDone n false) s = .next t ∧
      mread t.dev.dram (s.dev.wide (R.fchEyeBaseLo n) 2 + 1024 * s.dev.rf (R.fchEyeStat n) F.fchEyeStatRow) (4 * s.dev.rf (R.fchEyeN n) F.fchEyeNNt) = mread s.dev.sram (Dev.eyeRow n) (4 * s.dev.rf (R.fchEyeN n) F.fchEyeNNt) ∧
      sameBut t.dev.dram s.dev.dram (s.dev.wide (R.fchEyeBaseLo n) 2 + 1024 * s.dev.rf (R.fchEyeStat n) F.fchEyeStatRow) (4 * s.dev.rf (R.fchEyeN n) F.fchEyeNNt) ∧
      t.dev.rf (R.fchEyeStat n) F.fchEyeStatCol = 0 ∧
      t.dev.rf (R.fchEyeStat n) F.fchEyeStatRow = (s.dev.rf (R.fchEyeStat n) F.fchEyeStatRow + 1) % 256 ∧ t.dev.eyeState n = 1 ∧
      t.dev = { s.dev with regs := t.dev.regs, chans := t.dev.chans, lvls := t.dev.lvls, sram := t.dev.sram, dram := t.dev.dram, dramc := t.dev.dramc, mc := t.dev.mc }) ∧
  (∀ (n : Fin 32) (s : State), s.dev.eyeState n = 1 → s.dev.rn (R.fchEyeDwell n) ≤ (s.dev.chan n).eye.samples →
    s.dev.rf (R.fchEyeN n) F.fchEyeNNt ≤ s.dev.rf (R.fchEyeStat n) F.fchEyeStatCol + 1 → 0 < s.dev.rf (R.fchEyeN n) F.fchEyeNNt →
    s.dev.rf (R.fchEyeN n) F.fchEyeNNt ≤ 256 → s.dev.wide (R.fchEyeBaseLo n) 2 % 1024 = 0 →
    s.dev.dramOk (s.dev.wide (R.fchEyeBaseLo n) 2 + 1024 * s.dev.rf (R.fchEyeStat n) F.fchEyeStatRow) (4 * s.dev.rf (R.fchEyeN n) F.fchEyeNNt) = true →
    (∀ k : Fin 16, s.dev.poisonOf ((s.dev.wide (R.fchEyeBaseLo n) 2 + 1024 * s.dev.rf (R.fchEyeStat n) F.fchEyeStatRow) + 64 * k) = none) →
    ((s.dev.chan n).eye.stopping = true ∨ (s.dev.rf (R.fchEyeN n) F.fchEyeNNv ≤ s.dev.rf (R.fchEyeStat n) F.fchEyeStatRow + 1 ∧ s.dev.rb (R.fchEyeCtrl n) F.fchEyeCtrlCont = false)) →
    ∃ t, exec (.eyePointDone n false) s = .next t ∧
      mread t.dev.dram (s.dev.wide (R.fchEyeBaseLo n) 2 + 1024 * s.dev.rf (R.fchEyeStat n) F.fchEyeStatRow) (4 * s.dev.rf (R.fchEyeN n) F.fchEyeNNt) = mread s.dev.sram (Dev.eyeRow n) (4 * s.dev.rf (R.fchEyeN n) F.fchEyeNNt) ∧
      sameBut t.dev.dram s.dev.dram (s.dev.wide (R.fchEyeBaseLo n) 2 + 1024 * s.dev.rf (R.fchEyeStat n) F.fchEyeStatRow) (4 * s.dev.rf (R.fchEyeN n) F.fchEyeNNt) ∧
      t.dev.eyeState n = 3 ∧ (t.dev.chan n).eye = Eye.reset ∧
      t.dev = { s.dev with regs := t.dev.regs, chans := t.dev.chans, lvls := t.dev.lvls, sram := t.dev.sram, dram := t.dev.dram, dramc := t.dev.dramc, mc := t.dev.mc, evt := t.dev.evt, hostMem := t.dev.hostMem, hif := t.dev.hif, seq := t.dev.seq, acq := t.dev.acq })

/-! ### Measurement, trigger and acquisition (09, 11) -/

/-- MEAS_START, MEAS_STOP, MEAS_ENTRY_DONE, CALBUS_REQUEST and CALBUS_GRANT (R267 to R269, R275).  A start on an idle port is SCANNING at entry 0, or BORROWED where
calibration has the ADC.  An entry stores the mean in 1/256 LSB and marks it valid, or 0x80000000 where its PMU does not force; the last entry ends the
scan unless CONT is set.  A request waits its turn; the grant goes to the oldest. -/
def Obligations.MeasurementScansAndTheCalibrationBus : Prop :=
  (∀ (path : Fin 7) (p : Fin 4) (w : Word) (s : State), s.dev.takes path (R.measCtrl p) w.toNat = true → nbits w.toNat 1 0 = 1 →
    ∃ t, exec (.measStart path p w) s = .next t ∧
      t.dev.measState p = (if 0 < (s.dev.measOf p).borrow then 2 else 1) ∧ t.dev.rf (R.measStat p) F.measStatEntry = 0 ∧
      t.dev.measOf p = { (s.dev.measOf p) with stop := false, t := s.dev.edgeAt Dev.aclk s.dev.now } ∧
      t.dev.sameRegs s.dev [R.measCtrl p, R.measStat p, pstat (ppage p 0xF)] ∧ t.dev = { s.dev with regs := t.dev.regs, meas := t.dev.meas }) ∧
  (∀ (path : Fin 7) (p : Fin 4) (w : Word) (s : State), s.dev.takes path (R.measCtrl p) w.toNat = true → nbits w.toNat 1 0 = 2 →
    s.dev.measState p = 1 → ∃ t, exec (.measStop path p w) s = .next t ∧
      (t.dev.measOf p).stop = true ∧ t.dev.measState p = 1 ∧ t.dev.sameRegs s.dev [R.measCtrl p, pstat (ppage p 0xF)] ∧
      t.dev = { s.dev with regs := t.dev.regs, meas := t.dev.meas }) ∧
  (∀ (path : Fin 7) (p : Fin 4) (w : Word) (s : State), s.dev.takes path (R.measCtrl p) w.toNat = true → nbits w.toNat 1 0 = 2 →
    s.dev.measState p = 2 → ∃ t, exec (.measStop path p w) s = .next t ∧
      (t.dev.measOf p).stop = false ∧ t.dev.measState p = 0 ∧ t.dev.sameQuiet s.dev [R.measCtrl p, R.measStat p, pstat (ppage p 0xF)] ∧
      t.dev = { s.dev with regs := t.dev.regs, meas := t.dev.meas, evt := t.dev.evt, sram := t.dev.sram, hostMem := t.dev.hostMem, hif := t.dev.hif, seq := t.dev.seq, chans := t.dev.chans, lvls := t.dev.lvls, acq := t.dev.acq }) ∧
  (∀ (p : Fin 4) (e : Fin 16) (sum : Int) (moved : Bool) (s : State), s.dev.measState p = 1 → (s.dev.measOf p).stop = false →
    s.dev.rf (R.measStat p) F.measStatEntry = e → fget (s.dev.get (R.measEnt p e)) F.measEntQty ≠ 1 →
    e ≠ s.dev.rf (R.measCtrl p) F.measCtrlLast → e.val < 15 → (s.dev.measOf p).borrow = 0 → ∃ t, exec (.measEntryDone p sum moved) s = .next t ∧
      t.dev.rn (R.measRes p e) = Dev.measResult sum (fget (s.dev.get (R.measEnt p e)) F.measEntAvgLog2) ∧
      nbit (t.dev.rn (R.measStat p)) e = true ∧ t.dev.rf (R.measStat p) F.measStatEntry = e + 1 ∧ t.dev.measState p = 1 ∧
      (t.dev.measOf p).t = (s.dev.measOf p).t + (2 + fget (s.dev.get (R.measEnt p e)) F.measEntDly + 2 ^ fget (s.dev.get (R.measEnt p e)) F.measEntAvgLog2) * Dev.usTicks ∧
      (e = 0 → t.dev.wide (R.measT00 p) 3 = ((s.dev.measOf p).t + (2 + fget (s.dev.get (R.measEnt p e)) F.measEntDly) * Dev.usTicks) % 2 ^ 96) ∧
      t.dev.sameRegs s.dev [R.measRes p e, R.measStat p, R.measT00 p, R.measT00 p + 4, R.measT00 p + 8] ∧
      t.dev = { s.dev with regs := t.dev.regs, meas := t.dev.meas }) ∧
  (∀ (p : Fin 4) (e : Fin 16) (sum : Int) (moved : Bool) (s : State), s.dev.measState p = 1 → (s.dev.measOf p).stop = false →
    s.dev.rf (R.measStat p) F.measStatEntry = e → fget (s.dev.get (R.measEnt p e)) F.measEntQty ≠ 1 →
    e = s.dev.rf (R.measCtrl p) F.measCtrlLast → s.dev.rb (R.measCtrl p) F.measCtrlCont = false →
    ∃ t, exec (.measEntryDone p sum moved) s = .next t ∧
      t.dev.rn (R.measRes p e) = Dev.measResult sum (fget (s.dev.get (R.measEnt p e)) F.measEntAvgLog2) ∧
      nbit (t.dev.rn (R.measStat p)) e = true ∧ t.dev.measState p = 0 ∧
      (t.dev.measOf p).t = (s.dev.measOf p).t + (2 + fget (s.dev.get (R.measEnt p e)) F.measEntDly + 2 ^ fget (s.dev.get (R.measEnt p e)) F.measEntAvgLog2) * Dev.usTicks ∧
      (e = 0 → t.dev.wide (R.measT00 p) 3 = ((s.dev.measOf p).t + (2 + fget (s.dev.get (R.measEnt p e)) F.measEntDly) * Dev.usTicks) % 2 ^ 96) ∧
      t.dev.sameQuiet s.dev [R.measRes p e, R.measStat p, R.measT00 p, R.measT00 p + 4, R.measT00 p + 8] ∧
      t.dev = { s.dev with regs := t.dev.regs, meas := t.dev.meas, evt := t.dev.evt, sram := t.dev.sram, hostMem := t.dev.hostMem, hif := t.dev.hif, seq := t.dev.seq, chans := t.dev.chans, lvls := t.dev.lvls, acq := t.dev.acq }) ∧
  (∀ (p : Fin 4) (e : Fin 16) (sum : Int) (moved : Bool) (s : State), s.dev.measState p = 1 → (s.dev.measOf p).stop = false →
    s.dev.rf (R.measStat p) F.measStatEntry = e → fget (s.dev.get (R.measEnt p e)) F.measEntQty = 1 →
    (moved = true ∨ s.dev.pmuOn (16 * p + fget (s.dev.get (R.measEnt p e)) F.measEntCh) = false) →
    ∃ t, exec (.measEntryDone p sum moved) s = .next t ∧
      t.dev.rn (R.measRes p e) = 0x80000000 ∧ nbit (t.dev.rn (R.measStat p)) e = false ∧
      (t.dev.measOf p).t = (s.dev.measOf p).t + (2 + fget (s.dev.get (R.measEnt p e)) F.measEntDly + 2 ^ fget (s.dev.get (R.measEnt p e)) F.measEntAvgLog2) * Dev.usTicks ∧
      (e = 0 → t.dev.wide (R.measT00 p) 3 = ((s.dev.measOf p).t + (2 + fget (s.dev.get (R.measEnt p e)) F.measEntDly) * Dev.usTicks) % 2 ^ 96) ∧
      t.dev.sameQuiet s.dev [R.measRes p e, R.measStat p, R.measT00 p, R.measT00 p + 4, R.measT00 p + 8] ∧
      t.dev = { s.dev with regs := t.dev.regs, meas := t.dev.meas, evt := t.dev.evt, sram := t.dev.sram, hostMem := t.dev.hostMem, hif := t.dev.hif, seq := t.dev.seq, chans := t.dev.chans, lvls := t.dev.lvls, acq := t.dev.acq }) ∧
  (∀ (path : Fin 7) (p : Fin 4) (w : Word) (s : State), s.dev.takes path (R.measCalbus p) w.toNat = true → nbit w.toNat 31 = true →
    ∃ t, exec (.calbusRequest path p w) s = .next t ∧
      t.dev.calbus = { s.dev.calbus with queue := s.dev.calbus.queue ++ [p.val] } ∧ t.dev.rf (R.measCalstat p) F.measCalstatState = 1 ∧
      t.dev.sameRegs s.dev [R.measCalbus p, R.measCalstat p, pstat (ppage p 0xF)] ∧
      t.dev = { s.dev with regs := t.dev.regs, calbus := t.dev.calbus }) ∧
  (∀ (path : Fin 7) (p : Fin 4) (w : Word) (s : State), s.dev.takes path (R.measCalbus p) w.toNat = true → nbit w.toNat 31 = false →
    s.dev.calbusBusy p = true → ∃ t, exec (.calbusRequest path p w) s = .next t ∧
      t.dev.calbus.queue = s.dev.calbus.queue.filter (· != p.val) ∧
      t.dev.calbus.holder = (if s.dev.calbus.holder = some p.val then none else s.dev.calbus.holder) ∧
      t.dev.rf (R.measCalstat p) F.measCalstatState = 0 ∧
      t.dev.sameRegs s.dev [R.measCalbus p, R.measCalstat p, R.measStat p, pstat (ppage p 0xF)] ∧
      t.dev = { s.dev with regs := t.dev.regs, calbus := t.dev.calbus, meas := t.dev.meas }) ∧
  (∀ (p : Nat) (l : List Nat) (s : State), s.dev.calbus.holder = none → s.dev.calbus.queue = p :: l → s.dev.boot.keeperOn = true →
    ∃ t, exec .calbusGrant s = .next t ∧
      t.dev.calbus = ⟨l, some p⟩ ∧ t.dev.rf (R.measCalstat p) F.measCalstatState = 2 ∧
      t.dev.measOf p = (if s.dev.rf (R.measCalbus p) F.measCalbusNode = 3 then { (s.dev.measOf p) with borrow := (s.dev.measOf p).borrow + 1 } else (s.dev.measOf p)) ∧
      t.dev.sameRegs s.dev [R.measCalstat p] ∧ t.dev = { s.dev with regs := t.dev.regs, calbus := t.dev.calbus, meas := t.dev.meas })

/-- TRIG_IN_EDGE, UTILITY_COMPARATOR_EDGE, SAMPLE_DECISION and REARM (R311 to R316, R320).  An edge is kept with its time rounded to 32 ticks, and is an occurrence of every live
EDGE unit of the ball; WAIT_EVENT sees it at the second SQCLK edge after it (R140).  A decided sample leaves the queue, counts the hits of its units, and is the last one; where its state asks for nothing
the state stays; where its condition holds with action FIRE the armed engine triggers.  REARM arms at n_a, or holds while the slot is full. -/
def Obligations.TriggerInputsAndSamplesAreJudged : Prop :=
  (∀ (k : Fin 4) (t0 : Nat) (lvl : Bool) (s : State), nbit s.dev.pins.trigIn k ≠ lvl → ∃ t, exec (.trigInEdge k t0 lvl) s = .next t ∧
      t.dev.pins = { s.dev.pins with trigIn := setNbits s.dev.pins.trigIn k k (b2n lvl), trigAt := s.dev.trigChanges k t0 } ∧
      (∀ p : Fin 4, (t.dev.acqOf p).trans.head? = some (k.val, Dev.tdcRound t0, lvl)) ∧
      (∀ p : Fin 4, s.dev.unitsLive p = false → (t.dev.acqOf p).hits = (s.dev.acqOf p).hits ∧ t.dev.rn (R.trgLateCnt p) = s.dev.rn (R.trgLateCnt p)) ∧
      t.dev.sameRegs s.dev [R.trgLateCnt 0, R.trgLateCnt 1, R.trgLateCnt 2, R.trgLateCnt 3] ∧
      t.dev = { s.dev with regs := t.dev.regs, acq := t.dev.acq, pins := t.dev.pins }) ∧
  (∀ (k : Fin 4) (t0 E : Nat) (lvl : Bool) (s : State), nbit s.dev.pins.trigIn k ≠ lvl → s.dev.pins.trigAt = [] →
    ∃ t, exec (.trigInEdge k t0 lvl) s = .next t ∧
      t.dev.trigSeen k E = (if E < s.dev.edgeAt Dev.sqclk (t0 + 1) + Dev.sqclk then nbit s.dev.pins.trigIn k else lvl) ∧
      t.dev.sameRegs s.dev [R.trgLateCnt 0, R.trgLateCnt 1, R.trgLateCnt 2, R.trgLateCnt 3] ∧
      t.dev = { s.dev with regs := t.dev.regs, acq := t.dev.acq, pins := t.dev.pins }) ∧
  (∀ (k p : Fin 4) (u : Fin 8) (t0 : Nat) (lvl : Bool) (s : State), nbit s.dev.pins.trigIn k ≠ lvl → s.dev.unitsLive p = true →
    (s.dev.acqOf p).last = none → s.dev.cuType p u = 7 → s.dev.cuSel p u = k →
    (s.dev.cuMode p u = 3 ∨ s.dev.cuMode p u = (if lvl then 1 else 2)) → ∃ t, exec (.trigInEdge k t0 lvl) s = .next t ∧
      ⟨u.val, Dev.tdcRound t0, true⟩ ∈ (t.dev.acqOf p).hits ∧
      t.dev.sameRegs s.dev [R.trgLateCnt 0, R.trgLateCnt 1, R.trgLateCnt 2, R.trgLateCnt 3] ∧
      t.dev = { s.dev with regs := t.dev.regs, acq := t.dev.acq, pins := t.dev.pins }) ∧
  (∀ (m : Fin 64) (c : Fin 2) (t0 : Nat) (lvl : Bool) (s : State), nbit s.dev.pins.ucCmp (2 * m + c) ≠ lvl → s.dev.ucReady m = true →
    s.dev.ucOwner m ≠ 0 → ∃ t, exec (.utilityComparatorEdge m c t0 lvl) s = .next t ∧
      t.dev.pins = { s.dev.pins with ucCmp := setNbits s.dev.pins.ucCmp (2 * m + c) (2 * m + c) (b2n lvl) } ∧
      (t.dev.acqOf (m / 16)).trans.head? = some (16 + 2 * (m.val % 16) + c.val, Dev.tdcRound t0, lvl) ∧
      (∀ q : Fin 4, q.val ≠ m.val / 16 → t.dev.acqOf q = s.dev.acqOf q) ∧ t.dev.sameRegs s.dev [R.trgLateCnt (m / 16)] ∧
      t.dev = { s.dev with regs := t.dev.regs, acq := t.dev.acq, pins := t.dev.pins }) ∧
  (∀ (p : Fin 4) (x : Smp) (l : List Smp) (s : State), (s.dev.acqOf p).smps = x :: l → s.dev.decidable p x = true →
    (s.dev.acqOf p).force = none → (s.dev.acqOf p).mask = none → s.dev.acqState p = 1 → (s.dev.acqOf p).st < 4 →
    fget (s.dev.get (R.trgStCtrl p (s.dev.acqOf p).st)) F.trgStCtrlCond = 0 → s.dev.rn (R.trgStTmo p (s.dev.acqOf p).st) = 0 →
    ∃ t, exec (.sampleDecision p) s = .next t ∧
      (t.dev.acqOf p).smps = l ∧ (t.dev.acqOf p).st = (s.dev.acqOf p).st ∧ (t.dev.acqOf p).open_ = (s.dev.acqOf p).open_ ∧ t.dev.acqState p = 1 ∧
      (t.dev.acqOf p).last = some x ∧ (t.dev.acqOf p).next = x.n + 1 ∧
      (∀ u : Fin 8, t.dev.rn (R.trgCuHits p u) = min 0xFFFFFFFF (s.dev.rn (R.trgCuHits p u) + b2n (nbit (s.dev.sampleHits p { (s.dev.acqOf p) with wins := Dev.rawWindows (s.dev.acqOf p) x, t0 := if x.n = (s.dev.acqOf p).na then x.t else (s.dev.acqOf p).t0 } x) u))) ∧
      t.dev.rf (R.trgStat p) F.trgStatHits = (s.dev.sampleHits p { (s.dev.acqOf p) with wins := Dev.rawWindows (s.dev.acqOf p) x, t0 := if x.n = (s.dev.acqOf p).na then x.t else (s.dev.acqOf p).t0 } x) % 256 ∧
      t.dev.dram = s.dev.dram ∧
      t.dev.sameRegs s.dev [R.trgCuHits p 0, R.trgCuHits p 1, R.trgCuHits p 2, R.trgCuHits p 3, R.trgCuHits p 4, R.trgCuHits p 5, R.trgCuHits p 6, R.trgCuHits p 7, R.trgStat p] ∧
      t.dev = { s.dev with regs := t.dev.regs, acq := t.dev.acq, pins := t.dev.pins }) ∧
  (∀ (p : Fin 4) (x : Smp) (l : List Smp) (o : AcqRec) (s : State), (s.dev.acqOf p).smps = x :: l → s.dev.decidable p x = true →
    (s.dev.acqOf p).force = none → (s.dev.acqOf p).mask = none → s.dev.acqState p = 1 → (s.dev.acqOf p).st < 4 →
    fget (s.dev.get (R.trgStCtrl p (s.dev.acqOf p).st)) F.trgStCtrlCond &&& (s.dev.sampleHits p { (s.dev.acqOf p) with wins := Dev.rawWindows (s.dev.acqOf p) x, t0 := if x.n = (s.dev.acqOf p).na then x.t else (s.dev.acqOf p).t0 } x) ≠ 0 →
    fget (s.dev.get (R.trgStCtrl p (s.dev.acqOf p).st)) F.trgStCtrlAll = 0 →
    fget (s.dev.get (R.trgStCtrl p (s.dev.acqOf p).st)) F.trgStCtrlAct = 0 → (s.dev.acqOf p).entered ≤ x.n →
    s.dev.rb (R.acqCfg p) F.acqCfgPreFull = false → 0 < s.dev.rn (R.acqPost p) → s.dev.noReact (Ev.trgFire p) = true →
    s.dev.noReact (Ev.acqPreShort p) = true →
    o = s.dev.openRec p { (s.dev.acqOf p) with wins := Dev.rawWindows (s.dev.acqOf p) x, t0 := if x.n = (s.dev.acqOf p).na then x.t else (s.dev.acqOf p).t0 } x ((s.dev.sampleHits p { (s.dev.acqOf p) with wins := Dev.rawWindows (s.dev.acqOf p) x, t0 := if x.n = (s.dev.acqOf p).na then x.t else (s.dev.acqOf p).t0 } x) &&& fget (s.dev.get (R.trgStCtrl p (s.dev.acqOf p).st)) F.trgStCtrlCond) (((List.range 8).find? (fun u => nbit ((s.dev.sampleHits p { (s.dev.acqOf p) with wins := Dev.rawWindows (s.dev.acqOf p) x, t0 := if x.n = (s.dev.acqOf p).na then x.t else (s.dev.acqOf p).t0 } x) &&& fget (s.dev.get (R.trgStCtrl p (s.dev.acqOf p).st)) F.trgStCtrlCond) u)).getD 0) false false →
    ∃ t, exec (.sampleDecision p) s = .next t ∧
      t.dev.acqState p = 2 ∧ t.dev.rb (R.acqStat p) F.acqStatTriggered = true ∧ (t.dev.acqOf p).open_ = some o ∧ o.nT = x.n ∧
      (t.dev.acqOf p).st = 0 ∧ (t.dev.acqOf p).entered = x.n + 1 ∧ (t.dev.acqOf p).smps = l ∧ (t.dev.acqOf p).last = some x ∧
      (t.dev.acqOf p).next = x.n + 1 ∧
      (∀ u : Fin 8, t.dev.rn (R.trgCuHits p u) = min 0xFFFFFFFF (s.dev.rn (R.trgCuHits p u) + b2n (nbit (s.dev.sampleHits p { (s.dev.acqOf p) with wins := Dev.rawWindows (s.dev.acqOf p) x, t0 := if x.n = (s.dev.acqOf p).na then x.t else (s.dev.acqOf p).t0 } x) u))) ∧
      t.dev.rf (R.trgStat p) F.trgStatHits = (s.dev.sampleHits p { (s.dev.acqOf p) with wins := Dev.rawWindows (s.dev.acqOf p) x, t0 := if x.n = (s.dev.acqOf p).na then x.t else (s.dev.acqOf p).t0 } x) % 256 ∧
      t.dev.dram = s.dev.dram ∧
      t.dev.sameQuiet s.dev [R.trgCuHits p 0, R.trgCuHits p 1, R.trgCuHits p 2, R.trgCuHits p 3, R.trgCuHits p 4, R.trgCuHits p 5, R.trgCuHits p 6, R.trgCuHits p 7, R.trgStat p, R.acqMissed p] ∧
      t.dev = { s.dev with regs := t.dev.regs, pins := t.dev.pins, evt := t.dev.evt, sram := t.dev.sram, hostMem := t.dev.hostMem, hif := t.dev.hif, seq := t.dev.seq, chans := t.dev.chans, lvls := t.dev.lvls, acq := t.dev.acq }) ∧
  (∀ (p : Fin 4) (s : State), s.dev.acqState p = 3 → (s.dev.acqOf p).na ≤ (s.dev.seqOf p).n →
    (s.dev.acqOf p).smps.any (fun x => decide (x.n < (s.dev.acqOf p).na)) = false →
    (s.dev.rb (R.acqCfg p) F.acqCfgFullPol = false ∨ s.dev.slotsFull p = false) → ∃ t, exec (.rearm p) s = .next t ∧
      t.dev.acqState p = 1 ∧ (t.dev.acqOf p).st = 0 ∧ (t.dev.acqOf p).entered = (s.dev.acqOf p).na ∧ (t.dev.acqOf p).cnts = [] ∧
      (t.dev.acqOf p).smps = (s.dev.acqOf p).smps ∧ t.dev.rf (R.trgStat p) F.trgStatState = 0 ∧ t.dev.sameRegs s.dev [R.acqStat p, R.trgStat p] ∧
      t.dev = { s.dev with regs := t.dev.regs, acq := t.dev.acq, pins := t.dev.pins }) ∧
  (∀ (p : Fin 4) (s : State), s.dev.acqState p = 3 → (s.dev.acqOf p).na ≤ (s.dev.seqOf p).n →
    (s.dev.acqOf p).smps.any (fun x => decide (x.n < (s.dev.acqOf p).na)) = false → s.dev.rb (R.acqCfg p) F.acqCfgFullPol = true →
    s.dev.slotsFull p = true → ∃ t, exec (.rearm p) s = .next t ∧
      t.dev.acqState p = 4 ∧ t.dev.sameRegs s.dev [R.acqStat p] ∧ t.dev = { s.dev with regs := t.dev.regs })

/-- ACQ_ARM, ACQ_DISARM, ACQ_FORCE, ACQ_FREEZE, ACQ_ROUND_WRITE and TRG_OUT_WRITE (R309, R310, R317, R318, R322 to R324).  ARM on a port that does not run arms at once with
cleared pointers.  DISARM drops undecided samples.  FORCE fires at the first undecided sample.  FREEZE stops a re-arming engine.  A waiting round is copied from the
RX lock to its basin address, a waiting descriptor to its own, and no other byte of DRAM changes.  A ball that no port claims is low. -/
def Obligations.AcquisitionIsArmedForcedFrozenAndWritten : Prop :=
  (∀ (path : Fin 7) (p : Fin 4) (w : Word) (s : State), s.dev.takes path (R.acqCtrl p) w.toNat = true → nbits w.toNat 3 0 = 1 →
    (s.dev.acqState p = 0 ∨ s.dev.acqState p = 6) → s.dev.seqState p = 0 → (s.dev.seqOf p).tref = false →
    s.dev.rb (R.acqCfg p) F.acqCfgDest = true → s.dev.areaOk p = true → ∃ t, exec (.acqArm path p w) s = .next t ∧
      t.dev.acqState p = 1 ∧ t.dev.rb (R.acqStat p) F.acqStatTriggered = false ∧ t.dev.rn (R.acqWptr p) = 0 ∧ t.dev.rn (R.acqRptr p) = 0 ∧
      (∀ u : Fin 8, t.dev.rn (R.trgCuHits p u) = 0) ∧ t.dev.rf (R.trgStat p) F.trgStatState = 0 ∧
      (t.dev.acqOf p) = { (s.dev.acqOf p) with armAt := none, na := 0, k := 0, closed := 0, st := 0, entered := 0, t0 := 0, cnts := [], open_ := none, force := none, mask := none, wins := [], gtcs := 0, smps := [], hits := [], last := none, next := 0, derr := false, pulses := (t.dev.acqOf p).pulses } ∧
      t.dev.sameRegs s.dev [R.acqCtrl p, R.acqStat p, pstat (ppage p 8), R.acqWptr p, R.acqRptr p, R.trgCuHits p 0, R.trgCuHits p 1, R.trgCuHits p 2, R.trgCuHits p 3, R.trgCuHits p 4, R.trgCuHits p 5, R.trgCuHits p 6, R.trgCuHits p 7, R.trgStat p] ∧
      t.dev = { s.dev with regs := t.dev.regs, acq := t.dev.acq, pins := t.dev.pins }) ∧
  (∀ (path : Fin 7) (p : Fin 4) (w : Word) (s : State), s.dev.takes path (R.acqCtrl p) w.toNat = true → nbits w.toNat 3 0 = 2 →
    ∃ t, exec (.acqDisarm path p w) s = .next t ∧
      t.dev.acqState p = 0 ∧ t.dev.rb (R.acqStat p) F.acqStatTriggered = false ∧ (t.dev.acqOf p).smps = [] ∧ (t.dev.acqOf p).hits = [] ∧
      (t.dev.acqOf p).open_ = none ∧ (t.dev.acqOf p).armAt = none ∧ (t.dev.acqOf p).force = none ∧
      (s.dev.acqState p = 2 ∨ (t.dev.acqOf p).out = (s.dev.acqOf p).out) ∧ t.dev.sameRegs s.dev [R.acqCtrl p, R.acqStat p, pstat (ppage p 8)] ∧
      t.dev = { s.dev with regs := t.dev.regs, acq := t.dev.acq, pins := t.dev.pins }) ∧
  (∀ (path : Fin 7) (p : Fin 4) (w : Word) (s : State), s.dev.takes path (R.acqCtrl p) w.toNat = true → nbits w.toNat 3 0 = 8 →
    s.dev.unitsLive p = true → ∃ t, exec (.acqForce path p w) s = .next t ∧
      (t.dev.acqOf p) = { (s.dev.acqOf p) with force := some (s.dev.firstUndecided p) } ∧ t.dev.acqState p = s.dev.acqState p ∧
      t.dev.sameRegs s.dev [R.acqCtrl p, pstat (ppage p 8)] ∧ t.dev = { s.dev with regs := t.dev.regs, acq := t.dev.acq }) ∧
  (∀ (path : Fin 7) (p : Fin 4) (w : Word) (s : State), s.dev.takesCtrl path (ppage p 8) w.toNat = true → w = 4 →
    s.dev.rb (pctl (ppage p 8)) F.ctlFreeze = false → ∃ t, exec (.acqFreeze path p w) s = .next t ∧
      t.dev.rb (pctl (ppage p 8)) F.ctlFreeze = true ∧
      t.dev.acqState p = (if 1 ≤ s.dev.acqState p ∧ s.dev.acqState p ≤ 4 then 5 else s.dev.acqState p) ∧
      t.dev.sameRegs s.dev [pctl (ppage p 8), R.acqStat p, pstat (ppage p 8)] ∧ t.dev = { s.dev with regs := t.dev.regs, acq := t.dev.acq }) ∧
  (∀ (path : Fin 7) (p : Fin 4) (w : Word) (s : State), s.dev.takesCtrl path (ppage p 8) w.toNat = true → w = 0 →
    s.dev.rb (pctl (ppage p 8)) F.ctlFreeze = true → s.dev.acqState p = 5 → s.dev.rb (R.acqCfg p) F.acqCfgRing = true →
    ∃ t, exec (.acqFreeze path p w) s = .next t ∧
      t.dev.rb (pctl (ppage p 8)) F.ctlFreeze = false ∧ t.dev.acqState p = 3 ∧ (t.dev.acqOf p).na = s.dev.nextRound p ∧
      (t.dev.acqOf p).smps = [] ∧ (t.dev.acqOf p).open_ = none ∧ t.dev.sameRegs s.dev [pctl (ppage p 8), R.acqStat p, pstat (ppage p 8)] ∧
      t.dev = { s.dev with regs := t.dev.regs, acq := t.dev.acq }) ∧
  (∀ (p : Fin 4) (x a : Nat) (l : List AcqOut) (s : State), (s.dev.acqOf p).out = .round x a :: l → s.dev.acqReady p = true →
    s.dev.dramOk a (s.dev.acqRb p) = true → a % 64 = 0 → ∃ t, exec (.acqRoundWrite p false) s = .next t ∧
      (t.dev.acqOf p).out = l ∧
      mread t.dev.dram a (s.dev.acqRb p) = (List.range (s.dev.acqRb p)).map (fun i => s.dev.rxByte p (x * s.dev.acqRb p + i)) ∧
      sameBut t.dev.dram s.dev.dram a (s.dev.acqRb p) ∧ t.dev.sram = s.dev.sram ∧ (t.dev.acqOf p).derr = (s.dev.acqOf p).derr ∧
      (t.dev.seqOf p).rxDrained = max (s.dev.seqOf p).rxDrained ((x + 1) * s.dev.acqRb p / 2048) ∧
      t.dev = { s.dev with regs := t.dev.regs, acq := t.dev.acq, pins := t.dev.pins, seq := t.dev.seq, dram := t.dev.dram, dramc := t.dev.dramc, mc := t.dev.mc }) ∧
  (∀ (p : Fin 4) (a : Nat) (ws : List Nat) (l : List AcqOut) (s : State), (s.dev.acqOf p).out = .desc a ws :: l → ws.length = 16 →
    (s.dev.acqOf p).derr = false → s.dev.dramOk a 64 = true → a % 64 = 0 → ∃ t, exec (.acqRoundWrite p false) s = .next t ∧
      (t.dev.acqOf p).out = l ∧ mread t.dev.dram a 64 = Dev.wordsBytes ws ∧ sameBut t.dev.dram s.dev.dram a 64 ∧
      t.dev.rn (R.acqWptr p) = (s.dev.rn (R.acqWptr p) + 1) % 2 ^ 32 ∧
      t.dev = { s.dev with regs := t.dev.regs, acq := t.dev.acq, pins := t.dev.pins, dram := t.dev.dram, dramc := t.dev.dramc, mc := t.dev.mc }) ∧
  (∀ (path : Fin 7) (p : Fin 4) (w : Word) (s : State), s.dev.takes path (R.trgOut p) w.toNat = true →
    ∃ t, exec (.trgOutWrite path p w) s = .next t ∧
      t.dev.get (R.trgOut p) = w ∧ (∀ k : Fin 4, nbit t.dev.pins.trigOut k = t.dev.trgLevel k) ∧
      (∀ k : Fin 4, (∀ q : Fin 4, t.dev.trgOwns q k = false) → nbit t.dev.pins.trigOut k = false) ∧
      t.dev.pins = { s.dev.pins with trigOut := t.dev.pins.trigOut } ∧ t.dev.sameRegs s.dev [R.trgOut p, pstat (ppage p 7)] ∧
      t.dev = { s.dev with regs := t.dev.regs, acq := t.dev.acq, pins := t.dev.pins })

/-- MSK_VIOL_DECISION and MSK_CLR (R328 to R330).  A violation is counted; the first one since a clear is shown with its sample, time, place and data; with STOP_ACT = 1
an armed engine fires at its sample or at the first undecided one, whichever is later.  CLR empties the record. -/
def Obligations.MaskViolationsAreShownAndCleared : Prop :=
  (∀ (p : Fin 4) (x : MskViol) (l : List MskViol) (s : State), (s.dev.flpOf p).viols = x :: l → x.ch < 8 →
    s.dev.rb (R.mskStat p) F.mskStatViol = false → s.dev.rf (R.mskCtrl p) F.mskCtrlStopAct = 0 → ∃ t, exec (.mskViolDecision p) s = .next t ∧
      t.dev.rn (R.mskViolCnt p) = min 0xFFFFFFFF (s.dev.rn (R.mskViolCnt p) + 1) ∧ (t.dev.flpOf p).viols = l ∧
      t.dev.wide (R.mskViolSampleLo p) 2 = x.n % 2 ^ 64 ∧ t.dev.wide (R.mskViolGtc0 p) 3 = x.t % 2 ^ 96 ∧
      t.dev.rn (R.mskViolPos p) = x.pos % 2 ^ 32 ∧ t.dev.rn (R.mskViolData p) = x.data % 2 ^ 32 ∧
      t.dev.rn (R.mskViolCount p) = x.count % 2 ^ 32 ∧ t.dev.rb (R.mskStat p) F.mskStatViol = true ∧
      t.dev.rb (R.mskStat p) F.mskStatSrc = x.stream ∧ t.dev.rf (R.mskStat p) F.mskStatChan = x.ch ∧
      t.dev.rb (R.mskStat p) F.mskStatLate = false ∧
      t.dev.sameQuiet s.dev [R.mskViolCnt p, R.mskStat p, R.mskViolSampleLo p, R.mskViolSampleHi p, R.mskViolGtc0 p, R.mskViolGtc1 p, R.mskViolGtc2 p, R.mskViolPos p, R.mskViolData p, R.mskViolCount p] ∧
      t.dev = { s.dev with regs := t.dev.regs, flp := t.dev.flp, pins := t.dev.pins, evt := t.dev.evt, sram := t.dev.sram, hostMem := t.dev.hostMem, hif := t.dev.hif, seq := t.dev.seq, chans := t.dev.chans, lvls := t.dev.lvls, acq := t.dev.acq }) ∧
  (∀ (p : Fin 4) (x : MskViol) (l : List MskViol) (s : State), (s.dev.flpOf p).viols = x :: l → x.ch < 8 →
    s.dev.rb (R.mskStat p) F.mskStatViol = false → s.dev.rf (R.mskCtrl p) F.mskCtrlStopAct = 1 → s.dev.acqState p = 1 →
    s.dev.noReact (Ev.mskViol p) = true → ∃ t, exec (.mskViolDecision p) s = .next t ∧
      t.dev.rn (R.mskViolCnt p) = min 0xFFFFFFFF (s.dev.rn (R.mskViolCnt p) + 1) ∧ (t.dev.flpOf p).viols = l ∧
      t.dev.wide (R.mskViolSampleLo p) 2 = x.n % 2 ^ 64 ∧ t.dev.wide (R.mskViolGtc0 p) 3 = x.t % 2 ^ 96 ∧
      t.dev.rn (R.mskViolPos p) = x.pos % 2 ^ 32 ∧ t.dev.rn (R.mskViolData p) = x.data % 2 ^ 32 ∧
      t.dev.rn (R.mskViolCount p) = x.count % 2 ^ 32 ∧ t.dev.rb (R.mskStat p) F.mskStatViol = true ∧
      t.dev.rb (R.mskStat p) F.mskStatSrc = x.stream ∧ t.dev.rf (R.mskStat p) F.mskStatChan = x.ch ∧
      (t.dev.acqOf p).mask = some (max x.n (s.dev.firstUndecided p)) ∧
      t.dev.rb (R.mskStat p) F.mskStatLate = decide (x.n < s.dev.firstUndecided p ∨ x.t + s.dev.rn (R.trgHorizon p) < x.a) ∧
      t.dev.sameQuiet s.dev [R.mskViolCnt p, R.mskStat p, R.mskViolSampleLo p, R.mskViolSampleHi p, R.mskViolGtc0 p, R.mskViolGtc1 p, R.mskViolGtc2 p, R.mskViolPos p, R.mskViolData p, R.mskViolCount p] ∧
      t.dev = { s.dev with regs := t.dev.regs, flp := t.dev.flp, pins := t.dev.pins, evt := t.dev.evt, sram := t.dev.sram, hostMem := t.dev.hostMem, hif := t.dev.hif, seq := t.dev.seq, chans := t.dev.chans, lvls := t.dev.lvls, acq := t.dev.acq }) ∧
  (∀ (p : Fin 4) (x : MskViol) (l : List MskViol) (s : State), (s.dev.flpOf p).viols = x :: l → s.dev.rb (R.mskStat p) F.mskStatViol = true →
    ∃ t, exec (.mskViolDecision p) s = .next t ∧
      t.dev.rn (R.mskViolCnt p) = min 0xFFFFFFFF (s.dev.rn (R.mskViolCnt p) + 1) ∧ (t.dev.flpOf p).viols = l ∧
      t.dev.rn (R.mskStat p) = s.dev.rn (R.mskStat p) ∧ t.dev.sameQuiet s.dev [R.mskViolCnt p] ∧
      t.dev = { s.dev with regs := t.dev.regs, flp := t.dev.flp, pins := t.dev.pins, evt := t.dev.evt, sram := t.dev.sram, hostMem := t.dev.hostMem, hif := t.dev.hif, seq := t.dev.seq, chans := t.dev.chans, lvls := t.dev.lvls, acq := t.dev.acq }) ∧
  (∀ (path : Fin 7) (p : Fin 4) (w : Word) (s : State), s.dev.takes path (R.mskCtrl p) w.toNat = true → nbit w.toNat 8 = true →
    ∃ t, exec (.mskClr path p w) s = .next t ∧
      t.dev.rn (R.mskStat p) = 0 ∧ t.dev.wide (R.mskViolSampleLo p) 2 = 0 ∧ t.dev.wide (R.mskViolGtc0 p) 3 = 0 ∧ t.dev.rn (R.mskViolPos p) = 0 ∧
      t.dev.rn (R.mskViolData p) = 0 ∧ t.dev.rn (R.mskViolCount p) = 0 ∧
      t.dev.sameRegs s.dev [R.mskCtrl p, pstat (ppage p 9), R.mskViolCnt p, R.mskStat p, R.mskViolSampleLo p, R.mskViolSampleHi p, R.mskViolGtc0 p, R.mskViolGtc1 p, R.mskViolGtc2 p, R.mskViolPos p, R.mskViolData p, R.mskViolCount p] ∧
      t.dev = { s.dev with regs := t.dev.regs })

/-! ### Sideband engines (12_sideband_engines.md) -/

/-- SIDEBAND_ENABLE, SIDEBAND_DISABLE, FLUSH, ABORT and LINE_LOST (R334, R339, R340, R342, R343).  An engine whose lines have owners is enabled.  FLUSH of an
idle engine empties its ring; of a busy one it skips what has not begun.  ABORT writes a record with status 7 and moves the read pointer.  A
disable flushes and releases.  A lost line ends what is in progress with status 10. -/
def Obligations.SidebandEnginesEnableFlushAndAbort : Prop :=
  (∀ (path : Fin 7) (p e : Fin 4) (w : Word) (s : State), s.dev.takesCtrl path (ppage p (0xB + e)) w.toNat = true → w = 1 →
    s.dev.linesOwned p e = true → s.dev.sbOn p e = false → s.dev.cmdAvail p e < 8 → ∃ t, exec (.sidebandEnable path p e w) s = .next t ∧
      t.dev.sbOn p e = true ∧ (t.dev.sbOf p e).known = false ∧ (t.dev.sbOf p e).pulse = none ∧ (t.dev.sbOf p e).busy = (s.dev.sbOf p e).busy ∧
      t.dev.sameRegs s.dev [pctl (ppage p (0xB + e)), pstat (ppage p (0xB + e)), R.hpdStat p] ∧
      t.dev = { s.dev with regs := t.dev.regs, sb := t.dev.sb }) ∧
  (∀ (path : Fin 7) (p e : Fin 4) (w : Word) (out : Outside) (s : State), s.dev.takesCtrl path (ppage p (0xB + e)) w.toNat = true → w = 0 →
    s.dev.sbOn p e = true → (s.dev.sbOf p e).busy = false → ∃ t, exec (.sidebandDisable path p e w out) s = .next t ∧
      t.dev.sbOn p e = false ∧ (t.dev.sbOf p e).run = false ∧ (t.dev.sbOf p e).req = none ∧ (t.dev.sbOf p e).pulse = none ∧
      (e.val = 3 ∨ t.dev.rn (Dev.sbRptr p e) = s.dev.rn (Dev.sbWptr p e)) ∧
      t.dev.sameRegs s.dev [pctl (ppage p (0xB + e)), pstat (ppage p (0xB + e)), R.hpdStat p, Dev.sbRptr p e] ∧
      t.dev = { s.dev with regs := t.dev.regs, sb := t.dev.sb }) ∧
  (∀ (path : Fin 7) (p : Fin 4) (e : Fin 3) (w : Word) (out : Outside) (s : State), s.dev.takes path (Dev.sbReg p e 0x5C) w.toNat = true →
    nbits w.toNat 1 0 = 1 → (s.dev.sbOf p e).busy = true → (s.dev.sbOf p e).skip = none → s.dev.cmdAvail p e = (s.dev.sbCmd p e).size →
    s.dev.ringRoom p e = true → ∃ t, exec (.abort path p e w out) s = .next t ∧
      t.dev.hasRecord s.dev p e ⟨7, 1, 0, (s.dev.sbCmd p e).tag, (if e = 0 then Dev.cecInfo 0 (s.dev.sbOf p e).att ((s.dev.sbCmd p e).param * 16 + (s.dev.sbCmd p e).dw1 % 16) else if e = 1 then Dev.ddcInfo (if nbit (s.dev.sbCmd p e).dw1 16 then some (nbits (s.dev.sbCmd p e).dw1 15 8) else none) 0 0xFF (2 * ((s.dev.sbCmd p e).dw1 % 128)) else Dev.auxInfo (Dev.auxComm (s.dev.sbCmd p e)) 15 (s.dev.sbOf p e).defers (s.dev.sbCmd p e).dw1), (s.dev.sbOf p e).t, out.passed.take (s.dev.sbCmd p e).len, [], [], []⟩ = true ∧
      t.dev.rn (Dev.sbRptr p e) = (s.dev.rn (Dev.sbRptr p e) + (s.dev.sbCmd p e).size) % 2 ^ 32 ∧ (t.dev.sbOf p e).busy = false ∧
      t.dev.sameQuiet s.dev [Dev.sbRptr p e, R.trgLateCnt p, Dev.sbReg p e 0x5C, pstat (Dev.sbPage p e)] ∧
      t.dev = { s.dev with regs := t.dev.regs, sb := t.dev.sb, acq := t.dev.acq, sram := t.dev.sram, evt := t.dev.evt, hostMem := t.dev.hostMem, hif := t.dev.hif, seq := t.dev.seq, chans := t.dev.chans, lvls := t.dev.lvls }) ∧
  (∀ (path : Fin 7) (p : Fin 4) (e : Fin 3) (w : Word) (out : Outside) (s : State), s.dev.takes path (Dev.sbReg p e 0x5C) w.toNat = true →
    nbits w.toNat 1 0 = 2 → (s.dev.sbOf p e).busy = false → ∃ t, exec (.flush path p e w out) s = .next t ∧
      t.dev.rn (Dev.sbRptr p e) = s.dev.rn (Dev.sbWptr p e) ∧ (t.dev.sbOf p e) = (s.dev.sbOf p e) ∧
      t.dev.sameRegs s.dev [Dev.sbRptr p e, pstat (Dev.sbPage p e)] ∧ t.dev = { s.dev with regs := t.dev.regs }) ∧
  (∀ (path : Fin 7) (p : Fin 4) (e : Fin 3) (w : Word) (out : Outside) (s : State), s.dev.takes path (Dev.sbReg p e 0x5C) w.toNat = true →
    nbits w.toNat 1 0 = 2 → (s.dev.sbOf p e).busy = true → ∃ t, exec (.flush path p e w out) s = .next t ∧
      (t.dev.sbOf p e) = { (s.dev.sbOf p e) with skip := some (s.dev.rn (Dev.sbWptr p e)) } ∧ t.dev.sameRegs s.dev [pstat (Dev.sbPage p e)] ∧
      t.dev = { s.dev with regs := t.dev.regs, sb := t.dev.sb }) ∧
  (∀ (p e : Fin 4) (t0 : Nat) (passed : List Nat) (s : State), e.val < 3 → s.dev.sbOn p e = true → s.dev.linesReady p e = false →
    (s.dev.sbOf p e).busy = false → s.dev.ringRoom p e = true → ∃ t, exec (.lineLost p e true t0 passed) s = .next t ∧
      t.dev.hasRecord s.dev p e ⟨10, 3, 2, 0, 0, t0, passed, [], [], []⟩ = true ∧ (t.dev.sbOf p e).req = none ∧
      (t.dev.sbOf p e).i2c = I2cAux.reset ∧ t.dev.sameQuiet s.dev [Dev.sbRptr p e, R.trgLateCnt p] ∧
      t.dev = { s.dev with regs := t.dev.regs, sb := t.dev.sb, acq := t.dev.acq, sram := t.dev.sram, evt := t.dev.evt, hostMem := t.dev.hostMem, hif := t.dev.hif, seq := t.dev.seq, chans := t.dev.chans, lvls := t.dev.lvls }) ∧
  (∀ (p e : Fin 4) (t0 : Nat) (passed : List Nat) (s : State), e.val = 1 → s.dev.sbOn p e = true → s.dev.linesReady p e = false →
    (s.dev.sbOf p e).busy = true → (s.dev.sbOf p e).skip = none → s.dev.cmdAvail p e = (s.dev.sbCmd p e).size → s.dev.ringRoom p e = true →
    ∃ t, exec (.lineLost p e false t0 passed) s = .next t ∧
      t.dev.hasRecord s.dev p e ⟨10, 1, 0, (s.dev.sbCmd p e).tag, Dev.ddcInfo (if nbit (s.dev.sbCmd p e).dw1 16 then some (nbits (s.dev.sbCmd p e).dw1 15 8) else none) 0 0xFF (2 * ((s.dev.sbCmd p e).dw1 % 128)), (s.dev.sbOf p e).t, passed.take (s.dev.sbCmd p e).len, [], [], []⟩ = true ∧
      t.dev.rn (Dev.sbRptr p e) = (s.dev.rn (Dev.sbRptr p e) + (s.dev.sbCmd p e).size) % 2 ^ 32 ∧ (t.dev.sbOf p e).busy = false ∧
      t.dev.sameQuiet s.dev [Dev.sbRptr p e, R.trgLateCnt p] ∧
      t.dev = { s.dev with regs := t.dev.regs, sb := t.dev.sb, acq := t.dev.acq, sram := t.dev.sram, evt := t.dev.evt, hostMem := t.dev.hostMem, hif := t.dev.hif, seq := t.dev.seq, chans := t.dev.chans, lvls := t.dev.lvls })

/-- SEND, CEC_ATTEMPT_START, CEC_MESSAGE_RECEIVED, DDC_WRITE, DDC_READ, DDC_WRITE_READ, DDC_STUCK_BUS_TIMEOUT and DDC_TRANSACTION_OBSERVED (R340, R341,
R346, R347, R349 to R351).  Where the ring has room the record stands at the write pointer; a command that ends moves the read pointer over it.  A
failed SEND is tried again while attempts are left.  A message to an emulated address is answered, others are strangers'. -/
def Obligations.CecAndDdcMessagesEndInRecords : Prop :=
  (∀ (p : Fin 4) (acks t0 : Nat) (times : List Nat) (s : State), s.dev.working p 0 1 = true → (s.dev.sbOf p 0).run = true →
    ∃ t, exec (.send p 0 ((s.dev.sbCmd p 0).len + 1) acks t0 times) s = .next t ∧
      t.dev.hasRecord s.dev p 0 ⟨0, 1, 0, (s.dev.sbCmd p 0).tag, Dev.cecInfo (acks % 2 ^ ((s.dev.sbCmd p 0).len + 1)) (s.dev.sbOf p 0).att ((s.dev.sbCmd p 0).param * 16 + (s.dev.sbCmd p 0).dw1 % 16), t0, (s.dev.sbCmd p 0).data.take (s.dev.sbCmd p 0).len, [], [], []⟩ = true ∧
      t.dev.rn (Dev.sbRptr p 0) = (s.dev.rn (Dev.sbRptr p 0) + (s.dev.sbCmd p 0).size) % 2 ^ 32 ∧ (t.dev.sbOf p 0).busy = false ∧
      t.dev.rn (R.cecCnt p) = s.dev.rn (R.cecCnt p) ∧ t.dev.sameQuiet s.dev [Dev.sbRptr p 0, R.trgLateCnt p] ∧
      t.dev = { s.dev with regs := t.dev.regs, sb := t.dev.sb, acq := t.dev.acq, sram := t.dev.sram, evt := t.dev.evt, hostMem := t.dev.hostMem, hif := t.dev.hif, seq := t.dev.seq, chans := t.dev.chans, lvls := t.dev.lvls }) ∧
  (∀ (p : Fin 4) (status blocks acks t0 : Nat) (times : List Nat) (s : State), s.dev.working p 0 1 = true → (s.dev.sbOf p 0).run = true →
    status ∈ [1, 3, 4, 8] → (s.dev.sbOf p 0).att ≤ s.dev.rf (R.cecCfg p) F.cecCfgRetry →
    ∃ t, exec (.send p status blocks acks t0 times) s = .next t ∧
      (t.dev.sbOf p 0) = { (s.dev.sbOf p 0) with run := false, t := t0 } ∧
      t.dev.rf (R.cecCnt p) F.cecCntArb = (if status = 3 then min 65535 (s.dev.rf (R.cecCnt p) F.cecCntArb + 1) else s.dev.rf (R.cecCnt p) F.cecCntArb) ∧
      t.dev.rf (R.cecCnt p) F.cecCntColl = (if status = 4 then min 65535 (s.dev.rf (R.cecCnt p) F.cecCntColl + 1) else s.dev.rf (R.cecCnt p) F.cecCntColl) ∧
      t.dev.sameQuiet s.dev [R.cecCnt p] ∧
      t.dev = { s.dev with regs := t.dev.regs, sb := t.dev.sb, evt := t.dev.evt, sram := t.dev.sram, hostMem := t.dev.hostMem, hif := t.dev.hif, seq := t.dev.seq, chans := t.dev.chans, lvls := t.dev.lvls, acq := t.dev.acq }) ∧
  (∀ (p : Fin 4)  (s : State), s.dev.working p 0 1 = true → (s.dev.sbOf p 0).run = false → ∃ t, exec (.cecAttemptStart p) s = .next t ∧
      (t.dev.sbOf p 0) = { (s.dev.sbOf p 0) with run := true, att := (s.dev.sbOf p 0).att + 1 } ∧ t.dev.sameRegs s.dev [] ∧
      t.dev = { s.dev with regs := t.dev.regs, sb := t.dev.sb }) ∧
  (∀ (p : Fin 4) (t0 hdr acks : Nat) (l times : List Nat) (s : State), s.dev.sbLive p 0 = true → s.dev.ringRoom p 0 = true →
    s.dev.sbRole p 0 = 0 → hdr % 16 ≠ 15 → l.length < 16 → s.dev.cecEmulated p (hdr % 16) = true →
    ∃ t, exec (.cecMessageReceived p t0 0 (hdr :: l) acks times) s = .next t ∧
      t.dev.hasRecord s.dev p 0 ⟨0, 2, 1, 0, Dev.cecInfo (2 ^ (l.length + 1) - 1) 0 hdr, t0, l, [], [], []⟩ = true ∧
      t.dev.sameQuiet s.dev [Dev.sbRptr p 0, R.trgLateCnt p] ∧
      t.dev = { s.dev with regs := t.dev.regs, sb := t.dev.sb, acq := t.dev.acq, sram := t.dev.sram, evt := t.dev.evt, hostMem := t.dev.hostMem, hif := t.dev.hif, seq := t.dev.seq, chans := t.dev.chans, lvls := t.dev.lvls }) ∧
  (∀ (p : Fin 4) (t0 hdr acks : Nat) (l times : List Nat) (s : State), s.dev.sbLive p 0 = true → s.dev.ringRoom p 0 = true →
    s.dev.sbRole p 0 = 0 → hdr % 16 ≠ 15 → l.length < 16 → s.dev.cecEmulated p (hdr % 16) = false →
    ∃ t, exec (.cecMessageReceived p t0 0 (hdr :: l) acks times) s = .next t ∧
      t.dev.hasRecord s.dev p 0 ⟨if acks % 2 ^ (l.length + 1) ≠ 2 ^ (l.length + 1) - 1 then 1 else 0, 3, 2, 0, Dev.cecInfo (acks % 2 ^ (l.length + 1)) 0 hdr, t0, l, [], [], []⟩ = true ∧
      t.dev.sameQuiet s.dev [Dev.sbRptr p 0, R.trgLateCnt p] ∧
      t.dev = { s.dev with regs := t.dev.regs, sb := t.dev.sb, acq := t.dev.acq, sram := t.dev.sram, evt := t.dev.evt, hostMem := t.dev.hostMem, hif := t.dev.hif, seq := t.dev.seq, chans := t.dev.chans, lvls := t.dev.lvls }) ∧
  (∀ (p : Fin 4) (t0 sent nack : Nat) (times : List Nat) (s : State), s.dev.working p 1 1 = true →
    ∃ t, exec (.ddcWrite p t0 0 0 sent nack times) s = .next t ∧
      t.dev.hasRecord s.dev p 1 ⟨0, 1, 0, (s.dev.sbCmd p 1).tag, Dev.ddcInfo (if nbit (s.dev.sbCmd p 1).dw1 16 then some (nbits (s.dev.sbCmd p 1).dw1 15 8) else none) 0 0xFF (2 * ((s.dev.sbCmd p 1).dw1 % 128)), t0, (s.dev.sbCmd p 1).data.take (s.dev.sbCmd p 1).len, [], [], []⟩ = true ∧
      t.dev.rn (Dev.sbRptr p 1) = (s.dev.rn (Dev.sbRptr p 1) + (s.dev.sbCmd p 1).size) % 2 ^ 32 ∧ (t.dev.sbOf p 1).busy = false ∧
      t.dev.sameQuiet s.dev [Dev.sbRptr p 1, R.trgLateCnt p, R.ddcCnt p] ∧
      t.dev = { s.dev with regs := t.dev.regs, sb := t.dev.sb, acq := t.dev.acq, sram := t.dev.sram, evt := t.dev.evt, hostMem := t.dev.hostMem, hif := t.dev.hif, seq := t.dev.seq, chans := t.dev.chans, lvls := t.dev.lvls }) ∧
  (∀ (p : Fin 4) (t0 sent nack : Nat) (rd times : List Nat) (s : State), s.dev.working p 1 2 = true → 0 < (s.dev.sbCmd p 1).rdlen 1 →
    ∃ t, exec (.ddcRead p t0 0 0 sent nack rd times) s = .next t ∧
      t.dev.hasRecord s.dev p 1 ⟨0, 1, 0, (s.dev.sbCmd p 1).tag, Dev.ddcInfo (if nbit (s.dev.sbCmd p 1).dw1 16 then some (nbits (s.dev.sbCmd p 1).dw1 15 8) else none) 0 0xFF (2 * ((s.dev.sbCmd p 1).dw1 % 128) + 1), t0, [], (List.range ((s.dev.sbCmd p 1).rdlen 1)).map (fun i => (rd[i]?).getD 0 % 256), [], []⟩ = true ∧
      t.dev.rn (Dev.sbRptr p 1) = (s.dev.rn (Dev.sbRptr p 1) + (s.dev.sbCmd p 1).size) % 2 ^ 32 ∧ (t.dev.sbOf p 1).busy = false ∧
      t.dev.sameQuiet s.dev [Dev.sbRptr p 1, R.trgLateCnt p, R.ddcCnt p] ∧
      t.dev = { s.dev with regs := t.dev.regs, sb := t.dev.sb, acq := t.dev.acq, sram := t.dev.sram, evt := t.dev.evt, hostMem := t.dev.hostMem, hif := t.dev.hif, seq := t.dev.seq, chans := t.dev.chans, lvls := t.dev.lvls }) ∧
  (∀ (p : Fin 4) (t0 sent nack : Nat) (rd times : List Nat) (s : State), s.dev.working p 1 3 = true → 0 < (s.dev.sbCmd p 1).rdlen 1 →
    ∃ t, exec (.ddcWriteRead p t0 0 0 sent nack rd times) s = .next t ∧
      t.dev.hasRecord s.dev p 1 ⟨0, 1, 0, (s.dev.sbCmd p 1).tag, Dev.ddcInfo (if nbit (s.dev.sbCmd p 1).dw1 16 then some (nbits (s.dev.sbCmd p 1).dw1 15 8) else none) 0 0xFF (2 * ((s.dev.sbCmd p 1).dw1 % 128) + 1), t0, (s.dev.sbCmd p 1).data.take (s.dev.sbCmd p 1).len, (List.range ((s.dev.sbCmd p 1).rdlen 1)).map (fun i => (rd[i]?).getD 0 % 256), [], []⟩ = true ∧
      t.dev.rn (Dev.sbRptr p 1) = (s.dev.rn (Dev.sbRptr p 1) + (s.dev.sbCmd p 1).size) % 2 ^ 32 ∧ (t.dev.sbOf p 1).busy = false ∧
      t.dev.sameQuiet s.dev [Dev.sbRptr p 1, R.trgLateCnt p, R.ddcCnt p] ∧
      t.dev = { s.dev with regs := t.dev.regs, sb := t.dev.sb, acq := t.dev.acq, sram := t.dev.sram, evt := t.dev.evt, hostMem := t.dev.hostMem, hif := t.dev.hif, seq := t.dev.seq, chans := t.dev.chans, lvls := t.dev.lvls }) ∧
  (∀ (p : Fin 4) (t0 sent nack : Nat) (times : List Nat) (losses : Nat) (s : State), s.dev.working p 1 1 = true →
    s.dev.rf (R.ddcCfg p) F.ddcCfgRetry < losses → ∃ t, exec (.ddcWrite p t0 losses 0 sent nack times) s = .next t ∧
      t.dev.hasRecord s.dev p 1 ⟨3, 1, 0, (s.dev.sbCmd p 1).tag, Dev.ddcInfo (if nbit (s.dev.sbCmd p 1).dw1 16 then some (nbits (s.dev.sbCmd p 1).dw1 15 8) else none) (s.dev.rf (R.ddcCfg p) F.ddcCfgRetry) 0xFF (2 * ((s.dev.sbCmd p 1).dw1 % 128)), t0, (s.dev.sbCmd p 1).data.take sent, [], [], []⟩ = true ∧
      t.dev.rf (R.ddcCnt p) F.ddcCntArb = min 65535 (s.dev.rf (R.ddcCnt p) F.ddcCntArb + s.dev.rf (R.ddcCfg p) F.ddcCfgRetry + 1) ∧
      t.dev.rn (Dev.sbRptr p 1) = (s.dev.rn (Dev.sbRptr p 1) + (s.dev.sbCmd p 1).size) % 2 ^ 32 ∧ (t.dev.sbOf p 1).busy = false ∧
      t.dev.sameQuiet s.dev [Dev.sbRptr p 1, R.trgLateCnt p, R.ddcCnt p] ∧
      t.dev = { s.dev with regs := t.dev.regs, sb := t.dev.sb, acq := t.dev.acq, sram := t.dev.sram, evt := t.dev.evt, hostMem := t.dev.hostMem, hif := t.dev.hif, seq := t.dev.seq, chans := t.dev.chans, lvls := t.dev.lvls }) ∧
  (∀ (p : Fin 4) (t0 op : Nat) (s : State), s.dev.working p 1 op = true → ∃ t, exec (.ddcStuckBusTimeout p t0) s = .next t ∧
      t.dev.hasRecord s.dev p 1 ⟨5, 1, 0, (s.dev.sbCmd p 1).tag, Dev.ddcInfo (if nbit (s.dev.sbCmd p 1).dw1 16 then some (nbits (s.dev.sbCmd p 1).dw1 15 8) else none) 0 0xFF (2 * ((s.dev.sbCmd p 1).dw1 % 128)), t0, [], [], [], []⟩ = true ∧
      t.dev.rn (Dev.sbRptr p 1) = (s.dev.rn (Dev.sbRptr p 1) + (s.dev.sbCmd p 1).size) % 2 ^ 32 ∧ (t.dev.sbOf p 1).busy = false ∧
      t.dev.sameQuiet s.dev [Dev.sbRptr p 1, R.trgLateCnt p, R.ddcCnt p] ∧
      t.dev = { s.dev with regs := t.dev.regs, sb := t.dev.sb, acq := t.dev.acq, sram := t.dev.sram, evt := t.dev.evt, hostMem := t.dev.hostMem, hif := t.dev.hif, seq := t.dev.seq, chans := t.dev.chans, lvls := t.dev.lvls }) ∧
  (∀ (p : Fin 4) (t0 ab : Nat) (l times : List Nat) (s : State), s.dev.sbLive p 1 = true → s.dev.ringRoom p 1 = true → l.length ≤ 256 →
    s.dev.sbRole p 1 = 1 → ∃ t, exec (.ddcTransactionObserved p t0 [(ab, true, l)] false 0xFF times) s = .next t ∧
      t.dev.hasRecord s.dev p 1 ⟨0, 3, 2, 0, Dev.ddcInfo none 0 0xFF (ab % 256), t0, if ab % 256 % 2 = 1 then [] else l.map (· % 256), if ab % 256 % 2 = 1 then l.map (· % 256) else [], [], []⟩ = true ∧
      t.dev.sameQuiet s.dev [Dev.sbRptr p 1, R.trgLateCnt p, R.ddcCnt p] ∧
      t.dev = { s.dev with regs := t.dev.regs, sb := t.dev.sb, acq := t.dev.acq, sram := t.dev.sram, evt := t.dev.evt, hostMem := t.dev.hostMem, hif := t.dev.hif, seq := t.dev.seq, chans := t.dev.chans, lvls := t.dev.lvls }) ∧
  (∀ (p : Fin 4) (t0 ab : Nat) (l times : List Nat) (n : Fin 8) (s : State), s.dev.sbLive p 1 = true → s.dev.ringRoom p 1 = true →
    l.length ≤ 256 → s.dev.sbRole p 1 = 0 → ab < 256 → ab % 2 = 1 → s.dev.respEntry p (ab / 2) = some n.val →
    s.dev.rb (R.ddcRespCfg p n) F.ddcRespCfgHold = false → ab ≠ 0x61 →
    ∃ t, exec (.ddcTransactionObserved p t0 [(ab, true, l)] false 0xFF times) s = .next t ∧
      t.dev.hasRecord s.dev p 1 ⟨0, 2, 1, 0, Dev.ddcInfo none 0 0xFF ab, t0, [], (List.range l.length).map (fun i => s.dev.respRead p n 0 (0 + i)), [], []⟩ = true ∧
      t.dev.sameQuiet s.dev [Dev.sbRptr p 1, R.trgLateCnt p, R.ddcCnt p] ∧
      t.dev = { s.dev with regs := t.dev.regs, sb := t.dev.sb, acq := t.dev.acq, sram := t.dev.sram, evt := t.dev.evt, hostMem := t.dev.hostMem, hif := t.dev.hif, seq := t.dev.seq, chans := t.dev.chans, lvls := t.dev.lvls })

/-- NATIVE_WR, NATIVE_RD, I2C_WR, I2C_RD, AUX_REPLY_RECEIVED, AUX_REPLY_TIMEOUT, AUX_DEFER_RETRY, AUX_REQUEST_RECEIVED and AUX_RELEASE (R352 to R355, R357).  A request of
the command in progress is sent; a reply with ACK or NACK ends it with a record; a DEFER waits and is sent again; a missing reply is retried RETRY
times.  A sink answers a native read of an ACK window from the DPCD.  The codes on the wire are those of log 44, the model's. -/
def Obligations.AuxTransactionsEndInRecords : Prop :=
  (∀ (p : Fin 4) (t0 : Nat) (s : State), s.dev.working p 2 1 = true → (s.dev.sbOf p 2).run = false → (s.dev.sbOf p 2).wait = false →
    ∃ t, exec (.nativeWr p t0) s = .next t ∧
      (t.dev.sbOf p 2) = { (s.dev.sbOf p 2) with run := true, att := 0, t := t0 } ∧ t.dev.sameRegs s.dev [] ∧
      t.dev = { s.dev with regs := t.dev.regs, sb := t.dev.sb }) ∧
  (∀ (p : Fin 4) (t0 : Nat) (s : State), s.dev.working p 2 2 = true → (s.dev.sbOf p 2).run = false → (s.dev.sbOf p 2).wait = false →
    ∃ t, exec (.nativeRd p t0) s = .next t ∧
      (t.dev.sbOf p 2) = { (s.dev.sbOf p 2) with run := true, att := 0, t := t0 } ∧ t.dev.sameRegs s.dev [] ∧
      t.dev = { s.dev with regs := t.dev.regs, sb := t.dev.sb }) ∧
  (∀ (p : Fin 4) (t0 : Nat) (s : State), s.dev.working p 2 3 = true → (s.dev.sbOf p 2).run = false → (s.dev.sbOf p 2).wait = false →
    ∃ t, exec (.i2cWr p t0) s = .next t ∧
      (t.dev.sbOf p 2) = { (s.dev.sbOf p 2) with run := true, att := 0, t := t0 } ∧ t.dev.sameRegs s.dev [] ∧
      t.dev = { s.dev with regs := t.dev.regs, sb := t.dev.sb }) ∧
  (∀ (p : Fin 4) (t0 : Nat) (s : State), s.dev.working p 2 4 = true → (s.dev.sbOf p 2).run = false → (s.dev.sbOf p 2).wait = false →
    ∃ t, exec (.i2cRd p t0) s = .next t ∧
      (t.dev.sbOf p 2) = { (s.dev.sbOf p 2) with run := true, att := 0, t := t0 } ∧ t.dev.sameRegs s.dev [] ∧
      t.dev = { s.dev with regs := t.dev.regs, sb := t.dev.sb }) ∧
  (∀ (p : Fin 4) (t0 op comm : Nat) (data times : List Nat) (s : State), s.dev.working p 2 op = true → (s.dev.sbOf p 2).run = true →
    s.dev.sbRole p 2 = 0 → op ≤ 2 → comm % 4 ≠ 2 → ∃ t, exec (.auxReplyReceived p t0 comm data false times) s = .next t ∧
      t.dev.hasRecord s.dev p 2 ⟨if comm % 4 = 1 then 1 else 0, 1, 0, (s.dev.sbCmd p 2).tag, Dev.auxInfo (Dev.auxComm (s.dev.sbCmd p 2)) comm (s.dev.sbOf p 2).defers ((s.dev.sbCmd p 2).dw1 % 2 ^ 20), (s.dev.sbOf p 2).t, (if op % 2 = 1 then (s.dev.sbCmd p 2).data else []), data, [], []⟩ = true ∧
      t.dev.rn (Dev.sbRptr p 2) = (s.dev.rn (Dev.sbRptr p 2) + (s.dev.sbCmd p 2).size) % 2 ^ 32 ∧ (t.dev.sbOf p 2).busy = false ∧
      t.dev.sameQuiet s.dev [Dev.sbRptr p 2, R.trgLateCnt p] ∧
      t.dev = { s.dev with regs := t.dev.regs, sb := t.dev.sb, acq := t.dev.acq, sram := t.dev.sram, evt := t.dev.evt, hostMem := t.dev.hostMem, hif := t.dev.hif, seq := t.dev.seq, chans := t.dev.chans, lvls := t.dev.lvls }) ∧
  (∀ (p : Fin 4) (t0 op comm : Nat) (data times : List Nat) (s : State), s.dev.working p 2 op = true → (s.dev.sbOf p 2).run = true →
    s.dev.sbRole p 2 = 0 → op ≤ 2 → comm % 4 = 2 → (s.dev.sbOf p 2).defers < s.dev.rf (R.auxCfg p) F.auxCfgDeferMax →
    ∃ t, exec (.auxReplyReceived p t0 comm data false times) s = .next t ∧
      (t.dev.sbOf p 2) = { (s.dev.sbOf p 2) with defers := (s.dev.sbOf p 2).defers + 1, run := false, wait := true } ∧
      t.dev.rf (R.auxCnt p) F.auxCntDefer = min 65535 (s.dev.rf (R.auxCnt p) F.auxCntDefer + 1) ∧ t.dev.sameRegs s.dev [R.auxCnt p] ∧
      t.dev = { s.dev with regs := t.dev.regs, sb := t.dev.sb }) ∧
  (∀ (p : Fin 4) (t0 : Nat) (s : State), s.dev.sbLive p 2 = true → (s.dev.sbOf p 2).wait = true → ∃ t, exec (.auxDeferRetry p t0) s = .next t ∧
      (t.dev.sbOf p 2) = { (s.dev.sbOf p 2) with wait := false, run := true, t := t0 } ∧ t.dev.sameRegs s.dev [] ∧
      t.dev = { s.dev with regs := t.dev.regs, sb := t.dev.sb }) ∧
  (∀ (p : Fin 4) (t0 op : Nat) (s : State), s.dev.working p 2 op = true → (s.dev.sbOf p 2).run = true → s.dev.sbRole p 2 = 0 →
    (s.dev.sbOf p 2).att < s.dev.rf (R.auxCfg p) F.auxCfgRetry → ∃ t, exec (.auxReplyTimeout p t0) s = .next t ∧
      (t.dev.sbOf p 2) = { (s.dev.sbOf p 2) with att := (s.dev.sbOf p 2).att + 1, t := t0 } ∧ t.dev.sameRegs s.dev [] ∧
      t.dev = { s.dev with regs := t.dev.regs, sb := t.dev.sb }) ∧
  (∀ (p : Fin 4) (t0 op : Nat) (s : State), s.dev.working p 2 op = true → (s.dev.sbOf p 2).run = true → s.dev.sbRole p 2 = 0 →
    s.dev.rf (R.auxCfg p) F.auxCfgRetry ≤ (s.dev.sbOf p 2).att → ∃ t, exec (.auxReplyTimeout p t0) s = .next t ∧
      t.dev.hasRecord s.dev p 2 ⟨5, 1, 0, (s.dev.sbCmd p 2).tag, Dev.auxInfo (Dev.auxComm (s.dev.sbCmd p 2)) 15 (s.dev.sbOf p 2).defers ((s.dev.sbCmd p 2).dw1 % 2 ^ 20), (s.dev.sbOf p 2).t, (if op % 2 = 1 then (s.dev.sbCmd p 2).data else []), [], [], []⟩ = true ∧
      t.dev.rn (Dev.sbRptr p 2) = (s.dev.rn (Dev.sbRptr p 2) + (s.dev.sbCmd p 2).size) % 2 ^ 32 ∧ (t.dev.sbOf p 2).busy = false ∧
      t.dev.sameQuiet s.dev [Dev.sbRptr p 2, R.trgLateCnt p] ∧
      t.dev = { s.dev with regs := t.dev.regs, sb := t.dev.sb, acq := t.dev.acq, sram := t.dev.sram, evt := t.dev.evt, hostMem := t.dev.hostMem, hif := t.dev.hif, seq := t.dev.seq, chans := t.dev.chans, lvls := t.dev.lvls }) ∧
  (∀ (p : Fin 4) (t0 addr len : Nat) (data times : List Nat) (n : Nat) (s : State), s.dev.sbLive p 2 = true → s.dev.ringRoom p 2 = true →
    s.dev.sbRole p 2 = 1 → addr < 2 ^ 20 → 1 ≤ len → len ≤ 16 → s.dev.auxWindow p addr len = some n → s.dev.rf (R.auxWinA p n) F.auxWinAPol = 0 →
    ∃ t, exec (.auxRequestReceived p t0 9 addr len data false times) s = .next t ∧
      t.dev.hasRecord s.dev p 2 ⟨0, 2, 1, 0, Dev.auxInfo 9 0 0 addr, t0, (data.take len).map (· % 256), (mread s.dev.sram (s.dev.dpcdAddr p n addr) len).map BitVec.toNat, [], []⟩ = true ∧
      t.dev.sameQuiet s.dev [Dev.sbRptr p 2, R.trgLateCnt p, R.auxCnt p] ∧
      t.dev = { s.dev with regs := t.dev.regs, sb := t.dev.sb, acq := t.dev.acq, sram := t.dev.sram, evt := t.dev.evt, hostMem := t.dev.hostMem, hif := t.dev.hif, seq := t.dev.seq, chans := t.dev.chans, lvls := t.dev.lvls }) ∧
  (∀ (p : Fin 4) (t0 addr len : Nat) (data times : List Nat) (comm : Nat) (s : State), s.dev.sbLive p 2 = true → s.dev.sbRole p 2 = 2 →
    comm < 16 → ∃ t, exec (.auxRequestReceived p t0 comm addr len data false times) s = .next t ∧
      (t.dev.sbOf p 2) = { (s.dev.sbOf p 2) with req := some (comm, addr % 2 ^ 20, len, data, t0) } ∧ t.dev.sameRegs s.dev [] ∧
      t.dev = { s.dev with regs := t.dev.regs, sb := t.dev.sb }) ∧
  (∀ (p : Fin 4) (t0 addr len : Nat) (data times : List Nat) (comm : Nat) (s : State), s.dev.sbLive p 2 = true → s.dev.ringRoom p 2 = true →
    s.dev.sbRole p 2 ≠ 0 → data.length ≤ 256 → ∃ t, exec (.auxRequestReceived p t0 comm addr len data true times) s = .next t ∧
      t.dev.hasRecord s.dev p 2 ⟨8, 4, 2, 0, Dev.auxInfo 0 15 0 0, t0, data, [], [], []⟩ = true ∧
      t.dev.rf (R.auxCnt p) F.auxCntNoise = min 65535 (s.dev.rf (R.auxCnt p) F.auxCntNoise + 1) ∧
      t.dev.sameQuiet s.dev [Dev.sbRptr p 2, R.trgLateCnt p, R.auxCnt p] ∧
      t.dev = { s.dev with regs := t.dev.regs, sb := t.dev.sb, acq := t.dev.acq, sram := t.dev.sram, evt := t.dev.evt, hostMem := t.dev.hostMem, hif := t.dev.hif, seq := t.dev.seq, chans := t.dev.chans, lvls := t.dev.lvls }) ∧
  (∀ (path : Fin 7) (p : Fin 4) (w : Word) (s : State), s.dev.takes path (R.auxRelease p) w.toNat = true → nbit w.toNat 0 = true →
    ∃ t, exec (.auxRelease path p w) s = .next t ∧
      (t.dev.sbOf p 2) = (if s.dev.rb (R.auxHostreq p) F.auxHostreqPending = true then { (s.dev.sbOf p 2) with served := true } else (s.dev.sbOf p 2)) ∧
      t.dev.sameRegs s.dev [R.auxRelease p, pstat (Dev.sbPage p 2)] ∧ t.dev = { s.dev with regs := t.dev.regs, sb := t.dev.sb })

/-- HPD_LEVEL_WRITE, HPD_PULSE, HPD_PULSE_END, HPD_LINE_CHANGE and HPD_UNPLUG_TIMEOUT (R340, R358, R359).  A driving engine follows LEVEL and records the change; a
pulse drives low and ends high with a record.  A sensing engine keeps when the line fell; a rise between IRQ_MIN and IRQ_MAX is an IRQ, and a
low that lasts is an unplug, recorded with the time of the fall. -/
def Obligations.HpdLinesAreDrivenAndSensed : Prop :=
  (∀ (path : Fin 7) (p : Fin 4) (w : Word) (out : Outside) (s : State), s.dev.takes path (R.hpdCtrl p) w.toNat = true →
    nbit w.toNat 31 = false → s.dev.hpdDrives p = true → (s.dev.sbOf p 3).pulse = none →
    (s.dev.sbOf p 3).line ≠ decide (fget w F.hpdCtrlLevel = 1) → s.dev.ringRoom p 3 = true →
    ∃ t, exec (.hpdLevelWrite path p w out) s = .next t ∧
      (t.dev.sbOf p 3).line = decide (fget w F.hpdCtrlLevel = 1) ∧ t.dev.rb (R.hpdStat p) F.hpdStatLevel = decide (fget w F.hpdCtrlLevel = 1) ∧
      t.dev.hasRecord s.dev p 3 ⟨if out.back = decide (fget w F.hpdCtrlLevel = 1) then 0 else 8, 4, 2, 0, b2n (decide (fget w F.hpdCtrlLevel = 1)) * 2 ^ 31 + 0 % 2 ^ 24, s.dev.edgeAt Dev.aclk s.dev.now, [], [], [], []⟩ = true ∧
      t.dev.sameQuiet s.dev [R.hpdCtrl p, R.hpdStat p, R.trgLateCnt p, pstat (Dev.sbPage p 3)] ∧
      t.dev = { s.dev with regs := t.dev.regs, sb := t.dev.sb, acq := t.dev.acq, sram := t.dev.sram, evt := t.dev.evt, hostMem := t.dev.hostMem, hif := t.dev.hif, seq := t.dev.seq, chans := t.dev.chans, lvls := t.dev.lvls }) ∧
  (∀ (path : Fin 7) (p : Fin 4) (w : Word) (out : Outside) (s : State), s.dev.takes path (R.hpdCtrl p) w.toNat = true → nbit w.toNat 31 = true →
    s.dev.hpdDrives p = true → ∃ t, exec (.hpdPulse path p w out) s = .next t ∧
      (t.dev.sbOf p 3) = { (s.dev.sbOf p 3) with line := false, pulse := some (s.dev.edgeAt Dev.aclk s.dev.now) } ∧
      t.dev.rn (R.hpdStat p) = 2 ^ 30 ∧ t.dev.sameRegs s.dev [R.hpdCtrl p, R.hpdStat p, pstat (Dev.sbPage p 3)] ∧
      t.dev = { s.dev with regs := t.dev.regs, sb := t.dev.sb }) ∧
  (∀ (p : Fin 4) (t0 : Nat) (back : Bool) (s : State), (s.dev.sbOf p 3).pulse = some t0 → s.dev.rb (R.hpdCtrl p) F.hpdCtrlLevel = true →
    s.dev.ringRoom p 3 = true → ∃ t, exec (.hpdPulseEnd p back) s = .next t ∧
      (t.dev.sbOf p 3).line = true ∧ (t.dev.sbOf p 3).pulse = none ∧ t.dev.rn (R.hpdStat p) = 2 ^ 31 ∧
      t.dev.hasRecord s.dev p 3 ⟨if back then 0 else 8, 4, 2, 0, b2n true * 2 ^ 31 + 0 % 2 ^ 24, t0, [], [], [], []⟩ = true ∧
      t.dev.sameQuiet s.dev [R.hpdStat p, R.trgLateCnt p] ∧
      t.dev = { s.dev with regs := t.dev.regs, sb := t.dev.sb, acq := t.dev.acq, sram := t.dev.sram, evt := t.dev.evt, hostMem := t.dev.hostMem, hif := t.dev.hif, seq := t.dev.seq, chans := t.dev.chans, lvls := t.dev.lvls }) ∧
  (∀ (p : Fin 4) (t0 : Nat) (s : State), s.dev.sbLive p 3 = true → s.dev.sbRole p 3 = 0 → (s.dev.sbOf p 3).known = true →
    (s.dev.sbOf p 3).line = true → ∃ t, exec (.hpdLineChange p t0 false) s = .next t ∧
      (t.dev.sbOf p 3) = { (s.dev.sbOf p 3) with line := false, fall := some t0, unplugged := false } ∧
      t.dev.rb (R.hpdStat p) F.hpdStatLevel = false ∧ t.dev.sameRegs s.dev [R.hpdStat p] ∧
      t.dev = { s.dev with regs := t.dev.regs, sb := t.dev.sb }) ∧
  (∀ (p : Fin 4) (a t0 : Nat) (s : State), s.dev.sbLive p 3 = true → s.dev.sbRole p 3 = 0 → (s.dev.sbOf p 3).known = true →
    (s.dev.sbOf p 3).line = false → (s.dev.sbOf p 3).fall = some a → (s.dev.sbOf p 3).unplugged = false →
    ((t0 - a) / Dev.usTicks) < s.dev.rf (R.hpdLim p) F.hpdLimUnplug → s.dev.ringRoom p 3 = true →
    ∃ t, exec (.hpdLineChange p t0 true) s = .next t ∧
      (t.dev.sbOf p 3).line = true ∧ (t.dev.sbOf p 3).fall = none ∧
      t.dev.hasRecord s.dev p 3 ⟨0, if s.dev.rf (R.hpdLim p) F.hpdLimIrqMin ≤ ((t0 - a) / Dev.usTicks) ∧ ((t0 - a) / Dev.usTicks) ≤ s.dev.rf (R.hpdCfg p) F.hpdCfgIrqMax then 2 else 3, 2, 0, b2n true * 2 ^ 31 + ((t0 - a) / Dev.usTicks) % 2 ^ 24, a, [], [], [], []⟩ = true ∧
      t.dev.sameQuiet s.dev [R.hpdStat p, R.trgLateCnt p] ∧
      t.dev = { s.dev with regs := t.dev.regs, sb := t.dev.sb, acq := t.dev.acq, sram := t.dev.sram, evt := t.dev.evt, hostMem := t.dev.hostMem, hif := t.dev.hif, seq := t.dev.seq, chans := t.dev.chans, lvls := t.dev.lvls }) ∧
  (∀ (p : Fin 4) (a : Nat) (s : State), s.dev.sbLive p 3 = true → s.dev.sbRole p 3 = 0 → (s.dev.sbOf p 3).fall = some a →
    (s.dev.sbOf p 3).unplugged = false → s.dev.ringRoom p 3 = true → ∃ t, exec (.hpdUnplugTimeout p) s = .next t ∧
      (t.dev.sbOf p 3).unplugged = true ∧ t.dev.hasRecord s.dev p 3 ⟨0, 1, 2, 0, b2n false * 2 ^ 31 + 0 % 2 ^ 24, a, [], [], [], []⟩ = true ∧
      t.dev.sameQuiet s.dev [R.trgLateCnt p] ∧
      t.dev = { s.dev with regs := t.dev.regs, sb := t.dev.sb, acq := t.dev.acq, sram := t.dev.sram, evt := t.dev.evt, hostMem := t.dev.hostMem, hif := t.dev.hif, seq := t.dev.seq, chans := t.dev.chans, lvls := t.dev.lvls })

/-! ### Events and faults (16_events_and_faults.md) -/

/-- STICKY_CLEAR, EVENT_FORCE_WRITE and EVG_CFG_WRITE (R433 to R435, R437).  Where no source of the page has occurred in this HCLK cycle, a 1 written to a
sticky bit clears the bit and the escalation, unless the raw state is present, which leaves it set; a 0 leaves its source alone.  Force bits
stand as written.  A configuration write of a source below FATAL is held, and restarts the count where its escalation fields move. -/
def Obligations.EventRegistersActOnTheirSources : Prop :=
  (∀ (path : Fin 7) (page : Fin 1024) (w : Word) (k : PageKind) (i : Nat) (s : State), s.dev.lets path (page * 0x1000 + 0x14) = true →
    pageOf page = some (k, i) → hasEvents k = true →
    (∀ j : Fin 64, j.val < (pageSources k i).2 → (s.dev.esrc ((pageSources k i).1 + j)).lastCyc ≠ s.dev.cycNo) →
    ∃ t, exec (.stickyClear path page w) s = .next t ∧
      (∀ j : Fin 32, j.val < (pageSources k i).2 → (srcBase ((pageSources k i).1 + j)).isSome = true → nbit w.toNat j = true → (t.dev.esrc ((pageSources k i).1 + j)).sticky = s.dev.effRaw ((pageSources k i).1 + j)) ∧
      (∀ j : Fin 32, j.val < (pageSources k i).2 → nbit w.toNat j = false → t.dev.esrc ((pageSources k i).1 + j) = s.dev.esrc ((pageSources k i).1 + j)) ∧
      t.dev.sameRegs s.dev [pstat page] ∧ t.dev = { s.dev with regs := t.dev.regs, evt := t.dev.evt }) ∧
  (∀ (path : Fin 7) (page : Fin 1024) (w : Word) (k : PageKind) (i : Nat) (s : State), s.dev.lets path (page * 0x1000 + 0x1C) = true →
    pageOf page = some (k, i) → hasEvents k = true → ∃ t, exec (.eventForceWrite path page w) s = .next t ∧
      (∀ j : Fin 32, j.val < (pageSources k i).2 → (srcBase ((pageSources k i).1 + j)).isSome = true → (t.dev.esrc ((pageSources k i).1 + j)).force = nbit w.toNat j) ∧
      t.dev.sameQuiet s.dev [pstat page] ∧
      t.dev = { s.dev with regs := t.dev.regs, evt := t.dev.evt, sram := t.dev.sram, hostMem := t.dev.hostMem, hif := t.dev.hif, seq := t.dev.seq, chans := t.dev.chans, lvls := t.dev.lvls, acq := t.dev.acq }) ∧
  (∀ (path : Fin 7) (g : Fin 36) (k : Fin 32) (w : Word) (s : State), s.dev.takes path (R.evgCfg g k) w.toNat = true →
    (srcBase (32 * g + k)).isSome = true → srcFatal (32 * g + k) = false → srcIsReact (32 * g + k) = false →
    ∃ t, exec (.evgCfgWrite path g k w) s = .next t ∧
      (t.dev.esrc (32 * g + k)).cfg = w ∧
      (t.dev.esrc (32 * g + k)).c = (if nbits w.toNat 31 19 = nbits (s.dev.esrc (32 * g + k)).cfg.toNat 31 19 then (s.dev.esrc (32 * g + k)).c else 0) ∧
      (∀ y : Fin 1152, y.val ≠ 32 * g.val + k.val → t.dev.esrc y = s.dev.esrc y) ∧ t.dev.sameRegs s.dev [pstat (0x10 + g)] ∧
      t.dev = { s.dev with regs := t.dev.regs, evt := t.dev.evt })

/-- EVC_FF_CLR and LEDGER_FAULT_RECORD (R441, R444).  A clear empties the first-fault record unless it was taken in this HCLK cycle.  The Keeper takes the
oldest latch that waits: one that neither its own hold-off nor the cap per second suppresses is written with the next number; one under its
hold-off is counted.  The first number is log 12, the model's. -/
def Obligations.FaultRecordsAreTakenAndCleared : Prop :=
  (∀ (path : Fin 7) (w : Word) (s : State), s.dev.takes path R.evcFfClr w.toNat = true → nbit w.toNat 0 = true →
    (s.dev.rn R.evcFf1 + 2 ^ 32 * s.dev.rn R.evcFf2 + 2 ^ 64 * (s.dev.rn R.evcFf3 % 2 ^ 16)) / Dev.hclk + 1 ≠ s.dev.cycNo →
    ∃ t, exec (.evcFfClr path w) s = .next t ∧
      t.dev.rn R.evcFf0 = 0 ∧ t.dev.rn R.evcFf1 = 0 ∧ t.dev.rn R.evcFf2 = 0 ∧ t.dev.rn R.evcFf3 = 0 ∧
      t.dev.sameRegs s.dev [R.evcFfClr, R.evcFf0, R.evcFf1, R.evcFf2, R.evcFf3, pstat 4] ∧ t.dev = { s.dev with regs := t.dev.regs }) ∧
  (∀ (x : FaultCand) (l : List FaultCand) (s : State), s.dev.evt.cands = x :: l → 7 ≤ s.dev.boot.done → s.dev.ledgerOk = true →
    s.dev.boot.keeperOn = true → (s.dev.esrc x.src).lastRec = none → s.dev.evt.capSec ≠ x.gtc / (1000000 * Dev.usTicks) →
    s.dev.rf R.evcLedgerCfg F.evcLedgerCfgGcap ≠ 0 → ∃ t, exec .ledgerFaultRecord s = .next t ∧
      t.dev.evt.cands = l ∧ t.dev.rn R.evcLedgerSeq = (s.dev.rn R.evcLedgerSeq + 1) % 2 ^ 32 ∧ (t.dev.esrc x.src).lastRec = some x.gtc ∧
      (t.dev.esrc x.src).supp = 0 ∧
      t.dev.ledger = mwrite s.dev.ledger (Dev.ledFault (s.dev.rn R.evcLedgerSeq)) (s.dev.faultRecord x (s.dev.esrc x.src).supp ((s.dev.rn R.evcLedgerSeq + 1) % 2 ^ 32)) ∧
      t.dev.sameRegs s.dev [R.evcLedgerSeq] ∧ t.dev = { s.dev with regs := t.dev.regs, evt := t.dev.evt, ledger := t.dev.ledger }) ∧
  (∀ (x : FaultCand) (l : List FaultCand) (n : Nat) (s : State), s.dev.evt.cands = x :: l → 7 ≤ s.dev.boot.done → s.dev.ledgerOk = true →
    s.dev.boot.keeperOn = true → (s.dev.esrc x.src).lastRec = some n →
    x.gtc < n + s.dev.rf R.evcLedgerCfg F.evcLedgerCfgHold * 1000 * Dev.usTicks → ∃ t, exec .ledgerFaultRecord s = .next t ∧
      t.dev.ledger = s.dev.ledger ∧ t.dev.rn R.evcLedgerSeq = s.dev.rn R.evcLedgerSeq ∧
      t.dev.rn R.evcLedgerSupp = min 0xFFFFFFFF (s.dev.rn R.evcLedgerSupp + 1) ∧ t.dev.sameQuiet s.dev [R.evcLedgerSupp] ∧
      t.dev = { s.dev with regs := t.dev.regs, evt := t.dev.evt, sram := t.dev.sram, hostMem := t.dev.hostMem, hif := t.dev.hif, seq := t.dev.seq, chans := t.dev.chans, lvls := t.dev.lvls, acq := t.dev.acq })

/-! ### The DRAM controllers (13_dram_controller.md) -/

/-- DRAM_READ_COMPLETE, WRITE_CRC_ALERT and ELOG_READ (R366 to R370).  Up to eight erroneous symbols are corrected, counted by device and logged; more
are uncorrectable, and a read-modify-write poisons its line; a poisoned line is uncorrectable without an access.  The fourth alert in a row for a write
gives it up.  A read of the log takes the oldest record and answers all ones where there is none.  DRAM content never changes. -/
def Obligations.DramErrorsAreCorrectedLoggedAndPoisoned : Prop :=
  (∀ (req a c : Nat) (x : LinePos) (devs : List Nat) (rmw : Bool) (s : State), s.dev.mcPlace (a / 64 * 64) = some (c, x) →
    (s.dev.mcOf c).poison.contains (a / 64 * 64) = false → s.dev.dramNoinit (a / 64 * 64) 64 = false →
    s.dev.rf (R.mcEccCfg c) ⟨16 + 4 * (2 * x.rank + x.sc) + 3, 16 + 4 * (2 * x.rank + x.sc)⟩ < 8 →
    1 ≤ ((List.range 5).map (fun i => min 16 ((devs[i]?).getD 0))).sum → ((List.range 5).map (fun i => min 16 ((devs[i]?).getD 0))).sum ≤ 8 →
    (s.dev.mcOf c).elog.length < 16 → ∃ t, exec (.dramReadComplete req a devs false rmw) s = .next t ∧
      t.dev.rf (R.mcEccCnt c) F.mcEccCntCorr = min 65535 (s.dev.rf (R.mcEccCnt c) F.mcEccCntCorr + 1) ∧
      t.dev.rf (R.mcEccCnt c) F.mcEccCntUncorr = s.dev.rf (R.mcEccCnt c) F.mcEccCntUncorr ∧
      (t.dev.mcOf c).elog = (s.dev.mcOf c).elog ++ [s.dev.elogWords 1 (Dev.reqClass req) req ((List.range 5).foldl (fun m i => m + b2n (decide (0 < (((List.range 5).map (fun i => min 16 ((devs[i]?).getD 0)))[i]?).getD 0)) * 2 ^ i) 0) (((List.range 5).map (fun i => min 16 ((devs[i]?).getD 0))).sum) (a / 64 * 64) (s.dev.mcOf c).elogSeq] ∧
      (t.dev.mcOf c).poison = (s.dev.mcOf c).poison ∧
      t.dev.sameQuiet s.dev [R.mcEccCnt c, R.mcElogStat c, R.mcEccCfg c, R.mcDeverr c (10 * x.rank + 5 * x.sc + 0), R.mcDeverr c (10 * x.rank + 5 * x.sc + 1), R.mcDeverr c (10 * x.rank + 5 * x.sc + 2), R.mcDeverr c (10 * x.rank + 5 * x.sc + 3), R.mcDeverr c (10 * x.rank + 5 * x.sc + 4)] ∧
      t.dev = { s.dev with regs := t.dev.regs, mc := t.dev.mc, evt := t.dev.evt, sram := t.dev.sram, hostMem := t.dev.hostMem, hif := t.dev.hif, seq := t.dev.seq, chans := t.dev.chans, lvls := t.dev.lvls, acq := t.dev.acq }) ∧
  (∀ (req a c : Nat) (x : LinePos) (devs : List Nat) (rmw : Bool) (s : State), s.dev.mcPlace (a / 64 * 64) = some (c, x) →
    (s.dev.mcOf c).poison.contains (a / 64 * 64) = false → s.dev.dramNoinit (a / 64 * 64) 64 = false →
    s.dev.rf (R.mcEccCfg c) ⟨16 + 4 * (2 * x.rank + x.sc) + 3, 16 + 4 * (2 * x.rank + x.sc)⟩ < 8 →
    8 < ((List.range 5).map (fun i => min 16 ((devs[i]?).getD 0))).sum → (s.dev.mcOf c).elog.length < 16 → (s.dev.mcOf c).poison.length < 16 →
    ∃ t, exec (.dramReadComplete req a devs false rmw) s = .next t ∧
      t.dev.rf (R.mcEccCnt c) F.mcEccCntUncorr = min 65535 (s.dev.rf (R.mcEccCnt c) F.mcEccCntUncorr + 1) ∧
      (t.dev.mcOf c).elog = (s.dev.mcOf c).elog ++ [s.dev.elogWords (if rmw then 5 else 2) (Dev.reqClass req) req ((List.range 5).foldl (fun m i => m + b2n (decide (0 < (((List.range 5).map (fun i => min 16 ((devs[i]?).getD 0)))[i]?).getD 0)) * 2 ^ i) 0) (16) (a / 64 * 64) (s.dev.mcOf c).elogSeq] ∧
      (t.dev.mcOf c).poison = (if rmw then (s.dev.mcOf c).poison ++ [(a / 64 * 64)] else (s.dev.mcOf c).poison) ∧
      t.dev.sameQuiet s.dev [R.mcEccCnt c, R.mcElogStat c, R.mcStat c] ∧
      t.dev = { s.dev with regs := t.dev.regs, mc := t.dev.mc, evt := t.dev.evt, sram := t.dev.sram, hostMem := t.dev.hostMem, hif := t.dev.hif, seq := t.dev.seq, chans := t.dev.chans, lvls := t.dev.lvls, acq := t.dev.acq }) ∧
  (∀ (req a c : Nat) (x : LinePos) (devs : List Nat) (rmw : Bool) (s : State), s.dev.mcPlace (a / 64 * 64) = some (c, x) →
    (s.dev.mcOf c).poison.contains (a / 64 * 64) = true → (s.dev.mcOf c).elog.length < 16 →
    ∃ t, exec (.dramReadComplete req a devs false rmw) s = .next t ∧
      t.dev.rf (R.mcEccCnt c) F.mcEccCntUncorr = min 65535 (s.dev.rf (R.mcEccCnt c) F.mcEccCntUncorr + 1) ∧
      (t.dev.mcOf c).elog = (s.dev.mcOf c).elog ++ [s.dev.elogWords 3 (Dev.reqClass req) req (0) (0) (a / 64 * 64) (s.dev.mcOf c).elogSeq] ∧
      (t.dev.mcOf c).poison = (s.dev.mcOf c).poison ∧ t.dev.sameQuiet s.dev [R.mcEccCnt c, R.mcElogStat c] ∧
      t.dev = { s.dev with regs := t.dev.regs, mc := t.dev.mc, evt := t.dev.evt, sram := t.dev.sram, hostMem := t.dev.hostMem, hif := t.dev.hif, seq := t.dev.seq, chans := t.dev.chans, lvls := t.dev.lvls, acq := t.dev.acq }) ∧
  (∀ (req a c : Nat) (x : LinePos) (s : State), s.dev.mcPlace (a / 64 * 64) = some (c, x) →
    (match (s.dev.mcOf c).alert with | some (l, k) => if l = (a / 64 * 64) then k + 1 else 1 | none => 1) < 4 →
    ∃ t, exec (.writeCrcAlert req a) s = .next t ∧
      t.dev.rf (R.mcWcrcCnt c) F.mcWcrcCntReplay = min 65535 (s.dev.rf (R.mcWcrcCnt c) F.mcWcrcCntReplay + 1) ∧
      (t.dev.mcOf c) = { (s.dev.mcOf c) with alert := some ((a / 64 * 64), (match (s.dev.mcOf c).alert with | some (l, k) => if l = (a / 64 * 64) then k + 1 else 1 | none => 1)) } ∧
      t.dev.sameQuiet s.dev [R.mcWcrcCnt c] ∧
      t.dev = { s.dev with regs := t.dev.regs, mc := t.dev.mc, evt := t.dev.evt, sram := t.dev.sram, hostMem := t.dev.hostMem, hif := t.dev.hif, seq := t.dev.seq, chans := t.dev.chans, lvls := t.dev.lvls, acq := t.dev.acq }) ∧
  (∀ (req a c : Nat) (x : LinePos) (s : State), s.dev.mcPlace (a / 64 * 64) = some (c, x) →
    4 ≤ (match (s.dev.mcOf c).alert with | some (l, k) => if l = (a / 64 * 64) then k + 1 else 1 | none => 1) →
    (s.dev.mcOf c).poison.length < 16 → (s.dev.mcOf c).poison.contains (a / 64 * 64) = false → (s.dev.mcOf c).elog.length < 16 →
    ∃ t, exec (.writeCrcAlert req a) s = .next t ∧
      t.dev.rf (R.mcWcrcCnt c) F.mcWcrcCntReplay = min 65535 (s.dev.rf (R.mcWcrcCnt c) F.mcWcrcCntReplay + 1) ∧
      t.dev.rf (R.mcWcrcCnt c) F.mcWcrcCntFail = min 65535 (s.dev.rf (R.mcWcrcCnt c) F.mcWcrcCntFail + 1) ∧ (t.dev.mcOf c).alert = none ∧
      (t.dev.mcOf c).poison = (s.dev.mcOf c).poison ++ [(a / 64 * 64)] ∧ (t.dev.mcOf c).elog.length = (s.dev.mcOf c).elog.length + 1 ∧
      t.dev.sameQuiet s.dev [R.mcWcrcCnt c, R.mcElogStat c, R.mcStat c] ∧
      t.dev = { s.dev with regs := t.dev.regs, mc := t.dev.mc, evt := t.dev.evt, sram := t.dev.sram, hostMem := t.dev.hostMem, hif := t.dev.hif, seq := t.dev.seq, chans := t.dev.chans, lvls := t.dev.lvls, acq := t.dev.acq }) ∧
  (∀ (path : Fin 7) (c : Fin 4) (ws : List Nat) (l : List (List Nat)) (s : State), s.dev.letsRead path (R.mcElog c 0) = true →
    (s.dev.mcOf c).elog = ws :: l → ∃ t, exec (.elogRead path c) s = .next t ∧
      t.dev.hif.rdata = [BitVec.ofNat 32 (ws.headD 0)] ∧ (t.dev.mcOf c) = { (s.dev.mcOf c) with elog := l } ∧
      t.dev.rf (R.mcElogStat c) F.mcElogStatHeld = l.length % 32 ∧ t.dev.sameRegs s.dev [R.mcElogStat c] ∧
      t.dev = { s.dev with regs := t.dev.regs, mc := t.dev.mc, hif := t.dev.hif }) ∧
  (∀ (path : Fin 7) (c : Fin 4) (s : State), s.dev.letsRead path (R.mcElog c 0) = true → (s.dev.mcOf c).elog = [] →
    ∃ t, exec (.elogRead path c) s = .next t ∧
      t.dev.hif.rdata = [0xFFFFFFFF#32] ∧ t.dev.sameRegs s.dev [] ∧ t.dev = { s.dev with regs := t.dev.regs, hif := t.dev.hif })

/-- ACT, ACT_WINDOW_END, RH_WINDOW_END, REFRESH_INTERVAL, MR4_POLL, URGENT_REFRESH_END, DQS_OSC_RUN, PATROL_SCRUB, LAZY_SWEEP, MCG_MAP_WRITE and
COMMAND_SLOT (R371, R375, R377, R379, R381 to R383, R385, R387, R389).  Activations count by row and class until their window ends.  An interval adds to the
debt or forces a refresh.  A hot rank puts every channel in DOUBLE with doubled debts.  A changed map moves no content in the devices.  A slot
serves the one request that waits for an open row, and chooses nothing where nothing waits. -/
def Obligations.DramRowsRefreshAndScrubAreKept : Prop :=
  (∀ (a req t0 c : Nat) (x : LinePos) (s : State), s.dev.mcPlace a = some (c, x) → Dev.reqClass req = 0 → (s.dev.mcOf c).raaImt = 0 →
    (s.dev.mcOf c).rq = [] → ∃ t, exec (.act a req t0) s = .next t ∧
      tget (fun _ => ((0 : Nat), (0 : Nat))) (t.dev.mcOf c).rows (bankKey x * 2 ^ 17 + x.row) = ((tget (fun _ => ((0 : Nat), (0 : Nat))) (s.dev.mcOf c).rows (bankKey x * 2 ^ 17 + x.row)).1 + 1, t0) ∧
      tget (fun _ => ((0 : Nat), (0 : Nat))) (t.dev.mcOf c).opens (bankKey x) = (x.row + 1, t0) ∧
      (t.dev.mcOf c).acts = lset (s.dev.mcOf c).acts 0 (((s.dev.mcOf c).acts[0]?).getD 0 + 1) ∧ (t.dev.mcOf c).poison = (s.dev.mcOf c).poison ∧
      t.dev.fresh = s.dev.fresh + 1 ∧ t.dev.sameRegs s.dev [R.mcNrefCnt c] ∧
      t.dev = { s.dev with regs := t.dev.regs, mc := t.dev.mc, fresh := t.dev.fresh }) ∧
  (∀ (c : Fin 4) (s : State), ∃ t, exec (.actWindowEnd c) s = .next t ∧
      (t.dev.mcOf c) = { (s.dev.mcOf c) with acts := [0, 0, 0, 0, 0], lead := [1, 2, 3, 4].all (fun i => decide ((fun i : Nat => ((s.dev.mcOf c).acts[i]?).getD 0) i < (fun i : Nat => ((s.dev.mcOf c).acts[i]?).getD 0) 0)) } ∧
      t.dev.sameRegs s.dev [] ∧ t.dev = { s.dev with regs := t.dev.regs, mc := t.dev.mc }) ∧
  (∀ (c : Fin 4) (s : State), ∃ t, exec (.rhWindowEnd c) s = .next t ∧
      (t.dev.mcOf c) = { (s.dev.mcOf c) with rows := [], offend := [] } ∧ t.dev.sameRegs s.dev [] ∧
      t.dev = { s.dev with regs := t.dev.regs, mc := t.dev.mc }) ∧
  (∀ (c : Fin 4) (r : Fin 2) (s : State), s.dev.mcInUse c = true → r.val < s.dev.rf (R.mcStat c) F.mcStatRanks →
    (s.dev.urgent c r = true ∨ s.dev.debt c r + 1 ≤ s.dev.rf (R.mcRefCfg c) F.mcRefCfgPostpone) → ∃ t, exec (.refreshInterval c r) s = .next t ∧
      t.dev.debt c r = min 255 (s.dev.debt c r + 1) ∧ (∀ q : Fin 2, q ≠ r → t.dev.debt c q = s.dev.debt c q) ∧
      t.dev.sameRegs s.dev [R.mcRefStat c] ∧ t.dev = { s.dev with regs := t.dev.regs }) ∧
  (∀ (c : Fin 4) (r : Fin 2) (s : State), s.dev.mcInUse c = true → r.val < s.dev.rf (R.mcStat c) F.mcStatRanks → s.dev.urgent c r = false →
    s.dev.rf (R.mcRefCfg c) F.mcRefCfgPostpone < s.dev.debt c r + 1 → ∃ t, exec (.refreshInterval c r) s = .next t ∧
      t.dev.debt c r = s.dev.debt c r ∧
      t.dev.rf (R.mcUrgentCnt c) F.mcUrgentCntForced = min 65535 (s.dev.rf (R.mcUrgentCnt c) F.mcUrgentCntForced + 1) ∧
      t.dev.sameQuiet s.dev [R.mcUrgentCnt c] ∧
      t.dev = { s.dev with regs := t.dev.regs, mc := t.dev.mc, evt := t.dev.evt, sram := t.dev.sram, hostMem := t.dev.hostMem, hif := t.dev.hif, seq := t.dev.seq, chans := t.dev.chans, lvls := t.dev.lvls, acq := t.dev.acq }) ∧
  (∀ (rs : List (Nat × Nat)) (s : State),
    (∃ c : Fin 4, s.dev.mcInUse c = true ∧ ∃ q : Fin 2, q.val < s.dev.rf (R.mcStat c) F.mcStatRanks ∧ 1 ≤ ((rs[2 * c.val + q.val]?).getD (0, 0)).2) →
    (∀ c : Fin 4, s.dev.mcInUse c = true → s.dev.rb (R.mcRefStat c) F.mcRefStatDouble = false) → ∃ t, exec (.mr4Poll rs) s = .next t ∧
      t.dev.dramc = { s.dev.dramc with streak := 0 } ∧
      (∀ c : Fin 4, s.dev.mcInUse c = true → t.dev.rb (R.mcRefStat c) F.mcRefStatDouble = true) ∧
      (∀ c : Fin 4, s.dev.mcInUse c = true → ∀ q : Fin 2, q.val < s.dev.rf (R.mcStat c) F.mcStatRanks → t.dev.debt c q = min 255 (2 * s.dev.debt c q) ∧ t.dev.rf (R.mcRefStat c) (Dev.mr4Fld q) = ((rs[2 * c.val + q.val]?).getD (0, 0)).1 % 16) ∧
      (∀ c : Fin 4, s.dev.mcInUse c = true → 1 < min 255 (2 * s.dev.debt c 0) → t.dev.urgent c 0 = true) ∧
      t.dev.sameQuiet s.dev [R.mcRefStat 0, R.mcRefStat 1, R.mcRefStat 2, R.mcRefStat 3, R.mcUrgentCnt 0, R.mcUrgentCnt 1, R.mcUrgentCnt 2, R.mcUrgentCnt 3] ∧
      t.dev = { s.dev with regs := t.dev.regs, mc := t.dev.mc, dramc := t.dev.dramc, evt := t.dev.evt, sram := t.dev.sram, hostMem := t.dev.hostMem, hif := t.dev.hif, seq := t.dev.seq, chans := t.dev.chans, lvls := t.dev.lvls, acq := t.dev.acq }) ∧
  (∀ (rs : List (Nat × Nat)) (c0 : Fin 4) (s : State),
    ¬ (∃ c : Fin 4, s.dev.mcInUse c = true ∧ ∃ q : Fin 2, q.val < s.dev.rf (R.mcStat c) F.mcStatRanks ∧ 1 ≤ ((rs[2 * c.val + q.val]?).getD (0, 0)).2) →
    s.dev.mcInUse c0 = true → s.dev.rb (R.mcRefStat c0) F.mcRefStatDouble = true → s.dev.dramc.streak = 1 → ∃ t, exec (.mr4Poll rs) s = .next t ∧
      t.dev.dramc = { s.dev.dramc with streak := 0 } ∧
      (∀ c : Fin 4, s.dev.mcInUse c = true → t.dev.rb (R.mcRefStat c) F.mcRefStatDouble = false) ∧
      (∀ c : Fin 4, ∀ q : Fin 2, t.dev.debt c q = s.dev.debt c q) ∧
      t.dev.sameQuiet s.dev [R.mcRefStat 0, R.mcRefStat 1, R.mcRefStat 2, R.mcRefStat 3] ∧
      t.dev = { s.dev with regs := t.dev.regs, dramc := t.dev.dramc, evt := t.dev.evt, sram := t.dev.sram, hostMem := t.dev.hostMem, hif := t.dev.hif, seq := t.dev.seq, chans := t.dev.chans, lvls := t.dev.lvls, acq := t.dev.acq }) ∧
  (∀ (c : Fin 4) (s : State), s.dev.urgent c 0 = true → ∃ t, exec (.urgentRefreshEnd c 0) s = .next t ∧
      t.dev.debt c 0 = s.dev.debt c 0 - (tget (fun _ => (0 : Nat)) (s.dev.mcOf c).urgD 0 - 1) ∧ t.dev.urgent c 0 = false ∧
      t.dev.urgent c 1 = s.dev.urgent c 1 ∧ tget (fun _ => (0 : Nat)) (t.dev.mcOf c).urgD 0 = 0 ∧ t.dev.sameQuiet s.dev [R.mcRefStat c] ∧
      t.dev = { s.dev with regs := t.dev.regs, mc := t.dev.mc, evt := t.dev.evt, sram := t.dev.sram, hostMem := t.dev.hostMem, hif := t.dev.hif, seq := t.dev.seq, chans := t.dev.chans, lvls := t.dev.lvls, acq := t.dev.acq }) ∧
  (∀ (c : Fin 4) (rank sc : Fin 2) (steps : Int) (s : State), s.dev.mcInUse c = true → rank.val < s.dev.rf (R.mcStat c) F.mcStatRanks →
    s.dev.rf (R.mcOscCfg c) F.mcOscCfgOscInt ≠ 0 → ∃ t, exec (.dqsOscRun c rank sc steps) s = .next t ∧
      t.dev.rf (R.mcOscStat c) ⟨8 * (2 * rank.val + sc.val) + 7, 8 * (2 * rank.val + sc.val)⟩ = wrapInt 8 (max (-16) (min 16 steps)) ∧
      nbit (t.dev.mcOf c).drift (2 * rank + sc) = decide (s.dev.rf (R.mcOscCfg c) F.mcOscCfgOscLim < steps.natAbs) ∧
      t.dev.sameQuiet s.dev [R.mcOscStat c] ∧
      t.dev = { s.dev with regs := t.dev.regs, mc := t.dev.mc, evt := t.dev.evt, sram := t.dev.sram, hostMem := t.dev.hostMem, hif := t.dev.hif, seq := t.dev.seq, chans := t.dev.chans, lvls := t.dev.lvls, acq := t.dev.acq }) ∧
  (∀ (n : Nat) (s : State), s.dev.rf R.mcgScrub F.mcgScrubPeriod ≠ 0 → 0 < (s.dev.mcUse.length * (s.dev.mcAvail / 64)) → 0 < n →
    s.dev.sagging = false → ∃ t, exec (.patrolScrub n []) s = .next t ∧
      t.dev.dramc = { s.dev.dramc with scrub := if (s.dev.mcUse.length * (s.dev.mcAvail / 64)) ≤ s.dev.dramc.scrub + n then 0 else s.dev.dramc.scrub + n } ∧
      t.dev.rf R.mcgScrubStat F.mcgScrubStatPasses = (if (s.dev.mcUse.length * (s.dev.mcAvail / 64)) ≤ s.dev.dramc.scrub + n then min 65535 (s.dev.rf R.mcgScrubStat F.mcgScrubStatPasses + 1) else s.dev.rf R.mcgScrubStat F.mcgScrubStatPasses) ∧
      t.dev.sameRegs s.dev [R.mcgScrubStat] ∧ t.dev = { s.dev with regs := t.dev.regs, dramc := t.dev.dramc }) ∧
  (∀ (n : Nat) (s : State), s.dev.mcLazy = true → s.dev.rb R.mcgInitStat F.mcgInitStatLazyDone = false → 0 < (s.dev.mcAvail / 4096) →
    s.dev.sagging = false → ∃ t, exec (.lazySweep n) s = .next t ∧
      t.dev.dramc.sweep = min (s.dev.mcAvail / 4096) (s.dev.dramc.sweep + n) ∧
      t.dev.rb R.mcgInitStat F.mcgInitStatLazyDone = decide ((s.dev.mcAvail / 4096) ≤ s.dev.dramc.sweep + n) ∧ t.dev.dram = s.dev.dram ∧
      t.dev.sameRegs s.dev [R.mcgInitStat] ∧ t.dev = { s.dev with regs := t.dev.regs, dramc := t.dev.dramc }) ∧
  (∀ (path : Fin 7) (w : Word) (s : State), s.dev.takes path R.mcgMap w.toNat = true → ∃ t, exec (.mcgMapWrite path w) s = .next t ∧
      t.dev.rn R.mcgMap = w.toNat ∧ t.dev.dram = s.dev.dram.foldl (fun m x => mset m (t.dev.addrOf (s.dev.placeOf x.1)) x.2) [] ∧
      (∀ c : Fin 4, (t.dev.mcOf c).poison = (s.dev.mcOf c).poison.map (fun l => t.dev.addrOf (s.dev.placeOf l))) ∧
      t.dev.sameRegs s.dev [R.mcgMap, pstat 0x44] ∧ t.dev = { s.dev with regs := t.dev.regs, mc := t.dev.mc, dram := t.dev.dram }) ∧
  (∀ (c : Fin 4) (sc : Fin 2) (t0 : Nat) (s : State), s.dev.mcInUse c = true → (s.dev.mcOf c).urg1 = none → (s.dev.mcOf c).raa = [] →
    (s.dev.mcOf c).busy = [] → (s.dev.mcOf c).wq = [] → s.dev.dramc.guard = none → (∀ q : Fin 2, s.dev.debt c q = 0 ∧ s.dev.urgent c q = false) →
    (s.dev.mcOf c).rq = [] → ∃ t, exec (.commandSlot c sc t0 []) s = .next t ∧
      (t.dev.mcOf c).pick = .nothing ∧ tget (fun _ => (0 : Nat)) (t.dev.mcOf c).slotT sc = t0 ∧ (t.dev.mcOf c).rq = [] ∧
      (t.dev.mcOf c).poison = (s.dev.mcOf c).poison ∧ t.dev.sameRegs s.dev [R.mcStat c] ∧
      t.dev = { s.dev with regs := t.dev.regs, mc := t.dev.mc, dramc := t.dev.dramc }) ∧
  (∀ (c : Fin 4) (sc : Fin 2) (t0 : Nat) (y : DReq) (x : LinePos) (u : Nat) (s : State), s.dev.mcInUse c = true → (s.dev.mcOf c).urg1 = none →
    (s.dev.mcOf c).raa = [] → (s.dev.mcOf c).busy = [] → (s.dev.mcOf c).wq = [] → s.dev.dramc.guard = none →
    (∀ q : Fin 2, s.dev.debt c q = 0 ∧ s.dev.urgent c q = false) → (s.dev.mcOf c).rq = [y] → s.dev.mcPlace y.addr = some (c.val, x) →
    x.sc = sc.val → y.cls = 1 → y.guard = false → x.rank < s.dev.rf (R.mcStat c) F.mcStatRanks →
    tget (fun _ => ((0 : Nat), (0 : Nat))) (s.dev.mcOf c).opens (bankKey x) = (x.row + 1, u) → ∃ t, exec (.commandSlot c sc t0 []) s = .next t ∧
      (t.dev.mcOf c).pick = .serve y ∧ (t.dev.mcOf c).rq = [] ∧
      tget (fun _ => ((0 : Nat), (0 : Nat))) (t.dev.mcOf c).opens (bankKey x) = (x.row + 1, t0) ∧
      tget (fun _ => (0 : Nat)) (t.dev.mcOf c).slotT sc = t0 ∧ t.dev = { s.dev with regs := t.dev.regs, mc := t.dev.mc, dramc := t.dev.dramc })

/-! ### On-chip memories (15_onchip_memories.md) -/

/-- MARCH_START, MARCH_STOP, MARCH_RUN_END, MARCH_YIELD, MARCH_WINDOW_RETRY, RETENTION_REQUEST, RETENTION_WAKE, WAKE_COMPLETE, MAILBOX_ACCESS and
MBX_DOORBELL_WRITE (R414 to R427).  A START begins at its first bank with the failing cells cleared; a STOP of a preserving run leaves every
byte; a destructive run leaves its bank at 0.  The 255th yield of a window skips it.  One refused bank ignores the whole retention request.  Of two writes to one
mailbox word the host's stands; a read beside a write is a free value.  A doorbell is set by its own side and cleared by the other. -/
def Obligations.MarchAndRetentionAndMailboxKeepTheirRules : Prop :=
  (∀ (path : Fin 7) (w : Word) (out : Outside) (s : State), s.dev.takes path R.srmMarchCtrl w.toNat = true → nbit w.toNat 31 = true →
    nbit w.toNat 30 = false → nbits w.toNat 6 0 ≠ 64 → s.dev.retained (nbits w.toNat 6 0) = false →
    s.dev.marchRefused (nbit w.toNat 26) (nbits w.toNat 6 0) = false → ∃ t, exec (.marchStart path w out) s = .next t ∧
      t.dev.rf R.srmMarchStat F.srmMarchStatState = 1 ∧ t.dev.rf R.srmMarchStat F.srmMarchStatBank = nbits w.toNat 6 0 ∧
      t.dev.rf R.srmMarchStat F.srmMarchStatCells = 0 ∧ (∀ i : Fin 16, t.dev.rn (R.srmFail i) = 0) ∧
      t.dev.srm = { s.dev.srm with run := some ⟨nbits w.toNat 6 0, nbits w.toNat 14 8, nbit w.toNat 26, nbit w.toNat 27, t.dev.rf R.srmMarchCtrl F.srmMarchCtrlBg, nbits w.toNat 6 0, s.dev.now, [], 0, 0, false⟩ } ∧
      t.dev.rb (R.srmBank (nbits w.toNat 6 0)) F.srmBankMarching = true ∧
      t.dev.sameRegs s.dev [R.srmMarchCtrl, R.srmMarchStat, R.srmBank (nbits w.toNat 6 0), pstat 0x50, R.srmFail 0, R.srmFail 1, R.srmFail 2, R.srmFail 3, R.srmFail 4, R.srmFail 5, R.srmFail 6, R.srmFail 7, R.srmFail 8, R.srmFail 9, R.srmFail 10, R.srmFail 11, R.srmFail 12, R.srmFail 13, R.srmFail 14, R.srmFail 15] ∧
      t.dev = { s.dev with regs := t.dev.regs, srm := t.dev.srm }) ∧
  (∀ (path : Fin 7) (w : Word) (out : Outside) (s : State), s.dev.lets path R.srmMarchCtrl = true → nbit w.toNat 31 = true →
    (s.dev.srm.run.isSome = true ∨ s.dev.marchStartBad w.toNat = true) → ∃ t, exec (.marchStart path w out) s = .next t ∧
      t.dev.rb (pstat 0x50) F.stBadWrite = true ∧ t.dev.sameRegs s.dev [pstat 0x50] ∧ t.dev = { s.dev with regs := t.dev.regs }) ∧
  (∀ (path : Fin 7) (w : Word) (out : Outside) (r : March) (s : State), s.dev.takes path R.srmMarchCtrl w.toNat = true →
    nbit w.toNat 31 = false → nbit w.toNat 30 = true → s.dev.srm.run = some r → r.pres = true → r.yielded = true → r.cur < 72 → out.fails = [] →
    s.dev.noReact 0x3B0 = true → ∃ t, exec (.marchStop path w out) s = .next t ∧
      t.dev.rf R.srmMarchStat F.srmMarchStatState = 4 ∧ t.dev.srm = { s.dev.srm with run := none } ∧
      sameBut t.dev.sram s.dev.sram 0x800000 0x10000 ∧ t.dev.rb (R.srmBank r.cur) F.srmBankMarching = false ∧
      t.dev.sameQuiet s.dev [R.srmMarchCtrl, R.srmMarchStat, R.srmBank r.cur, pstat 0x50, R.srmFail 0, R.srmFail 1, R.srmFail 2, R.srmFail 3, R.srmFail 4, R.srmFail 5, R.srmFail 6, R.srmFail 7, R.srmFail 8, R.srmFail 9, R.srmFail 10, R.srmFail 11, R.srmFail 12, R.srmFail 13, R.srmFail 14, R.srmFail 15] ∧
      t.dev = { s.dev with regs := t.dev.regs, srm := t.dev.srm, evt := t.dev.evt, hostMem := t.dev.hostMem, hif := t.dev.hif, sram := t.dev.sram, seq := t.dev.seq, chans := t.dev.chans, lvls := t.dev.lvls, acq := t.dev.acq }) ∧
  (∀ (passes : List Nat) (r : March) (s : State), s.dev.srm.run = some r → r.pres = false → r.first = r.cur → r.last = r.cur → r.done = [] →
    r.cur < 72 → r.cur ≠ 64 → s.dev.rb (R.srmBank r.cur) F.srmBankFaulty = false → s.dev.noReact 0x3B0 = true →
    ∃ t, exec (.marchRunEnd [] passes) s = .next t ∧
      t.dev.srm = { s.dev.srm with run := none } ∧ t.dev.rf R.srmMarchStat F.srmMarchStatState = 2 ∧
      t.dev.rf R.srmMarchStat F.srmMarchStatFailBanks = 0 ∧ mnat t.dev.sram (Dev.bankSpan r.cur).1 (Dev.bankSpan r.cur).2 = 0 ∧
      t.dev.sealed r.cur = false ∧ t.dev.sameQuiet s.dev [R.srmMarchStat, R.srmBank r.cur, R.vltSealed0, R.vltSealed1] ∧
      t.dev = { s.dev with regs := t.dev.regs, srm := t.dev.srm, evt := t.dev.evt, sram := t.dev.sram, hostMem := t.dev.hostMem, hif := t.dev.hif, seq := t.dev.seq, chans := t.dev.chans, lvls := t.dev.lvls, acq := t.dev.acq }) ∧
  (∀ (x : MarchFail) (l : List MarchFail) (passes : List Nat) (r : March) (s : State), s.dev.srm.run = some r → r.pres = true →
    r.first = r.cur → r.last = r.cur → r.done = [] → r.cur < 72 → x.bank = r.cur → (∀ y, y ∈ l → y.bank = r.cur) →
    s.dev.noReact 0x3B0 && s.dev.noReact 0x3B1 = true → ∃ t, exec (.marchRunEnd (x :: l) passes) s = .next t ∧
      t.dev.srm = { s.dev.srm with run := none } ∧ t.dev.rf R.srmMarchStat F.srmMarchStatState = 3 ∧
      t.dev.rf R.srmMarchStat F.srmMarchStatCells = min 255 (l.length + 1) ∧
      t.dev.rn (R.srmFail 0) = 2 ^ 31 + x.elem % 8 * 2 ^ 28 + x.bg % 4 * 2 ^ 26 + x.bank % 128 * 2 ^ 19 + x.row % 1024 * 2 ^ 9 + x.bit % 256 * 2 ∧
      t.dev.sameQuiet s.dev [R.srmMarchStat, R.srmBank r.cur, R.srmFail 0, R.srmFail 1, R.srmFail 2, R.srmFail 3, R.srmFail 4, R.srmFail 5, R.srmFail 6, R.srmFail 7, R.srmFail 8, R.srmFail 9, R.srmFail 10, R.srmFail 11, R.srmFail 12, R.srmFail 13, R.srmFail 14, R.srmFail 15] ∧
      t.dev = { s.dev with regs := t.dev.regs, srm := t.dev.srm, evt := t.dev.evt, sram := t.dev.sram, hostMem := t.dev.hostMem, hif := t.dev.hif, seq := t.dev.seq, chans := t.dev.chans, lvls := t.dev.lvls, acq := t.dev.acq }) ∧
  (∀ (j : Nat) (r : March) (s : State), s.dev.srm.run = some r → r.pres = true → Dev.bankUrgent r.cur = true →
    (s.dev.sagging = true ∨ s.dev.now < r.t + Dev.marchTime r) → r.yielded = false → (if r.win = j then r.yields + 1 else 1) < 255 →
    ∃ t, exec (.marchYield j) s = .next t ∧
      t.dev.srm = { s.dev.srm with run := some { r with win := j, yields := (if r.win = j then r.yields + 1 else 1), yielded := true } } ∧
      t.dev.rf R.srmMarchYield F.srmMarchYieldYields = min 65535 (s.dev.rf R.srmMarchYield F.srmMarchYieldYields + 1) ∧
      t.dev.sameRegs s.dev [R.srmMarchYield] ∧ t.dev = { s.dev with regs := t.dev.regs, srm := t.dev.srm }) ∧
  (∀ (j : Nat) (r : March) (s : State), s.dev.srm.run = some r → r.pres = true → Dev.bankUrgent r.cur = true →
    (s.dev.sagging = true ∨ s.dev.now < r.t + Dev.marchTime r) → r.yielded = false → 255 ≤ (if r.win = j then r.yields + 1 else 1) →
    ∃ t, exec (.marchYield j) s = .next t ∧
      t.dev.srm = { s.dev.srm with run := some { r with win := j + 1, yields := 0, yielded := true } } ∧
      t.dev.rf R.srmMarchYield F.srmMarchYieldSkipped = min 65535 (s.dev.rf R.srmMarchYield F.srmMarchYieldSkipped + 1) ∧
      t.dev.sameQuiet s.dev [R.srmMarchYield] ∧
      t.dev = { s.dev with regs := t.dev.regs, srm := t.dev.srm, evt := t.dev.evt, sram := t.dev.sram, hostMem := t.dev.hostMem, hif := t.dev.hif, seq := t.dev.seq, chans := t.dev.chans, lvls := t.dev.lvls, acq := t.dev.acq }) ∧
  (∀ (r : March) (s : State), s.dev.srm.run = some r → ∃ t, exec .marchWindowRetry s = .next t ∧
      t.dev.srm = { s.dev.srm with run := some { r with yielded := false } } ∧ t.dev.sameRegs s.dev [] ∧
      t.dev = { s.dev with regs := t.dev.regs, srm := t.dev.srm }) ∧
  (∀ (path : Fin 7) (i : Fin 3) (w : Word) (b : Nat) (s : State), s.dev.lets path (R.srmRetReq0 + 4 * i) = true →
    (if i.val < 2 then b / 32 = i.val ∧ nbit w.toNat (b % 32) = true else (b = 66 ∧ nbit w.toNat 0 = true ∨ b = 67 ∧ nbit w.toNat 1 = true) ∧ w.toNat < 4) →
    s.dev.retRefused b = true → (∀ q : Fin 72, q.val < b → s.dev.retRefused q = false) → s.dev.noReact 0x3B6 = true →
    ∃ t, exec (.retentionRequest path i w) s = .next t ∧
      t.dev.rb (pstat 0x50) F.stBadWrite = true ∧ t.dev.rb R.srmRetStat F.srmRetStatRefused = true ∧ t.dev.rf R.srmRetStat F.srmRetStatBank = b ∧
      t.dev.srm = s.dev.srm ∧ (∀ q : Fin 72, t.dev.retained q = s.dev.retained q) ∧ t.dev.sameQuiet s.dev [pstat 0x50, R.srmRetStat] ∧
      t.dev = { s.dev with regs := t.dev.regs, evt := t.dev.evt, sram := t.dev.sram, hostMem := t.dev.hostMem, hif := t.dev.hif, seq := t.dev.seq, chans := t.dev.chans, lvls := t.dev.lvls, acq := t.dev.acq }) ∧
  (∀ (path : Fin 7) (i : Fin 3) (w : Word) (s : State), s.dev.lets path (R.srmRetReq0 + 4 * i) = true → (i.val = 2 → w.toNat < 4) →
    (∀ b : Fin 68, (b.val / 32 = i.val ∧ b.val < 64 ∨ i.val = 2 ∧ 66 ≤ b.val) → nbit w.toNat (Dev.retBit b) = true → s.dev.retRefused b = false) →
    ∃ t, exec (.retentionRequest path i w) s = .next t ∧
      (∀ b : Fin 68, (b.val / 32 = i.val ∧ b.val < 64 ∨ i.val = 2 ∧ 66 ≤ b.val) → t.dev.retained b = nbit w.toNat (Dev.retBit b) ∧ t.dev.rb (R.srmBank b) F.srmBankRetained = (if nbit w.toNat (Dev.retBit b) then true else if s.dev.retained b then false else s.dev.rb (R.srmBank b) F.srmBankRetained)) ∧
      (∀ b : Fin 68, (b.val / 32 = i.val ∧ b.val < 64 ∨ i.val = 2 ∧ 66 ≤ b.val) → t.dev.srm.waking.contains b.val = (!nbit w.toNat (Dev.retBit b) && (s.dev.retained b || s.dev.srm.waking.contains b.val))) ∧
      (∀ b : Fin 68, ¬ (b.val / 32 = i.val ∧ b.val < 64 ∨ i.val = 2 ∧ 66 ≤ b.val) → t.dev.retained b = s.dev.retained b ∧ t.dev.srm.waking.contains b.val = s.dev.srm.waking.contains b.val) ∧
      t.dev.srm.run = s.dev.srm.run ∧ t.dev.srm.spares = s.dev.srm.spares ∧
      t.dev.sameRegs s.dev [R.srmRetReq0, R.srmRetReq1, R.srmRetReq2, pstat 0x50, R.srmBank 0, R.srmBank 1, R.srmBank 2, R.srmBank 3, R.srmBank 4, R.srmBank 5, R.srmBank 6, R.srmBank 7, R.srmBank 8, R.srmBank 9, R.srmBank 10, R.srmBank 11, R.srmBank 12, R.srmBank 13, R.srmBank 14, R.srmBank 15, R.srmBank 16, R.srmBank 17, R.srmBank 18, R.srmBank 19, R.srmBank 20, R.srmBank 21, R.srmBank 22, R.srmBank 23, R.srmBank 24, R.srmBank 25, R.srmBank 26, R.srmBank 27, R.srmBank 28, R.srmBank 29, R.srmBank 30, R.srmBank 31, R.srmBank 32, R.srmBank 33, R.srmBank 34, R.srmBank 35, R.srmBank 36, R.srmBank 37, R.srmBank 38, R.srmBank 39, R.srmBank 40, R.srmBank 41, R.srmBank 42, R.srmBank 43, R.srmBank 44, R.srmBank 45, R.srmBank 46, R.srmBank 47, R.srmBank 48, R.srmBank 49, R.srmBank 50, R.srmBank 51, R.srmBank 52, R.srmBank 53, R.srmBank 54, R.srmBank 55, R.srmBank 56, R.srmBank 57, R.srmBank 58, R.srmBank 59, R.srmBank 60, R.srmBank 61, R.srmBank 62, R.srmBank 63, R.srmBank 64, R.srmBank 65, R.srmBank 66, R.srmBank 67] ∧
      t.dev = { s.dev with regs := t.dev.regs, srm := t.dev.srm }) ∧
  (∀ (path : Fin 7) (i : Fin 3) (w : Word) (s : State), s.dev.lets path (R.srmRetReq0 + 4 * i) = true → (i.val = 2 → w.toNat < 4) →
    (∀ b : Fin 68, (b.val / 32 = i.val ∧ b.val < 64 ∨ i.val = 2 ∧ 66 ≤ b.val) → nbit w.toNat (Dev.retBit b) = true → s.dev.retRefused b = false) →
    ∃ t, exec (.retentionWake path i w) s = .next t ∧
      (∀ b : Fin 68, (b.val / 32 = i.val ∧ b.val < 64 ∨ i.val = 2 ∧ 66 ≤ b.val) → t.dev.retained b = nbit w.toNat (Dev.retBit b) ∧ t.dev.rb (R.srmBank b) F.srmBankRetained = (if nbit w.toNat (Dev.retBit b) then true else if s.dev.retained b then false else s.dev.rb (R.srmBank b) F.srmBankRetained)) ∧
      (∀ b : Fin 68, (b.val / 32 = i.val ∧ b.val < 64 ∨ i.val = 2 ∧ 66 ≤ b.val) → t.dev.srm.waking.contains b.val = (!nbit w.toNat (Dev.retBit b) && (s.dev.retained b || s.dev.srm.waking.contains b.val))) ∧
      (∀ b : Fin 68, ¬ (b.val / 32 = i.val ∧ b.val < 64 ∨ i.val = 2 ∧ 66 ≤ b.val) → t.dev.retained b = s.dev.retained b ∧ t.dev.srm.waking.contains b.val = s.dev.srm.waking.contains b.val) ∧
      t.dev.srm.run = s.dev.srm.run ∧ t.dev.srm.spares = s.dev.srm.spares ∧
      t.dev.sameRegs s.dev [R.srmRetReq0, R.srmRetReq1, R.srmRetReq2, pstat 0x50, R.srmBank 0, R.srmBank 1, R.srmBank 2, R.srmBank 3, R.srmBank 4, R.srmBank 5, R.srmBank 6, R.srmBank 7, R.srmBank 8, R.srmBank 9, R.srmBank 10, R.srmBank 11, R.srmBank 12, R.srmBank 13, R.srmBank 14, R.srmBank 15, R.srmBank 16, R.srmBank 17, R.srmBank 18, R.srmBank 19, R.srmBank 20, R.srmBank 21, R.srmBank 22, R.srmBank 23, R.srmBank 24, R.srmBank 25, R.srmBank 26, R.srmBank 27, R.srmBank 28, R.srmBank 29, R.srmBank 30, R.srmBank 31, R.srmBank 32, R.srmBank 33, R.srmBank 34, R.srmBank 35, R.srmBank 36, R.srmBank 37, R.srmBank 38, R.srmBank 39, R.srmBank 40, R.srmBank 41, R.srmBank 42, R.srmBank 43, R.srmBank 44, R.srmBank 45, R.srmBank 46, R.srmBank 47, R.srmBank 48, R.srmBank 49, R.srmBank 50, R.srmBank 51, R.srmBank 52, R.srmBank 53, R.srmBank 54, R.srmBank 55, R.srmBank 56, R.srmBank 57, R.srmBank 58, R.srmBank 59, R.srmBank 60, R.srmBank 61, R.srmBank 62, R.srmBank 63, R.srmBank 64, R.srmBank 65, R.srmBank 66, R.srmBank 67] ∧
      t.dev = { s.dev with regs := t.dev.regs, srm := t.dev.srm }) ∧
  (∀ (b : Fin 68) (s : State), ∃ t, exec (.wakeComplete b) s = .next t ∧
      t.dev.srm = { s.dev.srm with waking := s.dev.srm.waking.filter (fun x => x ≠ b.val) } ∧ t.dev.sameRegs s.dev [] ∧
      t.dev = { s.dev with regs := t.dev.regs, srm := t.dev.srm }) ∧
  (∀ (x y : MbxAcc) (s : State), 6 ≤ s.dev.boot.done → s.dev.hostUp = true → s.dev.srm.run = none → s.dev.offline false 0x51 = false →
    x.word < 16384 → y.word = x.word → x.write = true → y.write = true → ∃ t, exec (.mailboxAccess (some x) (some y)) s = .next t ∧
      t.dev.sramWord (Dev.mbxAddr x.word) = Dev.mergeBe (s.dev.sramWord (Dev.mbxAddr x.word)) x.data x.be ∧
      (∀ q : Fin 16384, q.val ≠ x.word → t.dev.sramWord (Dev.mbxAddr q) = s.dev.sramWord (Dev.mbxAddr q)) ∧
      t.dev.rb R.mbxStat F.mbxStatBmpWarn = true ∧ t.dev.rb R.mbxStat F.mbxStatLastKind = true ∧ t.dev.rf R.mbxStat F.mbxStatLastWord = x.word ∧
      t.dev.rf R.mbxCnt F.mbxCntWw = min 65535 (s.dev.rf R.mbxCnt F.mbxCntWw + 1) ∧ t.dev.sameQuiet s.dev [R.mbxStat, R.mbxCnt] ∧
      t.dev = { s.dev with regs := t.dev.regs, sram := t.dev.sram, evt := t.dev.evt, hostMem := t.dev.hostMem, hif := t.dev.hif, seq := t.dev.seq, chans := t.dev.chans, lvls := t.dev.lvls, acq := t.dev.acq }) ∧
  (∀ (x y : MbxAcc) (a : MbxAcc) (s : State), 6 ≤ s.dev.boot.done → s.dev.hostUp = true → s.dev.srm.run = none →
    s.dev.offline false 0x51 = false → x.word < 16384 → y.word = x.word → x.write ≠ y.write → a = (if x.write then x else { y with be := 15 }) →
    a.data < 2 ^ 32 → ∃ t, exec (.mailboxAccess (some x) (some y)) s = .next t ∧
      t.dev.sramWord (Dev.mbxAddr x.word) = Dev.mergeBe (s.dev.sramWord (Dev.mbxAddr x.word)) a.data a.be ∧
      (∀ q : Fin 16384, q.val ≠ x.word → t.dev.sramWord (Dev.mbxAddr q) = s.dev.sramWord (Dev.mbxAddr q)) ∧
      t.dev.rb R.mbxStat F.mbxStatHostWarn = (s.dev.rb R.mbxStat F.mbxStatHostWarn || decide (y.stamp < x.stamp)) ∧
      t.dev.rb R.mbxStat F.mbxStatBmpWarn = (s.dev.rb R.mbxStat F.mbxStatBmpWarn || decide (x.stamp ≤ y.stamp)) ∧
      t.dev.rb R.mbxStat F.mbxStatLastKind = false ∧ t.dev.rf R.mbxCnt F.mbxCntRw = min 65535 (s.dev.rf R.mbxCnt F.mbxCntRw + 1) ∧
      t.dev.fresh = s.dev.fresh + 1 ∧ t.dev.sameQuiet s.dev [R.mbxStat, R.mbxCnt] ∧
      t.dev = { s.dev with regs := t.dev.regs, sram := t.dev.sram, fresh := t.dev.fresh, hif := t.dev.hif, evt := t.dev.evt, hostMem := t.dev.hostMem, seq := t.dev.seq, chans := t.dev.chans, lvls := t.dev.lvls, acq := t.dev.acq }) ∧
  (∀ (x : MbxAcc) (y : Option MbxAcc) (s : State), 6 ≤ s.dev.boot.done → s.dev.hostUp = true → s.dev.srm.run = none →
    s.dev.offline false 0x51 = false → x.word < 16384 → x.write = true →
    (y = none ∨ ∃ z, y = some z ∧ z.write = false ∧ z.word < 16384 ∧ z.word ≠ x.word) → ∃ t, exec (.mailboxAccess (some x) y) s = .next t ∧
      t.dev.sramWord (Dev.mbxAddr x.word) = Dev.mergeBe (s.dev.sramWord (Dev.mbxAddr x.word)) x.data x.be ∧
      sameBut t.dev.sram s.dev.sram (Dev.mbxAddr x.word) 4 ∧
      (∀ z, y = some z → t.dev.hif.rdata = [BitVec.ofNat 32 (s.dev.sramWord (Dev.mbxAddr z.word))]) ∧ t.dev.sameRegs s.dev [] ∧
      t.dev = { s.dev with regs := t.dev.regs, sram := t.dev.sram, hif := t.dev.hif }) ∧
  (∀ (path : Fin 7) (h2b : Bool) (w : Word) (s : State), s.dev.lets path (if h2b then R.mbxDbH2b else R.mbxDbB2h) = true → w.toNat < 65536 →
    s.dev.rn (if h2b then R.mbxDbH2b else R.mbxDbB2h) < 65536 → h2b = decide (path.val ≠ 1) →
    ∃ t, exec (.mbxDoorbellWrite path h2b w) s = .next t ∧
      t.dev.rn (if h2b then R.mbxDbH2b else R.mbxDbB2h) = s.dev.rn (if h2b then R.mbxDbH2b else R.mbxDbB2h) ||| w.toNat ∧
      t.dev.sameQuiet s.dev [R.mbxDbH2b, R.mbxDbB2h, pstat 0x51] ∧
      t.dev = { s.dev with regs := t.dev.regs, evt := t.dev.evt, sram := t.dev.sram, hostMem := t.dev.hostMem, hif := t.dev.hif, seq := t.dev.seq, chans := t.dev.chans, lvls := t.dev.lvls, acq := t.dev.acq }) ∧
  (∀ (path : Fin 7) (h2b : Bool) (w : Word) (s : State), s.dev.lets path (if h2b then R.mbxDbH2b else R.mbxDbB2h) = true → w.toNat < 65536 →
    s.dev.rn (if h2b then R.mbxDbH2b else R.mbxDbB2h) < 65536 → h2b = decide (path.val = 1) →
    ∃ t, exec (.mbxDoorbellWrite path h2b w) s = .next t ∧
      t.dev.rn (if h2b then R.mbxDbH2b else R.mbxDbB2h) = s.dev.rn (if h2b then R.mbxDbH2b else R.mbxDbB2h) - (s.dev.rn (if h2b then R.mbxDbH2b else R.mbxDbB2h) &&& w.toNat) ∧
      t.dev.sameRegs s.dev [(if h2b then R.mbxDbH2b else R.mbxDbB2h), pstat 0x51] ∧ t.dev = { s.dev with regs := t.dev.regs })

/-! ### Seasons and the vault (18_security_identity_and_seasons.md) -/

/-- SEASON_ARM, SEASON_COMMIT, SEASON_ARM_EXPIRY, SEASON_CHANGE_DONE, TAMPER_N_LOW, TAMPER_N_HIGH, TAMPER_WIPE_DONE, LOAD, VLT_APPLY and
JTAG_INSTRUCTION (R458 to R469, R487).  A commit needs a live arm for a later season, idle ports and for AUTUMN its authorisation; else its
cause is shown and the season stays.  Zeroising clears the vault banks, every sealed bank and the slots; a wipe blows one tamper fuse.  A key
load fills its slot in SPRING and SUMMER.  In WINTER no channel drives.  An entry outside the port's pages ends an apply. -/
def Obligations.SeasonsKeysAndTamperMoveOneWay : Prop :=
  (∀ (path : Fin 7) (w : Word) (s : State), s.dev.takes path R.vltSeasonReq w.toNat = true → nbits w.toNat 1 0 = 1 →
    Dev.laterSeason s.vault (nbits w.toNat 31 28) = true → ∃ t, exec (.seasonArm path w) s = .next t ∧
      t.dev.vlt = { s.dev.vlt with arm := some (nbits w.toNat 31 28) } ∧ t.dev.wide R.vltNonce0 2 = Config.freeValue s.dev.fresh % 2 ^ 64 ∧
      t.dev.rf R.vltStat F.vltStatReqErr = 0 ∧ t.dev.fresh = s.dev.fresh + 1 ∧
      t.dev.sameRegs s.dev [R.vltSeasonReq, R.vltStat, pstat 0x52, R.vltNonce0, R.vltNonce1] ∧
      t.dev = { s.dev with regs := t.dev.regs, vlt := t.dev.vlt, fresh := t.dev.fresh }) ∧
  (∀ (path : Fin 7) (w : Word) (s : State), s.dev.takes path R.vltSeasonReq w.toNat = true → nbits w.toNat 1 0 = 1 →
    Dev.laterSeason s.vault (nbits w.toNat 31 28) = false → ∃ t, exec (.seasonArm path w) s = .next t ∧
      t.dev.rb (pstat 0x52) F.stBadWrite = true ∧ t.dev.rf R.vltStat F.vltStatReqErr = 1 ∧
      t.dev.sameRegs s.dev [R.vltSeasonReq, R.vltStat, pstat 0x52] ∧ t.dev = { s.dev with regs := t.dev.regs }) ∧
  (∀ (path : Fin 7) (w : Word) (out : Outside) (s : State), s.dev.takes path R.vltSeasonReq w.toNat = true → nbits w.toNat 1 0 = 2 →
    (if Dev.laterSeason s.vault (nbits w.toNat 31 28) = false then 1 else if s.dev.vlt.arm ≠ some (nbits w.toNat 31 28) then 2 else if s.dev.anyRunning = true then 3 else if (nbits w.toNat 31 28) = 4 ∧ out.auth = false then 4 else 0) = 0 →
    ∃ t, exec (.seasonCommit path w out) s = .next t ∧
      t.dev.vlt = { s.dev.vlt with arm := none, trans := some (nbits w.toNat 31 28), slots := Vlt.reset.slots } ∧
      t.dev.rb R.vltStat F.vltStatTransBusy = true ∧ t.dev.rf R.vltStat F.vltStatReqErr = 0 ∧ t.dev.wide R.vltNonce0 2 = 0 ∧
      (∀ i : Fin 24, t.dev.rn (R.vltAuth i) = 0) ∧ t.dev.rn R.vltKeystat = 0 ∧ (∀ b : Fin 64, t.dev.sealed b = false) ∧
      (∀ b : Fin 64, s.dev.sealed b = true → mnat t.dev.sram (Dev.bankSpan b).1 (Dev.bankSpan b).2 = 0) ∧
      mnat t.dev.sram (Dev.bankSpan 66).1 (Dev.bankSpan 66).2 = 0 ∧ mnat t.dev.sram (Dev.bankSpan 67).1 (Dev.bankSpan 67).2 = 0 ∧
      t.vault = s.vault ∧
      t.dev.sameRegs s.dev [R.vltSeasonReq, R.vltStat, pstat 0x52, R.vltNonce0, R.vltNonce1, R.vltAuth 0, R.vltAuth 1, R.vltAuth 2, R.vltAuth 3, R.vltAuth 4, R.vltAuth 5, R.vltAuth 6, R.vltAuth 7, R.vltAuth 8, R.vltAuth 9, R.vltAuth 10, R.vltAuth 11, R.vltAuth 12, R.vltAuth 13, R.vltAuth 14, R.vltAuth 15, R.vltAuth 16, R.vltAuth 17, R.vltAuth 18, R.vltAuth 19, R.vltAuth 20, R.vltAuth 21, R.vltAuth 22, R.vltAuth 23, R.vltKeystat, R.vltSealed0, R.vltSealed1] ∧
      t.dev = { s.dev with regs := t.dev.regs, vlt := t.dev.vlt, sram := t.dev.sram, dma := t.dev.dma }) ∧
  (∀ (path : Fin 7) (w : Word) (out : Outside) (s : State), s.dev.takes path R.vltSeasonReq w.toNat = true → nbits w.toNat 1 0 = 2 →
    (if Dev.laterSeason s.vault (nbits w.toNat 31 28) = false then 1 else if s.dev.vlt.arm ≠ some (nbits w.toNat 31 28) then 2 else if s.dev.anyRunning = true then 3 else if (nbits w.toNat 31 28) = 4 ∧ out.auth = false then 4 else 0) ≠ 0 →
    ∃ t, exec (.seasonCommit path w out) s = .next t ∧
      t.dev.vlt = { s.dev.vlt with arm := none } ∧ t.dev.rb (pstat 0x52) F.stBadWrite = true ∧
      t.dev.rf R.vltStat F.vltStatReqErr = (if Dev.laterSeason s.vault (nbits w.toNat 31 28) = false then 1 else if s.dev.vlt.arm ≠ some (nbits w.toNat 31 28) then 2 else if s.dev.anyRunning = true then 3 else if (nbits w.toNat 31 28) = 4 ∧ out.auth = false then 4 else 0) ∧
      t.dev.rb R.vltStat F.vltStatTransBusy = s.dev.rb R.vltStat F.vltStatTransBusy ∧ t.dev.wide R.vltNonce0 2 = 0 ∧
      (∀ i : Fin 24, t.dev.rn (R.vltAuth i) = 0) ∧ t.vault = s.vault ∧
      t.dev.sameRegs s.dev [R.vltSeasonReq, R.vltStat, pstat 0x52, R.vltNonce0, R.vltNonce1, R.vltAuth 0, R.vltAuth 1, R.vltAuth 2, R.vltAuth 3, R.vltAuth 4, R.vltAuth 5, R.vltAuth 6, R.vltAuth 7, R.vltAuth 8, R.vltAuth 9, R.vltAuth 10, R.vltAuth 11, R.vltAuth 12, R.vltAuth 13, R.vltAuth 14, R.vltAuth 15, R.vltAuth 16, R.vltAuth 17, R.vltAuth 18, R.vltAuth 19, R.vltAuth 20, R.vltAuth 21, R.vltAuth 22, R.vltAuth 23] ∧
      t.dev = { s.dev with regs := t.dev.regs, vlt := t.dev.vlt }) ∧
  (∀ (g : Nat) (s : State), s.dev.vlt.arm = some g → ∃ t, exec .seasonArmExpiry s = .next t ∧
      t.dev.vlt = { s.dev.vlt with arm := none } ∧ t.dev.wide R.vltNonce0 2 = 0 ∧ t.dev.sameRegs s.dev [R.vltNonce0, R.vltNonce1] ∧
      t.dev = { s.dev with regs := t.dev.regs, vlt := t.dev.vlt }) ∧
  (∀ (g : Nat) (s : State), s.dev.vlt.trans = some g → Dev.laterSeason s.vault g = true → s.dev.ledgerOk = true → s.dev.boot.keeperOn = true →
    (s.dev.noReact Ev.seasonChange && s.dev.noReact Ev.vaultWiped) = true → g ≠ 8 → ∃ t, exec .seasonChangeDone s = .next t ∧
      t.vault.season = g ∧ t.vault.tampers = s.vault.tampers ∧ t.vault.atLeast s.vault = true ∧ t.dev.rn R.glbSeason = g ∧
      t.dev.rf R.vltStat F.vltStatSeason = g ∧ t.dev.rb R.vltStat F.vltStatTransBusy = false ∧
      t.dev.vlt = { s.dev.vlt with trans := none, store := none, recs := s.dev.vlt.recs + 1 } ∧
      mread t.dev.ledger Dev.ledStore 640 = List.replicate 640 0 ∧ mnat t.dev.ledger (Dev.ledIdent s.dev.vlt.recs) 4 = 2 ^ 31 + 2 ^ 16 + g ∧
      mnat t.dev.ledger (Dev.ledIdent s.dev.vlt.recs + 4) 12 = s.dev.now ∧ t.dev.sameQuiet s.dev [R.glbSeason, R.vltStat] ∧
      t.dev = { s.dev with regs := t.dev.regs, vlt := t.dev.vlt, ledger := t.dev.ledger, evt := t.dev.evt, sram := t.dev.sram, hostMem := t.dev.hostMem, hif := t.dev.hif, seq := t.dev.seq, chans := t.dev.chans, lvls := t.dev.lvls, acq := t.dev.acq }) ∧
  (∀ (g : Nat) (s : State), s.dev.vlt.trans = some g → Dev.laterSeason s.vault g = true → s.dev.ledgerOk = true → s.dev.boot.keeperOn = true →
    (s.dev.noReact Ev.seasonChange && s.dev.noReact Ev.vaultWiped) = true → g = 8 → ∃ t, exec .seasonChangeDone s = .next t ∧
      t.vault.season = g ∧ t.vault.tampers = s.vault.tampers ∧ t.vault.atLeast s.vault = true ∧ t.dev.rn R.glbSeason = g ∧
      t.dev.rf R.vltStat F.vltStatSeason = g ∧ t.dev.rb R.vltStat F.vltStatTransBusy = false ∧
      (∀ i : Fin 96, (t.dev.chan i).driven = false ∧ t.dev.rb (pctl (Dev.chPage i)) F.ctlEnable = false) ∧
      (∀ p e : Fin 4, t.dev.sbOn p e = false) ∧ (∀ n : Fin 32, t.dev.eyeState n = 0 ∨ t.dev.eyeState n = 3) ∧
      (∀ p : Fin 4, t.dev.measState p = 0 ∨ t.dev.measState p = 3 ∨ (t.dev.measOf p).stop = true) ∧
      (∀ p : Fin 4, t.dev.calbus.holder ≠ some p.val)) ∧
  (∀ (s : State), 3 ≤ s.dev.boot.done → s.dev.vlt.ready = true → s.dev.ledgerOk = true → s.dev.boot.keeperOn = true →
    (s.dev.noReact Ev.tamper && s.dev.noReact Ev.vaultWiped) = true → ∃ t, exec .tamperNLow s = .next t ∧
      t.dev.vlt = { s.dev.vlt with ready := false, recs := s.dev.vlt.recs + 1, slots := Vlt.reset.slots } ∧
      t.dev.pins = { s.dev.pins with tamperN := false } ∧ t.dev.rb R.vltStat F.vltStatWipeBusy = true ∧
      t.dev.rn R.vltTamperCnt = min 0xFFFFFFFF (s.dev.rn R.vltTamperCnt + 1) ∧ t.dev.rn R.vltKeystat = 0 ∧
      (∀ b : Fin 64, t.dev.sealed b = false) ∧
      (∀ b : Fin 64, s.dev.sealed b = true → mnat t.dev.sram (Dev.bankSpan b).1 (Dev.bankSpan b).2 = 0) ∧
      mnat t.dev.sram (Dev.bankSpan 66).1 (Dev.bankSpan 66).2 = 0 ∧ mnat t.dev.sram (Dev.bankSpan 67).1 (Dev.bankSpan 67).2 = 0 ∧
      t.vault = s.vault ∧ mnat t.dev.ledger (Dev.ledIdent s.dev.vlt.recs) 4 = (2 ^ 31 + 2 ^ 17 + (s.vault.tampers + 1)) % 2 ^ 32 ∧
      sameBut t.dev.ledger s.dev.ledger (Dev.ledIdent s.dev.vlt.recs) 16 ∧
      t.dev.sameQuiet s.dev [R.vltStat, R.vltTamperCnt, R.vltKeystat, R.vltSealed0, R.vltSealed1] ∧
      t.dev = { s.dev with regs := t.dev.regs, vlt := t.dev.vlt, pins := t.dev.pins, sram := t.dev.sram, ledger := t.dev.ledger, dma := t.dev.dma, evt := t.dev.evt, hostMem := t.dev.hostMem, hif := t.dev.hif, seq := t.dev.seq, chans := t.dev.chans, lvls := t.dev.lvls, acq := t.dev.acq }) ∧
  (∀ (s : State), s.dev.vlt.ready = false → ∃ t, exec .tamperNLow s = .next t ∧
      t.dev.pins = { s.dev.pins with tamperN := false } ∧ t.vault = s.vault ∧ t.dev.sameRegs s.dev [] ∧
      t.dev = { s.dev with regs := t.dev.regs, pins := t.dev.pins }) ∧
  (∀ (s : State), s.dev.rb R.vltStat F.vltStatWipeBusy = true → s.vault.tampers ≤ 32 → ∃ t, exec .tamperWipeDone s = .next t ∧
      t.vault = { s.vault with tampers := min 32 (s.vault.tampers + 1) } ∧ t.dev.rb R.vltStat F.vltStatWipeBusy = false ∧
      t.dev.rf R.vltStat F.vltStatTampers = min 32 (s.vault.tampers + 1) ∧
      t.dev.rb R.vltStat F.vltStatTamperExh = decide (32 ≤ s.vault.tampers + 1) ∧ t.dev.rf R.vltStat F.vltStatSeason = s.vault.season ∧
      t.dev.sameRegs s.dev [R.vltStat, R.glbSeason] ∧ t.dev = { s.dev with regs := t.dev.regs }) ∧
  (∀ (s : State), ∃ t, exec .tamperNHigh s = .next t ∧
      t.dev.vlt = { s.dev.vlt with ready := true } ∧ t.dev.pins = { s.dev.pins with tamperN := true } ∧ t.dev.sameRegs s.dev [] ∧
      t.dev = { s.dev with regs := t.dev.regs, vlt := t.dev.vlt, pins := t.dev.pins }) ∧
  (∀ (path : Fin 7) (w : Word) (s : State), s.dev.takes path R.vltKeyctrl w.toNat = true → nbit w.toNat 31 = true → s.vault.season < 4 →
    s.vault.tampers < 32 → s.dev.rb R.vltStat F.vltStatTransBusy = false → s.dev.rb R.vltStat F.vltStatWipeBusy = false →
    ((s.dev.vlt.slots[(w.toNat % 16)]?).getD KeySlot.reset).lock = false → s.dev.ledgerOk = true → s.dev.boot.keeperOn = true →
    ∃ t, exec (.load path w) s = .next t ∧
      t.dev.vlt = { s.dev.vlt with slots := lset s.dev.vlt.slots (w.toNat % 16) ⟨true, nbit w.toNat 8, s.dev.wide (R.vltKey 0) 8⟩, store := some ⟨lset s.dev.vlt.slots (w.toNat % 16) ⟨true, nbit w.toNat 8, s.dev.wide (R.vltKey 0) 8⟩, s.vault.season, s.vault.tampers⟩ } ∧
      (∀ k : Fin 8, t.dev.rn (R.vltKey k) = 0) ∧
      (s.dev.vlt.slots.length = 16 → t.dev.rb R.vltKeystat ⟨(w.toNat % 16), (w.toNat % 16)⟩ = true ∧ t.dev.rb R.vltKeystat ⟨16 + (w.toNat % 16), 16 + (w.toNat % 16)⟩ = nbit w.toNat 8) ∧
      sameBut t.dev.ledger s.dev.ledger Dev.ledStore 640 ∧ t.dev.fresh = s.dev.fresh + 1 ∧
      t.dev.sameRegs s.dev [R.vltKeyctrl, R.vltKeystat, pstat 0x52, R.vltKey 0, R.vltKey 1, R.vltKey 2, R.vltKey 3, R.vltKey 4, R.vltKey 5, R.vltKey 6, R.vltKey 7] ∧
      t.dev = { s.dev with regs := t.dev.regs, vlt := t.dev.vlt, fresh := t.dev.fresh, ledger := t.dev.ledger }) ∧
  (∀ (path : Fin 7) (w : Word) (s : State), s.dev.takes path R.vltKeyctrl w.toNat = true → nbit w.toNat 31 = true →
    (4 ≤ s.vault.season ∨ s.dev.rb R.vltStat F.vltStatTransBusy = true ∨ s.dev.rb R.vltStat F.vltStatWipeBusy = true ∨ ((s.dev.vlt.slots[(w.toNat % 16)]?).getD KeySlot.reset).lock = true) →
    ∃ t, exec (.load path w) s = .next t ∧
      t.dev.rb (pstat 0x52) F.stBadWrite = true ∧ t.dev.vlt.slots = s.dev.vlt.slots ∧ t.dev.sameRegs s.dev [R.vltKeyctrl, pstat 0x52] ∧
      t.dev = { s.dev with regs := t.dev.regs }) ∧
  (∀ (path : Fin 7) (w : Word) (out : Outside) (a x : Nat) (s : State), s.dev.takes path R.vltApply w.toNat = true → nbit w.toNat 31 = true →
    s.dev.rn R.vltApplyCnt = 1 → s.dev.applyEntries w.toNat = [(a, x)] → Dev.ownPage (nbits w.toNat 29 28) (a / 0x1000) = false →
    ∃ t, exec (.vltApply path w out) s = .next t ∧
      t.dev.rb R.vltStat F.vltStatApplyErr = true ∧ t.dev.vlt.applied.contains (nbits w.toNat 29 28) = true ∧
      t.dev.sameRegs s.dev [R.vltApply, R.vltStat, pstat 0x52] ∧ t.dev = { s.dev with regs := t.dev.regs, vlt := t.dev.vlt }) ∧
  (∀ (path : Fin 7) (w : Word) (out : Outside) (a x : Nat) (r : RegDef) (s : State), s.dev.takes path R.vltApply w.toNat = true →
    nbit w.toNat 31 = true → s.dev.rn R.vltApplyCnt = 1 → s.dev.applyEntries w.toNat = [(a, x)] →
    pageOf (a / 0x1000) = some (.apg, (nbits w.toNat 29 28)) → s.dev.takes (3 + (nbits w.toNat 29 28)) a x = true →
    findReg (pageMap .apg) (a % 0x1000) = some r → ∃ t, exec (.vltApply path w out) s = .next t ∧
      t.dev.rn a = Dev.stored r (s.dev.rn a) x ∧ t.dev.rb R.vltStat F.vltStatApplyErr = false ∧
      t.dev.vlt.applied.contains (nbits w.toNat 29 28) = true ∧ t.dev.appliedMask 0 .apg (nbits w.toNat 29 28) (a % 0x1000) = true ∧
      t.dev.sameRegs s.dev [R.vltApply, R.vltStat, pstat 0x52, a, pstat (a / 0x1000)] ∧
      t.dev = { s.dev with regs := t.dev.regs, vlt := t.dev.vlt }) ∧
  (∀ (i : JtagInstr) (low : Bool) (s : State), Dev.jtagDrives i = true → ∃ t, exec (.jtagInstruction i low) s = .next t ∧
      t.dev.vlt = { s.dev.vlt with jtag := if low && decide (s.dev.boot.done = 0) then i else .bypass } ∧ t.dev.sameRegs s.dev [] ∧
      t.dev = { s.dev with regs := t.dev.regs, vlt := t.dev.vlt }) ∧
  (∀ (i : JtagInstr) (low : Bool) (s : State), Dev.jtagDrives i = false → (i = .private_ → ¬ (s.dev.season = 2 ∨ s.dev.season = 8)) →
    ∃ t, exec (.jtagInstruction i low) s = .next t ∧
      t.dev.vlt = { s.dev.vlt with jtag := i } ∧ t.dev.sameRegs s.dev [] ∧ t.dev = { s.dev with regs := t.dev.regs, vlt := t.dev.vlt }) ∧
  (∀ (i : JtagInstr) (low : Bool) (s : State), i = .private_ → (s.dev.season = 2 ∨ s.dev.season = 8) →
    ∃ t, exec (.jtagInstruction i low) s = .next t ∧
      t.dev.vlt = { s.dev.vlt with jtag := .bypass } ∧
      t.dev = { s.dev with regs := t.dev.regs, vlt := t.dev.vlt, evt := t.dev.evt, sram := t.dev.sram, hostMem := t.dev.hostMem, hif := t.dev.hif, seq := t.dev.seq, chans := t.dev.chans, lvls := t.dev.lvls, acq := t.dev.acq })

/-! ### Two rules word for word -/

/-- R84, for REGISTER_WRITE of SYNC_CTRL and for SYNC_IN_OFF, SYNC_CAPTURE_MODE, SYNC_ALIGN_MODE and SYNC_RELAY_MODE: a write of IN_MODE that nothing turns away clears
SYNC_STAT [4:1], sets the capture count to 0 and the next pulse number to 0.  Where the mode written is ALIGN, the alignment that then begins shows in
bit 1 (ALIGN_BUSY); that last clause is derived from R83.  Registers other than SYNC_CTRL, SYNC_STAT and the page's status stand. -/
def Obligations.InModeWriteRestartsCapture : Prop :=
  (∀ (path : Fin 7) (w : Word) (s : State), s.dev.takes path R.syncCtrl w.toNat = true → ∃ t, exec (.syncInOff path w) s = .next t ∧
      t.dev.rf R.syncStat ⟨4, 2⟩ = 0 ∧ t.dev.rf R.syncStat ⟨1, 1⟩ = (if nbits w.toNat 5 4 = 2 then 1 else 0) ∧
      t.dev.rf R.syncStat F.syncStatCapCnt = 0 ∧ t.dev.sync.n = 0 ∧ t.dev.sameRegs s.dev [R.syncCtrl, R.syncStat, pstat 2] ∧
      t.dev = { s.dev with regs := t.dev.regs, sync := t.dev.sync }) ∧
  (∀ (path : Fin 7) (w : Word) (s : State), s.dev.takes path R.syncCtrl w.toNat = true → ∃ t, exec (.syncCaptureMode path w) s = .next t ∧
      t.dev.rf R.syncStat ⟨4, 2⟩ = 0 ∧ t.dev.rf R.syncStat ⟨1, 1⟩ = (if nbits w.toNat 5 4 = 2 then 1 else 0) ∧
      t.dev.rf R.syncStat F.syncStatCapCnt = 0 ∧ t.dev.sync.n = 0 ∧ t.dev.sameRegs s.dev [R.syncCtrl, R.syncStat, pstat 2] ∧
      t.dev = { s.dev with regs := t.dev.regs, sync := t.dev.sync }) ∧
  (∀ (path : Fin 7) (w : Word) (s : State), s.dev.takes path R.syncCtrl w.toNat = true → ∃ t, exec (.syncAlignMode path w) s = .next t ∧
      t.dev.rf R.syncStat ⟨4, 2⟩ = 0 ∧ t.dev.rf R.syncStat ⟨1, 1⟩ = (if nbits w.toNat 5 4 = 2 then 1 else 0) ∧
      t.dev.rf R.syncStat F.syncStatCapCnt = 0 ∧ t.dev.sync.n = 0 ∧ t.dev.sameRegs s.dev [R.syncCtrl, R.syncStat, pstat 2] ∧
      t.dev = { s.dev with regs := t.dev.regs, sync := t.dev.sync }) ∧
  (∀ (path : Fin 7) (w : Word) (s : State), s.dev.takes path R.syncCtrl w.toNat = true → ∃ t, exec (.syncRelayMode path w) s = .next t ∧
      t.dev.rf R.syncStat ⟨4, 2⟩ = 0 ∧ t.dev.rf R.syncStat ⟨1, 1⟩ = (if nbits w.toNat 5 4 = 2 then 1 else 0) ∧
      t.dev.rf R.syncStat F.syncStatCapCnt = 0 ∧ t.dev.sync.n = 0 ∧ t.dev.sameRegs s.dev [R.syncCtrl, R.syncStat, pstat 2] ∧
      t.dev = { s.dev with regs := t.dev.regs, sync := t.dev.sync }) ∧
  (∀ (path : Fin 7) (w : Word) (out : Outside) (s : State), s.dev.takes path R.syncCtrl w.toNat = true →
    ∃ t, exec (.registerWrite path ⟨R.syncCtrl, by decide⟩ w 15 out) s = .next t ∧
      t.dev.rf R.syncStat ⟨4, 2⟩ = 0 ∧ t.dev.rf R.syncStat ⟨1, 1⟩ = (if nbits w.toNat 5 4 = 2 then 1 else 0) ∧
      t.dev.rf R.syncStat F.syncStatCapCnt = 0 ∧ t.dev.sync.n = 0 ∧ t.dev.sameRegs s.dev [R.syncCtrl, R.syncStat, pstat 2] ∧
      t.dev = { s.dev with regs := t.dev.regs, sync := t.dev.sync })

/-- R436, for REGISTER_WRITE, EVENT_FORCE_WRITE and EVG_CFG_WRITE: a write of EVT_EN or EVT_FORCE is dropped where the page addressed or another page that shows one
of its bits is locked, and so is a write of EVG_CFGk; LOCK_VIOL is set on the page addressed and nothing else changes.  A write of EVT_STICKY to a
locked page clears the bits written, as it does on a page that is not locked. -/
def Obligations.LockedPagesKeepEventSettings : Prop :=
  (∀ (path : Fin 7) (page : Fin 1024) (w : Word) (k : PageKind) (i : Nat) (a : Fin 0x400000) (out : Outside) (s : State),
    s.dev.arriving path = true → (path.val ≠ 1 ∨ bmpAccess k = 3) → pageOf page = some (k, i) → s.dev.offline (path.val == 1) page = false →
    a.val = page * 0x1000 + 0x18 → (s.dev.pageLocked page = true ∨ ∃ b ∈ Dev.bitPages k i, s.dev.pageLocked b = true) →
    ∃ t, exec (.registerWrite path a w 15 out) s = .next t ∧
      t.dev.rb (pstat page) F.stLockViol = true ∧ t.dev.sameRegs s.dev [pstat page] ∧ t.dev = { s.dev with regs := t.dev.regs }) ∧
  (∀ (path : Fin 7) (page : Fin 1024) (w : Word) (k : PageKind) (i : Nat) (a : Fin 0x400000) (out : Outside) (s : State),
    s.dev.arriving path = true → (path.val ≠ 1 ∨ bmpAccess k = 3) → pageOf page = some (k, i) → s.dev.offline (path.val == 1) page = false →
    a.val = page * 0x1000 + 0x1C → (s.dev.pageLocked page = true ∨ ∃ b ∈ Dev.bitPages k i, s.dev.pageLocked b = true) →
    ∃ t, exec (.registerWrite path a w 15 out) s = .next t ∧
      t.dev.rb (pstat page) F.stLockViol = true ∧ t.dev.sameRegs s.dev [pstat page] ∧ t.dev = { s.dev with regs := t.dev.regs }) ∧
  (∀ (path : Fin 7) (page : Fin 1024) (w : Word) (k : PageKind) (i : Nat) (s : State), s.dev.arriving path = true →
    (path.val ≠ 1 ∨ bmpAccess k = 3) → pageOf page = some (k, i) → s.dev.offline (path.val == 1) page = false →
    (s.dev.pageLocked page = true ∨ ∃ b ∈ Dev.bitPages k i, s.dev.pageLocked b = true) → ∃ t, exec (.eventForceWrite path page w) s = .next t ∧
      t.dev.rb (pstat page) F.stLockViol = true ∧ t.dev.sameRegs s.dev [pstat page] ∧ t.dev = { s.dev with regs := t.dev.regs }) ∧
  (∀ (path : Fin 7) (g : Fin 36) (k : Fin 32) (w : Word) (s : State), s.dev.arriving path = true →
    (s.dev.pageLocked (0x10 + g) = true ∨ (srcBase (32 * g + k)).isSome = true ∧ s.dev.pageLocked (srcBlockPage (32 * g + k)) = true) →
    s.dev.offline (path.val == 1) (0x10 + g) = false → ∃ t, exec (.evgCfgWrite path g k w) s = .next t ∧
      t.dev.rb (pstat (0x10 + g)) F.stLockViol = true ∧ t.dev.sameRegs s.dev [pstat (0x10 + g)] ∧ t.dev = { s.dev with regs := t.dev.regs }) ∧
  (∀ (path : Fin 7) (page : Fin 1024) (w : Word) (k : PageKind) (i : Nat) (a : Fin 0x400000) (out : Outside) (s : State),
    s.dev.arriving path = true → (path.val ≠ 1 ∨ bmpAccess k = 3) → pageOf page = some (k, i) → s.dev.offline (path.val == 1) page = false →
    a.val = page * 0x1000 + 0x14 → hasEvents k = true → s.dev.pageLocked page = true →
    (∀ j : Fin 64, j.val < (pageSources k i).2 → (s.dev.esrc ((pageSources k i).1 + j)).lastCyc ≠ s.dev.cycNo) →
    ∃ t, exec (.registerWrite path a w 15 out) s = .next t ∧
      (∀ j : Fin 32, j.val < (pageSources k i).2 → (srcBase ((pageSources k i).1 + j)).isSome = true → nbit w.toNat j = true → (t.dev.esrc ((pageSources k i).1 + j)).sticky = s.dev.effRaw ((pageSources k i).1 + j)) ∧
      (∀ j : Fin 32, j.val < (pageSources k i).2 → nbit w.toNat j = false → t.dev.esrc ((pageSources k i).1 + j) = s.dev.esrc ((pageSources k i).1 + j)) ∧
      t.dev.sameRegs s.dev [pstat page] ∧ t.dev = { s.dev with regs := t.dev.regs, evt := t.dev.evt })
end

