-- ==== Sys2Proof/Laws/Table.lean ====
section
/-! SUPPORT. Laws of the sparse store: read after write, canonical form, and what a filter leaves. -/
namespace Sys2Proof.Machine

variable {β : Type}

theorem tget_tins_same (d : Nat → β) (l : List (Nat × β)) (k : Nat) (v : β) : tget d (tins l k v) k = v := by
  induction l with
  | nil => simp [tins, tget]
  | cons x t ih =>
    obtain ⟨j, u⟩ := x
    by_cases h : j = k
    · simp [tins, tget, h]
    · by_cases g : k < j <;> simp [tins, tget, h, g, ih]

theorem tget_tins_ne (d : Nat → β) (l : List (Nat × β)) {k q : Nat} (v : β) (h : q ≠ k) :
    tget d (tins l k v) q = tget d l q := by
  induction l with
  | nil => simp [tins, tget, Ne.symm h]
  | cons x t ih =>
    obtain ⟨j, u⟩ := x
    by_cases e : j = k
    · subst e; simp [tins, tget, Ne.symm h]
    · by_cases g : k < j
      · simp [tins, tget, e, g, Ne.symm h]
      · simp [tins, tget, e, g, ih]

theorem tget_filter_ne (d : Nat → β) (l : List (Nat × β)) (k q : Nat) :
    tget d (l.filter (fun x => x.1 != k)) q = if q = k then d k else tget d l q := by
  induction l with
  | nil => by_cases h : q = k <;> simp [tget, h]
  | cons x t ih =>
    obtain ⟨j, u⟩ := x
    by_cases h : j = k
    · subst h
      by_cases g : q = j
      · subst g; simpa using ih
      · simpa [tget, g, Ne.symm g] using ih
    · by_cases g : j = q
      · subst g; simp [tget, h]
      · simp [tget, h, g, ih]

variable [DecidableEq β]

theorem tset_eq (d : Nat → β) (l : List (Nat × β)) (k : Nat) (v : β) :
    tset d l k v = if v = d k then l.filter (fun x => x.1 != k) else tins l k v := by cases l <;> rfl

/-- Reading the key just written gives the value written. -/
@[simp] theorem tget_tset_same (d : Nat → β) (l : List (Nat × β)) (k : Nat) (v : β) : tget d (tset d l k v) k = v := by
  rw [tset_eq]
  split
  · rw [tget_filter_ne]; simp [*]
  · exact tget_tins_same d l k v

/-- Writing one key leaves every other key as it was. -/
theorem tget_tset_ne (d : Nat → β) (l : List (Nat × β)) {k q : Nat} (v : β) (h : q ≠ k) :
    tget d (tset d l k v) q = tget d l q := by
  rw [tset_eq]
  split
  · rw [tget_filter_ne]; simp [h]
  · exact tget_tins_ne d l v h

/-- One law for both cases. -/
theorem tget_tset (d : Nat → β) (l : List (Nat × β)) (k q : Nat) (v : β) :
    tget d (tset d l k v) q = if q = k then v else tget d l q := by
  by_cases h : q = k
  · subst h; simp
  · simp [h, tget_tset_ne d l v h]

/-! ### Canonical form -/

theorem tcanon_weaken (d : Nat → β) {l : List (Nat × β)} {b : Option Nat} {x : Nat}
    (h : tcanon d (some x) l = true) (hb : ∀ y, b = some y → y < x + 1) : tcanon d b l = true := by
  cases l with
  | nil => rfl
  | cons p t =>
    obtain ⟨k, v⟩ := p
    cases b with
    | none => simp_all [tcanon]
    | some y =>
      have := hb y rfl
      simp only [tcanon, Bool.and_eq_true, decide_eq_true_eq] at h ⊢
      exact ⟨⟨by omega, h.1.2⟩, h.2⟩

theorem tcanon_filter (d : Nat → β) (f : Nat × β → Bool) (l : List (Nat × β)) :
    ∀ b, tcanon d b l = true → tcanon d b (l.filter f) = true := by
  induction l with
  | nil => intro b _; rfl
  | cons p t ih =>
    obtain ⟨k, v⟩ := p
    intro b h
    simp only [tcanon, Bool.and_eq_true, decide_eq_true_eq] at h
    by_cases g : f (k, v) = true
    · rw [List.filter_cons_of_pos g]
      simp only [tcanon, Bool.and_eq_true, decide_eq_true_eq]
      exact ⟨h.1, ih _ h.2⟩
    · rw [List.filter_cons_of_neg g]
      refine tcanon_weaken d (ih _ h.2) (x := k) ?_
      intro y hy; subst hy
      have := h.1.1
      simp at this; omega

theorem tcanon_tins (d : Nat → β) (k : Nat) (v : β) (hv : v ≠ d k) (l : List (Nat × β)) :
    ∀ b, tcanon d b l = true → (∀ y, b = some y → y < k) → tcanon d b (tins l k v) = true := by
  induction l with
  | nil =>
    intro b _ hb
    cases b <;> simp_all [tins, tcanon]
  | cons p t ih =>
    obtain ⟨j, u⟩ := p
    intro b h hb
    simp only [tcanon, Bool.and_eq_true, decide_eq_true_eq] at h
    by_cases e : j = k
    · subst e
      simp only [tins, if_true, tcanon, Bool.and_eq_true, decide_eq_true_eq]
      exact ⟨⟨by cases b <;> simp_all, hv⟩, h.2⟩
    · by_cases g : k < j
      · simp only [tins, if_neg e, if_pos g, tcanon, Bool.and_eq_true, decide_eq_true_eq]
        exact ⟨⟨by cases b <;> simp_all, hv⟩, ⟨⟨by simpa using g, h.1.2⟩, h.2⟩⟩
      · simp only [tins, if_neg e, if_neg g, tcanon, Bool.and_eq_true, decide_eq_true_eq]
        refine ⟨h.1, ih _ h.2 ?_⟩
        intro y hy; injection hy with hy; subst hy; omega

/-- A write keeps the canonical form. -/
theorem tcanon_tset (d : Nat → β) (l : List (Nat × β)) (k : Nat) (v : β) (h : tcanon d none l = true) :
    tcanon d none (tset d l k v) = true := by
  rw [tset_eq]
  split
  · exact tcanon_filter d _ l none h
  · exact tcanon_tins d k v (by assumption) l none h (by intro y hy; cases hy)

end Sys2Proof.Machine
end

