-- ==== Sys2Proof/Laws/Fields.lean ====
section
/-! SUPPORT. Laws of register fields: a field reads as it was last written, and writing one field leaves the others alone. -/
namespace Sys2Proof.Machine

/-- A number with one field replaced: what lies above it, the field, what lies below it. -/
theorem setNbits_eq (x hi lo v : Nat) : setNbits x hi lo v =
    x / 2 ^ (lo + (hi + 1 - lo)) * 2 ^ (lo + (hi + 1 - lo)) + v % 2 ^ (hi + 1 - lo) * 2 ^ lo + x % 2 ^ lo := by
  unfold setNbits nbits
  generalize hi + 1 - lo = n
  have h1 := Nat.div_add_mod x (2 ^ lo)
  have h2 := Nat.div_add_mod (x / 2 ^ lo) (2 ^ n)
  rw [Nat.div_div_eq_div_mul, ← pow_add] at h2
  have e : x = x / 2 ^ (lo + n) * 2 ^ (lo + n) + x / 2 ^ lo % 2 ^ n * 2 ^ lo + x % 2 ^ lo := by
    calc x = 2 ^ lo * (x / 2 ^ lo) + x % 2 ^ lo := h1.symm
      _ = 2 ^ lo * (2 ^ n * (x / 2 ^ (lo + n)) + x / 2 ^ lo % 2 ^ n) + x % 2 ^ lo := by rw [h2]
      _ = _ := by rw [pow_add]; ring
  omega

theorem setNbits_low (x hi lo v : Nat) : setNbits x hi lo v % 2 ^ lo = x % 2 ^ lo := by
  rw [setNbits_eq, pow_add, show x / (2 ^ lo * 2 ^ (hi + 1 - lo)) * (2 ^ lo * 2 ^ (hi + 1 - lo)) + v % 2 ^ (hi + 1 - lo) * 2 ^ lo + x % 2 ^ lo
    = x % 2 ^ lo + 2 ^ lo * (x / (2 ^ lo * 2 ^ (hi + 1 - lo)) * 2 ^ (hi + 1 - lo) + v % 2 ^ (hi + 1 - lo)) by ring,
    Nat.add_mul_mod_self_left, Nat.mod_mod]

theorem setNbits_high (x hi lo v : Nat) : setNbits x hi lo v / 2 ^ (lo + (hi + 1 - lo)) = x / 2 ^ (lo + (hi + 1 - lo)) := by
  rw [setNbits_eq]
  generalize hi + 1 - lo = n
  have l : x % 2 ^ lo < 2 ^ lo := Nat.mod_lt _ (by positivity)
  have m : v % 2 ^ n < 2 ^ n := Nat.mod_lt _ (by positivity)
  have b : v % 2 ^ n * 2 ^ lo + x % 2 ^ lo < 2 ^ (lo + n) := by
    rw [pow_add]
    calc v % 2 ^ n * 2 ^ lo + x % 2 ^ lo < v % 2 ^ n * 2 ^ lo + 2 ^ lo := by omega
      _ = (v % 2 ^ n + 1) * 2 ^ lo := by ring
      _ ≤ 2 ^ n * 2 ^ lo := Nat.mul_le_mul_right _ m
      _ = 2 ^ lo * 2 ^ n := by ring
  rw [Nat.add_assoc, Nat.add_comm, Nat.add_mul_div_right _ _ (by positivity), Nat.div_eq_of_lt b, Nat.zero_add]

theorem nbits_setNbits (x hi lo v : Nat) : nbits (setNbits x hi lo v) hi lo = v % 2 ^ (hi + 1 - lo) := by
  rw [setNbits_eq]
  unfold nbits
  generalize hi + 1 - lo = n
  have l : x % 2 ^ lo < 2 ^ lo := Nat.mod_lt _ (by positivity)
  have s : x / 2 ^ (lo + n) * 2 ^ (lo + n) + v % 2 ^ n * 2 ^ lo + x % 2 ^ lo
      = x % 2 ^ lo + (v % 2 ^ n + 2 ^ n * (x / 2 ^ (lo + n))) * 2 ^ lo := by rw [pow_add]; ring
  rw [s, Nat.add_mul_div_right _ _ (by positivity), Nat.div_eq_of_lt l, Nat.zero_add, Nat.add_mul_mod_self_left, Nat.mod_mod]

/-- A field above the one written. -/
theorem nbits_setNbits_above (x hi lo v h l : Nat) (g : lo + (hi + 1 - lo) ≤ l) : nbits (setNbits x hi lo v) h l = nbits x h l := by
  obtain ⟨k, rfl⟩ := Nat.exists_eq_add_of_le g
  unfold nbits
  rw [pow_add, ← Nat.div_div_eq_div_mul, setNbits_high, Nat.div_div_eq_div_mul]

/-- A field below the one written. -/
theorem nbits_setNbits_below (x hi lo v h l : Nat) (g : h < lo) : nbits (setNbits x hi lo v) h l = nbits x h l := by
  unfold nbits
  by_cases hl : l ≤ h
  · have e : 2 ^ (h + 1 - l) = 2 ^ (h + 1) / 2 ^ l := by rw [Nat.pow_div (by omega) (by norm_num)]
    have key : ∀ y, y / 2 ^ l % 2 ^ (h + 1 - l) = y % 2 ^ (h + 1) / 2 ^ l := by
      intro y
      rw [show 2 ^ (h + 1) = 2 ^ l * 2 ^ (h + 1 - l) by rw [← pow_add]; congr 1; omega, Nat.mod_mul_right_div_self]
    have low : ∀ y : Nat, y % 2 ^ (h + 1) = y % 2 ^ lo % 2 ^ (h + 1) := by
      intro y; rw [Nat.mod_mod_of_dvd]; exact pow_dvd_pow 2 (by omega)
    rw [key, key, low, setNbits_low, ← low]
  · rw [show h + 1 - l = 0 by omega]; simp [Nat.mod_one]

theorem setNbits_lt (x hi lo v w : Nat) (hx : x < 2 ^ w) (h : lo + (hi + 1 - lo) ≤ w) : setNbits x hi lo v < 2 ^ w := by
  have hh := setNbits_high x hi lo v
  generalize lo + (hi + 1 - lo) = n at h hh
  obtain ⟨k, rfl⟩ := Nat.exists_eq_add_of_le h
  have : setNbits x hi lo v / 2 ^ n < 2 ^ k := by
    rw [hh, Nat.div_lt_iff_lt_mul (by positivity), Nat.mul_comm, ← pow_add]; exact hx
  rw [Nat.div_lt_iff_lt_mul (by positivity), Nat.mul_comm, ← pow_add] at this
  exact this

/-- The field is one of a word. -/
def fldOk (f : Fld) : Bool := decide (f.lo ≤ f.hi) && decide (f.hi < 32)

/-- Two fields share no bit. -/
def fldApart (f g : Fld) : Bool := decide (f.hi < g.lo) || decide (g.hi < f.lo)

theorem fset_toNat (w : Word) (f : Fld) (v : Nat) (h : fldOk f = true) : (fset w f v).toNat = setNbits w.toNat f.hi f.lo v := by
  simp only [fldOk, Bool.and_eq_true, decide_eq_true_eq] at h
  rw [fset, BitVec.toNat_ofNat]
  exact Nat.mod_eq_of_lt (setNbits_lt _ _ _ _ 32 w.isLt (by omega))

/-- A field reads as it was written, cut to its width. -/
theorem fget_fset (w : Word) (f : Fld) (v : Nat) (h : fldOk f = true) : fget (fset w f v) f = v % 2 ^ (f.hi + 1 - f.lo) := by
  rw [fget, fset_toNat w f v h, nbits_setNbits]

/-- A field that shares no bit with the one written stands. -/
theorem fget_fset_apart (w : Word) (f g : Fld) (v : Nat) (h : fldOk f = true) (a : fldApart f g = true) :
    fget (fset w f v) g = fget w g := by
  rw [fget, fset_toNat w f v h, fget]
  simp only [fldOk, fldApart, Bool.and_eq_true, Bool.or_eq_true, decide_eq_true_eq] at h a
  rcases a with a | a
  · exact nbits_setNbits_above _ _ _ _ _ _ (by omega)
  · exact nbits_setNbits_below _ _ _ _ _ _ (by omega)

/-- The bits of a field. -/
theorem nbits_testBit (x hi lo j : Nat) : (nbits x hi lo).testBit j = (decide (j < hi + 1 - lo) && x.testBit (lo + j)) := by
  rw [nbits, Nat.testBit_mod_two_pow, Nat.testBit_div_two_pow, Nat.add_comm j lo]

/-- A field of one bit. -/
theorem nbits_one (x i : Nat) : nbits x i i = b2n (nbit x i) := by
  apply Nat.eq_of_testBit_eq
  intro j
  rw [nbits_testBit, show i + 1 - i = 1 by omega, b2n, nbit]
  cases j with
  | zero => cases h : x.testBit i <;> simp [h]
  | succ j => cases x.testBit i <;> simp [Nat.testBit_succ]

/-- Fields are within their width. -/
theorem fget_lt (w : Word) (f : Fld) : fget w f < 2 ^ (f.hi + 1 - f.lo) := Nat.mod_lt _ (by positivity)

namespace Dev

/-! ### The register file -/

@[simp] theorem get_set_same (d : Dev) (a : Nat) (w : Word) : (d.set a w).get a = w := tget_tset_same _ _ _ _

theorem get_set_ne (d : Dev) {a b : Nat} (w : Word) (h : b ≠ a) : (d.set a w).get b = d.get b := tget_tset_ne _ _ _ h

theorem get_set (d : Dev) (a b : Nat) (w : Word) : (d.set a w).get b = if b = a then w else d.get b := tget_tset _ _ _ _ _

theorem get_wf (d : Dev) (a b : Nat) (f : Fld) (v : Nat) :
    (d.wf a f v).get b = if b = a then fset (d.get a) f v else d.get b := get_set _ _ _ _

theorem get_setN (d : Dev) (a b v : Nat) : (d.setN a v).get b = if b = a then BitVec.ofNat 32 v else d.get b := get_set _ _ _ _

theorem get_cnt (d : Dev) (a b : Nat) (f : Fld) (k : Nat) :
    (d.cnt a f k).get b = if b = a then fset (d.get a) f (satAdd (2 ^ (f.hi + 1 - f.lo) - 1) (d.rf a f) k) else d.get b :=
  get_set _ _ _ _

theorem get_clr (d : Dev) (a b : Nat) : (d.clr a).get b = if b = a then resetWord a else d.get b := get_set _ _ _ _

/-- A field just stored reads as stored. -/
theorem rf_wf_same (d : Dev) (a : Nat) (f : Fld) (v : Nat) (h : fldOk f = true) : (d.wf a f v).rf a f = v % 2 ^ (f.hi + 1 - f.lo) := by
  rw [rf, get_wf, if_pos rfl, fget_fset _ _ _ h]

/-- Another register keeps its fields. -/
theorem rf_wf_ne (d : Dev) {a b : Nat} (f g : Fld) (v : Nat) (h : b ≠ a) : (d.wf a f v).rf b g = d.rf b g := by
  rw [rf, get_wf, if_neg h, rf]

/-- A field that shares no bit keeps its value. -/
theorem rf_wf_apart (d : Dev) (a : Nat) (f g : Fld) (v : Nat) (h : fldOk f = true) (p : fldApart f g = true) :
    (d.wf a f v).rf a g = d.rf a g := by
  rw [rf, get_wf, if_pos rfl, fget_fset_apart _ _ _ _ h p, rf]

/-- A counter counts up and stops at all ones. -/
theorem rf_cnt_same (d : Dev) (a : Nat) (f : Fld) (k : Nat) (h : fldOk f = true) :
    (d.cnt a f k).rf a f = min (2 ^ (f.hi + 1 - f.lo) - 1) (d.rf a f + k) := by
  rw [rf, get_cnt, if_pos rfl, fget_fset _ _ _ h, satAdd]
  exact Nat.mod_eq_of_lt (by have : 0 < 2 ^ (f.hi + 1 - f.lo) := by positivity
                             omega)

@[simp] theorem rn_setN_same (d : Dev) (a v : Nat) : (d.setN a v).rn a = v % 2 ^ 32 := by
  rw [rn, get_setN, if_pos rfl, BitVec.toNat_ofNat]

theorem rn_setN_ne (d : Dev) {a b : Nat} (v : Nat) (h : b ≠ a) : (d.setN a v).rn b = d.rn b := by
  rw [rn, get_setN, if_neg h, rn]

/-- A register value in force is what was last put in force. -/
theorem lv_setLive (d : Dev) (a b : Nat) (w : Word) : (d.setLive a w).lv b = if b = a then w else d.lv b := tget_tset _ _ _ _ _

end Dev
end Sys2Proof.Machine
end

