-- ==== Sys2Proof/Laws/State.lean ====
section
/-! SUPPORT. What the updates of the state leave alone, one lemma per field and update, and what a change of the device leaves of the
rest of the state. -/
namespace Sys2Proof.Machine

@[simp] theorem onDev_next (f : Dev → Dev) (s : State) : onDev f s = .next { s with dev := f s.dev } := rfl

/-- A command that changes the device answers a next state with the vault and the queue as they were. -/
theorem onDev_frame (f : Dev → Dev) (s t : State) (h : onDev f s = .next t) : t.dev = f s.dev ∧ t.vault = s.vault ∧ t.pending = s.pending := by
  cases h; exact ⟨rfl, rfl, rfl⟩

namespace Dev

@[simp] theorem set_live (d : Dev) (a : Nat) (w : Word) : (d.set a w).live = d.live := rfl
@[simp] theorem set_gtc (d : Dev) (a : Nat) (w : Word) : (d.set a w).gtc = d.gtc := rfl
@[simp] theorem set_counting (d : Dev) (a : Nat) (w : Word) : (d.set a w).counting = d.counting := rfl
@[simp] theorem set_evt (d : Dev) (a : Nat) (w : Word) : (d.set a w).evt = d.evt := rfl
@[simp] theorem set_hif (d : Dev) (a : Nat) (w : Word) : (d.set a w).hif = d.hif := rfl
@[simp] theorem set_dma (d : Dev) (a : Nat) (w : Word) : (d.set a w).dma = d.dma := rfl
@[simp] theorem set_clk (d : Dev) (a : Nat) (w : Word) : (d.set a w).clk = d.clk := rfl
@[simp] theorem set_sync (d : Dev) (a : Nat) (w : Word) : (d.set a w).sync = d.sync := rfl
@[simp] theorem set_tcq (d : Dev) (a : Nat) (w : Word) : (d.set a w).tcq = d.tcq := rfl
@[simp] theorem set_pend (d : Dev) (a : Nat) (w : Word) : (d.set a w).pend = d.pend := rfl
@[simp] theorem set_boot (d : Dev) (a : Nat) (w : Word) : (d.set a w).boot = d.boot := rfl
@[simp] theorem set_dram (d : Dev) (a : Nat) (w : Word) : (d.set a w).dram = d.dram := rfl
@[simp] theorem set_sram (d : Dev) (a : Nat) (w : Word) : (d.set a w).sram = d.sram := rfl
@[simp] theorem set_ledger (d : Dev) (a : Nat) (w : Word) : (d.set a w).ledger = d.ledger := rfl
@[simp] theorem set_hostMem (d : Dev) (a : Nat) (w : Word) : (d.set a w).hostMem = d.hostMem := rfl
@[simp] theorem set_fresh (d : Dev) (a : Nat) (w : Word) : (d.set a w).fresh = d.fresh := rfl
@[simp] theorem set_seq (d : Dev) (a : Nat) (w : Word) : (d.set a w).seq = d.seq := rfl
@[simp] theorem set_pins (d : Dev) (a : Nat) (w : Word) : (d.set a w).pins = d.pins := rfl
@[simp] theorem set_apg (d : Dev) (a : Nat) (w : Word) : (d.set a w).apg = d.apg := rfl
@[simp] theorem set_chans (d : Dev) (a : Nat) (w : Word) : (d.set a w).chans = d.chans := rfl
@[simp] theorem set_flp (d : Dev) (a : Nat) (w : Word) : (d.set a w).flp = d.flp := rfl
@[simp] theorem set_lvls (d : Dev) (a : Nat) (w : Word) : (d.set a w).lvls = d.lvls := rfl
@[simp] theorem set_meas (d : Dev) (a : Nat) (w : Word) : (d.set a w).meas = d.meas := rfl
@[simp] theorem set_calbus (d : Dev) (a : Nat) (w : Word) : (d.set a w).calbus = d.calbus := rfl
@[simp] theorem set_trims (d : Dev) (a : Nat) (w : Word) : (d.set a w).trims = d.trims := rfl
@[simp] theorem set_acq (d : Dev) (a : Nat) (w : Word) : (d.set a w).acq = d.acq := rfl
@[simp] theorem set_sb (d : Dev) (a : Nat) (w : Word) : (d.set a w).sb = d.sb := rfl
@[simp] theorem set_mc (d : Dev) (a : Nat) (w : Word) : (d.set a w).mc = d.mc := rfl
@[simp] theorem set_dramc (d : Dev) (a : Nat) (w : Word) : (d.set a w).dramc = d.dramc := rfl
@[simp] theorem set_srm (d : Dev) (a : Nat) (w : Word) : (d.set a w).srm = d.srm := rfl
@[simp] theorem set_pwr (d : Dev) (a : Nat) (w : Word) : (d.set a w).pwr = d.pwr := rfl
@[simp] theorem set_vlt (d : Dev) (a : Nat) (w : Word) : (d.set a w).vlt = d.vlt := rfl
@[simp] theorem wf_live (d : Dev) (a : Nat) (f : Fld) (v : Nat) : (d.wf a f v).live = d.live := rfl
@[simp] theorem wf_gtc (d : Dev) (a : Nat) (f : Fld) (v : Nat) : (d.wf a f v).gtc = d.gtc := rfl
@[simp] theorem wf_counting (d : Dev) (a : Nat) (f : Fld) (v : Nat) : (d.wf a f v).counting = d.counting := rfl
@[simp] theorem wf_evt (d : Dev) (a : Nat) (f : Fld) (v : Nat) : (d.wf a f v).evt = d.evt := rfl
@[simp] theorem wf_hif (d : Dev) (a : Nat) (f : Fld) (v : Nat) : (d.wf a f v).hif = d.hif := rfl
@[simp] theorem wf_dma (d : Dev) (a : Nat) (f : Fld) (v : Nat) : (d.wf a f v).dma = d.dma := rfl
@[simp] theorem wf_clk (d : Dev) (a : Nat) (f : Fld) (v : Nat) : (d.wf a f v).clk = d.clk := rfl
@[simp] theorem wf_sync (d : Dev) (a : Nat) (f : Fld) (v : Nat) : (d.wf a f v).sync = d.sync := rfl
@[simp] theorem wf_tcq (d : Dev) (a : Nat) (f : Fld) (v : Nat) : (d.wf a f v).tcq = d.tcq := rfl
@[simp] theorem wf_pend (d : Dev) (a : Nat) (f : Fld) (v : Nat) : (d.wf a f v).pend = d.pend := rfl
@[simp] theorem wf_boot (d : Dev) (a : Nat) (f : Fld) (v : Nat) : (d.wf a f v).boot = d.boot := rfl
@[simp] theorem wf_dram (d : Dev) (a : Nat) (f : Fld) (v : Nat) : (d.wf a f v).dram = d.dram := rfl
@[simp] theorem wf_sram (d : Dev) (a : Nat) (f : Fld) (v : Nat) : (d.wf a f v).sram = d.sram := rfl
@[simp] theorem wf_ledger (d : Dev) (a : Nat) (f : Fld) (v : Nat) : (d.wf a f v).ledger = d.ledger := rfl
@[simp] theorem wf_hostMem (d : Dev) (a : Nat) (f : Fld) (v : Nat) : (d.wf a f v).hostMem = d.hostMem := rfl
@[simp] theorem wf_fresh (d : Dev) (a : Nat) (f : Fld) (v : Nat) : (d.wf a f v).fresh = d.fresh := rfl
@[simp] theorem wf_seq (d : Dev) (a : Nat) (f : Fld) (v : Nat) : (d.wf a f v).seq = d.seq := rfl
@[simp] theorem wf_pins (d : Dev) (a : Nat) (f : Fld) (v : Nat) : (d.wf a f v).pins = d.pins := rfl
@[simp] theorem wf_apg (d : Dev) (a : Nat) (f : Fld) (v : Nat) : (d.wf a f v).apg = d.apg := rfl
@[simp] theorem wf_chans (d : Dev) (a : Nat) (f : Fld) (v : Nat) : (d.wf a f v).chans = d.chans := rfl
@[simp] theorem wf_flp (d : Dev) (a : Nat) (f : Fld) (v : Nat) : (d.wf a f v).flp = d.flp := rfl
@[simp] theorem wf_lvls (d : Dev) (a : Nat) (f : Fld) (v : Nat) : (d.wf a f v).lvls = d.lvls := rfl
@[simp] theorem wf_meas (d : Dev) (a : Nat) (f : Fld) (v : Nat) : (d.wf a f v).meas = d.meas := rfl
@[simp] theorem wf_calbus (d : Dev) (a : Nat) (f : Fld) (v : Nat) : (d.wf a f v).calbus = d.calbus := rfl
@[simp] theorem wf_trims (d : Dev) (a : Nat) (f : Fld) (v : Nat) : (d.wf a f v).trims = d.trims := rfl
@[simp] theorem wf_acq (d : Dev) (a : Nat) (f : Fld) (v : Nat) : (d.wf a f v).acq = d.acq := rfl
@[simp] theorem wf_sb (d : Dev) (a : Nat) (f : Fld) (v : Nat) : (d.wf a f v).sb = d.sb := rfl
@[simp] theorem wf_mc (d : Dev) (a : Nat) (f : Fld) (v : Nat) : (d.wf a f v).mc = d.mc := rfl
@[simp] theorem wf_dramc (d : Dev) (a : Nat) (f : Fld) (v : Nat) : (d.wf a f v).dramc = d.dramc := rfl
@[simp] theorem wf_srm (d : Dev) (a : Nat) (f : Fld) (v : Nat) : (d.wf a f v).srm = d.srm := rfl
@[simp] theorem wf_pwr (d : Dev) (a : Nat) (f : Fld) (v : Nat) : (d.wf a f v).pwr = d.pwr := rfl
@[simp] theorem wf_vlt (d : Dev) (a : Nat) (f : Fld) (v : Nat) : (d.wf a f v).vlt = d.vlt := rfl
@[simp] theorem setN_live (d : Dev) (a v : Nat) : (d.setN a v).live = d.live := rfl
@[simp] theorem setN_gtc (d : Dev) (a v : Nat) : (d.setN a v).gtc = d.gtc := rfl
@[simp] theorem setN_counting (d : Dev) (a v : Nat) : (d.setN a v).counting = d.counting := rfl
@[simp] theorem setN_evt (d : Dev) (a v : Nat) : (d.setN a v).evt = d.evt := rfl
@[simp] theorem setN_hif (d : Dev) (a v : Nat) : (d.setN a v).hif = d.hif := rfl
@[simp] theorem setN_dma (d : Dev) (a v : Nat) : (d.setN a v).dma = d.dma := rfl
@[simp] theorem setN_clk (d : Dev) (a v : Nat) : (d.setN a v).clk = d.clk := rfl
@[simp] theorem setN_sync (d : Dev) (a v : Nat) : (d.setN a v).sync = d.sync := rfl
@[simp] theorem setN_tcq (d : Dev) (a v : Nat) : (d.setN a v).tcq = d.tcq := rfl
@[simp] theorem setN_pend (d : Dev) (a v : Nat) : (d.setN a v).pend = d.pend := rfl
@[simp] theorem setN_boot (d : Dev) (a v : Nat) : (d.setN a v).boot = d.boot := rfl
@[simp] theorem setN_dram (d : Dev) (a v : Nat) : (d.setN a v).dram = d.dram := rfl
@[simp] theorem setN_sram (d : Dev) (a v : Nat) : (d.setN a v).sram = d.sram := rfl
@[simp] theorem setN_ledger (d : Dev) (a v : Nat) : (d.setN a v).ledger = d.ledger := rfl
@[simp] theorem setN_hostMem (d : Dev) (a v : Nat) : (d.setN a v).hostMem = d.hostMem := rfl
@[simp] theorem setN_fresh (d : Dev) (a v : Nat) : (d.setN a v).fresh = d.fresh := rfl
@[simp] theorem setN_seq (d : Dev) (a v : Nat) : (d.setN a v).seq = d.seq := rfl
@[simp] theorem setN_pins (d : Dev) (a v : Nat) : (d.setN a v).pins = d.pins := rfl
@[simp] theorem setN_apg (d : Dev) (a v : Nat) : (d.setN a v).apg = d.apg := rfl
@[simp] theorem setN_chans (d : Dev) (a v : Nat) : (d.setN a v).chans = d.chans := rfl
@[simp] theorem setN_flp (d : Dev) (a v : Nat) : (d.setN a v).flp = d.flp := rfl
@[simp] theorem setN_lvls (d : Dev) (a v : Nat) : (d.setN a v).lvls = d.lvls := rfl
@[simp] theorem setN_meas (d : Dev) (a v : Nat) : (d.setN a v).meas = d.meas := rfl
@[simp] theorem setN_calbus (d : Dev) (a v : Nat) : (d.setN a v).calbus = d.calbus := rfl
@[simp] theorem setN_trims (d : Dev) (a v : Nat) : (d.setN a v).trims = d.trims := rfl
@[simp] theorem setN_acq (d : Dev) (a v : Nat) : (d.setN a v).acq = d.acq := rfl
@[simp] theorem setN_sb (d : Dev) (a v : Nat) : (d.setN a v).sb = d.sb := rfl
@[simp] theorem setN_mc (d : Dev) (a v : Nat) : (d.setN a v).mc = d.mc := rfl
@[simp] theorem setN_dramc (d : Dev) (a v : Nat) : (d.setN a v).dramc = d.dramc := rfl
@[simp] theorem setN_srm (d : Dev) (a v : Nat) : (d.setN a v).srm = d.srm := rfl
@[simp] theorem setN_pwr (d : Dev) (a v : Nat) : (d.setN a v).pwr = d.pwr := rfl
@[simp] theorem setN_vlt (d : Dev) (a v : Nat) : (d.setN a v).vlt = d.vlt := rfl
@[simp] theorem cnt_live (d : Dev) (a : Nat) (f : Fld) (k : Nat) : (d.cnt a f k).live = d.live := rfl
@[simp] theorem cnt_gtc (d : Dev) (a : Nat) (f : Fld) (k : Nat) : (d.cnt a f k).gtc = d.gtc := rfl
@[simp] theorem cnt_counting (d : Dev) (a : Nat) (f : Fld) (k : Nat) : (d.cnt a f k).counting = d.counting := rfl
@[simp] theorem cnt_evt (d : Dev) (a : Nat) (f : Fld) (k : Nat) : (d.cnt a f k).evt = d.evt := rfl
@[simp] theorem cnt_hif (d : Dev) (a : Nat) (f : Fld) (k : Nat) : (d.cnt a f k).hif = d.hif := rfl
@[simp] theorem cnt_dma (d : Dev) (a : Nat) (f : Fld) (k : Nat) : (d.cnt a f k).dma = d.dma := rfl
@[simp] theorem cnt_clk (d : Dev) (a : Nat) (f : Fld) (k : Nat) : (d.cnt a f k).clk = d.clk := rfl
@[simp] theorem cnt_sync (d : Dev) (a : Nat) (f : Fld) (k : Nat) : (d.cnt a f k).sync = d.sync := rfl
@[simp] theorem cnt_tcq (d : Dev) (a : Nat) (f : Fld) (k : Nat) : (d.cnt a f k).tcq = d.tcq := rfl
@[simp] theorem cnt_pend (d : Dev) (a : Nat) (f : Fld) (k : Nat) : (d.cnt a f k).pend = d.pend := rfl
@[simp] theorem cnt_boot (d : Dev) (a : Nat) (f : Fld) (k : Nat) : (d.cnt a f k).boot = d.boot := rfl
@[simp] theorem cnt_dram (d : Dev) (a : Nat) (f : Fld) (k : Nat) : (d.cnt a f k).dram = d.dram := rfl
@[simp] theorem cnt_sram (d : Dev) (a : Nat) (f : Fld) (k : Nat) : (d.cnt a f k).sram = d.sram := rfl
@[simp] theorem cnt_ledger (d : Dev) (a : Nat) (f : Fld) (k : Nat) : (d.cnt a f k).ledger = d.ledger := rfl
@[simp] theorem cnt_hostMem (d : Dev) (a : Nat) (f : Fld) (k : Nat) : (d.cnt a f k).hostMem = d.hostMem := rfl
@[simp] theorem cnt_fresh (d : Dev) (a : Nat) (f : Fld) (k : Nat) : (d.cnt a f k).fresh = d.fresh := rfl
@[simp] theorem cnt_seq (d : Dev) (a : Nat) (f : Fld) (k : Nat) : (d.cnt a f k).seq = d.seq := rfl
@[simp] theorem cnt_pins (d : Dev) (a : Nat) (f : Fld) (k : Nat) : (d.cnt a f k).pins = d.pins := rfl
@[simp] theorem cnt_apg (d : Dev) (a : Nat) (f : Fld) (k : Nat) : (d.cnt a f k).apg = d.apg := rfl
@[simp] theorem cnt_chans (d : Dev) (a : Nat) (f : Fld) (k : Nat) : (d.cnt a f k).chans = d.chans := rfl
@[simp] theorem cnt_flp (d : Dev) (a : Nat) (f : Fld) (k : Nat) : (d.cnt a f k).flp = d.flp := rfl
@[simp] theorem cnt_lvls (d : Dev) (a : Nat) (f : Fld) (k : Nat) : (d.cnt a f k).lvls = d.lvls := rfl
@[simp] theorem cnt_meas (d : Dev) (a : Nat) (f : Fld) (k : Nat) : (d.cnt a f k).meas = d.meas := rfl
@[simp] theorem cnt_calbus (d : Dev) (a : Nat) (f : Fld) (k : Nat) : (d.cnt a f k).calbus = d.calbus := rfl
@[simp] theorem cnt_trims (d : Dev) (a : Nat) (f : Fld) (k : Nat) : (d.cnt a f k).trims = d.trims := rfl
@[simp] theorem cnt_acq (d : Dev) (a : Nat) (f : Fld) (k : Nat) : (d.cnt a f k).acq = d.acq := rfl
@[simp] theorem cnt_sb (d : Dev) (a : Nat) (f : Fld) (k : Nat) : (d.cnt a f k).sb = d.sb := rfl
@[simp] theorem cnt_mc (d : Dev) (a : Nat) (f : Fld) (k : Nat) : (d.cnt a f k).mc = d.mc := rfl
@[simp] theorem cnt_dramc (d : Dev) (a : Nat) (f : Fld) (k : Nat) : (d.cnt a f k).dramc = d.dramc := rfl
@[simp] theorem cnt_srm (d : Dev) (a : Nat) (f : Fld) (k : Nat) : (d.cnt a f k).srm = d.srm := rfl
@[simp] theorem cnt_pwr (d : Dev) (a : Nat) (f : Fld) (k : Nat) : (d.cnt a f k).pwr = d.pwr := rfl
@[simp] theorem cnt_vlt (d : Dev) (a : Nat) (f : Fld) (k : Nat) : (d.cnt a f k).vlt = d.vlt := rfl
@[simp] theorem clr_live (d : Dev) (a : Nat) : (d.clr a).live = d.live := rfl
@[simp] theorem clr_gtc (d : Dev) (a : Nat) : (d.clr a).gtc = d.gtc := rfl
@[simp] theorem clr_counting (d : Dev) (a : Nat) : (d.clr a).counting = d.counting := rfl
@[simp] theorem clr_evt (d : Dev) (a : Nat) : (d.clr a).evt = d.evt := rfl
@[simp] theorem clr_hif (d : Dev) (a : Nat) : (d.clr a).hif = d.hif := rfl
@[simp] theorem clr_dma (d : Dev) (a : Nat) : (d.clr a).dma = d.dma := rfl
@[simp] theorem clr_clk (d : Dev) (a : Nat) : (d.clr a).clk = d.clk := rfl
@[simp] theorem clr_sync (d : Dev) (a : Nat) : (d.clr a).sync = d.sync := rfl
@[simp] theorem clr_tcq (d : Dev) (a : Nat) : (d.clr a).tcq = d.tcq := rfl
@[simp] theorem clr_pend (d : Dev) (a : Nat) : (d.clr a).pend = d.pend := rfl
@[simp] theorem clr_boot (d : Dev) (a : Nat) : (d.clr a).boot = d.boot := rfl
@[simp] theorem clr_dram (d : Dev) (a : Nat) : (d.clr a).dram = d.dram := rfl
@[simp] theorem clr_sram (d : Dev) (a : Nat) : (d.clr a).sram = d.sram := rfl
@[simp] theorem clr_ledger (d : Dev) (a : Nat) : (d.clr a).ledger = d.ledger := rfl
@[simp] theorem clr_hostMem (d : Dev) (a : Nat) : (d.clr a).hostMem = d.hostMem := rfl
@[simp] theorem clr_fresh (d : Dev) (a : Nat) : (d.clr a).fresh = d.fresh := rfl
@[simp] theorem clr_seq (d : Dev) (a : Nat) : (d.clr a).seq = d.seq := rfl
@[simp] theorem clr_pins (d : Dev) (a : Nat) : (d.clr a).pins = d.pins := rfl
@[simp] theorem clr_apg (d : Dev) (a : Nat) : (d.clr a).apg = d.apg := rfl
@[simp] theorem clr_chans (d : Dev) (a : Nat) : (d.clr a).chans = d.chans := rfl
@[simp] theorem clr_flp (d : Dev) (a : Nat) : (d.clr a).flp = d.flp := rfl
@[simp] theorem clr_lvls (d : Dev) (a : Nat) : (d.clr a).lvls = d.lvls := rfl
@[simp] theorem clr_meas (d : Dev) (a : Nat) : (d.clr a).meas = d.meas := rfl
@[simp] theorem clr_calbus (d : Dev) (a : Nat) : (d.clr a).calbus = d.calbus := rfl
@[simp] theorem clr_trims (d : Dev) (a : Nat) : (d.clr a).trims = d.trims := rfl
@[simp] theorem clr_acq (d : Dev) (a : Nat) : (d.clr a).acq = d.acq := rfl
@[simp] theorem clr_sb (d : Dev) (a : Nat) : (d.clr a).sb = d.sb := rfl
@[simp] theorem clr_mc (d : Dev) (a : Nat) : (d.clr a).mc = d.mc := rfl
@[simp] theorem clr_dramc (d : Dev) (a : Nat) : (d.clr a).dramc = d.dramc := rfl
@[simp] theorem clr_srm (d : Dev) (a : Nat) : (d.clr a).srm = d.srm := rfl
@[simp] theorem clr_pwr (d : Dev) (a : Nat) : (d.clr a).pwr = d.pwr := rfl
@[simp] theorem clr_vlt (d : Dev) (a : Nat) : (d.clr a).vlt = d.vlt := rfl
@[simp] theorem setLive_regs (d : Dev) (a : Nat) (w : Word) : (d.setLive a w).regs = d.regs := rfl
@[simp] theorem setLive_gtc (d : Dev) (a : Nat) (w : Word) : (d.setLive a w).gtc = d.gtc := rfl
@[simp] theorem setLive_counting (d : Dev) (a : Nat) (w : Word) : (d.setLive a w).counting = d.counting := rfl
@[simp] theorem setLive_evt (d : Dev) (a : Nat) (w : Word) : (d.setLive a w).evt = d.evt := rfl
@[simp] theorem setLive_hif (d : Dev) (a : Nat) (w : Word) : (d.setLive a w).hif = d.hif := rfl
@[simp] theorem setLive_dma (d : Dev) (a : Nat) (w : Word) : (d.setLive a w).dma = d.dma := rfl
@[simp] theorem setLive_clk (d : Dev) (a : Nat) (w : Word) : (d.setLive a w).clk = d.clk := rfl
@[simp] theorem setLive_sync (d : Dev) (a : Nat) (w : Word) : (d.setLive a w).sync = d.sync := rfl
@[simp] theorem setLive_tcq (d : Dev) (a : Nat) (w : Word) : (d.setLive a w).tcq = d.tcq := rfl
@[simp] theorem setLive_pend (d : Dev) (a : Nat) (w : Word) : (d.setLive a w).pend = d.pend := rfl
@[simp] theorem setLive_boot (d : Dev) (a : Nat) (w : Word) : (d.setLive a w).boot = d.boot := rfl
@[simp] theorem setLive_dram (d : Dev) (a : Nat) (w : Word) : (d.setLive a w).dram = d.dram := rfl
@[simp] theorem setLive_sram (d : Dev) (a : Nat) (w : Word) : (d.setLive a w).sram = d.sram := rfl
@[simp] theorem setLive_ledger (d : Dev) (a : Nat) (w : Word) : (d.setLive a w).ledger = d.ledger := rfl
@[simp] theorem setLive_hostMem (d : Dev) (a : Nat) (w : Word) : (d.setLive a w).hostMem = d.hostMem := rfl
@[simp] theorem setLive_fresh (d : Dev) (a : Nat) (w : Word) : (d.setLive a w).fresh = d.fresh := rfl
@[simp] theorem setLive_seq (d : Dev) (a : Nat) (w : Word) : (d.setLive a w).seq = d.seq := rfl
@[simp] theorem setLive_pins (d : Dev) (a : Nat) (w : Word) : (d.setLive a w).pins = d.pins := rfl
@[simp] theorem setLive_apg (d : Dev) (a : Nat) (w : Word) : (d.setLive a w).apg = d.apg := rfl
@[simp] theorem setLive_chans (d : Dev) (a : Nat) (w : Word) : (d.setLive a w).chans = d.chans := rfl
@[simp] theorem setLive_flp (d : Dev) (a : Nat) (w : Word) : (d.setLive a w).flp = d.flp := rfl
@[simp] theorem setLive_lvls (d : Dev) (a : Nat) (w : Word) : (d.setLive a w).lvls = d.lvls := rfl
@[simp] theorem setLive_meas (d : Dev) (a : Nat) (w : Word) : (d.setLive a w).meas = d.meas := rfl
@[simp] theorem setLive_calbus (d : Dev) (a : Nat) (w : Word) : (d.setLive a w).calbus = d.calbus := rfl
@[simp] theorem setLive_trims (d : Dev) (a : Nat) (w : Word) : (d.setLive a w).trims = d.trims := rfl
@[simp] theorem setLive_acq (d : Dev) (a : Nat) (w : Word) : (d.setLive a w).acq = d.acq := rfl
@[simp] theorem setLive_sb (d : Dev) (a : Nat) (w : Word) : (d.setLive a w).sb = d.sb := rfl
@[simp] theorem setLive_mc (d : Dev) (a : Nat) (w : Word) : (d.setLive a w).mc = d.mc := rfl
@[simp] theorem setLive_dramc (d : Dev) (a : Nat) (w : Word) : (d.setLive a w).dramc = d.dramc := rfl
@[simp] theorem setLive_srm (d : Dev) (a : Nat) (w : Word) : (d.setLive a w).srm = d.srm := rfl
@[simp] theorem setLive_pwr (d : Dev) (a : Nat) (w : Word) : (d.setLive a w).pwr = d.pwr := rfl
@[simp] theorem setLive_vlt (d : Dev) (a : Nat) (w : Word) : (d.setLive a w).vlt = d.vlt := rfl
@[simp] theorem burn_regs (d : Dev) : (d.burn).regs = d.regs := rfl
@[simp] theorem burn_live (d : Dev) : (d.burn).live = d.live := rfl
@[simp] theorem burn_gtc (d : Dev) : (d.burn).gtc = d.gtc := rfl
@[simp] theorem burn_counting (d : Dev) : (d.burn).counting = d.counting := rfl
@[simp] theorem burn_evt (d : Dev) : (d.burn).evt = d.evt := rfl
@[simp] theorem burn_hif (d : Dev) : (d.burn).hif = d.hif := rfl
@[simp] theorem burn_dma (d : Dev) : (d.burn).dma = d.dma := rfl
@[simp] theorem burn_clk (d : Dev) : (d.burn).clk = d.clk := rfl
@[simp] theorem burn_sync (d : Dev) : (d.burn).sync = d.sync := rfl
@[simp] theorem burn_tcq (d : Dev) : (d.burn).tcq = d.tcq := rfl
@[simp] theorem burn_pend (d : Dev) : (d.burn).pend = d.pend := rfl
@[simp] theorem burn_boot (d : Dev) : (d.burn).boot = d.boot := rfl
@[simp] theorem burn_dram (d : Dev) : (d.burn).dram = d.dram := rfl
@[simp] theorem burn_sram (d : Dev) : (d.burn).sram = d.sram := rfl
@[simp] theorem burn_ledger (d : Dev) : (d.burn).ledger = d.ledger := rfl
@[simp] theorem burn_hostMem (d : Dev) : (d.burn).hostMem = d.hostMem := rfl
@[simp] theorem burn_seq (d : Dev) : (d.burn).seq = d.seq := rfl
@[simp] theorem burn_pins (d : Dev) : (d.burn).pins = d.pins := rfl
@[simp] theorem burn_apg (d : Dev) : (d.burn).apg = d.apg := rfl
@[simp] theorem burn_chans (d : Dev) : (d.burn).chans = d.chans := rfl
@[simp] theorem burn_flp (d : Dev) : (d.burn).flp = d.flp := rfl
@[simp] theorem burn_lvls (d : Dev) : (d.burn).lvls = d.lvls := rfl
@[simp] theorem burn_meas (d : Dev) : (d.burn).meas = d.meas := rfl
@[simp] theorem burn_calbus (d : Dev) : (d.burn).calbus = d.calbus := rfl
@[simp] theorem burn_trims (d : Dev) : (d.burn).trims = d.trims := rfl
@[simp] theorem burn_acq (d : Dev) : (d.burn).acq = d.acq := rfl
@[simp] theorem burn_sb (d : Dev) : (d.burn).sb = d.sb := rfl
@[simp] theorem burn_mc (d : Dev) : (d.burn).mc = d.mc := rfl
@[simp] theorem burn_dramc (d : Dev) : (d.burn).dramc = d.dramc := rfl
@[simp] theorem burn_srm (d : Dev) : (d.burn).srm = d.srm := rfl
@[simp] theorem burn_pwr (d : Dev) : (d.burn).pwr = d.pwr := rfl
@[simp] theorem burn_vlt (d : Dev) : (d.burn).vlt = d.vlt := rfl
@[simp] theorem setEsrc_regs (d : Dev) (s : Nat) (e : EvtSrc) : (d.setEsrc s e).regs = d.regs := rfl
@[simp] theorem setEsrc_live (d : Dev) (s : Nat) (e : EvtSrc) : (d.setEsrc s e).live = d.live := rfl
@[simp] theorem setEsrc_gtc (d : Dev) (s : Nat) (e : EvtSrc) : (d.setEsrc s e).gtc = d.gtc := rfl
@[simp] theorem setEsrc_counting (d : Dev) (s : Nat) (e : EvtSrc) : (d.setEsrc s e).counting = d.counting := rfl
@[simp] theorem setEsrc_hif (d : Dev) (s : Nat) (e : EvtSrc) : (d.setEsrc s e).hif = d.hif := rfl
@[simp] theorem setEsrc_dma (d : Dev) (s : Nat) (e : EvtSrc) : (d.setEsrc s e).dma = d.dma := rfl
@[simp] theorem setEsrc_clk (d : Dev) (s : Nat) (e : EvtSrc) : (d.setEsrc s e).clk = d.clk := rfl
@[simp] theorem setEsrc_sync (d : Dev) (s : Nat) (e : EvtSrc) : (d.setEsrc s e).sync = d.sync := rfl
@[simp] theorem setEsrc_tcq (d : Dev) (s : Nat) (e : EvtSrc) : (d.setEsrc s e).tcq = d.tcq := rfl
@[simp] theorem setEsrc_pend (d : Dev) (s : Nat) (e : EvtSrc) : (d.setEsrc s e).pend = d.pend := rfl
@[simp] theorem setEsrc_boot (d : Dev) (s : Nat) (e : EvtSrc) : (d.setEsrc s e).boot = d.boot := rfl
@[simp] theorem setEsrc_dram (d : Dev) (s : Nat) (e : EvtSrc) : (d.setEsrc s e).dram = d.dram := rfl
@[simp] theorem setEsrc_sram (d : Dev) (s : Nat) (e : EvtSrc) : (d.setEsrc s e).sram = d.sram := rfl
@[simp] theorem setEsrc_ledger (d : Dev) (s : Nat) (e : EvtSrc) : (d.setEsrc s e).ledger = d.ledger := rfl
@[simp] theorem setEsrc_hostMem (d : Dev) (s : Nat) (e : EvtSrc) : (d.setEsrc s e).hostMem = d.hostMem := rfl
@[simp] theorem setEsrc_fresh (d : Dev) (s : Nat) (e : EvtSrc) : (d.setEsrc s e).fresh = d.fresh := rfl
@[simp] theorem setEsrc_seq (d : Dev) (s : Nat) (e : EvtSrc) : (d.setEsrc s e).seq = d.seq := rfl
@[simp] theorem setEsrc_pins (d : Dev) (s : Nat) (e : EvtSrc) : (d.setEsrc s e).pins = d.pins := rfl
@[simp] theorem setEsrc_apg (d : Dev) (s : Nat) (e : EvtSrc) : (d.setEsrc s e).apg = d.apg := rfl
@[simp] theorem setEsrc_chans (d : Dev) (s : Nat) (e : EvtSrc) : (d.setEsrc s e).chans = d.chans := rfl
@[simp] theorem setEsrc_flp (d : Dev) (s : Nat) (e : EvtSrc) : (d.setEsrc s e).flp = d.flp := rfl
@[simp] theorem setEsrc_lvls (d : Dev) (s : Nat) (e : EvtSrc) : (d.setEsrc s e).lvls = d.lvls := rfl
@[simp] theorem setEsrc_meas (d : Dev) (s : Nat) (e : EvtSrc) : (d.setEsrc s e).meas = d.meas := rfl
@[simp] theorem setEsrc_calbus (d : Dev) (s : Nat) (e : EvtSrc) : (d.setEsrc s e).calbus = d.calbus := rfl
@[simp] theorem setEsrc_trims (d : Dev) (s : Nat) (e : EvtSrc) : (d.setEsrc s e).trims = d.trims := rfl
@[simp] theorem setEsrc_acq (d : Dev) (s : Nat) (e : EvtSrc) : (d.setEsrc s e).acq = d.acq := rfl
@[simp] theorem setEsrc_sb (d : Dev) (s : Nat) (e : EvtSrc) : (d.setEsrc s e).sb = d.sb := rfl
@[simp] theorem setEsrc_mc (d : Dev) (s : Nat) (e : EvtSrc) : (d.setEsrc s e).mc = d.mc := rfl
@[simp] theorem setEsrc_dramc (d : Dev) (s : Nat) (e : EvtSrc) : (d.setEsrc s e).dramc = d.dramc := rfl
@[simp] theorem setEsrc_srm (d : Dev) (s : Nat) (e : EvtSrc) : (d.setEsrc s e).srm = d.srm := rfl
@[simp] theorem setEsrc_pwr (d : Dev) (s : Nat) (e : EvtSrc) : (d.setEsrc s e).pwr = d.pwr := rfl
@[simp] theorem setEsrc_vlt (d : Dev) (s : Nat) (e : EvtSrc) : (d.setEsrc s e).vlt = d.vlt := rfl
@[simp] theorem putDma_regs (d : Dev) (e : Nat) (x : Dma) : (d.putDma e x).regs = d.regs := rfl
@[simp] theorem putDma_live (d : Dev) (e : Nat) (x : Dma) : (d.putDma e x).live = d.live := rfl
@[simp] theorem putDma_gtc (d : Dev) (e : Nat) (x : Dma) : (d.putDma e x).gtc = d.gtc := rfl
@[simp] theorem putDma_counting (d : Dev) (e : Nat) (x : Dma) : (d.putDma e x).counting = d.counting := rfl
@[simp] theorem putDma_evt (d : Dev) (e : Nat) (x : Dma) : (d.putDma e x).evt = d.evt := rfl
@[simp] theorem putDma_hif (d : Dev) (e : Nat) (x : Dma) : (d.putDma e x).hif = d.hif := rfl
@[simp] theorem putDma_clk (d : Dev) (e : Nat) (x : Dma) : (d.putDma e x).clk = d.clk := rfl
@[simp] theorem putDma_sync (d : Dev) (e : Nat) (x : Dma) : (d.putDma e x).sync = d.sync := rfl
@[simp] theorem putDma_tcq (d : Dev) (e : Nat) (x : Dma) : (d.putDma e x).tcq = d.tcq := rfl
@[simp] theorem putDma_pend (d : Dev) (e : Nat) (x : Dma) : (d.putDma e x).pend = d.pend := rfl
@[simp] theorem putDma_boot (d : Dev) (e : Nat) (x : Dma) : (d.putDma e x).boot = d.boot := rfl
@[simp] theorem putDma_dram (d : Dev) (e : Nat) (x : Dma) : (d.putDma e x).dram = d.dram := rfl
@[simp] theorem putDma_sram (d : Dev) (e : Nat) (x : Dma) : (d.putDma e x).sram = d.sram := rfl
@[simp] theorem putDma_ledger (d : Dev) (e : Nat) (x : Dma) : (d.putDma e x).ledger = d.ledger := rfl
@[simp] theorem putDma_hostMem (d : Dev) (e : Nat) (x : Dma) : (d.putDma e x).hostMem = d.hostMem := rfl
@[simp] theorem putDma_fresh (d : Dev) (e : Nat) (x : Dma) : (d.putDma e x).fresh = d.fresh := rfl
@[simp] theorem putDma_seq (d : Dev) (e : Nat) (x : Dma) : (d.putDma e x).seq = d.seq := rfl
@[simp] theorem putDma_pins (d : Dev) (e : Nat) (x : Dma) : (d.putDma e x).pins = d.pins := rfl
@[simp] theorem putDma_apg (d : Dev) (e : Nat) (x : Dma) : (d.putDma e x).apg = d.apg := rfl
@[simp] theorem putDma_chans (d : Dev) (e : Nat) (x : Dma) : (d.putDma e x).chans = d.chans := rfl
@[simp] theorem putDma_flp (d : Dev) (e : Nat) (x : Dma) : (d.putDma e x).flp = d.flp := rfl
@[simp] theorem putDma_lvls (d : Dev) (e : Nat) (x : Dma) : (d.putDma e x).lvls = d.lvls := rfl
@[simp] theorem putDma_meas (d : Dev) (e : Nat) (x : Dma) : (d.putDma e x).meas = d.meas := rfl
@[simp] theorem putDma_calbus (d : Dev) (e : Nat) (x : Dma) : (d.putDma e x).calbus = d.calbus := rfl
@[simp] theorem putDma_trims (d : Dev) (e : Nat) (x : Dma) : (d.putDma e x).trims = d.trims := rfl
@[simp] theorem putDma_acq (d : Dev) (e : Nat) (x : Dma) : (d.putDma e x).acq = d.acq := rfl
@[simp] theorem putDma_sb (d : Dev) (e : Nat) (x : Dma) : (d.putDma e x).sb = d.sb := rfl
@[simp] theorem putDma_mc (d : Dev) (e : Nat) (x : Dma) : (d.putDma e x).mc = d.mc := rfl
@[simp] theorem putDma_dramc (d : Dev) (e : Nat) (x : Dma) : (d.putDma e x).dramc = d.dramc := rfl
@[simp] theorem putDma_srm (d : Dev) (e : Nat) (x : Dma) : (d.putDma e x).srm = d.srm := rfl
@[simp] theorem putDma_pwr (d : Dev) (e : Nat) (x : Dma) : (d.putDma e x).pwr = d.pwr := rfl
@[simp] theorem putDma_vlt (d : Dev) (e : Nat) (x : Dma) : (d.putDma e x).vlt = d.vlt := rfl
@[simp] theorem putSeq_live (d : Dev) (p : Nat) (x : Seq) : (d.putSeq p x).live = d.live := by simp [putSeq]
@[simp] theorem putSeq_gtc (d : Dev) (p : Nat) (x : Seq) : (d.putSeq p x).gtc = d.gtc := by simp [putSeq]
@[simp] theorem putSeq_counting (d : Dev) (p : Nat) (x : Seq) : (d.putSeq p x).counting = d.counting := by simp [putSeq]
@[simp] theorem putSeq_evt (d : Dev) (p : Nat) (x : Seq) : (d.putSeq p x).evt = d.evt := by simp [putSeq]
@[simp] theorem putSeq_hif (d : Dev) (p : Nat) (x : Seq) : (d.putSeq p x).hif = d.hif := by simp [putSeq]
@[simp] theorem putSeq_dma (d : Dev) (p : Nat) (x : Seq) : (d.putSeq p x).dma = d.dma := by simp [putSeq]
@[simp] theorem putSeq_clk (d : Dev) (p : Nat) (x : Seq) : (d.putSeq p x).clk = d.clk := by simp [putSeq]
@[simp] theorem putSeq_sync (d : Dev) (p : Nat) (x : Seq) : (d.putSeq p x).sync = d.sync := by simp [putSeq]
@[simp] theorem putSeq_tcq (d : Dev) (p : Nat) (x : Seq) : (d.putSeq p x).tcq = d.tcq := by simp [putSeq]
@[simp] theorem putSeq_pend (d : Dev) (p : Nat) (x : Seq) : (d.putSeq p x).pend = d.pend := by simp [putSeq]
@[simp] theorem putSeq_boot (d : Dev) (p : Nat) (x : Seq) : (d.putSeq p x).boot = d.boot := by simp [putSeq]
@[simp] theorem putSeq_dram (d : Dev) (p : Nat) (x : Seq) : (d.putSeq p x).dram = d.dram := by simp [putSeq]
@[simp] theorem putSeq_sram (d : Dev) (p : Nat) (x : Seq) : (d.putSeq p x).sram = d.sram := by simp [putSeq]
@[simp] theorem putSeq_ledger (d : Dev) (p : Nat) (x : Seq) : (d.putSeq p x).ledger = d.ledger := by simp [putSeq]
@[simp] theorem putSeq_hostMem (d : Dev) (p : Nat) (x : Seq) : (d.putSeq p x).hostMem = d.hostMem := by simp [putSeq]
@[simp] theorem putSeq_fresh (d : Dev) (p : Nat) (x : Seq) : (d.putSeq p x).fresh = d.fresh := by simp [putSeq]
@[simp] theorem putSeq_pins (d : Dev) (p : Nat) (x : Seq) : (d.putSeq p x).pins = d.pins := by simp [putSeq]
@[simp] theorem putSeq_apg (d : Dev) (p : Nat) (x : Seq) : (d.putSeq p x).apg = d.apg := by simp [putSeq]
@[simp] theorem putSeq_chans (d : Dev) (p : Nat) (x : Seq) : (d.putSeq p x).chans = d.chans := by simp [putSeq]
@[simp] theorem putSeq_flp (d : Dev) (p : Nat) (x : Seq) : (d.putSeq p x).flp = d.flp := by simp [putSeq]
@[simp] theorem putSeq_lvls (d : Dev) (p : Nat) (x : Seq) : (d.putSeq p x).lvls = d.lvls := by simp [putSeq]
@[simp] theorem putSeq_meas (d : Dev) (p : Nat) (x : Seq) : (d.putSeq p x).meas = d.meas := by simp [putSeq]
@[simp] theorem putSeq_calbus (d : Dev) (p : Nat) (x : Seq) : (d.putSeq p x).calbus = d.calbus := by simp [putSeq]
@[simp] theorem putSeq_trims (d : Dev) (p : Nat) (x : Seq) : (d.putSeq p x).trims = d.trims := by simp [putSeq]
@[simp] theorem putSeq_acq (d : Dev) (p : Nat) (x : Seq) : (d.putSeq p x).acq = d.acq := by simp [putSeq]
@[simp] theorem putSeq_sb (d : Dev) (p : Nat) (x : Seq) : (d.putSeq p x).sb = d.sb := by simp [putSeq]
@[simp] theorem putSeq_mc (d : Dev) (p : Nat) (x : Seq) : (d.putSeq p x).mc = d.mc := by simp [putSeq]
@[simp] theorem putSeq_dramc (d : Dev) (p : Nat) (x : Seq) : (d.putSeq p x).dramc = d.dramc := by simp [putSeq]
@[simp] theorem putSeq_srm (d : Dev) (p : Nat) (x : Seq) : (d.putSeq p x).srm = d.srm := by simp [putSeq]
@[simp] theorem putSeq_pwr (d : Dev) (p : Nat) (x : Seq) : (d.putSeq p x).pwr = d.pwr := by simp [putSeq]
@[simp] theorem putSeq_vlt (d : Dev) (p : Nat) (x : Seq) : (d.putSeq p x).vlt = d.vlt := by simp [putSeq]
@[simp] theorem putChan_regs (d : Dev) (i : Nat) (x : Chan) : (d.putChan i x).regs = d.regs := rfl
@[simp] theorem putChan_live (d : Dev) (i : Nat) (x : Chan) : (d.putChan i x).live = d.live := rfl
@[simp] theorem putChan_gtc (d : Dev) (i : Nat) (x : Chan) : (d.putChan i x).gtc = d.gtc := rfl
@[simp] theorem putChan_counting (d : Dev) (i : Nat) (x : Chan) : (d.putChan i x).counting = d.counting := rfl
@[simp] theorem putChan_evt (d : Dev) (i : Nat) (x : Chan) : (d.putChan i x).evt = d.evt := rfl
@[simp] theorem putChan_hif (d : Dev) (i : Nat) (x : Chan) : (d.putChan i x).hif = d.hif := rfl
@[simp] theorem putChan_dma (d : Dev) (i : Nat) (x : Chan) : (d.putChan i x).dma = d.dma := rfl
@[simp] theorem putChan_clk (d : Dev) (i : Nat) (x : Chan) : (d.putChan i x).clk = d.clk := rfl
@[simp] theorem putChan_sync (d : Dev) (i : Nat) (x : Chan) : (d.putChan i x).sync = d.sync := rfl
@[simp] theorem putChan_tcq (d : Dev) (i : Nat) (x : Chan) : (d.putChan i x).tcq = d.tcq := rfl
@[simp] theorem putChan_pend (d : Dev) (i : Nat) (x : Chan) : (d.putChan i x).pend = d.pend := rfl
@[simp] theorem putChan_boot (d : Dev) (i : Nat) (x : Chan) : (d.putChan i x).boot = d.boot := rfl
@[simp] theorem putChan_dram (d : Dev) (i : Nat) (x : Chan) : (d.putChan i x).dram = d.dram := rfl
@[simp] theorem putChan_sram (d : Dev) (i : Nat) (x : Chan) : (d.putChan i x).sram = d.sram := rfl
@[simp] theorem putChan_ledger (d : Dev) (i : Nat) (x : Chan) : (d.putChan i x).ledger = d.ledger := rfl
@[simp] theorem putChan_hostMem (d : Dev) (i : Nat) (x : Chan) : (d.putChan i x).hostMem = d.hostMem := rfl
@[simp] theorem putChan_fresh (d : Dev) (i : Nat) (x : Chan) : (d.putChan i x).fresh = d.fresh := rfl
@[simp] theorem putChan_seq (d : Dev) (i : Nat) (x : Chan) : (d.putChan i x).seq = d.seq := rfl
@[simp] theorem putChan_pins (d : Dev) (i : Nat) (x : Chan) : (d.putChan i x).pins = d.pins := rfl
@[simp] theorem putChan_apg (d : Dev) (i : Nat) (x : Chan) : (d.putChan i x).apg = d.apg := rfl
@[simp] theorem putChan_flp (d : Dev) (i : Nat) (x : Chan) : (d.putChan i x).flp = d.flp := rfl
@[simp] theorem putChan_lvls (d : Dev) (i : Nat) (x : Chan) : (d.putChan i x).lvls = d.lvls := rfl
@[simp] theorem putChan_meas (d : Dev) (i : Nat) (x : Chan) : (d.putChan i x).meas = d.meas := rfl
@[simp] theorem putChan_calbus (d : Dev) (i : Nat) (x : Chan) : (d.putChan i x).calbus = d.calbus := rfl
@[simp] theorem putChan_trims (d : Dev) (i : Nat) (x : Chan) : (d.putChan i x).trims = d.trims := rfl
@[simp] theorem putChan_acq (d : Dev) (i : Nat) (x : Chan) : (d.putChan i x).acq = d.acq := rfl
@[simp] theorem putChan_sb (d : Dev) (i : Nat) (x : Chan) : (d.putChan i x).sb = d.sb := rfl
@[simp] theorem putChan_mc (d : Dev) (i : Nat) (x : Chan) : (d.putChan i x).mc = d.mc := rfl
@[simp] theorem putChan_dramc (d : Dev) (i : Nat) (x : Chan) : (d.putChan i x).dramc = d.dramc := rfl
@[simp] theorem putChan_srm (d : Dev) (i : Nat) (x : Chan) : (d.putChan i x).srm = d.srm := rfl
@[simp] theorem putChan_pwr (d : Dev) (i : Nat) (x : Chan) : (d.putChan i x).pwr = d.pwr := rfl
@[simp] theorem putChan_vlt (d : Dev) (i : Nat) (x : Chan) : (d.putChan i x).vlt = d.vlt := rfl
@[simp] theorem putLvl_regs (d : Dev) (i : Nat) (x : Lvl) : (d.putLvl i x).regs = d.regs := rfl
@[simp] theorem putLvl_live (d : Dev) (i : Nat) (x : Lvl) : (d.putLvl i x).live = d.live := rfl
@[simp] theorem putLvl_gtc (d : Dev) (i : Nat) (x : Lvl) : (d.putLvl i x).gtc = d.gtc := rfl
@[simp] theorem putLvl_counting (d : Dev) (i : Nat) (x : Lvl) : (d.putLvl i x).counting = d.counting := rfl
@[simp] theorem putLvl_evt (d : Dev) (i : Nat) (x : Lvl) : (d.putLvl i x).evt = d.evt := rfl
@[simp] theorem putLvl_hif (d : Dev) (i : Nat) (x : Lvl) : (d.putLvl i x).hif = d.hif := rfl
@[simp] theorem putLvl_dma (d : Dev) (i : Nat) (x : Lvl) : (d.putLvl i x).dma = d.dma := rfl
@[simp] theorem putLvl_clk (d : Dev) (i : Nat) (x : Lvl) : (d.putLvl i x).clk = d.clk := rfl
@[simp] theorem putLvl_sync (d : Dev) (i : Nat) (x : Lvl) : (d.putLvl i x).sync = d.sync := rfl
@[simp] theorem putLvl_tcq (d : Dev) (i : Nat) (x : Lvl) : (d.putLvl i x).tcq = d.tcq := rfl
@[simp] theorem putLvl_pend (d : Dev) (i : Nat) (x : Lvl) : (d.putLvl i x).pend = d.pend := rfl
@[simp] theorem putLvl_boot (d : Dev) (i : Nat) (x : Lvl) : (d.putLvl i x).boot = d.boot := rfl
@[simp] theorem putLvl_dram (d : Dev) (i : Nat) (x : Lvl) : (d.putLvl i x).dram = d.dram := rfl
@[simp] theorem putLvl_sram (d : Dev) (i : Nat) (x : Lvl) : (d.putLvl i x).sram = d.sram := rfl
@[simp] theorem putLvl_ledger (d : Dev) (i : Nat) (x : Lvl) : (d.putLvl i x).ledger = d.ledger := rfl
@[simp] theorem putLvl_hostMem (d : Dev) (i : Nat) (x : Lvl) : (d.putLvl i x).hostMem = d.hostMem := rfl
@[simp] theorem putLvl_fresh (d : Dev) (i : Nat) (x : Lvl) : (d.putLvl i x).fresh = d.fresh := rfl
@[simp] theorem putLvl_seq (d : Dev) (i : Nat) (x : Lvl) : (d.putLvl i x).seq = d.seq := rfl
@[simp] theorem putLvl_pins (d : Dev) (i : Nat) (x : Lvl) : (d.putLvl i x).pins = d.pins := rfl
@[simp] theorem putLvl_apg (d : Dev) (i : Nat) (x : Lvl) : (d.putLvl i x).apg = d.apg := rfl
@[simp] theorem putLvl_chans (d : Dev) (i : Nat) (x : Lvl) : (d.putLvl i x).chans = d.chans := rfl
@[simp] theorem putLvl_flp (d : Dev) (i : Nat) (x : Lvl) : (d.putLvl i x).flp = d.flp := rfl
@[simp] theorem putLvl_meas (d : Dev) (i : Nat) (x : Lvl) : (d.putLvl i x).meas = d.meas := rfl
@[simp] theorem putLvl_calbus (d : Dev) (i : Nat) (x : Lvl) : (d.putLvl i x).calbus = d.calbus := rfl
@[simp] theorem putLvl_trims (d : Dev) (i : Nat) (x : Lvl) : (d.putLvl i x).trims = d.trims := rfl
@[simp] theorem putLvl_acq (d : Dev) (i : Nat) (x : Lvl) : (d.putLvl i x).acq = d.acq := rfl
@[simp] theorem putLvl_sb (d : Dev) (i : Nat) (x : Lvl) : (d.putLvl i x).sb = d.sb := rfl
@[simp] theorem putLvl_mc (d : Dev) (i : Nat) (x : Lvl) : (d.putLvl i x).mc = d.mc := rfl
@[simp] theorem putLvl_dramc (d : Dev) (i : Nat) (x : Lvl) : (d.putLvl i x).dramc = d.dramc := rfl
@[simp] theorem putLvl_srm (d : Dev) (i : Nat) (x : Lvl) : (d.putLvl i x).srm = d.srm := rfl
@[simp] theorem putLvl_pwr (d : Dev) (i : Nat) (x : Lvl) : (d.putLvl i x).pwr = d.pwr := rfl
@[simp] theorem putLvl_vlt (d : Dev) (i : Nat) (x : Lvl) : (d.putLvl i x).vlt = d.vlt := rfl
@[simp] theorem putAcq_regs (d : Dev) (p : Nat) (x : Acq) : (d.putAcq p x).regs = d.regs := rfl
@[simp] theorem putAcq_live (d : Dev) (p : Nat) (x : Acq) : (d.putAcq p x).live = d.live := rfl
@[simp] theorem putAcq_gtc (d : Dev) (p : Nat) (x : Acq) : (d.putAcq p x).gtc = d.gtc := rfl
@[simp] theorem putAcq_counting (d : Dev) (p : Nat) (x : Acq) : (d.putAcq p x).counting = d.counting := rfl
@[simp] theorem putAcq_evt (d : Dev) (p : Nat) (x : Acq) : (d.putAcq p x).evt = d.evt := rfl
@[simp] theorem putAcq_hif (d : Dev) (p : Nat) (x : Acq) : (d.putAcq p x).hif = d.hif := rfl
@[simp] theorem putAcq_dma (d : Dev) (p : Nat) (x : Acq) : (d.putAcq p x).dma = d.dma := rfl
@[simp] theorem putAcq_clk (d : Dev) (p : Nat) (x : Acq) : (d.putAcq p x).clk = d.clk := rfl
@[simp] theorem putAcq_sync (d : Dev) (p : Nat) (x : Acq) : (d.putAcq p x).sync = d.sync := rfl
@[simp] theorem putAcq_tcq (d : Dev) (p : Nat) (x : Acq) : (d.putAcq p x).tcq = d.tcq := rfl
@[simp] theorem putAcq_pend (d : Dev) (p : Nat) (x : Acq) : (d.putAcq p x).pend = d.pend := rfl
@[simp] theorem putAcq_boot (d : Dev) (p : Nat) (x : Acq) : (d.putAcq p x).boot = d.boot := rfl
@[simp] theorem putAcq_dram (d : Dev) (p : Nat) (x : Acq) : (d.putAcq p x).dram = d.dram := rfl
@[simp] theorem putAcq_sram (d : Dev) (p : Nat) (x : Acq) : (d.putAcq p x).sram = d.sram := rfl
@[simp] theorem putAcq_ledger (d : Dev) (p : Nat) (x : Acq) : (d.putAcq p x).ledger = d.ledger := rfl
@[simp] theorem putAcq_hostMem (d : Dev) (p : Nat) (x : Acq) : (d.putAcq p x).hostMem = d.hostMem := rfl
@[simp] theorem putAcq_fresh (d : Dev) (p : Nat) (x : Acq) : (d.putAcq p x).fresh = d.fresh := rfl
@[simp] theorem putAcq_seq (d : Dev) (p : Nat) (x : Acq) : (d.putAcq p x).seq = d.seq := rfl
@[simp] theorem putAcq_pins (d : Dev) (p : Nat) (x : Acq) : (d.putAcq p x).pins = d.pins := rfl
@[simp] theorem putAcq_apg (d : Dev) (p : Nat) (x : Acq) : (d.putAcq p x).apg = d.apg := rfl
@[simp] theorem putAcq_chans (d : Dev) (p : Nat) (x : Acq) : (d.putAcq p x).chans = d.chans := rfl
@[simp] theorem putAcq_flp (d : Dev) (p : Nat) (x : Acq) : (d.putAcq p x).flp = d.flp := rfl
@[simp] theorem putAcq_lvls (d : Dev) (p : Nat) (x : Acq) : (d.putAcq p x).lvls = d.lvls := rfl
@[simp] theorem putAcq_meas (d : Dev) (p : Nat) (x : Acq) : (d.putAcq p x).meas = d.meas := rfl
@[simp] theorem putAcq_calbus (d : Dev) (p : Nat) (x : Acq) : (d.putAcq p x).calbus = d.calbus := rfl
@[simp] theorem putAcq_trims (d : Dev) (p : Nat) (x : Acq) : (d.putAcq p x).trims = d.trims := rfl
@[simp] theorem putAcq_sb (d : Dev) (p : Nat) (x : Acq) : (d.putAcq p x).sb = d.sb := rfl
@[simp] theorem putAcq_mc (d : Dev) (p : Nat) (x : Acq) : (d.putAcq p x).mc = d.mc := rfl
@[simp] theorem putAcq_dramc (d : Dev) (p : Nat) (x : Acq) : (d.putAcq p x).dramc = d.dramc := rfl
@[simp] theorem putAcq_srm (d : Dev) (p : Nat) (x : Acq) : (d.putAcq p x).srm = d.srm := rfl
@[simp] theorem putAcq_pwr (d : Dev) (p : Nat) (x : Acq) : (d.putAcq p x).pwr = d.pwr := rfl
@[simp] theorem putAcq_vlt (d : Dev) (p : Nat) (x : Acq) : (d.putAcq p x).vlt = d.vlt := rfl
@[simp] theorem putApg_live (d : Dev) (p : Nat) (x : Apg) : (d.putApg p x).live = d.live := rfl
@[simp] theorem putApg_gtc (d : Dev) (p : Nat) (x : Apg) : (d.putApg p x).gtc = d.gtc := rfl
@[simp] theorem putApg_counting (d : Dev) (p : Nat) (x : Apg) : (d.putApg p x).counting = d.counting := rfl
@[simp] theorem putApg_evt (d : Dev) (p : Nat) (x : Apg) : (d.putApg p x).evt = d.evt := rfl
@[simp] theorem putApg_hif (d : Dev) (p : Nat) (x : Apg) : (d.putApg p x).hif = d.hif := rfl
@[simp] theorem putApg_dma (d : Dev) (p : Nat) (x : Apg) : (d.putApg p x).dma = d.dma := rfl
@[simp] theorem putApg_clk (d : Dev) (p : Nat) (x : Apg) : (d.putApg p x).clk = d.clk := rfl
@[simp] theorem putApg_sync (d : Dev) (p : Nat) (x : Apg) : (d.putApg p x).sync = d.sync := rfl
@[simp] theorem putApg_tcq (d : Dev) (p : Nat) (x : Apg) : (d.putApg p x).tcq = d.tcq := rfl
@[simp] theorem putApg_pend (d : Dev) (p : Nat) (x : Apg) : (d.putApg p x).pend = d.pend := rfl
@[simp] theorem putApg_boot (d : Dev) (p : Nat) (x : Apg) : (d.putApg p x).boot = d.boot := rfl
@[simp] theorem putApg_dram (d : Dev) (p : Nat) (x : Apg) : (d.putApg p x).dram = d.dram := rfl
@[simp] theorem putApg_sram (d : Dev) (p : Nat) (x : Apg) : (d.putApg p x).sram = d.sram := rfl
@[simp] theorem putApg_ledger (d : Dev) (p : Nat) (x : Apg) : (d.putApg p x).ledger = d.ledger := rfl
@[simp] theorem putApg_hostMem (d : Dev) (p : Nat) (x : Apg) : (d.putApg p x).hostMem = d.hostMem := rfl
@[simp] theorem putApg_fresh (d : Dev) (p : Nat) (x : Apg) : (d.putApg p x).fresh = d.fresh := rfl
@[simp] theorem putApg_seq (d : Dev) (p : Nat) (x : Apg) : (d.putApg p x).seq = d.seq := rfl
@[simp] theorem putApg_pins (d : Dev) (p : Nat) (x : Apg) : (d.putApg p x).pins = d.pins := rfl
@[simp] theorem putApg_chans (d : Dev) (p : Nat) (x : Apg) : (d.putApg p x).chans = d.chans := rfl
@[simp] theorem putApg_flp (d : Dev) (p : Nat) (x : Apg) : (d.putApg p x).flp = d.flp := rfl
@[simp] theorem putApg_lvls (d : Dev) (p : Nat) (x : Apg) : (d.putApg p x).lvls = d.lvls := rfl
@[simp] theorem putApg_meas (d : Dev) (p : Nat) (x : Apg) : (d.putApg p x).meas = d.meas := rfl
@[simp] theorem putApg_calbus (d : Dev) (p : Nat) (x : Apg) : (d.putApg p x).calbus = d.calbus := rfl
@[simp] theorem putApg_trims (d : Dev) (p : Nat) (x : Apg) : (d.putApg p x).trims = d.trims := rfl
@[simp] theorem putApg_acq (d : Dev) (p : Nat) (x : Apg) : (d.putApg p x).acq = d.acq := rfl
@[simp] theorem putApg_sb (d : Dev) (p : Nat) (x : Apg) : (d.putApg p x).sb = d.sb := rfl
@[simp] theorem putApg_mc (d : Dev) (p : Nat) (x : Apg) : (d.putApg p x).mc = d.mc := rfl
@[simp] theorem putApg_dramc (d : Dev) (p : Nat) (x : Apg) : (d.putApg p x).dramc = d.dramc := rfl
@[simp] theorem putApg_srm (d : Dev) (p : Nat) (x : Apg) : (d.putApg p x).srm = d.srm := rfl
@[simp] theorem putApg_pwr (d : Dev) (p : Nat) (x : Apg) : (d.putApg p x).pwr = d.pwr := rfl
@[simp] theorem putApg_vlt (d : Dev) (p : Nat) (x : Apg) : (d.putApg p x).vlt = d.vlt := rfl
@[simp] theorem putFlp_regs (d : Dev) (p : Nat) (x : Flp) : (d.putFlp p x).regs = d.regs := rfl
@[simp] theorem putFlp_live (d : Dev) (p : Nat) (x : Flp) : (d.putFlp p x).live = d.live := rfl
@[simp] theorem putFlp_gtc (d : Dev) (p : Nat) (x : Flp) : (d.putFlp p x).gtc = d.gtc := rfl
@[simp] theorem putFlp_counting (d : Dev) (p : Nat) (x : Flp) : (d.putFlp p x).counting = d.counting := rfl
@[simp] theorem putFlp_evt (d : Dev) (p : Nat) (x : Flp) : (d.putFlp p x).evt = d.evt := rfl
@[simp] theorem putFlp_hif (d : Dev) (p : Nat) (x : Flp) : (d.putFlp p x).hif = d.hif := rfl
@[simp] theorem putFlp_dma (d : Dev) (p : Nat) (x : Flp) : (d.putFlp p x).dma = d.dma := rfl
@[simp] theorem putFlp_clk (d : Dev) (p : Nat) (x : Flp) : (d.putFlp p x).clk = d.clk := rfl
@[simp] theorem putFlp_sync (d : Dev) (p : Nat) (x : Flp) : (d.putFlp p x).sync = d.sync := rfl
@[simp] theorem putFlp_tcq (d : Dev) (p : Nat) (x : Flp) : (d.putFlp p x).tcq = d.tcq := rfl
@[simp] theorem putFlp_pend (d : Dev) (p : Nat) (x : Flp) : (d.putFlp p x).pend = d.pend := rfl
@[simp] theorem putFlp_boot (d : Dev) (p : Nat) (x : Flp) : (d.putFlp p x).boot = d.boot := rfl
@[simp] theorem putFlp_dram (d : Dev) (p : Nat) (x : Flp) : (d.putFlp p x).dram = d.dram := rfl
@[simp] theorem putFlp_sram (d : Dev) (p : Nat) (x : Flp) : (d.putFlp p x).sram = d.sram := rfl
@[simp] theorem putFlp_ledger (d : Dev) (p : Nat) (x : Flp) : (d.putFlp p x).ledger = d.ledger := rfl
@[simp] theorem putFlp_hostMem (d : Dev) (p : Nat) (x : Flp) : (d.putFlp p x).hostMem = d.hostMem := rfl
@[simp] theorem putFlp_fresh (d : Dev) (p : Nat) (x : Flp) : (d.putFlp p x).fresh = d.fresh := rfl
@[simp] theorem putFlp_seq (d : Dev) (p : Nat) (x : Flp) : (d.putFlp p x).seq = d.seq := rfl
@[simp] theorem putFlp_pins (d : Dev) (p : Nat) (x : Flp) : (d.putFlp p x).pins = d.pins := rfl
@[simp] theorem putFlp_apg (d : Dev) (p : Nat) (x : Flp) : (d.putFlp p x).apg = d.apg := rfl
@[simp] theorem putFlp_chans (d : Dev) (p : Nat) (x : Flp) : (d.putFlp p x).chans = d.chans := rfl
@[simp] theorem putFlp_lvls (d : Dev) (p : Nat) (x : Flp) : (d.putFlp p x).lvls = d.lvls := rfl
@[simp] theorem putFlp_meas (d : Dev) (p : Nat) (x : Flp) : (d.putFlp p x).meas = d.meas := rfl
@[simp] theorem putFlp_calbus (d : Dev) (p : Nat) (x : Flp) : (d.putFlp p x).calbus = d.calbus := rfl
@[simp] theorem putFlp_trims (d : Dev) (p : Nat) (x : Flp) : (d.putFlp p x).trims = d.trims := rfl
@[simp] theorem putFlp_acq (d : Dev) (p : Nat) (x : Flp) : (d.putFlp p x).acq = d.acq := rfl
@[simp] theorem putFlp_sb (d : Dev) (p : Nat) (x : Flp) : (d.putFlp p x).sb = d.sb := rfl
@[simp] theorem putFlp_mc (d : Dev) (p : Nat) (x : Flp) : (d.putFlp p x).mc = d.mc := rfl
@[simp] theorem putFlp_dramc (d : Dev) (p : Nat) (x : Flp) : (d.putFlp p x).dramc = d.dramc := rfl
@[simp] theorem putFlp_srm (d : Dev) (p : Nat) (x : Flp) : (d.putFlp p x).srm = d.srm := rfl
@[simp] theorem putFlp_pwr (d : Dev) (p : Nat) (x : Flp) : (d.putFlp p x).pwr = d.pwr := rfl
@[simp] theorem putFlp_vlt (d : Dev) (p : Nat) (x : Flp) : (d.putFlp p x).vlt = d.vlt := rfl
@[simp] theorem putMeas_regs (d : Dev) (p : Nat) (x : Meas) : (d.putMeas p x).regs = d.regs := rfl
@[simp] theorem putMeas_live (d : Dev) (p : Nat) (x : Meas) : (d.putMeas p x).live = d.live := rfl
@[simp] theorem putMeas_gtc (d : Dev) (p : Nat) (x : Meas) : (d.putMeas p x).gtc = d.gtc := rfl
@[simp] theorem putMeas_counting (d : Dev) (p : Nat) (x : Meas) : (d.putMeas p x).counting = d.counting := rfl
@[simp] theorem putMeas_evt (d : Dev) (p : Nat) (x : Meas) : (d.putMeas p x).evt = d.evt := rfl
@[simp] theorem putMeas_hif (d : Dev) (p : Nat) (x : Meas) : (d.putMeas p x).hif = d.hif := rfl
@[simp] theorem putMeas_dma (d : Dev) (p : Nat) (x : Meas) : (d.putMeas p x).dma = d.dma := rfl
@[simp] theorem putMeas_clk (d : Dev) (p : Nat) (x : Meas) : (d.putMeas p x).clk = d.clk := rfl
@[simp] theorem putMeas_sync (d : Dev) (p : Nat) (x : Meas) : (d.putMeas p x).sync = d.sync := rfl
@[simp] theorem putMeas_tcq (d : Dev) (p : Nat) (x : Meas) : (d.putMeas p x).tcq = d.tcq := rfl
@[simp] theorem putMeas_pend (d : Dev) (p : Nat) (x : Meas) : (d.putMeas p x).pend = d.pend := rfl
@[simp] theorem putMeas_boot (d : Dev) (p : Nat) (x : Meas) : (d.putMeas p x).boot = d.boot := rfl
@[simp] theorem putMeas_dram (d : Dev) (p : Nat) (x : Meas) : (d.putMeas p x).dram = d.dram := rfl
@[simp] theorem putMeas_sram (d : Dev) (p : Nat) (x : Meas) : (d.putMeas p x).sram = d.sram := rfl
@[simp] theorem putMeas_ledger (d : Dev) (p : Nat) (x : Meas) : (d.putMeas p x).ledger = d.ledger := rfl
@[simp] theorem putMeas_hostMem (d : Dev) (p : Nat) (x : Meas) : (d.putMeas p x).hostMem = d.hostMem := rfl
@[simp] theorem putMeas_fresh (d : Dev) (p : Nat) (x : Meas) : (d.putMeas p x).fresh = d.fresh := rfl
@[simp] theorem putMeas_seq (d : Dev) (p : Nat) (x : Meas) : (d.putMeas p x).seq = d.seq := rfl
@[simp] theorem putMeas_pins (d : Dev) (p : Nat) (x : Meas) : (d.putMeas p x).pins = d.pins := rfl
@[simp] theorem putMeas_apg (d : Dev) (p : Nat) (x : Meas) : (d.putMeas p x).apg = d.apg := rfl
@[simp] theorem putMeas_chans (d : Dev) (p : Nat) (x : Meas) : (d.putMeas p x).chans = d.chans := rfl
@[simp] theorem putMeas_flp (d : Dev) (p : Nat) (x : Meas) : (d.putMeas p x).flp = d.flp := rfl
@[simp] theorem putMeas_lvls (d : Dev) (p : Nat) (x : Meas) : (d.putMeas p x).lvls = d.lvls := rfl
@[simp] theorem putMeas_calbus (d : Dev) (p : Nat) (x : Meas) : (d.putMeas p x).calbus = d.calbus := rfl
@[simp] theorem putMeas_trims (d : Dev) (p : Nat) (x : Meas) : (d.putMeas p x).trims = d.trims := rfl
@[simp] theorem putMeas_acq (d : Dev) (p : Nat) (x : Meas) : (d.putMeas p x).acq = d.acq := rfl
@[simp] theorem putMeas_sb (d : Dev) (p : Nat) (x : Meas) : (d.putMeas p x).sb = d.sb := rfl
@[simp] theorem putMeas_mc (d : Dev) (p : Nat) (x : Meas) : (d.putMeas p x).mc = d.mc := rfl
@[simp] theorem putMeas_dramc (d : Dev) (p : Nat) (x : Meas) : (d.putMeas p x).dramc = d.dramc := rfl
@[simp] theorem putMeas_srm (d : Dev) (p : Nat) (x : Meas) : (d.putMeas p x).srm = d.srm := rfl
@[simp] theorem putMeas_pwr (d : Dev) (p : Nat) (x : Meas) : (d.putMeas p x).pwr = d.pwr := rfl
@[simp] theorem putMeas_vlt (d : Dev) (p : Nat) (x : Meas) : (d.putMeas p x).vlt = d.vlt := rfl
@[simp] theorem putTrim_regs (d : Dev) (i : Nat) (x : Trim) : (d.putTrim i x).regs = d.regs := rfl
@[simp] theorem putTrim_live (d : Dev) (i : Nat) (x : Trim) : (d.putTrim i x).live = d.live := rfl
@[simp] theorem putTrim_gtc (d : Dev) (i : Nat) (x : Trim) : (d.putTrim i x).gtc = d.gtc := rfl
@[simp] theorem putTrim_counting (d : Dev) (i : Nat) (x : Trim) : (d.putTrim i x).counting = d.counting := rfl
@[simp] theorem putTrim_evt (d : Dev) (i : Nat) (x : Trim) : (d.putTrim i x).evt = d.evt := rfl
@[simp] theorem putTrim_hif (d : Dev) (i : Nat) (x : Trim) : (d.putTrim i x).hif = d.hif := rfl
@[simp] theorem putTrim_dma (d : Dev) (i : Nat) (x : Trim) : (d.putTrim i x).dma = d.dma := rfl
@[simp] theorem putTrim_clk (d : Dev) (i : Nat) (x : Trim) : (d.putTrim i x).clk = d.clk := rfl
@[simp] theorem putTrim_sync (d : Dev) (i : Nat) (x : Trim) : (d.putTrim i x).sync = d.sync := rfl
@[simp] theorem putTrim_tcq (d : Dev) (i : Nat) (x : Trim) : (d.putTrim i x).tcq = d.tcq := rfl
@[simp] theorem putTrim_pend (d : Dev) (i : Nat) (x : Trim) : (d.putTrim i x).pend = d.pend := rfl
@[simp] theorem putTrim_boot (d : Dev) (i : Nat) (x : Trim) : (d.putTrim i x).boot = d.boot := rfl
@[simp] theorem putTrim_dram (d : Dev) (i : Nat) (x : Trim) : (d.putTrim i x).dram = d.dram := rfl
@[simp] theorem putTrim_sram (d : Dev) (i : Nat) (x : Trim) : (d.putTrim i x).sram = d.sram := rfl
@[simp] theorem putTrim_ledger (d : Dev) (i : Nat) (x : Trim) : (d.putTrim i x).ledger = d.ledger := rfl
@[simp] theorem putTrim_hostMem (d : Dev) (i : Nat) (x : Trim) : (d.putTrim i x).hostMem = d.hostMem := rfl
@[simp] theorem putTrim_fresh (d : Dev) (i : Nat) (x : Trim) : (d.putTrim i x).fresh = d.fresh := rfl
@[simp] theorem putTrim_seq (d : Dev) (i : Nat) (x : Trim) : (d.putTrim i x).seq = d.seq := rfl
@[simp] theorem putTrim_pins (d : Dev) (i : Nat) (x : Trim) : (d.putTrim i x).pins = d.pins := rfl
@[simp] theorem putTrim_apg (d : Dev) (i : Nat) (x : Trim) : (d.putTrim i x).apg = d.apg := rfl
@[simp] theorem putTrim_chans (d : Dev) (i : Nat) (x : Trim) : (d.putTrim i x).chans = d.chans := rfl
@[simp] theorem putTrim_flp (d : Dev) (i : Nat) (x : Trim) : (d.putTrim i x).flp = d.flp := rfl
@[simp] theorem putTrim_lvls (d : Dev) (i : Nat) (x : Trim) : (d.putTrim i x).lvls = d.lvls := rfl
@[simp] theorem putTrim_meas (d : Dev) (i : Nat) (x : Trim) : (d.putTrim i x).meas = d.meas := rfl
@[simp] theorem putTrim_calbus (d : Dev) (i : Nat) (x : Trim) : (d.putTrim i x).calbus = d.calbus := rfl
@[simp] theorem putTrim_acq (d : Dev) (i : Nat) (x : Trim) : (d.putTrim i x).acq = d.acq := rfl
@[simp] theorem putTrim_sb (d : Dev) (i : Nat) (x : Trim) : (d.putTrim i x).sb = d.sb := rfl
@[simp] theorem putTrim_mc (d : Dev) (i : Nat) (x : Trim) : (d.putTrim i x).mc = d.mc := rfl
@[simp] theorem putTrim_dramc (d : Dev) (i : Nat) (x : Trim) : (d.putTrim i x).dramc = d.dramc := rfl
@[simp] theorem putTrim_srm (d : Dev) (i : Nat) (x : Trim) : (d.putTrim i x).srm = d.srm := rfl
@[simp] theorem putTrim_pwr (d : Dev) (i : Nat) (x : Trim) : (d.putTrim i x).pwr = d.pwr := rfl
@[simp] theorem putTrim_vlt (d : Dev) (i : Nat) (x : Trim) : (d.putTrim i x).vlt = d.vlt := rfl
@[simp] theorem putSb_regs (d : Dev) (p e : Nat) (x : Sb) : (d.putSb p e x).regs = d.regs := rfl
@[simp] theorem putSb_live (d : Dev) (p e : Nat) (x : Sb) : (d.putSb p e x).live = d.live := rfl
@[simp] theorem putSb_gtc (d : Dev) (p e : Nat) (x : Sb) : (d.putSb p e x).gtc = d.gtc := rfl
@[simp] theorem putSb_counting (d : Dev) (p e : Nat) (x : Sb) : (d.putSb p e x).counting = d.counting := rfl
@[simp] theorem putSb_evt (d : Dev) (p e : Nat) (x : Sb) : (d.putSb p e x).evt = d.evt := rfl
@[simp] theorem putSb_hif (d : Dev) (p e : Nat) (x : Sb) : (d.putSb p e x).hif = d.hif := rfl
@[simp] theorem putSb_dma (d : Dev) (p e : Nat) (x : Sb) : (d.putSb p e x).dma = d.dma := rfl
@[simp] theorem putSb_clk (d : Dev) (p e : Nat) (x : Sb) : (d.putSb p e x).clk = d.clk := rfl
@[simp] theorem putSb_sync (d : Dev) (p e : Nat) (x : Sb) : (d.putSb p e x).sync = d.sync := rfl
@[simp] theorem putSb_tcq (d : Dev) (p e : Nat) (x : Sb) : (d.putSb p e x).tcq = d.tcq := rfl
@[simp] theorem putSb_pend (d : Dev) (p e : Nat) (x : Sb) : (d.putSb p e x).pend = d.pend := rfl
@[simp] theorem putSb_boot (d : Dev) (p e : Nat) (x : Sb) : (d.putSb p e x).boot = d.boot := rfl
@[simp] theorem putSb_dram (d : Dev) (p e : Nat) (x : Sb) : (d.putSb p e x).dram = d.dram := rfl
@[simp] theorem putSb_sram (d : Dev) (p e : Nat) (x : Sb) : (d.putSb p e x).sram = d.sram := rfl
@[simp] theorem putSb_ledger (d : Dev) (p e : Nat) (x : Sb) : (d.putSb p e x).ledger = d.ledger := rfl
@[simp] theorem putSb_hostMem (d : Dev) (p e : Nat) (x : Sb) : (d.putSb p e x).hostMem = d.hostMem := rfl
@[simp] theorem putSb_fresh (d : Dev) (p e : Nat) (x : Sb) : (d.putSb p e x).fresh = d.fresh := rfl
@[simp] theorem putSb_seq (d : Dev) (p e : Nat) (x : Sb) : (d.putSb p e x).seq = d.seq := rfl
@[simp] theorem putSb_pins (d : Dev) (p e : Nat) (x : Sb) : (d.putSb p e x).pins = d.pins := rfl
@[simp] theorem putSb_apg (d : Dev) (p e : Nat) (x : Sb) : (d.putSb p e x).apg = d.apg := rfl
@[simp] theorem putSb_chans (d : Dev) (p e : Nat) (x : Sb) : (d.putSb p e x).chans = d.chans := rfl
@[simp] theorem putSb_flp (d : Dev) (p e : Nat) (x : Sb) : (d.putSb p e x).flp = d.flp := rfl
@[simp] theorem putSb_lvls (d : Dev) (p e : Nat) (x : Sb) : (d.putSb p e x).lvls = d.lvls := rfl
@[simp] theorem putSb_meas (d : Dev) (p e : Nat) (x : Sb) : (d.putSb p e x).meas = d.meas := rfl
@[simp] theorem putSb_calbus (d : Dev) (p e : Nat) (x : Sb) : (d.putSb p e x).calbus = d.calbus := rfl
@[simp] theorem putSb_trims (d : Dev) (p e : Nat) (x : Sb) : (d.putSb p e x).trims = d.trims := rfl
@[simp] theorem putSb_acq (d : Dev) (p e : Nat) (x : Sb) : (d.putSb p e x).acq = d.acq := rfl
@[simp] theorem putSb_mc (d : Dev) (p e : Nat) (x : Sb) : (d.putSb p e x).mc = d.mc := rfl
@[simp] theorem putSb_dramc (d : Dev) (p e : Nat) (x : Sb) : (d.putSb p e x).dramc = d.dramc := rfl
@[simp] theorem putSb_srm (d : Dev) (p e : Nat) (x : Sb) : (d.putSb p e x).srm = d.srm := rfl
@[simp] theorem putSb_pwr (d : Dev) (p e : Nat) (x : Sb) : (d.putSb p e x).pwr = d.pwr := rfl
@[simp] theorem putSb_vlt (d : Dev) (p e : Nat) (x : Sb) : (d.putSb p e x).vlt = d.vlt := rfl
@[simp] theorem putMc_regs (d : Dev) (c : Nat) (x : Mc) : (d.putMc c x).regs = d.regs := rfl
@[simp] theorem putMc_live (d : Dev) (c : Nat) (x : Mc) : (d.putMc c x).live = d.live := rfl
@[simp] theorem putMc_gtc (d : Dev) (c : Nat) (x : Mc) : (d.putMc c x).gtc = d.gtc := rfl
@[simp] theorem putMc_counting (d : Dev) (c : Nat) (x : Mc) : (d.putMc c x).counting = d.counting := rfl
@[simp] theorem putMc_evt (d : Dev) (c : Nat) (x : Mc) : (d.putMc c x).evt = d.evt := rfl
@[simp] theorem putMc_hif (d : Dev) (c : Nat) (x : Mc) : (d.putMc c x).hif = d.hif := rfl
@[simp] theorem putMc_dma (d : Dev) (c : Nat) (x : Mc) : (d.putMc c x).dma = d.dma := rfl
@[simp] theorem putMc_clk (d : Dev) (c : Nat) (x : Mc) : (d.putMc c x).clk = d.clk := rfl
@[simp] theorem putMc_sync (d : Dev) (c : Nat) (x : Mc) : (d.putMc c x).sync = d.sync := rfl
@[simp] theorem putMc_tcq (d : Dev) (c : Nat) (x : Mc) : (d.putMc c x).tcq = d.tcq := rfl
@[simp] theorem putMc_pend (d : Dev) (c : Nat) (x : Mc) : (d.putMc c x).pend = d.pend := rfl
@[simp] theorem putMc_boot (d : Dev) (c : Nat) (x : Mc) : (d.putMc c x).boot = d.boot := rfl
@[simp] theorem putMc_dram (d : Dev) (c : Nat) (x : Mc) : (d.putMc c x).dram = d.dram := rfl
@[simp] theorem putMc_sram (d : Dev) (c : Nat) (x : Mc) : (d.putMc c x).sram = d.sram := rfl
@[simp] theorem putMc_ledger (d : Dev) (c : Nat) (x : Mc) : (d.putMc c x).ledger = d.ledger := rfl
@[simp] theorem putMc_hostMem (d : Dev) (c : Nat) (x : Mc) : (d.putMc c x).hostMem = d.hostMem := rfl
@[simp] theorem putMc_fresh (d : Dev) (c : Nat) (x : Mc) : (d.putMc c x).fresh = d.fresh := rfl
@[simp] theorem putMc_seq (d : Dev) (c : Nat) (x : Mc) : (d.putMc c x).seq = d.seq := rfl
@[simp] theorem putMc_pins (d : Dev) (c : Nat) (x : Mc) : (d.putMc c x).pins = d.pins := rfl
@[simp] theorem putMc_apg (d : Dev) (c : Nat) (x : Mc) : (d.putMc c x).apg = d.apg := rfl
@[simp] theorem putMc_chans (d : Dev) (c : Nat) (x : Mc) : (d.putMc c x).chans = d.chans := rfl
@[simp] theorem putMc_flp (d : Dev) (c : Nat) (x : Mc) : (d.putMc c x).flp = d.flp := rfl
@[simp] theorem putMc_lvls (d : Dev) (c : Nat) (x : Mc) : (d.putMc c x).lvls = d.lvls := rfl
@[simp] theorem putMc_meas (d : Dev) (c : Nat) (x : Mc) : (d.putMc c x).meas = d.meas := rfl
@[simp] theorem putMc_calbus (d : Dev) (c : Nat) (x : Mc) : (d.putMc c x).calbus = d.calbus := rfl
@[simp] theorem putMc_trims (d : Dev) (c : Nat) (x : Mc) : (d.putMc c x).trims = d.trims := rfl
@[simp] theorem putMc_acq (d : Dev) (c : Nat) (x : Mc) : (d.putMc c x).acq = d.acq := rfl
@[simp] theorem putMc_sb (d : Dev) (c : Nat) (x : Mc) : (d.putMc c x).sb = d.sb := rfl
@[simp] theorem putMc_dramc (d : Dev) (c : Nat) (x : Mc) : (d.putMc c x).dramc = d.dramc := rfl
@[simp] theorem putMc_srm (d : Dev) (c : Nat) (x : Mc) : (d.putMc c x).srm = d.srm := rfl
@[simp] theorem putMc_pwr (d : Dev) (c : Nat) (x : Mc) : (d.putMc c x).pwr = d.pwr := rfl
@[simp] theorem putMc_vlt (d : Dev) (c : Nat) (x : Mc) : (d.putMc c x).vlt = d.vlt := rfl
@[simp] theorem hostWrite_regs (d : Dev) (a : Nat) (bs : List Byte) : (d.hostWrite a bs).regs = d.regs := rfl
@[simp] theorem hostWrite_live (d : Dev) (a : Nat) (bs : List Byte) : (d.hostWrite a bs).live = d.live := rfl
@[simp] theorem hostWrite_gtc (d : Dev) (a : Nat) (bs : List Byte) : (d.hostWrite a bs).gtc = d.gtc := rfl
@[simp] theorem hostWrite_counting (d : Dev) (a : Nat) (bs : List Byte) : (d.hostWrite a bs).counting = d.counting := rfl
@[simp] theorem hostWrite_evt (d : Dev) (a : Nat) (bs : List Byte) : (d.hostWrite a bs).evt = d.evt := rfl
@[simp] theorem hostWrite_hif (d : Dev) (a : Nat) (bs : List Byte) : (d.hostWrite a bs).hif = d.hif := rfl
@[simp] theorem hostWrite_dma (d : Dev) (a : Nat) (bs : List Byte) : (d.hostWrite a bs).dma = d.dma := rfl
@[simp] theorem hostWrite_clk (d : Dev) (a : Nat) (bs : List Byte) : (d.hostWrite a bs).clk = d.clk := rfl
@[simp] theorem hostWrite_sync (d : Dev) (a : Nat) (bs : List Byte) : (d.hostWrite a bs).sync = d.sync := rfl
@[simp] theorem hostWrite_tcq (d : Dev) (a : Nat) (bs : List Byte) : (d.hostWrite a bs).tcq = d.tcq := rfl
@[simp] theorem hostWrite_pend (d : Dev) (a : Nat) (bs : List Byte) : (d.hostWrite a bs).pend = d.pend := rfl
@[simp] theorem hostWrite_boot (d : Dev) (a : Nat) (bs : List Byte) : (d.hostWrite a bs).boot = d.boot := rfl
@[simp] theorem hostWrite_dram (d : Dev) (a : Nat) (bs : List Byte) : (d.hostWrite a bs).dram = d.dram := rfl
@[simp] theorem hostWrite_sram (d : Dev) (a : Nat) (bs : List Byte) : (d.hostWrite a bs).sram = d.sram := rfl
@[simp] theorem hostWrite_ledger (d : Dev) (a : Nat) (bs : List Byte) : (d.hostWrite a bs).ledger = d.ledger := rfl
@[simp] theorem hostWrite_fresh (d : Dev) (a : Nat) (bs : List Byte) : (d.hostWrite a bs).fresh = d.fresh := rfl
@[simp] theorem hostWrite_seq (d : Dev) (a : Nat) (bs : List Byte) : (d.hostWrite a bs).seq = d.seq := rfl
@[simp] theorem hostWrite_pins (d : Dev) (a : Nat) (bs : List Byte) : (d.hostWrite a bs).pins = d.pins := rfl
@[simp] theorem hostWrite_apg (d : Dev) (a : Nat) (bs : List Byte) : (d.hostWrite a bs).apg = d.apg := rfl
@[simp] theorem hostWrite_chans (d : Dev) (a : Nat) (bs : List Byte) : (d.hostWrite a bs).chans = d.chans := rfl
@[simp] theorem hostWrite_flp (d : Dev) (a : Nat) (bs : List Byte) : (d.hostWrite a bs).flp = d.flp := rfl
@[simp] theorem hostWrite_lvls (d : Dev) (a : Nat) (bs : List Byte) : (d.hostWrite a bs).lvls = d.lvls := rfl
@[simp] theorem hostWrite_meas (d : Dev) (a : Nat) (bs : List Byte) : (d.hostWrite a bs).meas = d.meas := rfl
@[simp] theorem hostWrite_calbus (d : Dev) (a : Nat) (bs : List Byte) : (d.hostWrite a bs).calbus = d.calbus := rfl
@[simp] theorem hostWrite_trims (d : Dev) (a : Nat) (bs : List Byte) : (d.hostWrite a bs).trims = d.trims := rfl
@[simp] theorem hostWrite_acq (d : Dev) (a : Nat) (bs : List Byte) : (d.hostWrite a bs).acq = d.acq := rfl
@[simp] theorem hostWrite_sb (d : Dev) (a : Nat) (bs : List Byte) : (d.hostWrite a bs).sb = d.sb := rfl
@[simp] theorem hostWrite_mc (d : Dev) (a : Nat) (bs : List Byte) : (d.hostWrite a bs).mc = d.mc := rfl
@[simp] theorem hostWrite_dramc (d : Dev) (a : Nat) (bs : List Byte) : (d.hostWrite a bs).dramc = d.dramc := rfl
@[simp] theorem hostWrite_srm (d : Dev) (a : Nat) (bs : List Byte) : (d.hostWrite a bs).srm = d.srm := rfl
@[simp] theorem hostWrite_pwr (d : Dev) (a : Nat) (bs : List Byte) : (d.hostWrite a bs).pwr = d.pwr := rfl
@[simp] theorem hostWrite_vlt (d : Dev) (a : Nat) (bs : List Byte) : (d.hostWrite a bs).vlt = d.vlt := rfl
@[simp] theorem sramWrite_regs (d : Dev) (a : Nat) (bs : List Byte) : (d.sramWrite a bs).regs = d.regs := rfl
@[simp] theorem sramWrite_live (d : Dev) (a : Nat) (bs : List Byte) : (d.sramWrite a bs).live = d.live := rfl
@[simp] theorem sramWrite_gtc (d : Dev) (a : Nat) (bs : List Byte) : (d.sramWrite a bs).gtc = d.gtc := rfl
@[simp] theorem sramWrite_counting (d : Dev) (a : Nat) (bs : List Byte) : (d.sramWrite a bs).counting = d.counting := rfl
@[simp] theorem sramWrite_evt (d : Dev) (a : Nat) (bs : List Byte) : (d.sramWrite a bs).evt = d.evt := rfl
@[simp] theorem sramWrite_hif (d : Dev) (a : Nat) (bs : List Byte) : (d.sramWrite a bs).hif = d.hif := rfl
@[simp] theorem sramWrite_dma (d : Dev) (a : Nat) (bs : List Byte) : (d.sramWrite a bs).dma = d.dma := rfl
@[simp] theorem sramWrite_clk (d : Dev) (a : Nat) (bs : List Byte) : (d.sramWrite a bs).clk = d.clk := rfl
@[simp] theorem sramWrite_sync (d : Dev) (a : Nat) (bs : List Byte) : (d.sramWrite a bs).sync = d.sync := rfl
@[simp] theorem sramWrite_tcq (d : Dev) (a : Nat) (bs : List Byte) : (d.sramWrite a bs).tcq = d.tcq := rfl
@[simp] theorem sramWrite_pend (d : Dev) (a : Nat) (bs : List Byte) : (d.sramWrite a bs).pend = d.pend := rfl
@[simp] theorem sramWrite_boot (d : Dev) (a : Nat) (bs : List Byte) : (d.sramWrite a bs).boot = d.boot := rfl
@[simp] theorem sramWrite_dram (d : Dev) (a : Nat) (bs : List Byte) : (d.sramWrite a bs).dram = d.dram := rfl
@[simp] theorem sramWrite_ledger (d : Dev) (a : Nat) (bs : List Byte) : (d.sramWrite a bs).ledger = d.ledger := rfl
@[simp] theorem sramWrite_hostMem (d : Dev) (a : Nat) (bs : List Byte) : (d.sramWrite a bs).hostMem = d.hostMem := rfl
@[simp] theorem sramWrite_fresh (d : Dev) (a : Nat) (bs : List Byte) : (d.sramWrite a bs).fresh = d.fresh := rfl
@[simp] theorem sramWrite_seq (d : Dev) (a : Nat) (bs : List Byte) : (d.sramWrite a bs).seq = d.seq := rfl
@[simp] theorem sramWrite_pins (d : Dev) (a : Nat) (bs : List Byte) : (d.sramWrite a bs).pins = d.pins := rfl
@[simp] theorem sramWrite_apg (d : Dev) (a : Nat) (bs : List Byte) : (d.sramWrite a bs).apg = d.apg := rfl
@[simp] theorem sramWrite_chans (d : Dev) (a : Nat) (bs : List Byte) : (d.sramWrite a bs).chans = d.chans := rfl
@[simp] theorem sramWrite_flp (d : Dev) (a : Nat) (bs : List Byte) : (d.sramWrite a bs).flp = d.flp := rfl
@[simp] theorem sramWrite_lvls (d : Dev) (a : Nat) (bs : List Byte) : (d.sramWrite a bs).lvls = d.lvls := rfl
@[simp] theorem sramWrite_meas (d : Dev) (a : Nat) (bs : List Byte) : (d.sramWrite a bs).meas = d.meas := rfl
@[simp] theorem sramWrite_calbus (d : Dev) (a : Nat) (bs : List Byte) : (d.sramWrite a bs).calbus = d.calbus := rfl
@[simp] theorem sramWrite_trims (d : Dev) (a : Nat) (bs : List Byte) : (d.sramWrite a bs).trims = d.trims := rfl
@[simp] theorem sramWrite_acq (d : Dev) (a : Nat) (bs : List Byte) : (d.sramWrite a bs).acq = d.acq := rfl
@[simp] theorem sramWrite_sb (d : Dev) (a : Nat) (bs : List Byte) : (d.sramWrite a bs).sb = d.sb := rfl
@[simp] theorem sramWrite_mc (d : Dev) (a : Nat) (bs : List Byte) : (d.sramWrite a bs).mc = d.mc := rfl
@[simp] theorem sramWrite_dramc (d : Dev) (a : Nat) (bs : List Byte) : (d.sramWrite a bs).dramc = d.dramc := rfl
@[simp] theorem sramWrite_srm (d : Dev) (a : Nat) (bs : List Byte) : (d.sramWrite a bs).srm = d.srm := rfl
@[simp] theorem sramWrite_pwr (d : Dev) (a : Nat) (bs : List Byte) : (d.sramWrite a bs).pwr = d.pwr := rfl
@[simp] theorem sramWrite_vlt (d : Dev) (a : Nat) (bs : List Byte) : (d.sramWrite a bs).vlt = d.vlt := rfl
@[simp] theorem sramPut_regs (d : Dev) (a v : Nat) : (d.sramPut a v).regs = d.regs := rfl
@[simp] theorem sramPut_live (d : Dev) (a v : Nat) : (d.sramPut a v).live = d.live := rfl
@[simp] theorem sramPut_gtc (d : Dev) (a v : Nat) : (d.sramPut a v).gtc = d.gtc := rfl
@[simp] theorem sramPut_counting (d : Dev) (a v : Nat) : (d.sramPut a v).counting = d.counting := rfl
@[simp] theorem sramPut_evt (d : Dev) (a v : Nat) : (d.sramPut a v).evt = d.evt := rfl
@[simp] theorem sramPut_hif (d : Dev) (a v : Nat) : (d.sramPut a v).hif = d.hif := rfl
@[simp] theorem sramPut_dma (d : Dev) (a v : Nat) : (d.sramPut a v).dma = d.dma := rfl
@[simp] theorem sramPut_clk (d : Dev) (a v : Nat) : (d.sramPut a v).clk = d.clk := rfl
@[simp] theorem sramPut_sync (d : Dev) (a v : Nat) : (d.sramPut a v).sync = d.sync := rfl
@[simp] theorem sramPut_tcq (d : Dev) (a v : Nat) : (d.sramPut a v).tcq = d.tcq := rfl
@[simp] theorem sramPut_pend (d : Dev) (a v : Nat) : (d.sramPut a v).pend = d.pend := rfl
@[simp] theorem sramPut_boot (d : Dev) (a v : Nat) : (d.sramPut a v).boot = d.boot := rfl
@[simp] theorem sramPut_dram (d : Dev) (a v : Nat) : (d.sramPut a v).dram = d.dram := rfl
@[simp] theorem sramPut_ledger (d : Dev) (a v : Nat) : (d.sramPut a v).ledger = d.ledger := rfl
@[simp] theorem sramPut_hostMem (d : Dev) (a v : Nat) : (d.sramPut a v).hostMem = d.hostMem := rfl
@[simp] theorem sramPut_fresh (d : Dev) (a v : Nat) : (d.sramPut a v).fresh = d.fresh := rfl
@[simp] theorem sramPut_seq (d : Dev) (a v : Nat) : (d.sramPut a v).seq = d.seq := rfl
@[simp] theorem sramPut_pins (d : Dev) (a v : Nat) : (d.sramPut a v).pins = d.pins := rfl
@[simp] theorem sramPut_apg (d : Dev) (a v : Nat) : (d.sramPut a v).apg = d.apg := rfl
@[simp] theorem sramPut_chans (d : Dev) (a v : Nat) : (d.sramPut a v).chans = d.chans := rfl
@[simp] theorem sramPut_flp (d : Dev) (a v : Nat) : (d.sramPut a v).flp = d.flp := rfl
@[simp] theorem sramPut_lvls (d : Dev) (a v : Nat) : (d.sramPut a v).lvls = d.lvls := rfl
@[simp] theorem sramPut_meas (d : Dev) (a v : Nat) : (d.sramPut a v).meas = d.meas := rfl
@[simp] theorem sramPut_calbus (d : Dev) (a v : Nat) : (d.sramPut a v).calbus = d.calbus := rfl
@[simp] theorem sramPut_trims (d : Dev) (a v : Nat) : (d.sramPut a v).trims = d.trims := rfl
@[simp] theorem sramPut_acq (d : Dev) (a v : Nat) : (d.sramPut a v).acq = d.acq := rfl
@[simp] theorem sramPut_sb (d : Dev) (a v : Nat) : (d.sramPut a v).sb = d.sb := rfl
@[simp] theorem sramPut_mc (d : Dev) (a v : Nat) : (d.sramPut a v).mc = d.mc := rfl
@[simp] theorem sramPut_dramc (d : Dev) (a v : Nat) : (d.sramPut a v).dramc = d.dramc := rfl
@[simp] theorem sramPut_srm (d : Dev) (a v : Nat) : (d.sramPut a v).srm = d.srm := rfl
@[simp] theorem sramPut_pwr (d : Dev) (a v : Nat) : (d.sramPut a v).pwr = d.pwr := rfl
@[simp] theorem sramPut_vlt (d : Dev) (a v : Nat) : (d.sramPut a v).vlt = d.vlt := rfl
@[simp] theorem answer_regs (d : Dev) (ws : List Nat) : (d.answer ws).regs = d.regs := rfl
@[simp] theorem answer_live (d : Dev) (ws : List Nat) : (d.answer ws).live = d.live := rfl
@[simp] theorem answer_gtc (d : Dev) (ws : List Nat) : (d.answer ws).gtc = d.gtc := rfl
@[simp] theorem answer_counting (d : Dev) (ws : List Nat) : (d.answer ws).counting = d.counting := rfl
@[simp] theorem answer_evt (d : Dev) (ws : List Nat) : (d.answer ws).evt = d.evt := rfl
@[simp] theorem answer_dma (d : Dev) (ws : List Nat) : (d.answer ws).dma = d.dma := rfl
@[simp] theorem answer_clk (d : Dev) (ws : List Nat) : (d.answer ws).clk = d.clk := rfl
@[simp] theorem answer_sync (d : Dev) (ws : List Nat) : (d.answer ws).sync = d.sync := rfl
@[simp] theorem answer_tcq (d : Dev) (ws : List Nat) : (d.answer ws).tcq = d.tcq := rfl
@[simp] theorem answer_pend (d : Dev) (ws : List Nat) : (d.answer ws).pend = d.pend := rfl
@[simp] theorem answer_boot (d : Dev) (ws : List Nat) : (d.answer ws).boot = d.boot := rfl
@[simp] theorem answer_dram (d : Dev) (ws : List Nat) : (d.answer ws).dram = d.dram := rfl
@[simp] theorem answer_sram (d : Dev) (ws : List Nat) : (d.answer ws).sram = d.sram := rfl
@[simp] theorem answer_ledger (d : Dev) (ws : List Nat) : (d.answer ws).ledger = d.ledger := rfl
@[simp] theorem answer_hostMem (d : Dev) (ws : List Nat) : (d.answer ws).hostMem = d.hostMem := rfl
@[simp] theorem answer_fresh (d : Dev) (ws : List Nat) : (d.answer ws).fresh = d.fresh := rfl
@[simp] theorem answer_seq (d : Dev) (ws : List Nat) : (d.answer ws).seq = d.seq := rfl
@[simp] theorem answer_pins (d : Dev) (ws : List Nat) : (d.answer ws).pins = d.pins := rfl
@[simp] theorem answer_apg (d : Dev) (ws : List Nat) : (d.answer ws).apg = d.apg := rfl
@[simp] theorem answer_chans (d : Dev) (ws : List Nat) : (d.answer ws).chans = d.chans := rfl
@[simp] theorem answer_flp (d : Dev) (ws : List Nat) : (d.answer ws).flp = d.flp := rfl
@[simp] theorem answer_lvls (d : Dev) (ws : List Nat) : (d.answer ws).lvls = d.lvls := rfl
@[simp] theorem answer_meas (d : Dev) (ws : List Nat) : (d.answer ws).meas = d.meas := rfl
@[simp] theorem answer_calbus (d : Dev) (ws : List Nat) : (d.answer ws).calbus = d.calbus := rfl
@[simp] theorem answer_trims (d : Dev) (ws : List Nat) : (d.answer ws).trims = d.trims := rfl
@[simp] theorem answer_acq (d : Dev) (ws : List Nat) : (d.answer ws).acq = d.acq := rfl
@[simp] theorem answer_sb (d : Dev) (ws : List Nat) : (d.answer ws).sb = d.sb := rfl
@[simp] theorem answer_mc (d : Dev) (ws : List Nat) : (d.answer ws).mc = d.mc := rfl
@[simp] theorem answer_dramc (d : Dev) (ws : List Nat) : (d.answer ws).dramc = d.dramc := rfl
@[simp] theorem answer_srm (d : Dev) (ws : List Nat) : (d.answer ws).srm = d.srm := rfl
@[simp] theorem answer_pwr (d : Dev) (ws : List Nat) : (d.answer ws).pwr = d.pwr := rfl
@[simp] theorem answer_vlt (d : Dev) (ws : List Nat) : (d.answer ws).vlt = d.vlt := rfl
@[simp] theorem setResetting_regs (d : Dev) (u v : Nat) : (d.setResetting u v).regs = d.regs := rfl
@[simp] theorem setResetting_live (d : Dev) (u v : Nat) : (d.setResetting u v).live = d.live := rfl
@[simp] theorem setResetting_gtc (d : Dev) (u v : Nat) : (d.setResetting u v).gtc = d.gtc := rfl
@[simp] theorem setResetting_counting (d : Dev) (u v : Nat) : (d.setResetting u v).counting = d.counting := rfl
@[simp] theorem setResetting_evt (d : Dev) (u v : Nat) : (d.setResetting u v).evt = d.evt := rfl
@[simp] theorem setResetting_hif (d : Dev) (u v : Nat) : (d.setResetting u v).hif = d.hif := rfl
@[simp] theorem setResetting_dma (d : Dev) (u v : Nat) : (d.setResetting u v).dma = d.dma := rfl
@[simp] theorem setResetting_clk (d : Dev) (u v : Nat) : (d.setResetting u v).clk = d.clk := rfl
@[simp] theorem setResetting_sync (d : Dev) (u v : Nat) : (d.setResetting u v).sync = d.sync := rfl
@[simp] theorem setResetting_tcq (d : Dev) (u v : Nat) : (d.setResetting u v).tcq = d.tcq := rfl
@[simp] theorem setResetting_pend (d : Dev) (u v : Nat) : (d.setResetting u v).pend = d.pend := rfl
@[simp] theorem setResetting_dram (d : Dev) (u v : Nat) : (d.setResetting u v).dram = d.dram := rfl
@[simp] theorem setResetting_sram (d : Dev) (u v : Nat) : (d.setResetting u v).sram = d.sram := rfl
@[simp] theorem setResetting_ledger (d : Dev) (u v : Nat) : (d.setResetting u v).ledger = d.ledger := rfl
@[simp] theorem setResetting_hostMem (d : Dev) (u v : Nat) : (d.setResetting u v).hostMem = d.hostMem := rfl
@[simp] theorem setResetting_fresh (d : Dev) (u v : Nat) : (d.setResetting u v).fresh = d.fresh := rfl
@[simp] theorem setResetting_seq (d : Dev) (u v : Nat) : (d.setResetting u v).seq = d.seq := rfl
@[simp] theorem setResetting_pins (d : Dev) (u v : Nat) : (d.setResetting u v).pins = d.pins := rfl
@[simp] theorem setResetting_apg (d : Dev) (u v : Nat) : (d.setResetting u v).apg = d.apg := rfl
@[simp] theorem setResetting_chans (d : Dev) (u v : Nat) : (d.setResetting u v).chans = d.chans := rfl
@[simp] theorem setResetting_flp (d : Dev) (u v : Nat) : (d.setResetting u v).flp = d.flp := rfl
@[simp] theorem setResetting_lvls (d : Dev) (u v : Nat) : (d.setResetting u v).lvls = d.lvls := rfl
@[simp] theorem setResetting_meas (d : Dev) (u v : Nat) : (d.setResetting u v).meas = d.meas := rfl
@[simp] theorem setResetting_calbus (d : Dev) (u v : Nat) : (d.setResetting u v).calbus = d.calbus := rfl
@[simp] theorem setResetting_trims (d : Dev) (u v : Nat) : (d.setResetting u v).trims = d.trims := rfl
@[simp] theorem setResetting_acq (d : Dev) (u v : Nat) : (d.setResetting u v).acq = d.acq := rfl
@[simp] theorem setResetting_sb (d : Dev) (u v : Nat) : (d.setResetting u v).sb = d.sb := rfl
@[simp] theorem setResetting_mc (d : Dev) (u v : Nat) : (d.setResetting u v).mc = d.mc := rfl
@[simp] theorem setResetting_dramc (d : Dev) (u v : Nat) : (d.setResetting u v).dramc = d.dramc := rfl
@[simp] theorem setResetting_srm (d : Dev) (u v : Nat) : (d.setResetting u v).srm = d.srm := rfl
@[simp] theorem setResetting_pwr (d : Dev) (u v : Nat) : (d.setResetting u v).pwr = d.pwr := rfl
@[simp] theorem setResetting_vlt (d : Dev) (u v : Nat) : (d.setResetting u v).vlt = d.vlt := rfl

end Dev
end Sys2Proof.Machine
end

