-- ==== Sys2Proof/Laws/Events.lean ====
section
/-! SUPPORT. What an occurrence of an event and its reactions leave alone. -/
namespace Sys2Proof.Machine

theorem foldl_keep {α β γ : Type} (g : α → γ) (f : α → β → α) (h : ∀ x y, g (f x y) = g x) : ∀ (l : List β) (x : α), g (l.foldl f x) = g x := by
  intro l
  induction l with
  | nil => intro x; rfl
  | cons y t ih => intro x; rw [List.foldl_cons, ih, h]

theorem foldl_keep_mem {α β γ : Type} (g : α → γ) (f : α → β → α) :
    ∀ (l : List β), (∀ y ∈ l, ∀ x, g (f x y) = g x) → ∀ x, g (l.foldl f x) = g x := by
  intro l
  induction l with
  | nil => intro _ x; rfl
  | cons y t ih =>
    intro h x
    rw [List.foldl_cons, ih (fun z hz => h z (List.mem_cons_of_mem _ hz)), h y (List.mem_cons_self ..)]

namespace Dev

/-- The device without what an event may touch. -/
def calm (d : Dev) : Dev :=
  { d with regs := [], evt := Evt.reset, sram := [], hostMem := [], hif := Hif.reset, seq := [], apg := [], chans := [], lvls := [], acq := [] }

@[simp] theorem set_calm (d : Dev) (a : Nat) (w : Word) : (d.set a w).calm = d.calm := rfl
@[simp] theorem wf_calm (d : Dev) (a : Nat) (f : Fld) (v : Nat) : (d.wf a f v).calm = d.calm := rfl
@[simp] theorem setN_calm (d : Dev) (a v : Nat) : (d.setN a v).calm = d.calm := rfl
@[simp] theorem cnt_calm (d : Dev) (a : Nat) (f : Fld) (v : Nat) : (d.cnt a f v).calm = d.calm := rfl
@[simp] theorem setEsrc_calm (d : Dev) (s : Nat) (e : EvtSrc) : (d.setEsrc s e).calm = d.calm := rfl
@[simp] theorem putSeq_calm (d : Dev) (p : Nat) (s : Seq) : (d.putSeq p s).calm = d.calm := by simp [calm]
@[simp] theorem putChan_calm (d : Dev) (p : Nat) (s : Chan) : (d.putChan p s).calm = d.calm := rfl
@[simp] theorem putLvl_calm (d : Dev) (p : Nat) (s : Lvl) : (d.putLvl p s).calm = d.calm := rfl
@[simp] theorem putAcq_calm (d : Dev) (p : Nat) (s : Acq) : (d.putAcq p s).calm = d.calm := rfl
@[simp] theorem sramWrite_calm (d : Dev) (a : Nat) (b : List Byte) : (d.sramWrite a b).calm = d.calm := rfl
@[simp] theorem hostWrite_calm (d : Dev) (a : Nat) (b : List Byte) : (d.hostWrite a b).calm = d.calm := rfl
@[simp] theorem evt_calm (d : Dev) (e : Evt) : Dev.calm { d with evt := e } = d.calm := rfl
@[simp] theorem hif_calm (d : Dev) (e : Hif) : Dev.calm { d with hif := e } = d.calm := rfl

@[simp] theorem msixSend_calm (d : Dev) (v : Nat) : (d.msixSend v).calm = d.calm := rfl

@[simp] theorem setMsixPending_calm (d : Dev) (v : Nat) (b : Bool) : (d.setMsixPending v b).calm = d.calm := rfl

@[simp] theorem msixAssert_calm (d : Dev) (v : Nat) : (d.msixAssert v).calm = d.calm := by
  unfold msixAssert
  split
  · exact setMsixPending_calm d v true
  · exact msixSend_calm d v

theorem evqPlace_calm (s t : Nat) : ∀ (n : Nat) (bs : List Byte) (j : Nat) (d : Dev), (d.evqPlace s t bs n j).calm = d.calm := by
  intro n
  induction n with
  | zero => intro bs j d; rfl
  | succ n ih => intro bs j d; unfold evqPlace; simp only []; split <;> simp [ih]

@[simp] theorem evqWrite_calm (d : Dev) (cls : Nat) (e f : Bool) (r s c : Nat) : (d.evqWrite cls e f r s c).1.calm = d.calm := by
  unfold evqWrite
  split
  · rfl
  · exact (setN_calm _ _ _).trans ((evt_calm _ _).trans (evqPlace_calm _ _ _ _ _ _))

@[simp] theorem firstFault_calm (d : Dev) (s c : Nat) (e f : Bool) : (d.firstFault s c e f).calm = d.calm := by
  unfold firstFault
  simp only []
  split
  · simp
  · split <;> simp

@[simp] theorem latchOut_calm (d : Dev) (s cls : Nat) (e f : Bool) (r c : Nat) (x : Bool) : (d.latchOut s cls e f r c x).1.calm = d.calm := by
  unfold latchOut
  simp only []
  split <;> split <;> split <;> simp

@[simp] theorem occurOne_calm (s : Nat) (d : Dev) : (d.occurOne s).1.calm = d.calm := by
  unfold occurOne
  split
  · rfl
  · extract_lets e w fresh c n up cls escd latch forced e' d1 react same coinc da cands src d2 r
    have h1 : d1.calm = d.calm := setEsrc_calm _ _ _
    have h2 : d2.calm = d.calm := by
      simp only [d2]
      split
      · exact (evt_calm _ _).trans ((firstFault_calm _ _ _ _ _).trans h1)
      · exact h1
    split
    · rfl
    · split
      · exact h1
      · split
        · exact (latchOut_calm _ _ _ _ _ _ _ _).trans h2
        · exact h2

@[simp] theorem occurBook_calm (s : Nat) (d : Dev) : (d.occurBook s).1.calm = d.calm := by
  unfold occurBook
  simp only []
  split <;> simp

@[simp] theorem condSet_calm (s : Nat) (b : Bool) (d : Dev) : (d.condSet s b).1.calm = d.calm := by
  unfold condSet; simp

@[simp] theorem qosReturn_calm (d : Dev) (p : Nat) : (d.qosReturn p).calm = d.calm := by
  unfold qosReturn
  extract_lets a d1
  split <;> rfl

@[simp] theorem capFall_calm (d : Dev) : d.capFall.calm = d.calm := by
  unfold capFall
  split <;> rfl

@[simp] theorem setSeqState_calm (d : Dev) (p v : Nat) : (d.setSeqState p v).calm = d.calm := rfl

@[simp] theorem apgCut_calm (d : Dev) (p : Nat) : (d.apgCut p).calm = d.calm := by
  unfold apgCut
  dsimp only
  split
  · rfl
  · rw [wf_calm]; rfl

@[simp] theorem seqHalt_calm (d : Dev) (p t : Nat) : (d.seqHalt p t).calm = d.calm := by
  unfold seqHalt
  split
  · rfl
  · rw [wf_calm, wf_calm, wf_calm, setSeqState_calm, putSeq_calm, apgCut_calm]

@[simp] theorem seqStop_calm (d : Dev) (p : Nat) : (d.seqStop p).calm = d.calm := by
  unfold seqStop seqStopAt
  split <;> simp

@[simp] theorem readyFall_calm (d : Dev) (i : Nat) : (d.readyFall i).calm = d.calm := by
  unfold readyFall
  split
  · extract_lets d1 d2
    have h2 : d2.calm = d.calm := by
      simp only [d2]
      split <;> rfl
    rw [condSet_calm, h2]
  · rfl

@[simp] theorem pmuOff_calm (d : Dev) (m : Nat) : (d.pmuOff m).calm = d.calm := by
  unfold pmuOff
  extract_lets d1 d2 d3
  rw [putLvl_calm, condSet_calm, condSet_calm]
  rfl

@[simp] theorem safeChan_calm (d : Dev) (i : Nat) : (d.safeChan i).calm = d.calm := by
  unfold safeChan
  extract_lets d1 d2 d3
  have h2 : d2.calm = d.calm := by simp only [d2, readyFall_calm]; rfl
  rw [putChan_calm]
  simp only [d3]
  split
  · exact h2
  · rw [pmuOff_calm]; exact h2

@[simp] theorem safeState_calm (d : Dev) (p : Nat) : (d.safeState p).calm = d.calm := by
  unfold safeState
  rw [capFall_calm, foldl_keep Dev.calm safeChan safeChan_calm]

@[simp] theorem closeOut_calm (d : Dev) (p : Nat) (r : AcqRec) (e : Nat) (t : Bool) : (d.closeOut p r e t).calm = d.calm := rfl

@[simp] theorem setAcqState_calm (d : Dev) (p v : Nat) : (d.setAcqState p v).calm = d.calm := rfl

@[simp] theorem acqFreeze_calm (d : Dev) (p : Nat) : (d.acqFreeze p).calm = d.calm := by
  unfold acqFreeze
  dsimp only
  split
  · split
    · rw [setAcqState_calm, closeOut_calm, wf_calm]
    · rw [setAcqState_calm, wf_calm]
  · split
    · rw [setAcqState_calm, putAcq_calm]
      split
      · split
        · rw [wf_calm]
        · rw [closeOut_calm, wf_calm]
      · rw [wf_calm]
    · split
      · rw [setAcqState_calm, wf_calm]
      · rw [wf_calm]

@[simp] theorem flpFreeze_calm (d : Dev) (p : Nat) : (d.flpFreeze p).calm = d.calm := rfl

@[simp] theorem reactOn_calm (d : Dev) (b p : Nat) : (d.reactOn b p).calm = d.calm := by
  unfold reactOn
  extract_lets d1 d2
  have h1 : d1.calm = d.calm := by simp only [d1]; split <;> simp
  have h2 : d2.calm = d.calm := by simp only [d2]; split <;> simp [h1]
  split <;> simp [h2]

theorem atNextEdge_calm (f : Dev → Dev) (h : ∀ x, (f x).calm = x.calm) (d : Dev) : (atNextEdge f d).calm = d.calm := by
  have e := h { d with gtc := BitVec.ofNat _ (d.edgeAt hclk (d.now + 1)) }
  have e2 : ∀ x : Dev, Dev.calm { x with gtc := d.gtc } = { x.calm with gtc := d.gtc } := fun _ => rfl
  unfold atNextEdge
  rw [e2, e]
  rfl

theorem raiseF_calm : ∀ (f s : Nat) (d : Dev), (raiseF f s d).calm = d.calm := by
  intro f
  induction f with
  | zero => intro s d; simp [raiseF]
  | succ f ih =>
    intro s d
    unfold raiseF
    simp only []
    rw [foldl_keep Dev.calm]
    · simp
    · intro x y
      split
      · rfl
      · apply atNextEdge_calm
        intro z
        rw [foldl_keep Dev.calm]
        intro x p
        split
        · rfl
        · rw [ih]; simp

/-- An occurrence touches registers, the event fabric, its queue, messages, and what its reactions act on: sequencer, APG, channels, levels,
acquisition.  Everything else stands. -/
@[simp] theorem raise_calm (d : Dev) (s : Nat) : (d.raise s).calm = d.calm := raiseF_calm 2 s d

@[simp] theorem setCond_calm (d : Dev) (s : Nat) (b : Bool) : (d.setCond s b).calm = d.calm := by
  unfold setCond
  simp only []
  split <;> simp

end Dev
end Sys2Proof.Machine
end

