-- ==== Sys2Proof/Laws/Memory.lean ====
section
/-! SUPPORT. Laws of the memories: read after write, what a write leaves alone, and that every operation keeps the canonical form. -/
namespace Sys2Proof.Machine

@[simp] theorem mget_mset_same (m : List Host.Cell) (a : Nat) (v : Byte) : mget (mset m a v) a = v := by simp [mget, mset]

theorem mget_mset_ne (m : List Host.Cell) {a q : Nat} (v : Byte) (h : q ≠ a) : mget (mset m a v) q = mget m q :=
  tget_tset_ne zeroCell m v h

/-- A write of bytes leaves every byte outside it alone. -/
theorem mget_mwrite_out (bs : List Byte) : ∀ (m : List Host.Cell) (a q : Nat), (q < a ∨ a + bs.length ≤ q) →
    mget (mwrite m a bs) q = mget m q := by
  induction bs with
  | nil => intro m a q _; rfl
  | cons b t ih =>
    intro m a q h
    simp only [List.length_cons] at h
    rw [mwrite, ih _ _ _ (by omega), mget_mset_ne _ _ (by omega)]

/-- A byte inside a write reads as written. -/
theorem mget_mwrite_in (bs : List Byte) : ∀ (m : List Host.Cell) (a i : Nat) (h : i < bs.length),
    mget (mwrite m a bs) (a + i) = bs[i] := by
  induction bs with
  | nil => intro m a i h; simp at h
  | cons b t ih =>
    intro m a i h
    cases i with
    | zero => rw [mwrite, mget_mwrite_out _ _ _ _ (by omega)]; simp
    | succ i =>
      have := ih (mset m a b) (a + 1) i (by simpa using h)
      rw [mwrite, show a + (i + 1) = a + 1 + i by omega, this]; simp

/-- Bytes read back where they were written. -/
theorem mread_mwrite (bs : List Byte) : ∀ (m : List Host.Cell) (a : Nat), mread (mwrite m a bs) a bs.length = bs := by
  induction bs with
  | nil => intro m a; rfl
  | cons b t ih =>
    intro m a
    simp only [List.length_cons, mread, mwrite]
    rw [ih, mget_mwrite_out _ _ _ _ (by omega)]; simp

theorem mset_wf (m : List Host.Cell) (a : Nat) (v : Byte) (h : Memory.wf m = true) : Memory.wf (mset m a v) = true :=
  tcanon_tset zeroCell m a v h

theorem mwrite_wf (bs : List Byte) : ∀ (m : List Host.Cell) (a : Nat), Memory.wf m = true → Memory.wf (mwrite m a bs) = true := by
  induction bs with
  | nil => intro m a h; exact h
  | cons b t ih => intro m a h; exact ih _ _ (mset_wf m a b h)

theorem mputNat_wf (m : List Host.Cell) (a n v : Nat) (h : Memory.wf m = true) : Memory.wf (mputNat m a n v) = true :=
  mwrite_wf _ m a h

theorem leBytes_length (n : Nat) : ∀ x, (leBytes n x).length = n := by
  induction n with
  | zero => intro x; rfl
  | succ n ih => intro x; simp [leBytes, ih]

theorem leNat_leBytes (n : Nat) : ∀ x, leNat (leBytes n x) = x % 256 ^ n := by
  induction n with
  | zero => intro x; simp [leBytes, leNat, Nat.mod_one]
  | succ n ih =>
    intro x
    rw [leBytes, leNat, ih, BitVec.toNat_ofNat, show (2 : Nat) ^ 8 = 256 from rfl, show 256 ^ (n + 1) = 256 * 256 ^ n by rw [Nat.pow_succ, Nat.mul_comm], Nat.mod_mul]

/-- A number reads back where it was written. -/
theorem mnat_mputNat (m : List Host.Cell) (a n v : Nat) : mnat (mputNat m a n v) a n = v % 256 ^ n := by
  have h := mread_mwrite (leBytes n v) m a
  rw [leBytes_length] at h
  rw [mnat, mputNat, h, leNat_leBytes]

/-- Memories after reset list nothing. -/
theorem reset_memOk : Dev.reset.memOk = true := by decide

end Sys2Proof.Machine
end

