-- ==== Sys2Proof/Laws/Quiet.lean ====
section
/-! SUPPORT. Registers that an event leaves alone. -/
namespace Sys2Proof.Machine

theorem ne_of_quiet {a r : Nat} (h : quiet a = true) (m : r ∈ eventRegs) : a ≠ r := by
  rintro rfl
  simp [quiet, m] at h

theorem mem_portRegs {p r : Nat} (hp : p < 4)
    (m : r ∈ [R.seqStat p, R.seqSflag p, R.ddsStat p, R.apgStat p, R.lksTxFill p, R.lksRxFill p, R.qosAdm p,
    R.qosChUsed p, pctl (ppage p 8), R.acqStat p, pctl (ppage p 0xA), R.flpStat p]) : r ∈ eventRegs := by
  unfold eventRegs
  simp only [List.mem_append]
  refine .inl (.inl (.inr (List.mem_flatMap.mpr ⟨p, ?_, m⟩)))
  simp; omega

theorem mem_fastRegs {n r : Nat} (hn : n < 32) (m : r ∈ [pctl (0x200 + n), R.fchDrvStat n, R.fchEyeStat n]) : r ∈ eventRegs := by
  unfold eventRegs
  simp only [List.mem_append]
  exact .inl (.inr (List.mem_flatMap.mpr ⟨n, List.mem_range.mpr hn, m⟩))

theorem mem_utilRegs {n r : Nat} (hn : n < 64) (m : r ∈ [pctl (0x240 + n), R.uchDrvStat n, R.uchPmuStat n]) : r ∈ eventRegs := by
  unfold eventRegs
  simp only [List.mem_append]
  exact .inr (List.mem_flatMap.mpr ⟨n, List.mem_range.mpr hn, m⟩)

theorem mem_headRegs {r : Nat} (m : r ∈ [R.evcFf0, R.evcFf1, R.evcFf2, R.evcFf3, R.evcEvqWptr, R.evcEvqLost, R.msixPba 0, R.msixPba 1,
    R.qosUsed, R.glbProfile]) : r ∈ eventRegs := by
  unfold eventRegs
  simp only [List.mem_append]
  exact .inl (.inl (.inl m))

namespace Dev

theorem get_setEsrc (d : Dev) (s : Nat) (e : EvtSrc) (a : Nat) : (d.setEsrc s e).get a = d.get a := rfl
theorem get_evt (d : Dev) (e : Evt) (a : Nat) : Dev.get { d with evt := e } a = d.get a := rfl
theorem get_putChan (d : Dev) (i : Nat) (c : Chan) (a : Nat) : (d.putChan i c).get a = d.get a := rfl
theorem get_putLvl (d : Dev) (i : Nat) (c : Lvl) (a : Nat) : (d.putLvl i c).get a = d.get a := rfl
theorem get_putAcq (d : Dev) (p : Nat) (c : Acq) (a : Nat) : (d.putAcq p c).get a = d.get a := rfl
theorem get_sramWrite (d : Dev) (x : Nat) (b : List Byte) (a : Nat) : (d.sramWrite x b).get a = d.get a := rfl
theorem get_msixSend (d : Dev) (v a : Nat) : (d.msixSend v).get a = d.get a := rfl

theorem get_wf_ne (d : Dev) {a b : Nat} (f : Fld) (v : Nat) (h : b ≠ a) : (d.wf a f v).get b = d.get b := by rw [get_wf, if_neg h]
theorem get_setN_ne (d : Dev) {a b : Nat} (v : Nat) (h : b ≠ a) : (d.setN a v).get b = d.get b := by rw [get_setN, if_neg h]
theorem get_cnt_ne (d : Dev) {a b : Nat} (f : Fld) (k : Nat) (h : b ≠ a) : (d.cnt a f k).get b = d.get b := by rw [get_cnt, if_neg h]

/-- Storing a port's record shows it in two registers only. -/
theorem get_putSeq_ne (d : Dev) (p : Nat) (s : Seq) {b : Nat} (h1 : b ≠ R.seqStat p) (h2 : b ≠ R.seqSflag p) :
    (d.putSeq p s).get b = d.get b := by
  unfold putSeq
  rw [get_setN_ne _ _ h2]
  iterate 7 rw [get_wf_ne _ _ _ h1]
  rfl

section
variable {a : Nat} (h : quiet a = true)
include h

theorem msixAssert_quiet (d : Dev) (v : Nat) (hv : v < 64) : (d.msixAssert v).get a = d.get a := by
  unfold msixAssert
  split
  · unfold setMsixPending
    have : v / 32 = 0 ∨ v / 32 = 1 := by omega
    rcases this with e | e <;> rw [e] <;> exact get_wf_ne _ _ _ (ne_of_quiet h (mem_headRegs (by simp)))
  · rfl

omit h in
theorem evqPlace_get (s t : Nat) : ∀ (n : Nat) (bs : List Byte) (j : Nat) (d : Dev), (d.evqPlace s t bs n j).get a = d.get a := by
  intro n
  induction n with
  | zero => intro bs j d; rfl
  | succ n ih =>
    intro bs j d; unfold evqPlace; dsimp only; split
    · rw [ih, get_sramWrite]
    · rfl

theorem evqWrite_quiet (d : Dev) (cls : Nat) (e f : Bool) (r s c : Nat) : (d.evqWrite cls e f r s c).1.get a = d.get a := by
  have n0 := ne_of_quiet h (r := R.evcEvqLost) (mem_headRegs (by simp))
  have n1 := ne_of_quiet h (r := R.evcEvqWptr) (mem_headRegs (by simp))
  unfold evqWrite
  split
  · exact get_cnt_ne _ _ _ n0
  · extract_lets w0 bs j n d1 src
    have h1 : d1.get a = d.get a := evqPlace_get _ _ _ _ _ _
    exact (get_setN_ne _ _ n1).trans ((get_evt d1 _ a).trans h1)

theorem firstFault_quiet (d : Dev) (s c : Nat) (e f : Bool) : (d.firstFault s c e f).get a = d.get a := by
  have n0 := ne_of_quiet h (r := R.evcFf0) (mem_headRegs (by simp))
  have n1 := ne_of_quiet h (r := R.evcFf1) (mem_headRegs (by simp))
  have n2 := ne_of_quiet h (r := R.evcFf2) (mem_headRegs (by simp))
  have n3 := ne_of_quiet h (r := R.evcFf3) (mem_headRegs (by simp))
  have four : ∀ (y : Dev) (w x z u : Nat),
      ((((y.setN R.evcFf0 w).setN R.evcFf1 x).setN R.evcFf2 z).setN R.evcFf3 u).get a = y.get a := by
    intro y w x z u
    rw [get_setN_ne _ _ n3, get_setN_ne _ _ n2, get_setN_ne _ _ n1, get_setN_ne _ _ n0]
  unfold firstFault
  extract_lets w0 put t n oc win
  split
  · exact four ..
  · split
    · exact four ..
    · rfl

theorem latchOut_quiet (d : Dev) (s cls : Nat) (e f : Bool) (r c : Nat) (x : Bool) : (d.latchOut s cls e f r c x).1.get a = d.get a := by
  have hv : ∀ w : Word, fget w F.cfgVector < 64 := fun w => fget_lt w F.cfgVector
  unfold latchOut
  extract_lets cfg r1 d1 d2 src d3
  have h1 : d1.get a = d.get a := by
    simp only [d1, r1]
    split
    · exact evqWrite_quiet h ..
    · rfl
  have h2 : d2.get a = d.get a := by
    simp only [d2]
    split
    · exact (msixAssert_quiet h _ _ (hv _)).trans h1
    · exact h1
  have h3 : d3.get a = d.get a := by
    simp only [d3]
    split
    · exact (get_evt d2 _ a).trans h2
    · exact h2
  exact h3

theorem occurOne_quiet (s : Nat) (d : Dev) : (d.occurOne s).1.get a = d.get a := by
  unfold occurOne
  split
  · rfl
  · extract_lets e w fresh c n up cls escd latch forced e' d1 react same coinc da cands src d2 r
    have h1 : d1.get a = d.get a := get_setEsrc _ _ _ _
    have h2 : d2.get a = d.get a := by
      simp only [d2]
      split
      · exact (get_evt da _ a).trans ((firstFault_quiet h _ _ _ _ _).trans h1)
      · exact h1
    split
    · rfl
    · split
      · exact h1
      · split
        · exact (latchOut_quiet h _ _ _ _ _ _ _ _).trans h2
        · exact h2

theorem occurBook_quiet (s : Nat) (d : Dev) : (d.occurBook s).1.get a = d.get a := by
  unfold occurBook
  extract_lets r q
  have hr : r.1.get a = d.get a := occurOne_quiet h s d
  split
  · exact (occurOne_quiet h _ _).trans hr
  · exact hr

omit h in
theorem condSet_get (s : Nat) (b : Bool) (d : Dev) : (d.condSet s b).1.get a = d.get a := rfl

theorem capFall_quiet (d : Dev) : d.capFall.get a = d.get a := by
  unfold capFall
  split
  · exact get_wf_ne _ _ _ (ne_of_quiet h (mem_headRegs (by simp)))
  · rfl

theorem qosReturn_quiet (d : Dev) (p : Nat) (hp : p < 4) : (d.qosReturn p).get a = d.get a := by
  have n1 := ne_of_quiet h (r := R.qosAdm p) (mem_portRegs hp (by simp))
  have n2 := ne_of_quiet h (r := R.qosChUsed p) (mem_portRegs hp (by simp))
  have n3 := ne_of_quiet h (r := R.qosUsed) (mem_headRegs (by simp))
  unfold qosReturn
  dsimp only
  split
  · rw [get_setN_ne _ _ n3, get_setN_ne _ _ n2, get_setN_ne _ _ n1]
  · rw [get_setN_ne _ _ n3, get_setN_ne _ _ n1]

theorem apgCut_quiet (d : Dev) (p : Nat) (hp : p < 4) : (d.apgCut p).get a = d.get a := by
  have n1 := ne_of_quiet h (r := R.apgStat p) (mem_portRegs hp (by simp))
  unfold apgCut
  dsimp only
  split
  · rfl
  · rw [get_wf_ne _ _ _ n1]; rfl

theorem seqHalt_quiet (d : Dev) (p t : Nat) (hp : p < 4) : (d.seqHalt p t).get a = d.get a := by
  have n1 := ne_of_quiet h (r := R.seqStat p) (mem_portRegs hp (by simp))
  have n2 := ne_of_quiet h (r := R.seqSflag p) (mem_portRegs hp (by simp))
  have n3 := ne_of_quiet h (r := R.lksTxFill p) (mem_portRegs hp (by simp))
  have n4 := ne_of_quiet h (r := R.lksRxFill p) (mem_portRegs hp (by simp))
  have n5 := ne_of_quiet h (r := R.ddsStat p) (mem_portRegs hp (by simp))
  unfold seqHalt
  split
  · rfl
  · dsimp only
    rw [get_wf_ne _ _ _ n5, get_wf_ne _ _ _ n4, get_wf_ne _ _ _ n3, setSeqState, get_wf_ne _ _ _ n1, get_putSeq_ne _ _ _ n1 n2,
      apgCut_quiet h _ _ hp]

theorem seqStop_quiet (d : Dev) (p : Nat) (hp : p < 4) : (d.seqStop p).get a = d.get a := by
  unfold seqStop seqStopAt
  split
  · rfl
  · rw [capFall_quiet h, qosReturn_quiet h _ _ hp, seqHalt_quiet h _ _ _ hp]

theorem readyFall_quiet (d : Dev) (i : Nat) (hi : i < 96) : (d.readyFall i).get a = d.get a := by
  unfold readyFall
  split
  · rename_i hl
    have n1 := ne_of_quiet h (r := R.fchDrvStat i) (mem_fastRegs hl (by simp))
    have n2 := ne_of_quiet h (r := R.fchEyeStat i) (mem_fastRegs hl (by simp))
    dsimp only
    rw [condSet_get]
    split
    · rw [get_wf_ne _ _ _ n2, get_wf_ne _ _ _ n1, get_wf_ne _ _ _ n1]
    · rw [get_wf_ne _ _ _ n1, get_wf_ne _ _ _ n1]
  · exact get_wf_ne _ _ _ (ne_of_quiet h (mem_utilRegs (n := i - 32) (by omega) (by simp)))

theorem pmuOff_quiet (d : Dev) (m : Nat) (hm : m < 64) : (d.pmuOff m).get a = d.get a := by
  have n1 := ne_of_quiet h (r := R.uchPmuStat m) (mem_utilRegs hm (by simp))
  unfold pmuOff
  dsimp only
  rw [get_putLvl, condSet_get, condSet_get, get_wf_ne _ _ _ n1, get_wf_ne _ _ _ n1, get_wf_ne _ _ _ n1]

theorem safeChan_quiet (d : Dev) (i : Nat) (hi : i < 96) : (d.safeChan i).get a = d.get a := by
  have n0 : a ≠ pctl (chPage i) := by
    unfold chPage
    split
    · exact ne_of_quiet h (mem_fastRegs (n := i) (by omega) (by simp))
    · exact ne_of_quiet h (mem_utilRegs (n := i - 32) (by omega) (by simp))
  unfold safeChan
  dsimp only
  rw [get_putChan]
  split
  · rename_i hl
    have n1 := ne_of_quiet h (r := R.fchDrvStat i) (mem_fastRegs hl (by simp))
    rw [get_wf_ne _ _ _ n1, get_wf_ne _ _ _ n1, get_wf_ne _ _ _ n1, readyFall_quiet h _ _ hi, get_wf_ne _ _ _ n0]
  · have n1 := ne_of_quiet h (r := R.uchDrvStat (i - 32)) (mem_utilRegs (n := i - 32) (by omega) (by simp))
    rw [pmuOff_quiet h _ _ (by omega), get_wf_ne _ _ _ n1, readyFall_quiet h _ _ hi, get_wf_ne _ _ _ n0]

theorem safeState_quiet (d : Dev) (p : Nat) (hp : p < 4) : (d.safeState p).get a = d.get a := by
  unfold safeState
  rw [capFall_quiet h]
  refine foldl_keep_mem (fun x => x.get a) safeChan _ (fun i hi x => safeChan_quiet h x i ?_) d
  simp only [portChans, List.mem_append, List.mem_map, List.mem_range] at hi
  rcases hi with ⟨j, hj, rfl⟩ | ⟨j, hj, rfl⟩ <;> omega

omit h in
theorem closeOut_get (d : Dev) (p : Nat) (r : AcqRec) (e : Nat) (t : Bool) : (d.closeOut p r e t).get a = d.get a := rfl

theorem acqFreeze_quiet (d : Dev) (p : Nat) (hp : p < 4) : (d.acqFreeze p).get a = d.get a := by
  have n1 := ne_of_quiet h (r := pctl (ppage p 8)) (mem_portRegs hp (by simp))
  have n2 := ne_of_quiet h (r := R.acqStat p) (mem_portRegs hp (by simp))
  unfold acqFreeze setAcqState
  dsimp only
  split
  · split
    · rw [get_wf_ne _ _ _ n2, closeOut_get, get_wf_ne _ _ _ n1]
    · rw [get_wf_ne _ _ _ n2, get_wf_ne _ _ _ n1]
  · split
    · rw [get_wf_ne _ _ _ n2, get_putAcq]
      split
      · split
        · rw [get_wf_ne _ _ _ n1]
        · rw [closeOut_get, get_wf_ne _ _ _ n1]
      · rw [get_wf_ne _ _ _ n1]
    · split
      · rw [get_wf_ne _ _ _ n2, get_wf_ne _ _ _ n1]
      · rw [get_wf_ne _ _ _ n1]

theorem flpFreeze_quiet (d : Dev) (p : Nat) (hp : p < 4) : (d.flpFreeze p).get a = d.get a := by
  unfold flpFreeze
  rw [get_wf_ne _ _ _ (ne_of_quiet h (mem_portRegs hp (by simp))), get_wf_ne _ _ _ (ne_of_quiet h (mem_portRegs hp (by simp)))]

theorem reactOn_quiet (d : Dev) (b p : Nat) (hp : p < 4) : (d.reactOn b p).get a = d.get a := by
  unfold reactOn
  dsimp only
  split <;> split <;> split <;>
    simp only [flpFreeze_quiet h _ _ hp, acqFreeze_quiet h _ _ hp, safeState_quiet h _ _ hp, seqStop_quiet h _ _ hp]

end

/-- The ports that a reaction acts on. -/
theorem reactOf_ports (d : Dev) (s cls : Nat) : ∀ p ∈ (d.reactOf s cls).2, p < 4 := by
  unfold reactOf
  dsimp only
  have hr : fget (d.esrc s).cfg F.cfgRport < 4 := fget_lt _ _
  have hs : ∀ q, srcPort s = some q → q < 4 := by
    intro q hq; unfold srcPort at hq; split at hq
    · simp at hq; omega
    · split at hq
      · simp at hq; omega
      · split at hq
        · simp at hq; omega
        · cases hq
  split
  · intro p hp; simp at hp; omega
  · split
    · intro p hp; simp at hp
    · generalize (if fget (d.esrc s).cfg F.cfgReactSev = 1 ∧ cls < 2 then 0 else fget (d.esrc s).cfg F.cfgReact) = b
      intro p hp
      split at hp
      · simp at hp
      · simp only [List.mem_singleton] at hp
        subst hp
        cases hq : srcPort s with
        | none => exact hr
        | some q => exact hs q hq

theorem occurOne_ports (s : Nat) (d : Dev) : ∀ p ∈ (d.occurOne s).2.1.2, p < 4 := by
  unfold occurOne
  split
  · intro p hp; simp at hp
  · extract_lets e w fresh c n up cls escd latch forced e' d1 react same coinc da cands src d2 r
    split
    · intro p hp; simp at hp
    · split
      · intro p hp; simp at hp
      · split
        · exact reactOf_ports d1 s cls
        · exact reactOf_ports d1 s cls

theorem occurBook_ports (s : Nat) (d : Dev) : ∀ re ∈ (d.occurBook s).2, ∀ p ∈ re.2, p < 4 := by
  unfold occurBook
  extract_lets r q
  have hr : ∀ p ∈ r.2.1.2, p < 4 := occurOne_ports s d
  have hq : ∀ p ∈ q.2.1.2, p < 4 := occurOne_ports _ _
  split
  · intro re hre
    rcases List.mem_pair.mp hre with e | e
    · rw [e]; exact hr
    · rw [e]; exact hq
  · intro re hre
    rw [List.mem_singleton.mp hre]; exact hr

theorem atNextEdge_get (f : Dev → Dev) (a : Nat) (h : ∀ x, (f x).get a = x.get a) (d : Dev) : (atNextEdge f d).get a = d.get a :=
  h { d with gtc := BitVec.ofNat _ (d.edgeAt hclk (d.now + 1)) }

theorem raiseF_quiet {a : Nat} (h : quiet a = true) : ∀ (f s : Nat) (d : Dev), (raiseF f s d).get a = d.get a := by
  intro f
  induction f with
  | zero => intro s d; exact occurBook_quiet h s d
  | succ f ih =>
    intro s d
    unfold raiseF
    dsimp only
    rw [foldl_keep_mem (fun x => Dev.get x a)]
    · exact occurBook_quiet h s d
    · intro re hre x
      split
      · rfl
      · refine atNextEdge_get _ _ (fun z => foldl_keep_mem (fun x => Dev.get x a) _ _ (fun p hp y => ?_) z) x
        split
        · rfl
        · rw [ih, reactOn_quiet h _ _ _ (occurBook_ports s d re hre p hp)]

/-- A register that no event touches stands at every occurrence. -/
theorem raise_get {a : Nat} (h : quiet a = true) (d : Dev) (s : Nat) : (d.raise s).get a = d.get a := raiseF_quiet h 2 s d

theorem setCond_get {a : Nat} (h : quiet a = true) (d : Dev) (s : Nat) (b : Bool) : (d.setCond s b).get a = d.get a := by
  unfold setCond
  dsimp only
  split
  · rw [raise_get h]; rfl
  · rfl

end Dev
end Sys2Proof.Machine
end

