-- ==== Sys2Proof/Laws/Write.lean ====
section
/-! SUPPORT. What a register write that no test of Table 2-11 turns away does, said once for every register of one word, and for
`PAGE_CTRL`. -/
namespace Sys2Proof.Machine
namespace Dev

/-- The state in which the effect of a write of `PAGE_CTRL` or of a register runs: its page's `BADWRITE` reads 0. -/
def cleared (d : Dev) (page : Nat) : Dev := d.wf (pstat page) F.stBadWrite 0

theorem judged_fst (d : Dev) (page : Nat) (f : Dev → Dev) :
    (d.judged page f).1 = if d.rb (pstat page) F.stBadWrite then (f (d.cleared page)).badWrite page else f (d.cleared page) := rfl

theorem arrives_eq (v : Vault) (out : Sys2Proof.Outside) (path a w : Nat) (d : Dev) (h : d.arriving path = true) (h4 : a % 4 = 0) :
    d.arrives v out path a w = (busWrite v ⟨path, out, none⟩ d a w).1 := by
  unfold arriving at h
  simp only [Bool.and_eq_true, Bool.or_eq_true, bne_iff_ne, decide_eq_true_eq] at h
  unfold arrives
  rw [if_neg (by rintro ⟨rfl, q⟩; simp_all), if_neg (by rintro ⟨rfl, q⟩; simp at h; omega), h4, Nat.sub_zero]

theorem judged_get_ne (d : Dev) (page : Nat) (f : Dev → Dev) {b : Nat} (h : b ≠ pstat page) :
    (d.judged page f).1.get b = (f (d.cleared page)).get b := by
  rw [judged_fst]
  split
  · rw [badWrite, get_wf, if_neg h]
  · rfl

/-- `VLT_APPLY` alone takes another course. -/
theorem busWrite_plain (v : Vault) (x : Access) (d : Dev) (a w : Nat) (h : a ≠ R.vltApply ∨ nbit w 31 = false) :
    busWrite v x d a w = plainWrite v x d a w := by
  unfold busWrite
  rcases h with h | h <;> simp [h]

theorem gate_open (d : Dev) (path a w : Nat) (f : PageKind → Nat → Nat → Dev × Nat) (k : PageKind) (i : Nat)
    (hp : pageOf (a / 0x1000) = some (k, i)) (h : d.lets path a = true) (h2 : a % 0x1000 ≠ 0x20) :
    d.gate path a w f = f k i (a % 0x1000) := by
  unfold lets at h
  rw [hp] at h
  simp only [Bool.and_eq_true, Bool.or_eq_true, bne_iff_ne, beq_iff_eq, Bool.not_eq_true', decide_eq_true_eq] at h
  unfold gate
  simp only [hp]
  rw [if_neg (by rintro ⟨e, q⟩; have := h.2.1.1; simp_all), if_neg (by simp [h.2.1.2]), if_neg (by simp [h.2.2]), if_neg h2]

/-- The register as a write leaves it before its effect. -/
def storedWord (d : Dev) (a w : Nat) : Dev :=
  match pageOf (a / 0x1000) with
  | none => d
  | some (k, _) => if storesItself k (a % 0x1000) then d else d.setN a (stored ((regDef a).getD ⟨0, 0, 0, 0, 0, 0, 0, 0, 0, 0, [], (0, 1)⟩) (d.rn a) w)

/-- The bits of a register after a write: read/write bits as written, write-1-to-clear bits cleared where a 1 is written, the rest as it stood
(R5). -/
theorem stored_testBit (r : RegDef) (old w j : Nat) : (stored r old w).testBit j =
    (if r.rw.testBit j then w.testBit j else old.testBit j && !(r.w1c.testBit j && w.testBit j)) := by
  unfold stored
  simp only [Nat.testBit_or, Nat.testBit_xor, Nat.testBit_and]
  cases r.rw.testBit j <;> cases r.w1c.testBit j <;> cases w.testBit j <;> cases old.testBit j <;> rfl

/-- A field that a write may write holds what was written. -/
theorem stored_field (r : RegDef) (old w : Nat) (f : Fld) (h : nbits r.rw f.hi f.lo = 2 ^ (f.hi + 1 - f.lo) - 1) :
    nbits (stored r old w) f.hi f.lo = nbits w f.hi f.lo := by
  apply Nat.eq_of_testBit_eq
  intro j
  rw [nbits_testBit, nbits_testBit, stored_testBit]
  by_cases hj : j < f.hi + 1 - f.lo
  · have : (nbits r.rw f.hi f.lo).testBit j = true := by rw [h, Nat.testBit_two_pow_sub_one]; simpa using hj
    rw [nbits_testBit] at this
    simp only [Bool.and_eq_true] at this
    rw [if_pos this.2]
  · simp [hj]

/-- A field with no bit that a write may change or clear stands. -/
theorem stored_keeps (r : RegDef) (old w : Nat) (f : Fld) (h : nbits r.rw f.hi f.lo = 0) (g : nbits r.w1c f.hi f.lo = 0) :
    nbits (stored r old w) f.hi f.lo = nbits old f.hi f.lo := by
  apply Nat.eq_of_testBit_eq
  intro j
  rw [nbits_testBit, nbits_testBit, stored_testBit]
  by_cases hj : j < f.hi + 1 - f.lo
  · have h1 : (nbits r.rw f.hi f.lo).testBit j = false := by rw [h]; exact Nat.zero_testBit j
    have h2 : (nbits r.w1c f.hi f.lo).testBit j = false := by rw [g]; exact Nat.zero_testBit j
    rw [nbits_testBit] at h1 h2
    simp only [hj, decide_true, Bool.true_and] at h1 h2
    simp [h1, h2]
  · simp [hj]

theorem nbits_mod (x : Nat) (f : Fld) (h : f.hi < 32) : nbits (x % 2 ^ 32) f.hi f.lo = nbits x f.hi f.lo := by
  apply Nat.eq_of_testBit_eq
  intro j
  rw [nbits_testBit, nbits_testBit, Nat.testBit_mod_two_pow]
  by_cases hj : j < f.hi + 1 - f.lo
  · have : f.lo + j < 32 := by omega
    simp [this]
  · simp [hj]

theorem storedWord_eq (d : Dev) (a w : Nat) (k : PageKind) (i : Nat) (r : RegDef) (hp : pageOf (a / 0x1000) = some (k, i))
    (hs : storesItself k (a % 0x1000) = false) (hr : regDef a = some r) : d.storedWord a w = d.setN a (stored r (d.rn a) w) := by
  unfold storedWord
  simp only [hp, hs, hr, Option.getD_some]
  simp

/-- What stands in a register after its word is stored. -/
theorem storedWord_get (d : Dev) (a w : Nat) (k : PageKind) (i : Nat) (r : RegDef) (hp : pageOf (a / 0x1000) = some (k, i))
    (hs : storesItself k (a % 0x1000) = false) (hr : regDef a = some r) (b : Nat) :
    (d.storedWord a w).get b = if b = a then BitVec.ofNat 32 (stored r (d.rn a) w) else d.get b := by
  unfold storedWord
  simp only [hp, hs, hr, Option.getD_some]
  exact get_setN d a b _

/-- A writable field reads as written once the word is stored. -/
theorem storedWord_rf (d : Dev) (a w : Nat) (f : Fld) (k : PageKind) (i : Nat) (r : RegDef) (hp : pageOf (a / 0x1000) = some (k, i))
    (hs : storesItself k (a % 0x1000) = false) (hr : regDef a = some r) (hf : f.hi < 32)
    (h : nbits r.rw f.hi f.lo = 2 ^ (f.hi + 1 - f.lo) - 1) : (d.storedWord a w).rf a f = nbits w f.hi f.lo := by
  rw [rf, storedWord_get d a w k i r hp hs hr, if_pos rfl, fget, BitVec.toNat_ofNat, nbits_mod _ _ hf, stored_field _ _ _ _ h]

/-- A write of one word that nothing turns away stores the register and has its effect. -/
theorem takes_plainWrite (v : Vault) (x : Access) (d : Dev) (a w : Nat) (k : PageKind) (i : Nat)
    (hp : pageOf (a / 0x1000) = some (k, i)) (h : d.takes x.path a w = true) (ht : timingAff a = false) :
    (plainWrite v x d a w).1 = ((d.storedWord a w).judged (a / 0x1000) (fun s =>
      if k == .evg then s.evgCfgWrite i ((a % 0x1000 - 0x100) / 4) (BitVec.ofNat 32 w)
      else writeEffect v x d k i (a % 0x1000) (d.rn a) w [w] s)).1 := by
  simp only [takes, Bool.and_eq_true] at h
  obtain ⟨hl, hf⟩ := h
  unfold fits at hf
  rw [hp] at hf
  simp only at hf
  split at hf
  · cases hf
  rename_i r hr
  simp only [Bool.and_eq_true, Bool.not_eq_true', decide_eq_true_eq] at hf
  obtain ⟨⟨⟨⟨⟨⟨⟨h40, hg⟩, hw⟩, hwr⟩, hu⟩, hz⟩, hzw⟩, hleg⟩ := hf
  have hreg : regDef a = some r := by unfold regDef; simp [hp, hr]
  unfold plainWrite
  rw [gate_open d x.path a w _ k i hp hl (by omega), if_neg (by omega)]
  simp only [hr]
  rw [if_neg hwr]
  unfold regWrite
  rw [if_neg (by simpa using hg), if_pos hw]
  unfold regCommit
  simp only [List.length_singleton, List.range_one, List.map_cons, List.map_nil, Nat.mul_zero, Nat.add_zero, hreg, Option.getD_some,
    List.zip_cons_cons, List.zip_nil_left, List.any_cons, List.any_nil, List.all_cons, List.all_nil, Bool.or_false, Bool.and_true, hz, hzw,
    hleg, hu, List.headD_cons, ht]
  simp only [storedWord, hp, hreg, Option.getD_some, storeWords]
  simp

/-- The same for a write that arrives by a path. -/
theorem takes_arrives (v : Vault) (out : Sys2Proof.Outside) (path : Nat) (d : Dev) (a w : Nat) (k : PageKind) (i : Nat)
    (hp : pageOf (a / 0x1000) = some (k, i)) (h : d.takes path a w = true) (ht : timingAff a = false)
    (hv : a ≠ R.vltApply ∨ nbit w 31 = false) :
    d.arrives v out path a w = ((d.storedWord a w).judged (a / 0x1000) (fun s =>
      if k == .evg then s.evgCfgWrite i ((a % 0x1000 - 0x100) / 4) (BitVec.ofNat 32 w)
      else writeEffect v ⟨path, out, none⟩ d k i (a % 0x1000) (d.rn a) w [w] s)).1 := by
  have hl : d.arriving path = true ∧ a % 4 = 0 := by
    simp only [takes, lets, Bool.and_eq_true, decide_eq_true_eq] at h; exact h.1.1
  rw [arrives_eq v out path a w d hl.1 hl.2, busWrite_plain v _ d a w hv]
  exact takes_plainWrite v ⟨path, out, none⟩ d a w k i hp h ht

/-- A timing-affecting write of one word that nothing turns away stores the register and gives its word to the unit (R193). -/
theorem takes_timing (v : Vault) (out : Sys2Proof.Outside) (path : Nat) (d : Dev) (a w : Nat) (k : PageKind) (i : Nat)
    (hp : pageOf (a / 0x1000) = some (k, i)) (h : d.takes path a w = true) (ht : timingAff a = true)
    (hv : a ≠ R.vltApply ∨ nbit w 31 = false) :
    d.arrives v out path a w = (d.storedWord a w).timingWrite path a [(d.storedWord a w).get a] := by
  have hl : d.arriving path = true ∧ a % 4 = 0 := by
    simp only [takes, lets, Bool.and_eq_true, decide_eq_true_eq] at h; exact h.1.1
  rw [arrives_eq v out path a w d hl.1 hl.2, busWrite_plain v _ d a w hv]
  simp only [takes, Bool.and_eq_true] at h
  obtain ⟨hl, hf⟩ := h
  unfold fits at hf
  rw [hp] at hf
  simp only at hf
  split at hf
  · cases hf
  rename_i r hr
  simp only [Bool.and_eq_true, Bool.not_eq_true', decide_eq_true_eq] at hf
  obtain ⟨⟨⟨⟨⟨⟨⟨h40, hg⟩, hw⟩, hwr⟩, hu⟩, hz⟩, hzw⟩, hleg⟩ := hf
  have hreg : regDef a = some r := by unfold regDef; simp [hp, hr]
  unfold plainWrite
  rw [gate_open d path a w _ k i hp hl (by omega), if_neg (by omega)]
  simp only [hr]
  rw [if_neg hwr]
  unfold regWrite
  rw [if_neg (by simpa using hg), if_pos hw]
  unfold regCommit
  simp only [List.length_singleton, List.range_one, List.map_cons, List.map_nil, Nat.mul_zero, Nat.add_zero, hreg, Option.getD_some,
    List.zip_cons_cons, List.zip_nil_left, List.any_cons, List.any_nil, List.all_cons, List.all_nil, Bool.or_false, Bool.and_true, hz, hzw,
    hleg, hu, List.headD_cons, ht]
  simp only [storedWord, hp, hreg, Option.getD_some, storeWords, timingCommit, List.range_one, List.map_cons, List.map_nil, Nat.mul_zero,
    Nat.add_zero]
  simp

/-- A write of `PAGE_CTRL` that nothing turns away has the effect of its bits. -/
theorem takesCtrl_arrives (v : Vault) (out : Sys2Proof.Outside) (path : Nat) (d : Dev) (page w : Nat) (k : PageKind) (i : Nat)
    (hp : pageOf page = some (k, i)) (h : d.takesCtrl path page w = true) :
    d.arrives v out path (pctl page) w = (d.judged page (fun d => d.ctrlWrite out page k i w)).1 := by
  have e1 : pctl page / 0x1000 = page := by unfold pctl; omega
  have e2 : pctl page % 0x1000 = 8 := by unfold pctl; omega
  simp only [takesCtrl, hp, Bool.and_eq_true, decide_eq_true_eq, Bool.not_eq_true'] at h
  obtain ⟨hl, hm, hr⟩ := h
  have ha : d.arriving path = true ∧ pctl page % 4 = 0 := by
    simp only [lets, Bool.and_eq_true, decide_eq_true_eq] at hl; exact hl.1
  have hv : pctl page ≠ R.vltApply := by unfold pctl R.vltApply; omega
  rw [arrives_eq v out path _ w d ha.1 ha.2, busWrite_plain v _ d _ w (.inl hv)]
  unfold plainWrite
  rw [gate_open d path _ w _ k i (by rw [e1]; exact hp) hl (by omega), e2, if_pos (by omega), e1]
  unfold commonWrite
  rw [if_pos rfl, if_neg]
  rintro (q | q)
  · exact q hm
  · rw [Bool.and_eq_false_iff] at hr
    rcases hr with g | g
    · simp_all
    · simp_all

end Dev
end Sys2Proof.Machine
end

