-- ==== Sys2Proof/Tests/Slice0.lean ====
section
/-! SUPPORT. Tests: each check of `wellFormed` refuses a term, one state and operands for every clause of every statement that has premises,
and examples of the spec worked out by hand. -/
namespace Sys2Proof.Tests
open Sys2Proof Sys2Proof.Machine
set_option Elab.async false

/-- A block that has started: every step is done, time runs, the host link is up. -/
def ready : Dev := { Dev.reset with counting := true, gtc := 131072007#80, boot := { Boot.reset with done := 13, runs := [], keeperOn := true }, hif := { Hif.reset with linkUp := true, linkWasUp := true }, regs := [(R.bootStat, 0x1100000D#32)] }

def at_ (d : Dev) : State := { dev := d, vault := Vault.reset, pending := [] }

/-! ### States and operands that meet the premises of each clause -/

theorem test_witness_WritesThatNothingTurnsAwayAreStored :
    (∃ (path : Fin 7) (a : Fin 0x400000) (w : Word) (be : Fin 16) (k : PageKind) (i : Nat) (r : RegDef) (s : State), (path.val ≠ 0 ∨ be.val = 15) ∧
      s.dev.takes path a w.toNat = true ∧ Dev.timingAff a = false ∧ pageOf (a / 0x1000) = some (k, i) ∧ k ∈ [.qos, .lks, .apg, .cdc, .tsa, .dds,
      .uch] ∧ findReg (pageMap k) (a % 0x1000) = some r) ∧
    (∃ (be : Fin 16) (s : State), be.val ≠ 15 ∧ s.dev.hostUp = true) :=
  ⟨⟨0, 0x102040, 0x123#32, 15, .lks, 0, (regDef 0x102040).getD ⟨0, 0, 0, 0, 0, 0, 0, 0, 0, 0, [], (0, 1)⟩, at_ ready, by decide +kernel⟩,
   ⟨7, at_ ready, by decide +kernel⟩⟩

theorem test_witness_WritesTurnedAwayChangeNoRegister :
    (∃ (a : Fin 0x400000) (s : State), s.dev.hostUp = true ∧ pageOf (a / 0x1000) = none) ∧
    (∃ (path : Fin 7) (a : Fin 0x400000) (k : PageKind) (i : Nat) (s : State), path.val ≠ 1 ∧ s.dev.arriving path = true ∧ pageOf (a / 0x1000) =
      some (k, i) ∧ s.dev.offline false (a / 0x1000) = true) ∧
    (∃ (path : Fin 7) (a : Fin 0x400000) (k : PageKind) (i : Nat) (s : State), path.val ≠ 1 ∧ s.dev.arriving path = true ∧ pageOf (a / 0x1000) =
      some (k, i) ∧ s.dev.offline false (a / 0x1000) = false ∧ s.dev.pageLocked (a / 0x1000) = true ∧ 0x40 ≤ a.val % 0x1000) :=
  ⟨⟨0x5040, at_ ready, by decide +kernel⟩,
   ⟨0, 0x101040, .seq, 0, at_ ((fun (d : Dev) => (d.goOffline 0x101 : Dev)) ready), by decide +kernel⟩,
   ⟨2, 0x101FFF, .seq, 0, at_ ((fun (d : Dev) => ({ d with hif := { d.hif with keys := [(0x101, 5)] } } : Dev)) ready), by decide +kernel⟩⟩

theorem test_witness_ReadsClearAndLocksHold :
    (∃ (path : Fin 7) (a : Fin 0x400000) (k : PageKind) (i : Nat) (r : RegDef) (s : State), s.dev.letsRead path a = true ∧ 0x40 ≤ a.val % 0x1000 ∧
      pageOf (a / 0x1000) = some (k, i) ∧ k ∈ [.clk, .prt, .lks, .cdc, .msk, .meas, .hif] ∧ findReg (pageMap k) (a % 0x1000) = some r ∧ r.wide.2 ≤
      1 ∧ r.wo = 0) ∧
    (∃ (path : Fin 7) (page : Fin 1024) (w : Word) (k : PageKind) (i : Nat) (s : State), s.dev.lets path (plock page) = true ∧ pageOf page = some
      (k, i) ∧ k ≠ .hif ∧ nbits w.toNat 7 1 = 0 ∧ w.toNat / 2 ^ 16 ≠ 0 ∧ s.dev.hif.keys.find? (fun x => x.1 == page.val) = none ∧ nbit w.toNat 0 =
      true) ∧
    (∃ (path : Fin 7) (page : Fin 1024) (w : Word) (k : PageKind) (i : Nat) (s : State), s.dev.lets path (plock page) = true ∧ pageOf page = some
      (k, i) ∧ k ≠ .hif ∧ nbits w.toNat 7 1 = 0 ∧ w.toNat / 2 ^ 16 ≠ 0 ∧ s.dev.hif.keys.find? (fun x => x.1 == page.val) = some (page.val, w.toNat
      / 2 ^ 16) ∧ nbit w.toNat 0 = false) ∧
    (∃ (path : Fin 7) (page : Fin 1024) (w : Word) (k : PageKind) (i : Nat) (key : Nat) (s : State), s.dev.lets path (plock page) = true ∧ pageOf
      page = some (k, i) ∧ k ≠ .hif ∧ nbits w.toNat 7 1 = 0 ∧ w.toNat / 2 ^ 16 ≠ 0 ∧ s.dev.hif.keys.find? (fun x => x.1 == page.val) = some
      (page.val, key) ∧ key ≠ w.toNat / 2 ^ 16) :=
  ⟨⟨3, 0x1044, .clk, 0, (regDef 0x1044).getD ⟨0, 0, 0, 0, 0, 0, 0, 0, 0, 0, [], (0, 1)⟩, at_ ((fun (d : Dev) => (d.setN 0x1044 0xFFFFFFFF : Dev))
     ready), by decide +kernel⟩,
   ⟨0, 0x101, 0x50001#32, .seq, 0, at_ ready, by decide +kernel⟩,
   ⟨0, 0x101, 0x50000#32, .seq, 0, at_ ((fun (d : Dev) => ({ d with hif := { d.hif with keys := [(0x101, 5)] } } : Dev)) ready), by decide +kernel⟩,
   ⟨0, 0x101, 0x60000#32, .seq, 0, 5, at_ ((fun (d : Dev) => ({ d with hif := { d.hif with keys := [(0x101, 5)] } } : Dev)) ready),
     by decide +kernel⟩⟩

theorem test_witness_ColdResetReturnsEveryRegister :
    (∃ (ns : Nat), 1000 ≤ ns) ∧
    (∃ (ns : Nat), ns < 1000) ∧
    (∃ (s : State), s.dev.boot.done ≠ 0) :=
  ⟨⟨1000, by decide +kernel⟩,
   ⟨999, by decide +kernel⟩,
   ⟨at_ ready, by decide +kernel⟩⟩

theorem test_witness_StartupStepsAdvance :
    (∃ (s : State), s.dev.boot.done = 0 ∧ s.dev.boot.runs = [StepRun.start] ∧ s.dev.rf R.bootStat F.bootStatStep = 1) ∧
    (∃ (x : StepResult) (r : StepRun) (s : State), s.dev.boot.done = 2 ∧ s.dev.boot.warm = false ∧ s.dev.boot.runs = [r] ∧ r.form = 0 ∧ r.outcome =
      none ∧ s.dev.rf R.bootStat F.bootStatStep = 3 ∧ x.oks = [true] ∧ fget (s.dev.get R.bootPolicy4) F.bootPolicy4Action = 0 ∧ fget (s.dev.get
      R.bootPolicy4) F.bootPolicy4PreferAlt = 0) ∧
    (∃ (r : StepRun) (c : Nat) (s : State), s.dev.boot.warm = false ∧ s.dev.boot.runs = [r] ∧ r.form = 0 ∧ r.outcome = none ∧ s.dev.rf R.bootStat
      F.bootStatStep = c ∧ 2 ≤ c ∧ c ≤ 13 ∧ c ≠ 9 ∧ r.attempt < fget (s.dev.get (Dev.policyReg c)) Dev.F.polAttempts) :=
  ⟨⟨at_ ((fun (d : Dev) => ((({ d with boot := Boot.reset }).wf R.bootStat F.bootStatStep 1) : Dev)) ready), by decide +kernel⟩,
   ⟨⟨[true], 3, 0, [], [], [], [], [], [], [], [], 0⟩, StepRun.start, at_ ((fun (d : Dev) =>
     (((({ d with boot := { Boot.reset with done := 2 } }).wf R.bootStat F.bootStatStep 3).wf R.bootPolicy4 F.bootPolicy4Action 0).wf R.bootPolicy4
     F.bootPolicy4PreferAlt 0 : Dev)) ready), by decide +kernel⟩,
   ⟨StepRun.start, 4, at_ ((fun (d : Dev) => ((({ d with boot := { Boot.reset with done := 3 } }).wf R.bootStat F.bootStatStep 4).wf R.bootPolicy4
     F.bootPolicy4Attempts 3 : Dev)) ready), by decide +kernel⟩⟩

theorem test_witness_PolicyWritesReachTheLedger :
    (∃ (path : Fin 7) (n : Fin 13) (w : Word) (s : State), s.dev.takes path (R.bootPolicy1 + 4 * n) w.toNat = true ∧ nbit w.toNat 31 = false ∧
      s.dev.boot.keeperOn = true ∧ s.dev.ledgerOk = true) ∧
    (∃ (path : Fin 7) (n : Fin 13) (w : Word) (s : State), s.dev.takes path (R.bootPolicy1 + 4 * n) w.toNat = true ∧ nbit w.toNat 31 = true ∧
      s.dev.boot.keeperOn = true ∧ s.dev.ledgerOk = true ∧ n.val ≠ 8) ∧
    (∃ (path : Fin 7) (s : State), s.dev.letsRead path R.bootLwinData = true) :=
  ⟨⟨0, 3, 0x300#32, at_ ((fun (d : Dev) => ((d.wf R.bootDegraded F.bootDegradedLedger 0).wf R.bootStat F.bootStatState 1 : Dev)) ready),
     by decide +kernel⟩,
   ⟨1, 12, 0x80000100#32, at_ ((fun (d : Dev) => ((d.wf R.bootDegraded F.bootDegradedLedger 0).wf R.bootStat F.bootStatState 1 : Dev)) ready),
     by decide +kernel⟩,
   ⟨0, at_ ((fun (d : Dev) => (d.setN R.bootLwinAddr 0x3FFFFC : Dev)) ready), by decide +kernel⟩⟩

theorem test_witness_KeeperUpdateWritesTheOtherSlot :
    (∃ (path : Fin 7) (s : State), s.dev.lets path R.bootKupdCtrl = true ∧ s.dev.kupdLegal (s.dev.get R.bootKupdCtrl &&& 0x1FFFF#32 |||
      0x80000000#32) = true ∧ s.dev.winter = false) ∧
    (∃ (path : Fin 7) (s : State), s.dev.lets path R.bootKupdCtrl = true ∧ s.dev.kupdLegal (s.dev.get R.bootKupdCtrl &&& 0x1FFFF#32 |||
      0xC0000000#32) = true ∧ s.dev.winter = false) ∧
    (∃ (path : Fin 7) (w : Word) (s : State), s.dev.takes path R.bootKupdCtrl w.toNat = true ∧ nbit w.toNat 31 = false ∧ nbit w.toNat 30 = true ∧
      nbits w.toNat 16 0 ≠ 0 ∧ s.dev.updating = true) ∧
    (∃ (s : State), s.dev.updating = true ∧ s.dev.rb R.bootKupdCtrl F.bootKupdCtrlSrc = false ∧ s.dev.ledgerOk = true ∧ s.dev.rn R.bootKupdLen ≠ 0
      ∧ s.dev.rn R.bootKupdLen ≤ 0x80000) ∧
    (∃ (reason : Nat) (s : State), s.dev.updating = true ∧ s.dev.rb R.bootKupdCtrl F.bootKupdCtrlSrc = false ∧ s.dev.ledgerOk = true ∧ s.dev.rn
      R.bootKupdLen ≠ 0 ∧ s.dev.rn R.bootKupdLen ≤ 0x80000 ∧ reason ≠ 0 ∧ reason < 16) :=
  ⟨⟨0, at_ ((fun (d : Dev) => ((d.wf R.bootStat F.bootStatState 1 |>.wf R.bootKupdStat F.bootKupdStatState 0 |>.wf R.bootKupdCtrl
     F.bootKupdCtrlChunkLen 0x100) : Dev)) ready), by decide +kernel⟩,
   ⟨0, at_ ((fun (d : Dev) => ((d.wf R.bootStat F.bootStatState 3 |>.wf R.bootKupdStat F.bootKupdStatState 0 |>.wf R.bootKupdCtrl
     F.bootKupdCtrlChunkLen 0x100) : Dev)) ready), by decide +kernel⟩,
   ⟨1, 0x40000008#32, at_ ((fun (d : Dev) => (({ d with sram := mwrite [] 0x810000 [1, 2, 3, 4, 5, 6, 7, 8] }).wf R.bootStat F.bootStatState 3
     |>.wf R.bootKupdStat F.bootKupdStatState 1 : Dev)) ready), by decide +kernel⟩,
   ⟨at_ ((fun (d : Dev) => (((((d.wf R.bootKupdStat F.bootKupdStatState 1).wf R.bootKupdCtrl F.bootKupdCtrlSrc 0).wf R.bootDegraded
     F.bootDegradedLedger 0).setN R.bootKupdLen 4).setN R.bootKupdSrcHi 0 : Dev)) ready), by decide +kernel⟩,
   ⟨15, at_ ((fun (d : Dev) => (((((d.wf R.bootKupdStat F.bootKupdStatState 1).wf R.bootKupdCtrl F.bootKupdCtrlSrc 0).wf R.bootDegraded
     F.bootDegradedLedger 0).setN R.bootKupdLen 4).setN R.bootKupdSrcHi 0 : Dev)) ready), by decide +kernel⟩⟩

theorem test_witness_KeeperRestartsAndResumes :
    (∃ (path : Fin 7) (w : Word) (s : State), s.dev.takes path R.bootKeeperCmd w.toNat = true ∧ nbit w.toNat 0 = true) ∧
    (∃ (s : State), s.dev.rf R.bootKupdStat F.bootKupdStatState = 3) ∧
    (∃ (k : Nat) (s : State), s.dev.rf R.bootKupdStat F.bootKupdStatState = 3 ∧ s.dev.boot.prevSlot = some k ∧ k < 2 ∧ s.dev.boot.fresh = none) ∧
    (∃ (s : State), s.dev.boot.keeperOn = true) ∧
    (∃ (s : State), s.dev.boot.keeperOn = false ∧ 7 ≤ s.dev.boot.done ∧ (∀ p : Fin 4, s.dev.resettingOf p ≠ 2)) :=
  ⟨⟨0, 1#32, at_ ready, by decide +kernel⟩,
   ⟨at_ ((fun (d : Dev) => (d.wf R.bootKupdStat F.bootKupdStatState 3 : Dev)) ready), by decide +kernel⟩,
   ⟨1, at_ ((fun (d : Dev) => ({ d.wf R.bootKupdStat F.bootKupdStatState 3 with boot := { d.boot with prevSlot := some 1, fresh := none } } : Dev))
     ready), by decide +kernel⟩,
   ⟨at_ ((fun (d : Dev) => (d.wf R.bootKupdStat F.bootKupdStatState 0 : Dev)) ready), by decide +kernel⟩,
   ⟨at_ ((fun (d : Dev) => ({ d with boot := { d.boot with keeperOn := false, ledgerQ := [(8, [1, 2])] } } : Dev)) ready), by decide +kernel⟩⟩

theorem test_witness_PortAndWarmResetsTakeTheirScope :
    (∃ (path : Fin 7) (p : Fin 4) (w : Word) (s : State), s.dev.takesCtrl path (ppage p 0) w.toNat = true ∧ nbit w.toNat 1 = true) ∧
    (∃ (p : Fin 4) (s : State), s.dev.resettingOf p = 1 ∧ s.dev.boot.keeperOn = true) ∧
    (∃ (p : Fin 4) (s : State), s.dev.resettingOf p = 1 ∧ s.dev.boot.keeperOn = false) ∧
    (∃ (path : Fin 7) (w : Word) (s : State), s.dev.takesCtrl path 0 w.toNat = true ∧ nbit w.toNat 1 = true ∧ (∀ c : Fin 4, s.dev.mcHolding c =
      false)) ∧
    (∃ (path : Fin 7) (w : Word) (s : State), s.dev.takesCtrl path 0 w.toNat = true ∧ nbit w.toNat 1 = true ∧ (∃ c : Fin 4, s.dev.mcHolding c =
      true)) :=
  ⟨⟨0, 1, 2#32, at_ ready, by decide +kernel⟩,
   ⟨1, at_ ((fun (d : Dev) => (d.setResetting 1 1 |>.goOffline 0x141 : Dev)) ready), by decide +kernel⟩,
   ⟨1, at_ ((fun (d : Dev) => ({ d with boot := { d.boot with keeperOn := false, resetting := [(1, 1)] } } : Dev)) ready), by decide +kernel⟩,
   ⟨1, 2#32, at_ ready, by decide +kernel⟩,
   ⟨1, 2#32, at_ ((fun (d : Dev) => (d.wf (R.mcStat 2) F.mcStatRetrain 1 : Dev)) ready), by decide +kernel⟩⟩

theorem test_witness_SidebandResetsAndRecalibrations :
    (∃ (path : Fin 7) (p e : Fin 4) (w : Word) (s : State), s.dev.takesCtrl path (ppage p (0xB + e)) w.toNat = true ∧ nbit w.toNat 1 = true) ∧
    (∃ (p e : Fin 4) (s : State), s.dev.resettingOf (4 + 4 * p + e) ≠ 0) ∧
    (∃ (path : Fin 7) (i : Fin 96) (w : Word) (s : State), s.dev.takesCtrl path (Dev.chPage i) w.toNat = true ∧ nbit w.toNat 1 = true ∧ s.dev.rb
      (pctl (Dev.chPage i)) F.ctlEnable = false ∧ (s.dev.trimOf i).recal = false) ∧
    (∃ (i : Fin 96) (s : State), (s.dev.trimOf i).recal = true) ∧
    (∃ (path : Fin 7) (c : Fin 4) (w : Word) (s : State), s.dev.takesCtrl path (0x40 + c) w.toNat = true ∧ nbit w.toNat 1 = true ∧ s.dev.mcInUse c
      = true ∧ (∀ p : Fin 4, s.dev.streamMaps p c = false)) ∧
    (∃ (c : Fin 4) (s : State), s.dev.mcHolding c = true ∧ s.dev.boot.warmWait = false ∧ s.dev.boot.keeperOn = true ∧ s.dev.ledgerOk = true) ∧
    (∃ (c : Fin 4) (s : State), s.dev.mcHolding c = true ∧ s.dev.boot.warmWait = false) :=
  ⟨⟨0, 2, 1, 2#32, at_ ready, by decide +kernel⟩,
   ⟨2, 3, at_ ((fun (d : Dev) => (d.setResetting 15 1 : Dev)) ready), by decide +kernel⟩,
   ⟨0, 95, 2#32, at_ ready, by decide +kernel⟩,
   ⟨31, at_ ((fun (d : Dev) => (d.putTrim 31 { Trim.reset with recal := true } : Dev)) ready), by decide +kernel⟩,
   ⟨0, 3, 2#32, at_ ((fun (d : Dev) => ((((d.wf (R.mcStat 3) F.mcStatExcluded 0).wf (R.mcStat 3) F.mcStatRanks 1).setN R.mcgCfg 0xFFFFFFFF) : Dev))
     ready), by decide +kernel⟩,
   ⟨0, at_ ((fun (d : Dev) => ((d.wf (R.mcStat 0) F.mcStatRetrain 1).goOffline 0x40 |>.wf R.bootDegraded F.bootDegradedLedger 0 : Dev)) ready),
     by decide +kernel⟩,
   ⟨1, at_ ((fun (d : Dev) => ((d.wf (R.mcStat 1) F.mcStatRetrain 1).goOffline 0x41 : Dev)) ready), by decide +kernel⟩⟩

theorem test_witness_HostWindowsReachTheirMemories :
    (∃ (path : Fin 7) (w : Word) (s : State), s.dev.lets path R.hifW2BaseHi = true ∧ w.toNat < 64 ∧ ((s.dev.staging path R.hifW2BaseLo 2).headD
      0).toNat % 2 ^ 20 = 0) ∧
    (∃ (off x : Nat) (s : State), s.dev.hostUp = true ∧ off % 4 = 0 ∧ off < 2 ^ 32 ∧ s.dev.dramOk (s.dev.wide R.hifW2BaseLo 2 + off) 4 = true ∧
      s.dev.poisonOf ((s.dev.wide R.hifW2BaseLo 2 + off) / 64 * 64) = none ∧ s.dev.wide R.hifW2BaseLo 2 % 64 = 0 ∧ x < 2 ^ 32) ∧
    (∃ (off : Nat) (s : State), s.dev.hostUp = true ∧ off % 4 = 0 ∧ off < 2 ^ 32 ∧ s.dev.dramOk (s.dev.wide R.hifW2BaseLo 2 + off) 4 = true ∧
      s.dev.poisonOf ((s.dev.wide R.hifW2BaseLo 2 + off) / 64 * 64) = none ∧ s.dev.wide R.hifW2BaseLo 2 % 64 = 0) ∧
    (∃ (off : Nat) (s : State), s.dev.hostUp = true ∧ off % 4 = 0 ∧ off < 2 ^ 32 ∧ s.dev.dramOk (s.dev.wide R.hifW2BaseLo 2 + off) 4 = false) ∧
    (∃ (off x : Nat) (s : State), s.dev.hostUp = true ∧ off < 0x800000 ∧ off % 4 = 0 ∧ s.dev.srm.run = none ∧ s.dev.chipOffline (ppage (off /
      0x200000) 0) = false ∧ s.dev.sealed (off / 0x20000) = false ∧ s.dev.retained (off / 0x20000) = false ∧ s.dev.srm.waking = [] ∧
      Dev.chipReadOnly off = false ∧ x < 2 ^ 32) ∧
    (∃ (off : Nat) (s : State), s.dev.hostUp = true ∧ off < 0x800000 ∧ off % 4 = 0 ∧ s.dev.srm.run = none ∧ s.dev.chipOffline (ppage (off /
      0x200000) 0) = false ∧ s.dev.sealed (off / 0x20000) = false ∧ s.dev.retained (off / 0x20000) = false ∧ s.dev.srm.waking = []) :=
  ⟨⟨0, 5#32, at_ ((fun (d : Dev) => ({ d with hif := { d.hif with staged := [(Dev.pathKey 0 R.hifW2BaseLo, [0x300000#32, 0])] } } : Dev)) ready),
     by decide +kernel⟩,
   ⟨60, 0x12345678, at_ ((fun (d : Dev) => ((((d.wf (R.mcStat 0) F.mcStatRanks 1).setN R.mcgCch 65536).setN R.mcgCap 65536) : Dev)) ready),
     by decide +kernel⟩,
   ⟨60, at_ ((fun (d : Dev) => ({ (((d.wf (R.mcStat 0) F.mcStatRanks 1).setN R.mcgCch 65536).setN R.mcgCap 65536) with dram := [(60, 7), (63, 1)] }
     : Dev)) ready), by decide +kernel⟩,
   ⟨4096, at_ ready, by decide +kernel⟩,
   ⟨0x20004, 0xABCD0123, at_ ready, by decide +kernel⟩,
   ⟨0x7FFFFC, at_ ((fun (d : Dev) => ({ d with sram := [(0x7FFFFC, 9)] } : Dev)) ready), by decide +kernel⟩⟩

theorem test_witness_HostStatesStopAndRestoreTheLink :
    (∃ (s : State), 6 ≤ s.dev.boot.done ∧ s.dev.rb R.bootDegraded F.bootDegradedHostlink = false ∧ s.dev.hif.linkUp = false) ∧
    (∃ (s : State), 6 ≤ s.dev.boot.done ∧ s.dev.updating = false) ∧
    (∃ (s : State), s.dev.hif.linkUp = true ∧ s.dev.hif.d3hot = false) ∧
    (∃ (s : State), s.dev.hif.d3hot = true ∧ s.dev.hif.linkUp = true ∧ s.dev.hif.fmask = false) :=
  ⟨⟨at_ ((fun (d : Dev) => (({ d with hif := { d.hif with linkUp := false } }).wf R.bootDegraded F.bootDegradedHostlink 0 : Dev)) ready),
     by decide +kernel⟩,
   ⟨at_ ((fun (d : Dev) => (((d.wf (R.dmaCtrl 2) F.dmaCtrlEnable 1).setN (R.dmaTail 3) 5).wf R.bootKupdStat F.bootKupdStatState 0 : Dev)) ready),
     by decide +kernel⟩,
   ⟨at_ ((fun (d : Dev) => (d.wf (R.dmaCtrl 2) F.dmaCtrlEnable 1 : Dev)) ready), by decide +kernel⟩,
   ⟨at_ ((fun (d : Dev) => ({ d with hif := { d.hif with d3hot := true } } : Dev)) ready), by decide +kernel⟩⟩

theorem test_witness_DmaEnginesWorkTheirRings :
    (∃ (path : Fin 7) (e : Fin 8) (w : Word) (s : State), s.dev.takes path (R.dmaCtrl e) w.toNat = true ∧ nbits w.toNat 1 0 = 1 ∧ s.dev.rb
      (R.dmaCtrl e) F.dmaCtrlEnable = false) ∧
    (∃ (path : Fin 7) (e : Fin 8) (w : Word) (s : State), s.dev.takes path (R.dmaTail e) w.toNat = true ∧ (s.dev.dmaOf e).desc = none ∧ s.dev.rb
      (R.dmaCtrl e) F.dmaCtrlEnable = true ∧ s.dev.rb (R.dmaStat e) F.dmaStatStoppedErr = false ∧ s.dev.hif.d3hot = false ∧ w.toNat < 65536 ∧
      s.dev.rn (R.dmaHead e) ≠ w.toNat) ∧
    (∃ (path : Fin 7) (e : Fin 8) (w : Word) (s : State), s.dev.takes path (R.dmaCtrl e) w.toNat = true ∧ nbits w.toNat 1 0 = 2 ∧ (s.dev.dmaOf
      e).desc.isSome = true) ∧
    (∃ (e : Fin 8) (x : DmaEnd) (w0 len hlo hhi dlo dhi : Word) (s : State), (s.dev.dmaOf e).desc = some [w0, len, hlo, hhi, dlo, dhi, 0, 0] ∧
      (s.dev.dmaOf e).aborting = false ∧ w0.toNat < 2 ^ 16 ∧ s.dev.srm.run = none ∧ x.host = [] ∧ x.hostErr = false ∧ x.aer = false ∧ (s.dev.rn
      (R.dmaHead e) + 1) % s.dev.dmaSize e = s.dev.rn (R.dmaTail e) ∧ len = 0 ∧ hlo.toNat % 4 = 0 ∧ dlo.toNat % 4 = 0 ∧ dhi.toNat < 64) ∧
    (∃ (e : Fin 8) (x : DmaEnd) (w0 len hlo hhi dlo dhi : Word) (s : State), (s.dev.dmaOf e).desc = some [w0, len, hlo, hhi, dlo, dhi, 0, 0] ∧
      (s.dev.dmaOf e).aborting = false ∧ w0.toNat < 2 ^ 16 ∧ s.dev.srm.run = none ∧ x.host = [] ∧ x.hostErr = false ∧ x.aer = false ∧ (s.dev.rn
      (R.dmaHead e) + 1) % s.dev.dmaSize e = s.dev.rn (R.dmaTail e) ∧ 0 < len.toNat ∧ len.toNat % 64 = 0 ∧ hlo.toNat % 4 = 0 ∧ dlo.toNat % 64 = 0 ∧
      dhi.toNat < 64 ∧ s.dev.dramOk (dlo.toNat + 2 ^ 32 * dhi.toNat) len.toNat = true) :=
  ⟨⟨0, 3, 0x405#32, at_ ready, by decide +kernel⟩,
   ⟨0, 1, 1#32, at_ ((fun (d : Dev) => (d.wf (R.dmaCtrl (1 : Fin 8)) F.dmaCtrlEnable 1 : Dev)) ready), by decide +kernel⟩,
   ⟨0, 7, 0x402#32, at_ ((fun (d : Dev) => ((d.wf (R.dmaCtrl (7 : Fin 8)) F.dmaCtrlEnable 1).putDma (7 : Fin 8) { Dma.reset with desc := some [] }
     : Dev)) ready), by decide +kernel⟩,
   ⟨2, ⟨[], 64, false, none, false, none, 0, 0, false, false⟩, 9#32, 0, 0, 0, 64, 0, at_ ((fun (d : Dev) => ((d.setN (R.dmaTail (2 : Fin 8))
     1).putDma (2 : Fin 8) { Dma.reset with desc := some [9, 0, 0, 0, 64, 0, 0, 0] } : Dev)) ready), by decide +kernel⟩,
   ⟨2, ⟨[], 64, false, none, false, none, 0, 0, false, false⟩, 9#32, 64, 16, 0, 64, 0, at_ ((fun (d : Dev) =>
     (({ (((d.wf (R.mcStat 0) F.mcStatRanks 1).setN R.mcgCch 65536).setN R.mcgCap 65536) with hostMem := [(16, 3), (79, 4)] }.setN (R.dmaTail (2 :
     Fin 8)) 1).putDma (2 : Fin 8) { Dma.reset with desc := some [9, 64, 16, 0, 64, 0, 0, 0] } : Dev)) ready), by decide +kernel⟩⟩

theorem test_witness_MessagesAndTheSupervisorsPort :
    (∃ (s : State), s.dev.hostUp = true) ∧
    (∃ (path : Fin 7) (v : Fin 64) (s : State), s.dev.takes path (R.msixVctrl v) 0 = true ∧ s.dev.hostUp = true ∧ s.dev.hif.fmask = false ∧
      s.dev.msixPending v = true) ∧
    (∃ (s : State), 3 ≤ s.dev.boot.done) ∧
    (∃ (a x : Nat) (s : State), 3 ≤ s.dev.boot.done ∧ s.dev.srm.run = none ∧ 0x400000 ≤ a ∧ a < 0x410000 ∧ a % 4 = 0 ∧ x < 2 ^ 32) ∧
    (∃ (a : Nat) (r : RegDef) (s : State), 3 ≤ s.dev.boot.done ∧ s.dev.letsRead 1 a = true ∧ a / 0x1000 = 0x70 ∧ 0x40 ≤ a % 0x1000 ∧ findReg
      (pageMap .pwr) (a % 0x1000) = some r ∧ a % 0x1000 ∉ [0x4C, 0x50, 0x64] ∧ r.wide.2 ≤ 1 ∧ r.wo = 0) :=
  ⟨⟨at_ ((fun (d : Dev) => ({ d with hif := { d.hif with fmask := true } }.setN (R.msixPba 0) 5 : Dev)) ready), by decide +kernel⟩,
   ⟨0, 40, at_ ((fun (d : Dev) => ((d.setN (R.msixPba ((40 : Fin 64) / 32)) (2 ^ ((40 : Fin 64).val % 32))).setN (R.msixData (40 : Fin 64)) 77 :
     Dev)) ready), by decide +kernel⟩,
   ⟨at_ ((fun (d : Dev) => ({ d with hif := { d.hif with bmpDenied := true } } : Dev)) ready), by decide +kernel⟩,
   ⟨0x40FFFC, 0xFEDC, at_ ready, by decide +kernel⟩,
   ⟨0x70044, (regDef 0x70044).getD ⟨0, 0, 0, 0, 0, 0, 0, 0, 0, 0, [], (0, 1)⟩, at_ ready, by decide +kernel⟩⟩

theorem test_witness_ReferencesFailOverAndReturn :
    (∃ (r : Fin 2) (s : State), s.dev.refOk r = true ∧ s.dev.rf R.clkRef F.clkRefActive = r + 1 ∧ s.dev.rb R.clkRef F.clkRefFailover = true ∧
      s.dev.refOk (1 - r) = true) ∧
    (∃ (r : Fin 2) (s : State), s.dev.refOk r = true ∧ s.dev.rf R.clkRef F.clkRefActive = r + 1 ∧ s.dev.rb R.clkRef F.clkRefFailover = false ∧
      s.dev.rb R.clkStat F.clkStatRootLock = true) ∧
    (∃ (r : Fin 2) (s : State), s.dev.refOk r = false ∧ s.dev.rb R.clkStat F.clkStatHoldover = true) ∧
    (∃ (path : Fin 7) (w : Word) (s : State), s.dev.takes path R.clkRef w.toNat = true ∧ nbits w.toNat 0 0 ≠ s.dev.rf R.clkRef F.clkRefSel ∧
      s.dev.refOk (nbits w.toNat 0 0) = true ∧ s.dev.rf R.clkRef F.clkRefActive = 2 - nbits w.toNat 0 0) ∧
    (∃ (path : Fin 7) (w : Word) (s : State), s.dev.takes path R.clkRef w.toNat = true ∧ nbits w.toNat 0 0 ≠ s.dev.rf R.clkRef F.clkRefSel ∧
      s.dev.refOk (nbits w.toNat 0 0) = false) ∧
    (∃ (s : State), s.dev.rb R.clkStat F.clkStatRootLock = true) :=
  ⟨⟨0, at_ ((fun (d : Dev) => (((d.wf R.clkRef (Dev.F.refOk 0) 1).wf R.clkRef (Dev.F.refOk 1) 1).wf R.clkRef F.clkRefActive ((0 : Fin 2) + 1) :
     Dev)) ready), by decide +kernel⟩,
   ⟨1, at_ ((fun (d : Dev) => ((((d.wf R.clkRef (Dev.F.refOk (1 : Fin 2)) 1).wf R.clkRef F.clkRefFailover 0).wf R.clkRef F.clkRefActive ((1 : Fin
     2) + 1)).wf R.clkStat F.clkStatRootLock 1 : Dev)) ready), by decide +kernel⟩,
   ⟨1, at_ ((fun (d : Dev) => ((d.wf R.clkStat F.clkStatHoldover 1).wf R.clkRef (Dev.F.refOk (1 : Fin 2)) 0 : Dev)) ready), by decide +kernel⟩,
   ⟨0, 1#32, at_ ((fun (d : Dev) => (((d.wf R.clkRef F.clkRefSel 0).wf R.clkRef (Dev.F.refOk 1) 1).wf R.clkRef F.clkRefActive 1 : Dev)) ready),
     by decide +kernel⟩,
   ⟨0, 1#32, at_ ((fun (d : Dev) => ((d.wf R.clkRef F.clkRefSel 0).wf R.clkRef (Dev.F.refOk 1) 0 : Dev)) ready), by decide +kernel⟩,
   ⟨at_ ((fun (d : Dev) => (d.wf R.clkStat F.clkStatRootLock 1 : Dev)) ready), by decide +kernel⟩⟩

theorem test_witness_GtcStepsAreAddedToTheGtc :
    (∃ (path : Fin 7) (w l0 l1 l2 : Word) (s : State), s.dev.lets path R.gtcStep2 = true ∧ w.toNat < 65536 ∧ s.dev.staging path R.gtcStep0 3 = [l0,
      l1, l2] ∧ s.dev.anyRunning = false) ∧
    (∃ (path : Fin 7) (w l0 l1 l2 : Word) (s : State), s.dev.lets path R.gtcStep2 = true ∧ w.toNat < 65536 ∧ s.dev.staging path R.gtcStep0 3 = [l0,
      l1, l2] ∧ s.dev.anyRunning = true) ∧
    (∃ (b : Bool) (s : State), (b = true ∨ s.dev.counting = false)) ∧
    (∃ (s : State), s.dev.counting = true ∧ (s.dev.esrc Ev.towpathMismatch).en = true) :=
  ⟨⟨0, 0xFFFF#32, 7, 0xFFFFFFFF, 0, at_ ((fun (d : Dev) =>
     ({ d with hif := { d.hif with staged := [(Dev.pathKey (0 : Fin 7) R.gtcStep0, [7#32, 0xFFFFFFFF#32, 0#32])] } } : Dev)) ready),
     by decide +kernel⟩,
   ⟨0, 0xFFFF#32, 7, 0xFFFFFFFF, 0, at_ ((fun (d : Dev) =>
     (({ d with hif := { d.hif with staged := [(Dev.pathKey (0 : Fin 7) R.gtcStep0, [7#32, 0xFFFFFFFF#32, 0#32])] } }).wf (R.seqStat 2)
     F.seqStatState 2 : Dev)) ready), by decide +kernel⟩,
   ⟨true, at_ ready, by decide +kernel⟩,
   ⟨at_ ((fun (d : Dev) => ({ d with counting := true }.setEsrc Ev.towpathMismatch { EvtSrc.reset Ev.towpathMismatch with en := true } : Dev))
     ready), by decide +kernel⟩⟩

theorem test_witness_SyncOutTrainsRunAndEnd :
    (∃ (path : Fin 7) (w : Word) (s : State), s.dev.takes path R.syncCtrl w.toNat = true ∧ nbit w.toNat 0 = true) ∧
    (∃ (path : Fin 7) (w : Word) (s : State), s.dev.takes path R.syncCtrl w.toNat = true ∧ nbits w.toNat 5 4 = 0 ∧ nbit w.toNat 0 = false) ∧
    (∃ (path : Fin 7) (w : Word) (s : State), s.dev.takes path R.syncCtrl w.toNat = true ∧ nbits w.toNat 5 4 = 1 ∧ nbit w.toNat 0 = false) ∧
    (∃ (path : Fin 7) (w : Word) (s : State), s.dev.takes path R.syncCtrl w.toNat = true ∧ nbits w.toNat 5 4 = 2 ∧ nbit w.toNat 0 = false) ∧
    (∃ (path : Fin 7) (w : Word) (s : State), s.dev.takes path R.syncCtrl w.toNat = true ∧ nbits w.toNat 5 4 = 3 ∧ nbit w.toNat 0 = false) ∧
    (∃ (a n : Nat) (s : State), s.dev.sync.outNext = some a ∧ a < s.dev.now + 131072 ∧ s.dev.sync.outLeft = some (n + 1)) ∧
    (∃ (a : Nat) (s : State), s.dev.sync.outNext = some a ∧ a < s.dev.now + 131072 ∧ s.dev.sync.outLeft = some 0) :=
  ⟨⟨0, 0x30001#32, at_ ((fun (d : Dev) => (d.setWide R.syncOutAt0 3 (d.now + Dev.usTicks) : Dev)) ready), by decide +kernel⟩,
   ⟨0, 0x0#32, at_ ready, by decide +kernel⟩,
   ⟨0, 0x10#32, at_ ready, by decide +kernel⟩,
   ⟨0, 0x20#32, at_ ready, by decide +kernel⟩,
   ⟨0, 0x30#32, at_ ready, by decide +kernel⟩,
   ⟨5, 3, at_ ((fun (d : Dev) => ({ d with sync := { d.sync with outNext := some 5, outLeft := some 4 } } : Dev)) ready), by decide +kernel⟩,
   ⟨5, at_ ((fun (d : Dev) => ({ d with sync := { d.sync with outNext := some 5, outLeft := some 0 } }.wf R.syncCtrl F.syncCtrlOutArm 1 : Dev))
     ready), by decide +kernel⟩⟩

theorem test_witness_SyncCapturesMeasureAlignAndRelay :
    (∃ (s : State), s.dev.rf R.syncCtrl F.syncCtrlInMode = 1 ∧ s.dev.sync.lastCap = none ∧ s.dev.sync.errs = [] ∧ s.dev.rn R.syncDriftLim = 0) ∧
    (∃ (x c : Nat) (s : State), s.dev.rf R.syncCtrl F.syncCtrlInMode = 2 ∧ s.dev.sync.lastCap = some c ∧ (((((x + 16) / 32 * 32 % 2 ^ 80) : Int) -
      c - s.dev.syncTicks).natAbs) ≤ 1024 ∧ s.dev.sync.n = 63 ∧ s.dev.anyRunning = false) ∧
    (∃ (s : State), s.dev.rf R.syncCtrl F.syncCtrlInMode = 3 ∧ s.dev.sync.lastCap = none) ∧
    (∃ (c : Nat) (s : State), s.dev.rf R.syncCtrl F.syncCtrlInMode = 2 ∧ s.dev.sync.lastCap = some c ∧ s.dev.sync.missed = false ∧ c +
      s.dev.syncTicks + 1024 < s.dev.now) ∧
    (∃ (a : Nat) (l : List Nat) (s : State), s.dev.sync.relay = a :: l ∧ a < s.dev.now + 131072) :=
  ⟨⟨at_ ((fun (d : Dev) => ((d.wf R.syncCtrl F.syncCtrlInMode 1).setN R.syncDriftLim 0 : Dev)) ready), by decide +kernel⟩,
   ⟨4194304, 0, at_ ((fun (d : Dev) =>
     ({ (d.wf R.syncCtrl F.syncCtrlInMode 2).setN R.syncPeriod 64 with sync := { d.sync with n := 63, lastCap := some 0, errs := [3, 4] } } : Dev))
     ready), by decide +kernel⟩,
   ⟨at_ ((fun (d : Dev) => (d.wf R.syncCtrl F.syncCtrlInMode 3 : Dev)) ready), by decide +kernel⟩,
   ⟨0, at_ ((fun (d : Dev) => ({ (d.wf R.syncCtrl F.syncCtrlInMode 2).setN R.syncPeriod 64 with sync := { d.sync with lastCap := some 0 } } : Dev))
     ready), by decide +kernel⟩,
   ⟨9, [20], at_ ((fun (d : Dev) => ({ d with sync := { d.sync with relay := [9, 20] } } : Dev)) ready), by decide +kernel⟩⟩

theorem test_witness_TimedCommandsQueueAndExecute :
    (∃ (path : Fin 7) (w : Word) (ws : List Word) (e : TcqEntry) (s : State), s.dev.lets path (R.tcqEntry 7) = true ∧ (path.val = 0 ∨ 3 ≤ path.val)
      ∧ (s.dev.hif.staged.find? (fun y => y.1 == Dev.pathKey path (R.tcqEntry 0))).map Prod.snd = some ws ∧ ws.length = 8 ∧ Dev.tcqParse path
      ((lset ws 7 w).map BitVec.toNat) = some e ∧ s.dev.tcq.q.length < 256) ∧
    (∃ (e : TcqEntry) (l : List TcqEntry) (w : Word) (k : PageKind) (i : Nat) (r : RegDef) (s : State), s.dev.tcq.q = e :: l ∧ s.dev.tcq.held = []
      ∧ Dev.timingAff e.addr = false ∧ s.dev.tcq.lastDisp ≠ s.dev.cycNo ∧ s.dev.tcqDue e = true ∧ e.data = [w] ∧ s.dev.takes 2 e.addr w.toNat =
      true ∧ pageOf (e.addr / 0x1000) = some (k, i) ∧ k ∈ [.qos, .lks, .apg, .cdc, .tsa, .uch] ∧ findReg (pageMap k) (e.addr % 0x1000) = some r ∧
      s.dev.tcq.cpl = []) ∧
    (∃ (e : TcqEntry) (l : List TcqEntry) (w : Word) (r : RegDef) (s : State), s.dev.tcq.q = e :: l ∧ s.dev.tcq.held = [] ∧ Dev.timingAff e.addr =
      true ∧ s.dev.tcq.lastDisp ≠ s.dev.cycNo ∧ s.dev.tcqDue e = true ∧ e.data = [w] ∧ s.dev.takes 2 e.addr w.toNat = true ∧ findReg (pageMap .tsa)
      (e.addr % 0x1000) = some r ∧ (pageOf (e.addr / 0x1000)).map Prod.fst = some .tsa ∧ s.dev.affInUse e.addr = false ∧ s.dev.now < e.stamp) :=
  ⟨⟨0, 0, [100000000#32, 1#32, 0x50000#32, 0x80401068#32, 9#32, 0#32, 0#32, 0#32], (Dev.tcqParse (0 : Fin 7) (([100000000#32, 1#32, 0x50000#32,
     0x80401068#32, 9#32, 0#32, 0#32, 0#32] : List Word).map BitVec.toNat)).getD ⟨0, 0, false, 0, [], 0, false⟩, at_ ((fun (d : Dev) =>
     ({ d with hif := { d.hif with staged := [(Dev.pathKey (0 : Fin 7) (R.tcqEntry 0), [100000000#32, 1#32, 0x50000#32, 0x80401068#32, 9#32, 0#32, 0#32, 0#32])] } }
     : Dev)) ready), by decide +kernel⟩,
   ⟨⟨3, 77, true, 0x102040, [9#32], 0, true⟩, [], 9, .lks, 0, (regDef 0x102040).getD ⟨0, 0, 0, 0, 0, 0, 0, 0, 0, 0, [], (0, 1)⟩, at_ ((fun (d :
     Dev) => ({ d with tcq := { d.tcq with q := [⟨3, 77, true, 0x102040, [9#32], 0, true⟩] } } : Dev)) ready), by decide +kernel⟩,
   ⟨⟨140000000, 78, true, 0x10511C, [5#32], 0, false⟩, [], 5, (regDef 0x10511C).getD ⟨0, 0, 0, 0, 0, 0, 0, 0, 0, 0, [], (0, 1)⟩, at_ ((fun (d :
     Dev) => ({ d with tcq := { d.tcq with q := [⟨140000000, 78, true, 0x10511C, [5#32], 0, false⟩] } } : Dev)) ready), by decide +kernel⟩⟩

theorem test_witness_TimedCommandsAreCancelledAndReported :
    (∃ (path : Fin 7) (w : Word) (s : State), s.dev.takes path R.tcqCancel w.toNat = true ∧ s.dev.tcq.held = []) ∧
    (∃ (path : Fin 7) (w : Word) (s : State), s.dev.takes path R.tcqFlush w.toNat = true ∧ nbit w.toNat 0 = true) ∧
    (∃ (path : Fin 7) (c0 c1 c2 c3 : Word) (l : List (List Word)) (s : State), s.dev.letsRead path R.tcqCpl0 = true ∧ s.dev.tcq.cpl = [c0, c1, c2,
      c3] :: l) ∧
    (∃ (path : Fin 7) (s : State), s.dev.letsRead path R.tcqCpl0 = true ∧ s.dev.tcq.cpl = []) :=
  ⟨⟨0, 77#32, at_ ((fun (d : Dev) =>
     ({ d with tcq := { d.tcq with q := [⟨3, 77, true, 0x102040, [9#32], 0, true⟩, ⟨140000000, 78, true, 0x10511C, [5#32], 0, false⟩] } } : Dev))
     ready), by decide +kernel⟩,
   ⟨0, 1#32, at_ ((fun (d : Dev) =>
     ({ d with tcq := { d.tcq with q := [⟨3, 77, true, 0x102040, [9#32], 0, true⟩, ⟨140000000, 78, true, 0x10511C, [5#32], 0, false⟩], held := [(0, ⟨3, 77, true, 0x102040, [9#32], 0, true⟩)] } }
     : Dev)) ready), by decide +kernel⟩,
   ⟨0, 1, 2, 3, 4, [[5, 6, 7, 8]], at_ ((fun (d : Dev) => ({ d with tcq := { d.tcq with cpl := [[1, 2, 3, 4], [5, 6, 7, 8]] } } : Dev)) ready),
     by decide +kernel⟩,
   ⟨0, at_ ready, by decide +kernel⟩⟩

theorem test_witness_TimingAffectingWritesWaitWhileInUse :
    (∃ (path : Fin 7) (a : Fin 0x400000) (w : Word) (p : Nat) (r : RegDef) (s : State), s.dev.takes path a w.toNat = true ∧ pageOf (a / 0x1000) =
      some (.tsa, p) ∧ findReg (pageMap .tsa) (a % 0x1000) = some r ∧ Dev.timingAff a = true ∧ s.dev.affInUse a = false) ∧
    (∃ (path : Fin 7) (a : Fin 0x400000) (w : Word) (p : Nat) (r : RegDef) (s : State), s.dev.takes path a w.toNat = true ∧ pageOf (a / 0x1000) =
      some (.tsa, p) ∧ findReg (pageMap .tsa) (a % 0x1000) = some r ∧ Dev.timingAff a = true ∧ s.dev.affInUse a = true) ∧
    (∃ (p : Fin 4) (c : PendCh) (x : Word) (s : State), s.dev.pend = [c] ∧ pageOf (c.addr / 0x1000) = some (.tsa, p.val) ∧ Dev.gridReg c.addr =
      false ∧ c.cmd = none ∧ c.data = [x] ∧ s.dev.isDue c = true) ∧
    (∃ (c : PendCh) (s : State), s.dev.pend = [c] ∧ s.dev.isDue c = false) :=
  ⟨⟨0, 0x14515C, 0x80000005#32, 1, (regDef 0x14515C).getD ⟨0, 0, 0, 0, 0, 0, 0, 0, 0, 0, [], (0, 1)⟩, at_ ready, by decide +kernel⟩,
   ⟨0, 0x14515C, 0x80000005#32, 1, (regDef 0x14515C).getD ⟨0, 0, 0, 0, 0, 0, 0, 0, 0, 0, [], (0, 1)⟩, at_ ((fun (d : Dev) =>
     ({ d.wf (R.seqStat 1) F.seqStatState 2 with seq := [(1, { Seq.reset with ts := 1 })] } : Dev)) ready), by decide +kernel⟩,
   ⟨1, ⟨0x14515C, [0x80000007#32], 0, 5, true, none⟩, 0x80000007, at_ ((fun (d : Dev) =>
     ({ d with pend := [⟨0x14515C, [0x80000007#32], 0, 5, true, none⟩] } : Dev)) ready), by decide +kernel⟩,
   ⟨⟨0x14515C, [0x80000007#32], 0, 2 ^ 50, true, none⟩, at_ ((fun (d : Dev) =>
     ({ d with pend := [⟨0x14515C, [0x80000007#32], 0, 2 ^ 50, true, none⟩] } : Dev)) ready), by decide +kernel⟩⟩

theorem test_witness_TrackingFollowsTheTimingProfile :
    (∃ (path : Fin 7) (p : Fin 4) (w : Word) (s : State), s.dev.takes path (R.prtProfile p) w.toNat = true ∧ nbit w.toNat 0 = true ∧ s.dev.rf
      (R.prtProfile p) F.prtProfileTiming = 0) ∧
    (∃ (path : Fin 7) (p : Fin 4) (w : Word) (s : State), s.dev.takes path (R.prtProfile p) w.toNat = true ∧ nbit w.toNat 0 = false ∧ s.dev.rf
      (R.prtProfile p) F.prtProfileTiming = 1) ∧
    (∃ (p : Fin 4) (s : State), s.dev.offline false (ppage p 0) = false ∧ s.dev.periodic p = false ∧ s.dev.boot.keeperOn = true ∧ s.dev.rb
      R.bootDegraded F.bootDegradedTimecal = false ∧ s.dev.rb R.bootDegraded F.bootDegradedLevelcal = false) ∧
    (∃ (i : Fin 96) (s : State), s.dev.chOnline i = true ∧ s.dev.boot.keeperOn = true ∧ s.dev.periodic (Dev.chPort i) = false ∧ -2147483632 ≤
      s.dev.track i ∧ s.dev.track i < 2147483632) ∧
    (∃ (i : Fin 96) (g : Int) (s : State), s.dev.chOnline i = true ∧ s.dev.boot.keeperOn = true ∧ s.dev.periodic (Dev.chPort i) = true ∧
      (s.dev.trimOf i).goal = some g ∧ -2147483632 ≤ s.dev.track i ∧ s.dev.track i < 2147483632) ∧
    (∃ (i : Fin 96) (s : State), s.dev.chOnline i = true ∧ s.dev.boot.keeperOn = true ∧ s.dev.periodic (Dev.chPort i) = true ∧ s.dev.trimDue i =
      true) :=
  ⟨⟨0, 1, 1#32, at_ ((fun (d : Dev) => (d.wf (R.prtProfile (1 : Fin 4)) F.prtProfileTiming 0 : Dev)) ready), by decide +kernel⟩,
   ⟨0, 1, 0#32, at_ ((fun (d : Dev) => (d.wf (R.prtProfile (1 : Fin 4)) F.prtProfileTiming 1 : Dev)) ready), by decide +kernel⟩,
   ⟨2, at_ ((fun (d : Dev) => ((d.setN R.bootDegraded 0).wf (R.prtProfile (2 : Fin 4)) F.prtProfileTiming 0 : Dev)) ready), by decide +kernel⟩,
   ⟨33, at_ ((fun (d : Dev) => (d.wf (R.prtProfile (Dev.chPort (33 : Fin 96))) F.prtProfileTiming 0 : Dev)) ready), by decide +kernel⟩,
   ⟨3, 9, at_ ((fun (d : Dev) => ((d.wf (R.prtProfile (Dev.chPort (3 : Fin 96))) F.prtProfileTiming 1).putTrim (3 : Fin 96)
     { d.trimOf (3 : Fin 96) with goal := some 9 } : Dev)) ready), by decide +kernel⟩,
   ⟨3, at_ ((fun (d : Dev) => ((d.wf (R.prtProfile (Dev.chPort (3 : Fin 96))) F.prtProfileTiming 1).putTrim (3 : Fin 96)
     { d.trimOf (3 : Fin 96) with due := true } : Dev)) ready), by decide +kernel⟩⟩

theorem test_witness_SagsStretchTheClockAndEnd :
    (∃ (pt : Fin 4) (mv : Nat) (s : State), nbit (s.dev.rf R.pwrSagCfg F.pwrSagCfgPtEn) pt = true ∧ mv < s.dev.rf R.pwrAvs F.pwrAvsSetMv - s.dev.rf
      R.pwrSagCfg F.pwrSagCfgTh ∧ s.dev.sagging = false) ∧
    (∃ (pt : Fin 4) (mv : Nat) (s : State), nbit (s.dev.rf R.pwrSagCfg F.pwrSagCfgPtEn) pt = true ∧ mv < s.dev.rf R.pwrAvs F.pwrAvsSetMv - s.dev.rf
      R.pwrSagCfg F.pwrSagCfgTh ∧ s.dev.sagging = true) ∧
    (∃ (s : State), s.dev.sagging = true ∧ s.dev.rb R.pwrSagStat F.pwrSagStatPersist = false) ∧
    (∃ (t0 : Nat) (s : State), s.dev.pwr.sag = some t0 ∧ s.dev.srm.run = none) :=
  ⟨⟨2, 600, at_ ((fun (d : Dev) => (((d.setN R.pwrSagCfg 0xA0F1E).setN R.pwrAvs 0x2EE02EE) : Dev)) ready), by decide +kernel⟩,
   ⟨2, 600, at_ ((fun (d : Dev) => (((d.setN R.pwrSagCfg 0xA0F1E).setN R.pwrAvs 0x2EE02EE).wf R.pwrSagStat F.pwrSagStatActive 1 : Dev)) ready),
     by decide +kernel⟩,
   ⟨at_ ((fun (d : Dev) => ((d.wf R.pwrSagStat F.pwrSagStatActive 1).wf R.pwrSagStat F.pwrSagStatPersist 0 : Dev)) ready), by decide +kernel⟩,
   ⟨131072000, at_ ((fun (d : Dev) => ({ d with pwr := { d.pwr with sag := some 131072000, upTo := 131072000 } } : Dev)) ready), by decide +kernel⟩⟩

theorem test_witness_SupplyAndTemperatureAreWatched :
    (∃ (path : Fin 7) (w : Word) (s : State), s.dev.takes path R.glbProfile w.toNat = true) ∧
    (∃ (s : State), s.dev.boot.keeperOn = true) ∧
    (∃ (x : Int) (s : State), 3 ≤ s.dev.boot.done ∧ s.dev.pwr.failed = [] ∧ -160 ≤ x ∧ x ≤ 600) ∧
    (∃ (rs : List Int) (i : Fin 16) (s : State), 3 ≤ s.dev.boot.done ∧ Dev.tempInRange ((rs[i.val]?).getD 0) = false) :=
  ⟨⟨0, 0#32, at_ ((fun (d : Dev) => (d.setN R.glbProfile 0x101 : Dev)) ready), by decide +kernel⟩,
   ⟨at_ ready, by decide +kernel⟩,
   ⟨-40, at_ ready, by decide +kernel⟩,
   ⟨[700], 0, at_ ready, by decide +kernel⟩⟩

theorem test_witness_PortsStartFillAndStop :
    (∃ (path : Fin 7) (p : Fin 4) (w : Word) (s : State), s.dev.takes path (R.seqCtrl p) w.toNat = true ∧ nbits w.toNat 1 0 = 1 ∧ s.dev.seqState p
      = 0 ∧ s.dev.noReact Ev.capOver = true ∧ s.dev.noReact (Ev.sjLimit p) = true ∧ s.dev.anyFatal = false ∧ s.dev.winter = false ∧ (s.dev.wf
      (R.seqCtrl p) F.seqCtrlStartTs (nbits w.toNat 11 8)).utilRateBad p (nbits w.toNat 11 8) = false ∧ s.dev.firstBad p false = none ∧
      s.dev.firstBad p true = none ∧ s.dev.rb (R.acqCfg p) F.acqCfgDest = false ∧ (s.dev.wf (R.seqCtrl p) F.seqCtrlStartTs (nbits w.toNat 11
      8)).admitCheck p = none) ∧
    (∃ (p : Fin 4) (s : State), s.dev.seqState p = 1 ∧ (s.dev.txFmt p).empty = true ∧ s.dev.srm.waking = []) ∧
    (∃ (path : Fin 7) (p : Fin 4) (w : Word) (s : State), s.dev.takes path (R.seqCtrl p) w.toNat = true ∧ nbits w.toNat 1 0 = 2 ∧ s.dev.seqState p
      ≠ 0) ∧
    (∃ (path : Fin 7) (p : Fin 4) (w : Word) (s : State), s.dev.takes path (R.seqErr p) w.toNat = true ∧ nbit w.toNat 31 = true) ∧
    (∃ (path : Fin 7) (p : Fin 4) (rx : Bool) (i : Fin 16) (w l0 l1 l2 l3 : Word) (s : State), s.dev.lets path (Dev.descReg p rx i 3) = true ∧
      s.dev.staging path (Dev.descReg p rx i 0) 4 = [l0, l1, l2, l3] ∧ l0.toNat % 2048 = 0 ∧ l1.toNat < 64 ∧ l2.toNat < 2 ^ 20 ∧ l2 ≠ 0 ∧ nbits
      w.toNat 28 16 = 0 ∧ s.dev.writeLegal .lks p (Dev.descReg p rx i 0 % 4096) [l0.toNat, l1.toNat, l2.toNat, w.toNat] false = true) :=
  ⟨⟨0, 2, 0x301#32, at_ ((fun (d : Dev) => ((((d.setN R.glbSeason 1).setN R.bootDegraded 0).setN R.glbProfile 0).setN (R.seqUdiv (2 : Fin 4))
     0x1000 : Dev)) ready), by decide +kernel⟩,
   ⟨2, at_ ((fun (d : Dev) => (((d.setN (R.seqStat (2 : Fin 4)) 0x10000000).setN (R.lksTxFmt (2 : Fin 4)) 0) : Dev)) ready), by decide +kernel⟩,
   ⟨0, 2, 2#32, at_ ((fun (d : Dev) =>
     ({ (((d).setN (R.seqStat (2 : Fin 4)) 0x20000000).setN (R.seqPc (2 : Fin 4)) 5) with sram := mputNat d.sram ((2 : Fin 4) * 0x200000 + 0x180000 + 80) 16 0, seq := [((2 : Fin 4).val, { Seq.reset with fe := .run, decoded := 1000000, tref := true })] }
     : Dev)) ready), by decide +kernel⟩,
   ⟨0, 2, 0x80000000#32, at_ ((fun (d : Dev) => (d.setN (R.seqErr (2 : Fin 4)) 0x3000007 : Dev)) ready), by decide +kernel⟩,
   ⟨0, 1, false, 3, 0xC0000001#32, 0x4000, 1, 8, 0, at_ ((fun (d : Dev) =>
     ({ d with hif := { d.hif with staged := [(Dev.pathKey (0 : Fin 7) (Dev.descReg (1 : Fin 4) (false : Bool) (3 : Fin 16) 0), [0x4000#32, 1#32, 8#32, 0#32])] } }
     : Dev)) ready), by decide +kernel⟩⟩

theorem test_witness_LoopsCallsAndJumps :
    (∃ (p : Fin 4) (s : State), s.dev.runs p 4 = true ∧ (if Dev.I.bit100 (s.dev.instrAt p (s.dev.pc p)) then s.dev.rn (R.seqCnt p (Dev.I.csel
      (s.dev.instrAt p (s.dev.pc p)))) else Dev.I.count (s.dev.instrAt p (s.dev.pc p))) ≠ 0 ∧ (s.dev.seqOf p).loops.length < 8) ∧
    (∃ (p : Fin 4) (s : State), s.dev.runs p 4 = true ∧ (if Dev.I.bit100 (s.dev.instrAt p (s.dev.pc p)) then s.dev.rn (R.seqCnt p (Dev.I.csel
      (s.dev.instrAt p (s.dev.pc p)))) else Dev.I.count (s.dev.instrAt p (s.dev.pc p))) = 0) ∧
    (∃ (p : Fin 4) (s : State), s.dev.runs p 4 = true ∧ s.dev.noReact (Ev.seqStack p) = true ∧ (if Dev.I.bit100 (s.dev.instrAt p (s.dev.pc p)) then
      s.dev.rn (R.seqCnt p (Dev.I.csel (s.dev.instrAt p (s.dev.pc p)))) else Dev.I.count (s.dev.instrAt p (s.dev.pc p))) ≠ 0 ∧ (s.dev.seqOf
      p).loops.length = 8) ∧
    (∃ (p : Fin 4) (a n : Nat) (l : List (Nat × Nat × Nat)) (s : State), s.dev.runs p 5 = true ∧ (s.dev.seqOf p).loops = (a, n, (s.dev.seqOf
      p).calls.length) :: l) ∧
    (∃ (p : Fin 4) (s : State), s.dev.runs p 6 = true ∧ (s.dev.seqOf p).calls.length < 16) ∧
    (∃ (p : Fin 4) (a : Nat) (l : List Nat) (s : State), s.dev.runs p 7 = true ∧ (s.dev.seqOf p).calls = a :: l ∧ Dev.loopHere (s.dev.seqOf p) =
      false) ∧
    (∃ (p : Fin 4) (s : State), s.dev.runs p 8 = true) ∧
    (∃ (p : Fin 4) (s : State), s.dev.runs p 9 = true ∧ Dev.I.cond (s.dev.instrAt p (s.dev.pc p)) = 4) ∧
    (∃ (p : Fin 4) (s : State), s.dev.runs p 9 = true ∧ Dev.I.cond (s.dev.instrAt p (s.dev.pc p)) ∈ [2, 3, 5, 6, 7]) ∧
    (∃ (p : Fin 4) (s : State), s.dev.runs p 9 = true ∧ Dev.I.cond (s.dev.instrAt p (s.dev.pc p)) < 2 ∧ (s.dev.seqOf p).lastSeg = none) ∧
    (∃ (p : Fin 4) (g : Nat) (s : State), s.dev.runs p 9 = true ∧ Dev.I.cond (s.dev.instrAt p (s.dev.pc p)) < 2 ∧ (s.dev.seqOf p).lastSeg = some g) :=
  ⟨⟨2, at_ ((fun (d : Dev) =>
     ({ (((d).setN (R.seqStat (2 : Fin 4)) 0x20000000).setN (R.seqPc (2 : Fin 4)) 5) with sram := mputNat d.sram ((2 : Fin 4) * 0x200000 + 0x180000 + 80) 16 0x4000000000000003005a000000000000, seq := [((2 : Fin 4).val, { Seq.reset with fe := .run, decoded := 1000000 })] }
     : Dev)) ready), by decide +kernel⟩,
   ⟨2, at_ ((fun (d : Dev) =>
     ({ (((d).setN (R.seqStat (2 : Fin 4)) 0x20000000).setN (R.seqPc (2 : Fin 4)) 5) with sram := mputNat d.sram ((2 : Fin 4) * 0x200000 + 0x180000 + 80) 16 0x4000000000000000005a000000000000, seq := [((2 : Fin 4).val, { Seq.reset with fe := .run, decoded := 1000000 })] }
     : Dev)) ready), by decide +kernel⟩,
   ⟨2, at_ ((fun (d : Dev) =>
     ({ (((d).setN (R.seqStat (2 : Fin 4)) 0x20000000).setN (R.seqPc (2 : Fin 4)) 5) with sram := mputNat d.sram ((2 : Fin 4) * 0x200000 + 0x180000 + 80) 16 0x4000000000000003005a000000000000, seq := [((2 : Fin 4).val, { Seq.reset with fe := .run, decoded := 1000000, loops := List.replicate 8 (1, 2, 0) })] }
     : Dev)) ready), by decide +kernel⟩,
   ⟨0, 77, 2, [(1, 2, 0)], at_ ((fun (d : Dev) =>
     ({ (((d).setN (R.seqStat (0 : Fin 4)) 0x20000000).setN (R.seqPc (0 : Fin 4)) 5) with sram := mputNat d.sram ((0 : Fin 4) * 0x200000 + 0x180000 + 80) 16 0x50000000000000000000000000000000, seq := [((0 : Fin 4).val, { Seq.reset with fe := .run, decoded := 1000000, loops := [(77, 2, 0), (1, 2, 0)] })] }
     : Dev)) ready), by decide +kernel⟩,
   ⟨2, at_ ((fun (d : Dev) =>
     ({ (((d).setN (R.seqStat (2 : Fin 4)) 0x20000000).setN (R.seqPc (2 : Fin 4)) 5) with sram := mputNat d.sram ((2 : Fin 4) * 0x200000 + 0x180000 + 80) 16 0x60000000000000003fff000000000000, seq := [((2 : Fin 4).val, { Seq.reset with fe := .run, decoded := 1000000 })] }
     : Dev)) ready), by decide +kernel⟩,
   ⟨3, 12, [4], at_ ((fun (d : Dev) =>
     ({ (((d).setN (R.seqStat (3 : Fin 4)) 0x20000000).setN (R.seqPc (3 : Fin 4)) 5) with sram := mputNat d.sram ((3 : Fin 4) * 0x200000 + 0x180000 + 80) 16 0x70000000000000000000000000000000, seq := [((3 : Fin 4).val, { Seq.reset with fe := .run, decoded := 1000000, calls := [12, 4] })] }
     : Dev)) ready), by decide +kernel⟩,
   ⟨2, at_ ((fun (d : Dev) =>
     ({ (((d).setN (R.seqStat (2 : Fin 4)) 0x20000000).setN (R.seqPc (2 : Fin 4)) 5) with sram := mputNat d.sram ((2 : Fin 4) * 0x200000 + 0x180000 + 80) 16 0x80000000000000001234000000000000, seq := [((2 : Fin 4).val, { Seq.reset with fe := .run, decoded := 1000000 })] }
     : Dev)) ready), by decide +kernel⟩,
   ⟨2, at_ ((fun (d : Dev) =>
     ({ (((d).setN (R.seqStat (2 : Fin 4)) 0x20000000).setN (R.seqPc (2 : Fin 4)) 5) with sram := mputNat d.sram ((2 : Fin 4) * 0x200000 + 0x180000 + 80) 16 0x90004060000000000007000000000000, seq := [((2 : Fin 4).val, { Seq.reset with fe := .run, decoded := 1000000 })] }
     : Dev)) ready), by decide +kernel⟩,
   ⟨2, at_ ((fun (d : Dev) =>
     ({ (((d).setN (R.seqStat (2 : Fin 4)) 0x20000000).setN (R.seqPc (2 : Fin 4)) 5) with sram := mputNat d.sram ((2 : Fin 4) * 0x200000 + 0x180000 + 80) 16 0x90006060000000000007000000000000, seq := [((2 : Fin 4).val, { Seq.reset with fe := .run, decoded := 1000000 })] }
     : Dev)) ready), by decide +kernel⟩,
   ⟨2, at_ ((fun (d : Dev) =>
     ({ (((d).setN (R.seqStat (2 : Fin 4)) 0x20000000).setN (R.seqPc (2 : Fin 4)) 5) with sram := mputNat d.sram ((2 : Fin 4) * 0x200000 + 0x180000 + 80) 16 0x90001000000000000007000000000000, seq := [((2 : Fin 4).val, { Seq.reset with fe := .run, decoded := 1000000 })] }
     : Dev)) ready), by decide +kernel⟩,
   ⟨1, 6, at_ ((fun (d : Dev) =>
     ({ (((d).setN (R.seqStat (1 : Fin 4)) 0x20000000).setN (R.seqPc (1 : Fin 4)) 5) with sram := mputNat d.sram ((1 : Fin 4) * 0x200000 + 0x180000 + 80) 16 0x90000000000000000007000000000000, seq := [((1 : Fin 4).val, { Seq.reset with fe := .run, decoded := 1000000, lastSeg := some 6 })] }
     : Dev)) ready), by decide +kernel⟩⟩

theorem test_witness_WaitsSetsAndEnds :
    (∃ (p : Fin 4) (s : State), s.dev.runs p 11 = true ∧ Dev.I.pad (s.dev.instrAt p (s.dev.pc p)) < 2 ∧ nbit (s.dev.instrAt p (s.dev.pc p)) 111 =
      false) ∧
    (∃ (p : Fin 4) (s : State), s.dev.runs p 11 = true ∧ nbit (s.dev.instrAt p (s.dev.pc p)) 111 = true) ∧
    (∃ (p : Fin 4) (s : State), s.dev.runs p 14 = true) ∧
    (∃ (p : Fin 4) (s : State), s.dev.runs p 12 = true ∧ s.dev.eventCond p (s.dev.instrAt p (s.dev.pc p)) (max ((Dev.decodeEdge (s.dev.seqOf p)) +
      Dev.sqclk) (s.dev.edgeAt Dev.sqclk s.dev.now)) = false) ∧
    (∃ (p : Fin 4) (o : Option Nat) (s : State), s.dev.seqState p = 2 ∧ (s.dev.seqOf p).fe = .event o ∧ s.dev.eventCond p (s.dev.instrAt p
      (s.dev.pc p)) (max (Dev.decodeEdge (s.dev.seqOf p)) (s.dev.edgeAt Dev.sqclk s.dev.now)) = true) ∧
    (∃ (p : Fin 4) (x : Nat) (s : State), s.dev.noReact (Ev.waitTimeout p) = true ∧ s.dev.seqState p = 2 ∧ (s.dev.seqOf p).fe = .event (some x) ∧
      s.dev.eventCond p (s.dev.instrAt p (s.dev.pc p)) x = false) ∧
    (∃ (p : Fin 4) (s : State), s.dev.runs p 13 = true ∧ Dev.I.setMode (s.dev.instrAt p (s.dev.pc p)) = 0 ∧ Dev.I.ltgt (s.dev.instrAt p (s.dev.pc
      p)) < 4) ∧
    (∃ (p : Fin 4) (s : State), s.dev.runs p 13 = true ∧ Dev.I.setMode (s.dev.instrAt p (s.dev.pc p)) = 0 ∧ 4 ≤ Dev.I.ltgt (s.dev.instrAt p
      (s.dev.pc p)) ∧ Dev.I.ltgt (s.dev.instrAt p (s.dev.pc p)) < 8) ∧
    (∃ (p : Fin 4) (s : State), s.dev.runs p 13 = true ∧ Dev.I.setMode (s.dev.instrAt p (s.dev.pc p)) = 0 ∧ 8 ≤ Dev.I.ltgt (s.dev.instrAt p
      (s.dev.pc p)) ∧ s.dev.noReact (Ev.sjLimit p) = true) ∧
    (∃ (p : Fin 4) (k : PageKind) (i : Nat) (x : RegDef) (s : State), s.dev.runs p 13 = true ∧ Dev.I.setMode (s.dev.instrAt p (s.dev.pc p)) = 1 ∧
      s.dev.takes (3 + p) (Dev.I.addr (s.dev.instrAt p (s.dev.pc p))) (Dev.I.data (s.dev.instrAt p (s.dev.pc p))) = true ∧ Dev.timingAff
      (Dev.I.addr (s.dev.instrAt p (s.dev.pc p))) = false ∧ pageOf (Dev.I.addr (s.dev.instrAt p (s.dev.pc p)) / 0x1000) = some (k, i) ∧ k ∈ [.lks,
      .tsa, .uch] ∧ findReg (pageMap k) (Dev.I.addr (s.dev.instrAt p (s.dev.pc p)) % 0x1000) = some x) ∧
    (∃ (p : Fin 4) (s : State), s.dev.runs p 13 = true ∧ Dev.I.setMode (s.dev.instrAt p (s.dev.pc p)) = 2 ∧ (s.dev.seqOf p).tref = true ∧
      s.dev.noReact Ev.tcqFull = true ∧ s.dev.tcq.q.length < 256 ∧ Dev.timingAff (Dev.I.addr (s.dev.instrAt p (s.dev.pc p))) = false) ∧
    (∃ (p : Fin 4) (s : State), s.dev.runs p 15 = true ∧ s.dev.noReact (Ev.seqHalt p) = true) ∧
    (∃ (p : Fin 4) (s : State), s.dev.noReact (Ev.seqIllegal p) = true ∧ s.dev.seqState p = 2 ∧ (s.dev.seqOf p).fe = .run ∧ Dev.I.legal p
      (s.dev.instrAt p (s.dev.pc p)) = false) :=
  ⟨⟨2, at_ ((fun (d : Dev) =>
     ({ (((d).setN (R.seqStat (2 : Fin 4)) 0x20000000).setN (R.seqPc (2 : Fin 4)) 5) with sram := mputNat d.sram ((2 : Fin 4) * 0x200000 + 0x180000 + 80) 16 0xb0000400000000000000000000000005, seq := [((2 : Fin 4).val, { Seq.reset with fe := .run, decoded := 1000000 })] }
     : Dev)) ready), by decide +kernel⟩,
   ⟨2, at_ ((fun (d : Dev) =>
     ({ (((d).setN (R.seqStat (2 : Fin 4)) 0x20000000).setN (R.seqPc (2 : Fin 4)) 5) with sram := mputNat d.sram ((2 : Fin 4) * 0x200000 + 0x180000 + 80) 16 0xb0008000000000000000000000000005, seq := [((2 : Fin 4).val, { Seq.reset with fe := .run, decoded := 1000000 })] }
     : Dev)) ready), by decide +kernel⟩,
   ⟨2, at_ ((fun (d : Dev) =>
     ({ (((d).setN (R.seqStat (2 : Fin 4)) 0x20000000).setN (R.seqPc (2 : Fin 4)) 5) with sram := mputNat d.sram ((2 : Fin 4) * 0x200000 + 0x180000 + 80) 16 0xe00000000000000003e8000000000007, seq := [((2 : Fin 4).val, { Seq.reset with fe := .run, decoded := 1000000 })] }
     : Dev)) ready), by decide +kernel⟩,
   ⟨2, at_ ((fun (d : Dev) =>
     ({ (((d).setN (R.seqStat (2 : Fin 4)) 0x20000000).setN (R.seqPc (2 : Fin 4)) 5) with sram := mputNat d.sram ((2 : Fin 4) * 0x200000 + 0x180000 + 80) 16 0xc0001000000000000008000000000064, seq := [((2 : Fin 4).val, { Seq.reset with fe := .run, decoded := 1000000 })] }
     : Dev)) ready), by decide +kernel⟩,
   ⟨1, none, at_ ((fun (d : Dev) =>
     ({ (((d).setN (R.seqStat (1 : Fin 4)) 0x20000000).setN (R.seqPc (1 : Fin 4)) 5) with sram := mputNat d.sram ((1 : Fin 4) * 0x200000 + 0x180000 + 80) 16 0xc0001010000000000000000000000000, seq := [((1 : Fin 4).val, { Seq.reset with fe := .event none, decoded := 1000000 })] }
     : Dev)) ready), by decide +kernel⟩,
   ⟨1, 5000000, at_ ((fun (d : Dev) =>
     ({ (((d).setN (R.seqStat (1 : Fin 4)) 0x20000000).setN (R.seqPc (1 : Fin 4)) 5) with sram := mputNat d.sram ((1 : Fin 4) * 0x200000 + 0x180000 + 80) 16 0xc0001000000000000063000000000004, seq := [((1 : Fin 4).val, { Seq.reset with fe := .event (some 5000000), decoded := 1000000 })] }
     : Dev)) ready), by decide +kernel⟩,
   ⟨2, at_ ((fun (d : Dev) =>
     ({ (((d).setN (R.seqStat (2 : Fin 4)) 0x20000000).setN (R.seqPc (2 : Fin 4)) 5) with sram := mputNat d.sram ((2 : Fin 4) * 0x200000 + 0x180000 + 80) 16 0xd000020000000000000000000000004d, seq := [((2 : Fin 4).val, { Seq.reset with fe := .run, decoded := 1000000 })] }
     : Dev)) ready), by decide +kernel⟩,
   ⟨2, at_ ((fun (d : Dev) =>
     ({ (((d).setN (R.seqStat (2 : Fin 4)) 0x20000000).setN (R.seqPc (2 : Fin 4)) 5) with sram := mputNat d.sram ((2 : Fin 4) * 0x200000 + 0x180000 + 80) 16 0xd00006000000000000000000ffffffff, seq := [((2 : Fin 4).val, { Seq.reset with fe := .run, decoded := 1000000 })] }
     : Dev)) ready), by decide +kernel⟩,
   ⟨2, at_ ((fun (d : Dev) =>
     ({ (((d).setN (R.seqStat (2 : Fin 4)) 0x20000000).setN (R.seqPc (2 : Fin 4)) 5) with sram := mputNat d.sram ((2 : Fin 4) * 0x200000 + 0x180000 + 80) 16 0xd00009000000000000000000000000ff, seq := [((2 : Fin 4).val, { Seq.reset with fe := .run, decoded := 1000000 })] }
     : Dev)) ready), by decide +kernel⟩,
   ⟨2, .tsa, 2, (regDef 0x185040).getD ⟨0, 0, 0, 0, 0, 0, 0, 0, 0, 0, [], (0, 1)⟩, at_ ((fun (d : Dev) =>
     ({ (((d).setN (R.seqStat (2 : Fin 4)) 0x20000000).setN (R.seqPc (2 : Fin 4)) 5) with sram := mputNat d.sram ((2 : Fin 4) * 0x200000 + 0x180000 + 80) 16 0xd0004018504000000000000000020011, seq := [((2 : Fin 4).val, { Seq.reset with fe := .run, decoded := 1000000 })] }
     : Dev)) ready), by decide +kernel⟩,
   ⟨2, at_ ((fun (d : Dev) =>
     ({ (((d).setN (R.seqStat (2 : Fin 4)) 0x20000000).setN (R.seqPc (2 : Fin 4)) 5) with sram := mputNat d.sram ((2 : Fin 4) * 0x200000 + 0x180000 + 80) 16 0xd0008018206400000000000700000800, seq := [((2 : Fin 4).val, { Seq.reset with fe := .run, decoded := 1000000, tref := true })] }
     : Dev)) ready), by decide +kernel⟩,
   ⟨2, at_ ((fun (d : Dev) =>
     ({ (((d).setN (R.seqStat (2 : Fin 4)) 0x20000000).setN (R.seqPc (2 : Fin 4)) 5) with sram := mputNat d.sram ((2 : Fin 4) * 0x200000 + 0x180000 + 80) 16 0xf0000000000000000000000000000000, seq := [((2 : Fin 4).val, { Seq.reset with fe := .run, decoded := 1000000 })] }
     : Dev)) ready), by decide +kernel⟩,
   ⟨3, at_ ((fun (d : Dev) =>
     ({ (((d).setN (R.seqStat (3 : Fin 4)) 0x20000000).setN (R.seqPc (3 : Fin 4)) 5) with sram := mputNat d.sram ((3 : Fin 4) * 0x200000 + 0x180000 + 80) 16 7, seq := [((3 : Fin 4).val, { Seq.reset with fe := .run, decoded := 1000000 })] }
     : Dev)) ready), by decide +kernel⟩⟩

theorem test_witness_SegmentsAreQueuedAndDecided :
    (∃ (p : Fin 4) (s : State), s.dev.runs p 1 = true ∧ (s.dev.seqOf p).segs.length < 2 ∧ Dev.I.count (s.dev.instrAt p (s.dev.pc p)) ≠ 0 ∧
      Dev.I.moor (s.dev.instrAt p (s.dev.pc p)) = false ∧ Dev.I.flow (s.dev.instrAt p (s.dev.pc p)) ≤ 1) ∧
    (∃ (p : Fin 4) (s : State), s.dev.runs p 2 = true ∧ (s.dev.seqOf p).segs.length < 2 ∧ Dev.I.count (s.dev.instrAt p (s.dev.pc p)) ≠ 0 ∧
      Dev.I.moor (s.dev.instrAt p (s.dev.pc p)) = false ∧ Dev.I.flow (s.dev.instrAt p (s.dev.pc p)) ≤ 1) ∧
    (∃ (p : Fin 4) (s : State), s.dev.runs p 3 = true ∧ (s.dev.seqOf p).segs.length < 2 ∧ Dev.I.count (s.dev.instrAt p (s.dev.pc p)) ≠ 0 ∧
      Dev.I.moor (s.dev.instrAt p (s.dev.pc p)) = false ∧ Dev.I.flow (s.dev.instrAt p (s.dev.pc p)) ≤ 1) ∧
    (∃ (p : Fin 4) (s : State), s.dev.runs p 1 = true ∧ (s.dev.seqOf p).segs.length = 2 ∧ Dev.I.count (s.dev.instrAt p (s.dev.pc p)) ≠ 0 ∧
      Dev.I.flow (s.dev.instrAt p (s.dev.pc p)) ≤ 2) ∧
    (∃ (p : Fin 4) (s : State), s.dev.runs p 1 = true ∧ (s.dev.seqOf p).segs.length < 2 ∧ Dev.I.moor (s.dev.instrAt p (s.dev.pc p)) = true ∧
      (s.dev.seqOf p).moorOk = false ∧ ((s.dev.seqOf p).txLow = true ∨ (s.dev.seqOf p).rxLow = true) ∧ s.dev.noReact (Ev.lockLow p) = true) ∧
    (∃ (p : Fin 4) (s : State), s.dev.runs p 10 = true ∧ (s.dev.seqOf p).segs.length < 2 ∧ Dev.I.count (s.dev.instrAt p (s.dev.pc p)) ≠ 0 ∧
      Dev.I.limit (s.dev.instrAt p (s.dev.pc p)) ≠ 0 ∧ Dev.I.moor (s.dev.instrAt p (s.dev.pc p)) = false) ∧
    (∃ (p : Fin 4) (s : State), s.dev.runs p 10 = true ∧ Dev.I.moor (s.dev.instrAt p (s.dev.pc p)) = false ∧ (Dev.I.count (s.dev.instrAt p
      (s.dev.pc p)) = 0 ∨ Dev.I.limit (s.dev.instrAt p (s.dev.pc p)) = 0)) ∧
    (∃ (p : Fin 4) (x y : Bool) (s : State), s.dev.seqState p = 2 ∧ (s.dev.seqOf p).fe = .moor x y ∧ s.dev.moorFree p x y = true) ∧
    (∃ (p : Fin 4) (g a b c x : Nat) (s : State), s.dev.seqState p = 2 ∧ (s.dev.seqOf p).fe = .cmp g a b c ∧ s.dev.decideAt (s.dev.seqOf p) g =
      some x) ∧
    (∃ (p : Fin 4) (g n x : Nat) (s : State), s.dev.seqState p = 2 ∧ (s.dev.seqOf p).fe = .match_ g n ∧ s.dev.decideAt (s.dev.seqOf p) g = some x ∧
      (Dev.segRes (s.dev.seqOf p) g).fail = (Dev.I.cond (s.dev.instrAt p (s.dev.pc p)) == 0) ∧ n < 65536) :=
  ⟨⟨2, at_ ((fun (d : Dev) =>
     ({ (((d).setN (R.seqStat (2 : Fin 4)) 0x20000000).setN (R.seqPc (2 : Fin 4)) 5) with sram := mputNat d.sram ((2 : Fin 4) * 0x200000 + 0x180000 + 80) 16 0x101300000000002801f4000000000000, seq := [((2 : Fin 4).val, { Seq.reset with fe := .run, decoded := 1000000, sets := [(9, 1)] })] }
     : Dev)) ready), by decide +kernel⟩,
   ⟨2, at_ ((fun (d : Dev) =>
     ({ (((d).setN (R.seqStat (2 : Fin 4)) 0x20000000).setN (R.seqPc (2 : Fin 4)) 5) with sram := mputNat d.sram ((2 : Fin 4) * 0x200000 + 0x180000 + 80) 16 0x201300000000002801f4000000000000, seq := [((2 : Fin 4).val, { Seq.reset with fe := .run, decoded := 1000000, sets := [(9, 1)] })] }
     : Dev)) ready), by decide +kernel⟩,
   ⟨2, at_ ((fun (d : Dev) =>
     ({ (((d).setN (R.seqStat (2 : Fin 4)) 0x20000000).setN (R.seqPc (2 : Fin 4)) 5) with sram := mputNat d.sram ((2 : Fin 4) * 0x200000 + 0x180000 + 80) 16 0x301300000000002801f4000000000000, seq := [((2 : Fin 4).val, { Seq.reset with fe := .run, decoded := 1000000, sets := [(9, 1)] })] }
     : Dev)) ready), by decide +kernel⟩,
   ⟨2, at_ ((fun (d : Dev) =>
     ({ (((d).setN (R.seqStat (2 : Fin 4)) 0x20000000).setN (R.seqPc (2 : Fin 4)) 5) with sram := mputNat d.sram ((2 : Fin 4) * 0x200000 + 0x180000 + 80) 16 0x10000000000000280000000000000000, seq := [((2 : Fin 4).val, { Seq.reset with fe := .run, decoded := 1000000, segs := [⟨0, 3, 0, 0, 1, 1, 0, 0, false, none, 0, false, 0, [], [], 0, []⟩, ⟨0, 3, 0, 0, 1, 1, 0, 0, false, none, 0, false, 0, [], [], 0, []⟩] })] }
     : Dev)) ready), by decide +kernel⟩,
   ⟨2, at_ ((fun (d : Dev) =>
     ({ (((d).setN (R.seqStat (2 : Fin 4)) 0x20000000).setN (R.seqPc (2 : Fin 4)) 5) with sram := mputNat d.sram ((2 : Fin 4) * 0x200000 + 0x180000 + 80) 16 0x18000000000000280000000000000000, seq := [((2 : Fin 4).val, { Seq.reset with fe := .run, decoded := 1000000, txLow := true })] }
     : Dev)) ready), by decide +kernel⟩,
   ⟨2, at_ ((fun (d : Dev) =>
     ({ (((d).setN (R.seqStat (2 : Fin 4)) 0x20000000).setN (R.seqPc (2 : Fin 4)) 5) with sram := mputNat d.sram ((2 : Fin 4) * 0x200000 + 0x180000 + 80) 16 0xa0000000000000020003000900000000, seq := [((2 : Fin 4).val, { Seq.reset with fe := .run, decoded := 1000000 })] }
     : Dev)) ready), by decide +kernel⟩,
   ⟨2, at_ ((fun (d : Dev) =>
     ({ (((d).setN (R.seqStat (2 : Fin 4)) 0x20000000).setN (R.seqPc (2 : Fin 4)) 5) with sram := mputNat d.sram ((2 : Fin 4) * 0x200000 + 0x180000 + 80) 16 0xa0000000000000020003000000000000, seq := [((2 : Fin 4).val, { Seq.reset with fe := .run, decoded := 1000000 })] }
     : Dev)) ready), by decide +kernel⟩,
   ⟨0, true, false, at_ ((fun (d : Dev) =>
     ({ (((d).setN (R.seqStat (0 : Fin 4)) 0x20000000).setN (R.seqPc (0 : Fin 4)) 5) with sram := mputNat d.sram ((0 : Fin 4) * 0x200000 + 0x180000 + 80) 16 0, seq := [((0 : Fin 4).val, { Seq.reset with fe := .moor true false, decoded := 1000000, tx := { Walk.reset with ended := true } })] }
     : Dev)) ready), by decide +kernel⟩,
   ⟨0, 3, 100, 6, 0, ready.edgeAt Dev.sqclk 999, at_ ((fun (d : Dev) =>
     ({ (((d).setN (R.seqStat (0 : Fin 4)) 0x20000000).setN (R.seqPc (0 : Fin 4)) 5) with sram := mputNat d.sram ((0 : Fin 4) * 0x200000 + 0x180000 + 80) 16 0, seq := [((0 : Fin 4).val, { Seq.reset with fe := .cmp 3 100 6 0, decoded := 1000000, res := [(3, ⟨true, some 999, 0⟩)] })] }
     : Dev)) ready), by decide +kernel⟩,
   ⟨0, 3, 2, ready.edgeAt Dev.sqclk 999, at_ ((fun (d : Dev) =>
     ({ (((d).setN (R.seqStat (0 : Fin 4)) 0x20000000).setN (R.seqPc (0 : Fin 4)) 5) with sram := mputNat d.sram ((0 : Fin 4) * 0x200000 + 0x180000 + 80) 16 0xa0000000000000020003000900000000, seq := [((0 : Fin 4).val, { Seq.reset with fe := .match_ 3 2, decoded := 1000000, res := [(3, ⟨true, some 999, 0⟩)] })] }
     : Dev)) ready), by decide +kernel⟩⟩

theorem test_witness_BeatsAreIssuedAndLaunched :
    (∃ (p : Fin 4) (g : Seg) (n : Nat) (s : State), 2 ≤ s.dev.seqState p ∧ (s.dev.seqOf p).segs = [g] ∧ (s.dev.seqOf p).fifo.length < 16 ∧ g.src =
      0 ∧ g.sets = [] ∧ g.copies = 1 ∧ g.issued < g.count ∧ n = min (Dev.beatSize (s.dev.issuePeriod p (s.dev.seqOf p).issueTs (s.dev.issueEdge
      (s.dev.seqOf p) g) (s.dev.seqOf p))) (g.count - g.issued)) ∧
    (∃ (p : Fin 4) (b : Beat) (l : List Beat) (s : State), (s.dev.seqOf p).tref = true ∧ (s.dev.seqOf p).stopAt = none ∧ s.dev.pend = [] ∧
      (s.dev.seqOf p).fifo = b :: l ∧ Dev.beatTs b = none ∧ b.issue + 262144 ≤ (s.dev.seqOf p).nextUi ∧ s.dev.beatNb p (s.dev.seqOf p) b ≤
      (s.dev.seqOf p).nextUi ∧ b.sets = [] ∧ b.src = 0 ∧ (s.dev.acqOf p).basin = false ∧ (s.dev.rxFmt p).empty = true ∧ (∀ c : Fin 8, s.dev.fcReady
      (8 * p + c) = false ∧ s.dev.fcTrack (8 * p + c) = 0 ∧ (s.dev.chan (8 * p + c)).offAt = none) ∧ (∀ c : Fin 16, s.dev.ucReady (16 * p + c) =
      false ∧ (s.dev.chan (32 + 16 * p + c)).offAt = none)) ∧
    (∃ (p : Fin 4) (s : State), s.dev.seqState p ≠ 0 ∧ (s.dev.txFmt p).empty = false ∧ Dev.txFill (s.dev.seqOf p) < 128 ∧ (s.dev.seqOf p).tx.ended
      = false ∧ s.dev.descValid p false (s.dev.seqOf p).tx.idx = true ∧ s.dev.descBad p false (s.dev.seqOf p).tx.idx = false ∧ s.dev.descRepeat p
      false (s.dev.seqOf p).tx.idx ≠ 0 ∧ (s.dev.seqOf p).tx.pos ≠ 0 ∧ (s.dev.seqOf p).tx.pos + 1 < s.dev.descBarges p false (s.dev.seqOf p).tx.idx
      ∧ (∀ c : Fin 4, (s.dev.mcOf c).poison = [])) ∧
    (∃ (p : Fin 4) (s : State), s.dev.seqState p ≠ 0 ∧ (s.dev.acqOf p).basin = false ∧ (s.dev.seqOf p).rxDrained < s.dev.rxFull p ∧ (s.dev.seqOf
      p).rx.ended = false ∧ s.dev.descValid p true (s.dev.seqOf p).rx.idx = true ∧ s.dev.descBad p true (s.dev.seqOf p).rx.idx = false ∧
      (s.dev.seqOf p).rx.pos + 1 < s.dev.descBarges p true (s.dev.seqOf p).rx.idx ∧ s.dev.mcLazy = false) :=
  ⟨⟨1, ⟨0, 0, 0, 5, 40, 1, 0, 0, false, none, 0, false, 0, [], [], 0, []⟩, 32, at_ ((fun (d : Dev) =>
     ({ (((d).setN (R.seqStat (1 : Fin 4)) 0x20000000).setN (R.seqPc (1 : Fin 4)) 5) with sram := mputNat d.sram ((1 : Fin 4) * 0x200000 + 0x180000 + 80) 16 7, seq := [((1 : Fin 4).val, { Seq.reset with fe := .run, decoded := 1000000, segs := [⟨0, 0, 0, 5, 40, 1, 0, 0, false, none, 0, false, 0, [], [], 0, []⟩] })] }
     : Dev)) ready), by decide +kernel⟩,
   ⟨1, ⟨0, 0, 0, 0, [9, 8], [], [9, 8], 2, 0, 0xFF, 0, [], [], 0, none, [], false, 0, false⟩, [], at_ ((fun (d : Dev) =>
     ({ (((d.setN (R.lksRxFmt (1 : Fin 4)) 0).setN (R.seqStat (1 : Fin 4)) 0x20000000).setN (R.seqPc (1 : Fin 4)) 5) with sram := mputNat d.sram ((1 : Fin 4) * 0x200000 + 0x180000 + 80) 16 7, seq := [((1 : Fin 4).val, { Seq.reset with fe := .run, decoded := 1000000, tref := true, nextUi := 700000, fifo := [⟨0, 0, 0, 0, [9, 8], [], [9, 8], 2, 0, 0xFF, 0, [], [], 0, none, [], false, 0, false⟩] })] }
     : Dev)) ready), by decide +kernel⟩,
   ⟨1, at_ ((fun (d : Dev) =>
     ({ (((((((((d.wf (R.mcStat 0) F.mcStatRanks 1).setN R.mcgCch 65536).setN R.mcgCap 65536)).setN (R.seqStat (1 : Fin 4)) 0x20000000).setN (R.lksTxFmt (1 : Fin 4)) 1).setN (R.lksTxd0 (1 : Fin 4) 0) 0x10000).setN (R.lksTxd1 (1 : Fin 4) 0) 0).setN (R.lksTxd2 (1 : Fin 4) 0) 8).setN (R.lksTxd3 (1 : Fin 4) 0) 0xC0000001 with dram := [(0x10800, 3)], seq := [((1 : Fin 4).val, { Seq.reset with tx := { Walk.reset with pos := 1 }, txFetched := 1 })] }
     : Dev)) ready), by decide +kernel⟩,
   ⟨1, at_ ((fun (d : Dev) =>
     ({ (((((((((d.wf (R.mcStat 0) F.mcStatRanks 1).setN R.mcgCch 65536).setN R.mcgCap 65536)).setN (R.seqStat (1 : Fin 4)) 0x20000000).setN (R.lksRxFmt (1 : Fin 4)) 1).setN (R.lksRxd0 (1 : Fin 4) 0) 0x10000).setN (R.lksRxd1 (1 : Fin 4) 0) 0).setN (R.lksRxd2 (1 : Fin 4) 0) 8).setN (R.lksRxd3 (1 : Fin 4) 0) 0xC0000001 with sram := [((1 : Fin 4) * 0x200000 + 0x140000, 3)], seq := [((1 : Fin 4).val, { Seq.reset with rxN := 20000, rxDone := 20000 })] }
     : Dev)) ready), by decide +kernel⟩⟩

theorem test_witness_MicroInstructionsDriveTheGenerator :
    (∃ (p : Fin 4) (g : Seg) (a : Apg) (s : State), s.dev.produces p 3 g a = true) ∧
    (∃ (p : Fin 4) (g : Seg) (a : Apg) (s : State), s.dev.produces p 4 g a = true) ∧
    (∃ (p : Fin 4) (g : Seg) (a : Apg) (s : State), s.dev.produces p 8 g a = true) ∧
    (∃ (p : Fin 4) (g : Seg) (a : Apg) (s : State), s.dev.produces p 7 g a = true ∧ s.dev.noReact (Ev.apgProgErr p) = true ∧ s.dev.noReact
      (Ev.apgEnd p) = true) ∧
    (∃ (p : Fin 4) (g : Seg) (a : Apg) (s : State), s.dev.produces p 5 g a = true ∧ Dev.orderOk (s.dev.apgXs p) (s.dev.apgYs p) (nbits (s.dev.ucode
      p a.upc) 35 32) (nbit (s.dev.ucode p a.upc) 31) (nbit (s.dev.ucode p a.upc) 30) = true) ∧
    (∃ (p : Fin 4) (g : Seg) (a : Apg) (s : State), s.dev.produces p 5 g a = true ∧ s.dev.noReact (Ev.apgProgErr p) = true ∧ s.dev.noReact
      (Ev.apgEnd p) = true ∧ Dev.orderOk (s.dev.apgXs p) (s.dev.apgYs p) (nbits (s.dev.ucode p a.upc) 35 32) (nbit (s.dev.ucode p a.upc) 31) (nbit
      (s.dev.ucode p a.upc) 30) = false) ∧
    (∃ (p : Fin 4) (g : Seg) (a : Apg) (s : State), s.dev.produces p 6 g a = true ∧ s.dev.noReact (Ev.apgProgErr p) = true ∧ s.dev.noReact
      (Ev.apgEnd p) = true ∧ Dev.U.stream (s.dev.ucode p a.upc) = 1) ∧
    (∃ (p : Fin 4) (g : Seg) (a : Apg) (s : State), s.dev.produces p 2 g a = true ∧ s.dev.noReact (Ev.apgProgErr p) = true ∧ s.dev.noReact
      (Ev.apgEnd p) = true) ∧
    (∃ (p : Fin 4) (g : Seg) (a : Apg) (s : State), s.dev.produces p 1 g a = true ∧ s.dev.noReact (Ev.apgProgErr p) = true ∧ s.dev.noReact
      (Ev.apgEnd p) = true ∧ Dev.U.n (s.dev.ucode p a.upc) = 1 ∧ a.step = 0 ∧ a.slot = 0) ∧
    (∃ (p : Fin 4) (g : Seg) (a : Apg) (s : State), s.dev.produces p 1 g a = true ∧ Dev.U.n (s.dev.ucode p a.upc) = 0) :=
  ⟨⟨1, ⟨4, 2, 0, 0, 40, 1, 0, 0, false, none, 0, false, 0, [], [], 0, []⟩, { Apg.reset with seg := some 4, upc := 3, k := 7 }, at_ ((fun (d : Dev)
     =>
     ({ (((((d).setN (R.seqStat (1 : Fin 4)) 0x20000000).setN (R.apgUcodeLo (1 : Fin 4) 3) 0x0).setN (R.apgUcodeHi (1 : Fin 4) 3) 0x30000980).setN (R.apgXsize (1 : Fin 4)) 4).setN (R.apgYsize (1 : Fin 4)) 2 with seq := [((1 : Fin 4).val, { Seq.reset with segs := [⟨4, 2, 0, 0, 40, 1, 0, 0, false, none, 0, false, 0, [], [], 0, []⟩] })], apg := [((1 : Fin 4).val, { Apg.reset with seg := some 4, upc := 3, k := 7 })] }
     : Dev)) ready), by decide +kernel⟩,
   ⟨1, ⟨4, 2, 0, 0, 40, 1, 0, 0, false, none, 0, false, 0, [], [], 0, []⟩, { Apg.reset with seg := some 4, upc := 3, lc := [0, 5] }, at_ ((fun (d :
     Dev) =>
     ({ (((((d).setN (R.seqStat (1 : Fin 4)) 0x20000000).setN (R.apgUcodeLo (1 : Fin 4) 3) 0x0).setN (R.apgUcodeHi (1 : Fin 4) 3) 0x40000210).setN (R.apgXsize (1 : Fin 4)) 4).setN (R.apgYsize (1 : Fin 4)) 2 with seq := [((1 : Fin 4).val, { Seq.reset with segs := [⟨4, 2, 0, 0, 40, 1, 0, 0, false, none, 0, false, 0, [], [], 0, []⟩] })], apg := [((1 : Fin 4).val, { Apg.reset with seg := some 4, upc := 3, lc := [0, 5] })] }
     : Dev)) ready), by decide +kernel⟩,
   ⟨1, ⟨4, 2, 0, 0, 40, 1, 0, 0, false, none, 0, false, 0, [], [], 0, []⟩, { Apg.reset with seg := some 4, upc := 3, lc := [0, 5] }, at_ ((fun (d :
     Dev) =>
     ({ (((((d).setN (R.seqStat (1 : Fin 4)) 0x20000000).setN (R.apgUcodeLo (1 : Fin 4) 3) 0x4D).setN (R.apgUcodeHi (1 : Fin 4) 3) 0x80000010).setN (R.apgXsize (1 : Fin 4)) 4).setN (R.apgYsize (1 : Fin 4)) 2 with seq := [((1 : Fin 4).val, { Seq.reset with segs := [⟨4, 2, 0, 0, 40, 1, 0, 0, false, none, 0, false, 0, [], [], 0, []⟩] })], apg := [((1 : Fin 4).val, { Apg.reset with seg := some 4, upc := 3, lc := [0, 5] })] }
     : Dev)) ready), by decide +kernel⟩,
   ⟨1, ⟨4, 2, 0, 0, 40, 1, 0, 0, false, none, 0, false, 0, [], [], 0, []⟩, { Apg.reset with seg := some 4, upc := 3 }, at_ ((fun (d : Dev) =>
     ({ (((((d).setN (R.seqStat (1 : Fin 4)) 0x20000000).setN (R.apgUcodeLo (1 : Fin 4) 3) 0x0).setN (R.apgUcodeHi (1 : Fin 4) 3) 0x70000000).setN (R.apgXsize (1 : Fin 4)) 4).setN (R.apgYsize (1 : Fin 4)) 2 with seq := [((1 : Fin 4).val, { Seq.reset with segs := [⟨4, 2, 0, 0, 40, 1, 0, 0, false, none, 0, false, 0, [], [], 0, []⟩] })], apg := [((1 : Fin 4).val, { Apg.reset with seg := some 4, upc := 3 })] }
     : Dev)) ready), by decide +kernel⟩,
   ⟨1, ⟨4, 2, 0, 0, 40, 1, 0, 0, false, none, 0, false, 0, [], [], 0, []⟩, { Apg.reset with seg := some 4, upc := 3, k := 3 }, at_ ((fun (d : Dev)
     =>
     ({ (((((d).setN (R.seqStat (1 : Fin 4)) 0x20000000).setN (R.apgUcodeLo (1 : Fin 4) 3) 0xA0000000).setN (R.apgUcodeHi (1 : Fin 4) 3) 0x50000002).setN (R.apgXsize (1 : Fin 4)) 4).setN (R.apgYsize (1 : Fin 4)) 2 with seq := [((1 : Fin 4).val, { Seq.reset with segs := [⟨4, 2, 0, 0, 40, 1, 0, 0, false, none, 0, false, 0, [], [], 0, []⟩] })], apg := [((1 : Fin 4).val, { Apg.reset with seg := some 4, upc := 3, k := 3 })] }
     : Dev)) ready), by decide +kernel⟩,
   ⟨1, ⟨4, 2, 0, 0, 40, 1, 0, 0, false, none, 0, false, 0, [], [], 0, []⟩, { Apg.reset with seg := some 4, upc := 3, k := 3 }, at_ ((fun (d : Dev)
     =>
     ({ (((((d).setN (R.seqStat (1 : Fin 4)) 0x20000000).setN (R.apgUcodeLo (1 : Fin 4) 3) 0x80000000).setN (R.apgUcodeHi (1 : Fin 4) 3) 0x50000005).setN (R.apgXsize (1 : Fin 4)) 4).setN (R.apgYsize (1 : Fin 4)) 2 with seq := [((1 : Fin 4).val, { Seq.reset with segs := [⟨4, 2, 0, 0, 40, 1, 0, 0, false, none, 0, false, 0, [], [], 0, []⟩] })], apg := [((1 : Fin 4).val, { Apg.reset with seg := some 4, upc := 3, k := 3 })] }
     : Dev)) ready), by decide +kernel⟩,
   ⟨1, ⟨4, 2, 0, 0, 40, 1, 0, 0, false, none, 0, false, 0, [], [], 0, []⟩, { Apg.reset with seg := some 4, upc := 3, crcTx := 5 }, at_ ((fun (d :
     Dev) =>
     ({ (((((d).setN (R.seqStat (1 : Fin 4)) 0x20000000).setN (R.apgUcodeLo (1 : Fin 4) 3) 0x0).setN (R.apgUcodeHi (1 : Fin 4) 3) 0x64000000).setN (R.apgXsize (1 : Fin 4)) 4).setN (R.apgYsize (1 : Fin 4)) 2 with seq := [((1 : Fin 4).val, { Seq.reset with segs := [⟨4, 2, 0, 0, 40, 1, 0, 0, false, none, 0, false, 0, [], [], 0, []⟩] })], apg := [((1 : Fin 4).val, { Apg.reset with seg := some 4, upc := 3, crcTx := 5 })] }
     : Dev)) ready), by decide +kernel⟩,
   ⟨1, ⟨4, 2, 0, 0, 40, 1, 0, 0, false, none, 0, false, 0, [], [], 0, []⟩, { Apg.reset with seg := some 4, upc := 3 }, at_ ((fun (d : Dev) =>
     ({ (((((d).setN (R.seqStat (1 : Fin 4)) 0x20000000).setN (R.apgUcodeLo (1 : Fin 4) 3) 0x0).setN (R.apgUcodeHi (1 : Fin 4) 3) 0x24072000).setN (R.apgXsize (1 : Fin 4)) 4).setN (R.apgYsize (1 : Fin 4)) 2 with seq := [((1 : Fin 4).val, { Seq.reset with segs := [⟨4, 2, 0, 0, 40, 1, 0, 0, false, none, 0, false, 0, [], [], 0, []⟩] })], apg := [((1 : Fin 4).val, { Apg.reset with seg := some 4, upc := 3 })] }
     : Dev)) ready), by decide +kernel⟩,
   ⟨1, ⟨4, 2, 0, 0, 40, 1, 0, 0, false, none, 0, false, 0, [], [], 0, []⟩, { Apg.reset with seg := some 4, upc := 3 }, at_ ((fun (d : Dev) =>
     ({ (((((d).setN (R.seqStat (1 : Fin 4)) 0x20000000).setN (R.apgUcodeLo (1 : Fin 4) 3) 0x1).setN (R.apgUcodeHi (1 : Fin 4) 3) 0x15C00000).setN (R.apgXsize (1 : Fin 4)) 4).setN (R.apgYsize (1 : Fin 4)) 2 with seq := [((1 : Fin 4).val, { Seq.reset with segs := [⟨4, 2, 0, 0, 40, 1, 0, 0, false, none, 0, false, 0, [], [], 0, []⟩] })], apg := [((1 : Fin 4).val, { Apg.reset with seg := some 4, upc := 3 })] }
     : Dev)) ready), by decide +kernel⟩,
   ⟨1, ⟨4, 2, 0, 0, 40, 1, 0, 0, false, none, 0, false, 0, [], [], 0, []⟩, { Apg.reset with seg := some 4, upc := 3 }, at_ ((fun (d : Dev) =>
     ({ (((((d).setN (R.seqStat (1 : Fin 4)) 0x20000000).setN (R.apgUcodeLo (1 : Fin 4) 3) 0x0).setN (R.apgUcodeHi (1 : Fin 4) 3) 0x15C00000).setN (R.apgXsize (1 : Fin 4)) 4).setN (R.apgYsize (1 : Fin 4)) 2 with seq := [((1 : Fin 4).val, { Seq.reset with segs := [⟨4, 2, 0, 0, 40, 1, 0, 0, false, none, 0, false, 0, [], [], 0, []⟩] })], apg := [((1 : Fin 4).val, { Apg.reset with seg := some 4, upc := 3 })] }
     : Dev)) ready), by decide +kernel⟩⟩

theorem test_witness_ChannelsEnableAndDisableInSequence :
    (∃ (path : Fin 7) (i : Fin 96) (w : Word) (s : State), s.dev.takesCtrl path (Dev.chPage i) w.toNat = true ∧ nbits w.toNat 1 0 = 1 ∧
      s.dev.noReact Ev.capOver = true ∧ (s.dev.chan i).phase = 0 ∧ s.dev.enableOk i = true) ∧
    (∃ (i : Fin 96) (s : State), s.dev.chOnline i = true ∧ (s.dev.chan i).phase = 1 ∧ (∀ e : Fin 4, s.dev.sbOn (Dev.chPort i) e = false)) ∧
    (∃ (path : Fin 7) (i : Fin 96) (w : Word) (s : State), s.dev.takesCtrl path (Dev.chPage i) w.toNat = true ∧ w = 0 ∧ s.dev.noReact Ev.capOver =
      true ∧ s.dev.rb (pctl (Dev.chPage i)) F.ctlEnable = true ∧ (s.dev.chan i).phase = 2 ∧ (s.dev.seqOf (Dev.chPort i)).tref = false) ∧
    (∃ (path : Fin 7) (i : Fin 96) (w : Word) (s : State), s.dev.takesCtrl path (Dev.chPage i) w.toNat = true ∧ w = 0 ∧ s.dev.noReact Ev.capOver =
      true ∧ s.dev.rb (pctl (Dev.chPage i)) F.ctlEnable = true ∧ (s.dev.chan i).phase = 2 ∧ (s.dev.seqOf (Dev.chPort i)).tref = true) ∧
    (∃ (i : Fin 96) (s : State), ((s.dev.chan i).phase = 3 ∨ (s.dev.chan i).phase = 4)) :=
  ⟨⟨0, 40, 1#32, at_ ((fun (d : Dev) => (d.setN R.glbSeason 1 : Dev)) ready), by decide +kernel⟩,
   ⟨3, at_ ((fun (d : Dev) => (d.putChan (3 : Fin 96) { d.chan (3 : Fin 96) with phase := 1 } : Dev)) ready), by decide +kernel⟩,
   ⟨0, 3, 0#32, at_ ((fun (d : Dev) => ((d.putChan (3 : Fin 96) { d.chan (3 : Fin 96) with phase := 2 }).wf (pctl (Dev.chPage (3 : Fin 96)))
     F.ctlEnable 1 : Dev)) ready), by decide +kernel⟩,
   ⟨0, 3, 0#32, at_ ((fun (d : Dev) =>
     ({ ((d.putChan (3 : Fin 96) { d.chan (3 : Fin 96) with phase := 2 }).wf (pctl (Dev.chPage (3 : Fin 96))) F.ctlEnable 1) with seq := [(0, { Seq.reset with tref := true }), (1, { Seq.reset with tref := true }), (2, { Seq.reset with tref := true }), (3, { Seq.reset with tref := true })] }
     : Dev)) ready), by decide +kernel⟩,
   ⟨95, at_ ((fun (d : Dev) => (d.putChan (95 : Fin 96) { d.chan (95 : Fin 96) with phase := 3, offAt := some 5 } : Dev)) ready),
     by decide +kernel⟩⟩

theorem test_witness_DriverFaultsAreCountedOnce :
    (∃ (n : Fin 32) (kinds : Fin 64) (s : State), s.dev.chOnline n = true ∧ s.dev.chLive n = true ∧ s.dev.noReact (Ev.drvCompliance n) = true ∧
      s.dev.lf (R.fchDrvCfg n) F.fchDrvCfgMode = 1 ∧ s.dev.rf (R.fchDrvStat n) F.fchDrvStatCmplLive = 0 ∧ kinds.val % 8 ≠ 0 ∧ kinds.val / 8 = 0) ∧
    (∃ (n : Fin 32) (s : State), s.dev.chOnline n = true ∧ s.dev.noReact (Ev.drvCompliance n) = true) ∧
    (∃ (n : Fin 32) (legs : Fin 4) (s : State), s.dev.chOnline n = true ∧ s.dev.chLive n = true ∧ s.dev.lf (R.fchDrvCfg n) F.fchDrvCfgMode = 0 ∧
      legs.val ≠ 0 ∧ s.dev.rf (R.fchDrvStat n) F.fchDrvStatShortLive = 0) ∧
    (∃ (n : Fin 32) (s : State), s.dev.chOnline n = true) ∧
    (∃ (m : Fin 64) (what : Fin 8) (s : State), s.dev.chOnline (32 + m) = true ∧ s.dev.chLive (32 + m) = true ∧ s.dev.clampsOn m = true ∧ s.dev.rf
      (R.uchDrvStat m) Dev.F.uchDrvOver = 0 ∧ what.val ≠ 0) ∧
    (∃ (m : Fin 64) (s : State), s.dev.chOnline (32 + m) = true) ∧
    (∃ (n : Fin 32) (s : State), s.dev.fcReady n = true ∧ s.dev.lf (R.fchLpCfg n) F.fchLpCfgAutoTerm = 1 ∧ s.dev.cdcMode n = 5 ∧ (s.dev.chan n).on
      = false) :=
  ⟨⟨9, 4, at_ ((fun (d : Dev) => (((d.putChan (9 : Fin 32) { d.chan (9 : Fin 32) with phase := 2 }).setLive (R.fchDrvCfg (9 : Fin 32)) 0x100).wf
     (R.fchDrvStat (9 : Fin 32)) F.fchDrvStatCmplLive 0 : Dev)) ready), by decide +kernel⟩,
   ⟨9, at_ ((fun (d : Dev) => (d.wf (R.fchDrvStat (9 : Fin 32)) F.fchDrvStatCmplLive 3 : Dev)) ready), by decide +kernel⟩,
   ⟨9, 3, at_ ((fun (d : Dev) => (((d.putChan (9 : Fin 32) { d.chan (9 : Fin 32) with phase := 2 }).setLive (R.fchDrvCfg (9 : Fin 32)) 0).wf
     (R.fchDrvStat (9 : Fin 32)) F.fchDrvStatShortLive 0 : Dev)) ready), by decide +kernel⟩,
   ⟨9, at_ ((fun (d : Dev) => (d.wf (R.fchDrvStat (9 : Fin 32)) F.fchDrvStatShortLive 3 : Dev)) ready), by decide +kernel⟩,
   ⟨17, 5, at_ ((fun (d : Dev) => ((((d.putChan (32 + (17 : Fin 64)) { d.chan (32 + (17 : Fin 64)) with phase := 2 }).setLive (R.uchDrvCfg (17 :
     Fin 64)) 0x1000).setN (R.prtUcown0 ((17 : Fin 64) / 16)) 0x11111111).setN (R.prtUcown1 ((17 : Fin 64) / 16)) 0x11111111 |>.wf (R.uchDrvStat
     (17 : Fin 64)) Dev.F.uchDrvOver 0 : Dev)) ready), by decide +kernel⟩,
   ⟨17, at_ ((fun (d : Dev) => (d.wf (R.uchDrvStat (17 : Fin 64)) Dev.F.uchDrvOver 5 : Dev)) ready), by decide +kernel⟩,
   ⟨2, at_ ((fun (d : Dev) => (((d.wf (R.fchDrvStat (2 : Fin 32)) F.fchDrvStatReady 1).setLive (R.fchLpCfg (2 : Fin 32)) 4).setN (R.cdcCfg ((2 :
     Fin 32) / 8) ((2 : Fin 32) % 8)) 5 : Dev)) ready), by decide +kernel⟩⟩

theorem test_witness_LevelsSettleAndTonesStep :
    (∃ (i : Fin 96) (j : Fin 8) (s : State), (s.dev.ldacOf i j).due.isSome = true) ∧
    (∃ (path : Fin 7) (p : Fin 4) (hi : Bool) (w : Word) (s : State), s.dev.takes path (if hi then R.prtUcown1 p else R.prtUcown0 p) w.toNat =
      true) :=
  ⟨⟨90, 7, at_ ((fun (d : Dev) => (d.putLdac (90 : Fin 96) (7 : Fin 8) ⟨7, 90, some 800⟩ : Dev)) ready), by decide +kernel⟩,
   ⟨0, 2, false, 0x80000000#32, at_ ((fun (d : Dev) => (d.wf (pctl (0x240 + 39)) F.ctlEnable 1 |>.setLive (R.uchPmuCtrl 39) 0x410A4000 : Dev))
     ready), by decide +kernel⟩⟩

theorem test_witness_PmusForceMeasureRangesAndFaults :
    (∃ (path : Fin 7) (m : Fin 64) (w : Word) (s : State), s.dev.takes path (R.uchPmuCtrl m) w.toNat = true ∧ s.dev.running (m / 16) = false ∧
      s.dev.rangeBusy m = false ∧ s.dev.ucOwner m = 8 ∧ s.dev.rb (pctl (0x240 + m)) F.ctlEnable = true ∧ nbits w.toNat 25 24 ≠ 0 ∧ s.dev.pmuOn m =
      false ∧ (s.dev.lvl (32 + m)).closeAt = none) ∧
    (∃ (m : Fin 64) (s : State), (s.dev.lvl (32 + m)).closeAt.isSome = true ∧ s.dev.pmuMayForce m = true) ∧
    (∃ (m : Fin 64) (s : State), s.dev.rangeBusy m = true ∧ (s.dev.lvl (32 + m)).stored = none) ∧
    (∃ (m : Fin 64) (rows : Fin 8) (s : State), s.dev.noReact (Ev.pmuOpen m) = true ∧ s.dev.noReact (Ev.pmuCompliance m) = true ∧ s.dev.pmuOn m =
      true ∧ s.dev.rangeBusy m = false ∧ s.dev.pmuMode m = 2 ∧ rows.val ≠ 0) ∧
    (∃ (m : Fin 64) (s : State), s.dev.noReact (Ev.pmuOpen m) = true ∧ s.dev.noReact (Ev.pmuCompliance m) = true ∧ s.dev.rangeBusy m = false) :=
  ⟨⟨0, 33, 0x210A4000#32, at_ ((fun (d : Dev) => (((((d.setN (R.prtUcown0 ((33 : Fin 64) / 16)) 0x88888888).setN (R.prtUcown1 ((33 : Fin 64) / 16))
     0x88888888).wf (pctl (0x240 + (33 : Fin 64))) F.ctlEnable 1).setN (R.uchPmuCtrl (33 : Fin 64)) 0x400A4000).setN (R.uchPmuStat (33 : Fin 64)) 4
     : Dev)) ready), by decide +kernel⟩,
   ⟨4, at_ ((fun (d : Dev) => (((((d.setN (R.prtUcown0 ((4 : Fin 64) / 16)) 0x88888888).setN (R.prtUcown1 ((4 : Fin 64) / 16)) 0x88888888).wf (pctl
     (0x240 + (4 : Fin 64))) F.ctlEnable 1).setLive (R.uchPmuCtrl (4 : Fin 64)) 0x420A4000).putLvl (32 + (4 : Fin 64))
     { d.lvl (32 + (4 : Fin 64)) with closeAt := some 9 } : Dev)) ready), by decide +kernel⟩,
   ⟨4, at_ ((fun (d : Dev) => ((d.setLive (R.uchPmuCtrl (4 : Fin 64)) 0x120A4000).setN (R.uchPmuStat (4 : Fin 64)) 0xF0000004 : Dev)) ready),
     by decide +kernel⟩,
   ⟨4, 6, at_ ((fun (d : Dev) => ((((((d.setN (R.prtUcown0 ((4 : Fin 64) / 16)) 0x88888888).setN (R.prtUcown1 ((4 : Fin 64) / 16)) 0x88888888).wf
     (pctl (0x240 + (4 : Fin 64))) F.ctlEnable 1).setLive (R.uchPmuCtrl (4 : Fin 64)) 0x420A4000).wf (R.uchPmuStat (4 : Fin 64)) F.uchPmuStatOn
     1).wf (R.uchPmuStat (4 : Fin 64)) F.uchPmuStatRangeBusy 0 : Dev)) ready), by decide +kernel⟩,
   ⟨4, at_ ((fun (d : Dev) => (d.wf (R.uchPmuStat (4 : Fin 64)) F.uchPmuStatRangeBusy 0 : Dev)) ready), by decide +kernel⟩⟩

theorem test_witness_DecodersCountAndLock :
    (∃ (ch : Fin 32) (s : State), s.dev.fcReady ch = true ∧ s.dev.trioOf ch = 0 ∧ s.dev.cdcMode ch = 2 ∧ s.dev.decLocked ch = false) ∧
    (∃ (ch : Fin 32) (s : State), s.dev.fcReady ch = true ∧ s.dev.trioOf ch = 0 ∧ s.dev.cdcMode ch = 2 ∧ s.dev.rb (R.cdcRxstat (ch / 8) (ch % 8))
      F.cdcRxstatLocked = true ∧ s.dev.rb (R.cdcCfg (ch / 8) (ch % 8)) F.cdcCfgAlignFixed = false ∧ s.dev.rb (R.cdcCfg (ch / 8) (ch % 8))
      F.cdcCfgRxDec = false) ∧
    (∃ (ch : Fin 32) (s : State), s.dev.fcReady ch = true ∧ s.dev.trioOf ch = 0 ∧ s.dev.cdcMode ch = 5 ∧ s.dev.rb (R.cdcCfg (ch / 8) (ch % 8))
      F.cdcCfgAlignFixed = false) ∧
    (∃ (ch : Fin 32) (s : State), s.dev.fcReady ch = true ∧ s.dev.trioOf ch = 0 ∧ s.dev.cdcMode ch = 5 ∧ s.dev.rb (R.cdcCfg (ch / 8) (ch % 8))
      F.cdcCfgAlignFixed = false) :=
  ⟨⟨12, at_ ((fun (d : Dev) => (((d.wf (R.fchDrvStat (12 : Fin 32)) F.fchDrvStatReady 1).setN (R.cdcCfg ((12 : Fin 32) / 8) ((12 : Fin 32) % 8))
     0x2002).putChan (12 : Fin 32) { d.chan (12 : Fin 32) with codec := { (d.chan (12 : Fin 32)).codec with good := 1 } } : Dev)) ready),
     by decide +kernel⟩,
   ⟨12, at_ ((fun (d : Dev) => (((d.wf (R.fchDrvStat (12 : Fin 32)) F.fchDrvStatReady 1).setN (R.cdcCfg ((12 : Fin 32) / 8) ((12 : Fin 32) % 8))
     0x1802).wf (R.cdcRxstat ((12 : Fin 32) / 8) ((12 : Fin 32) % 8)) F.cdcRxstatLocked 1 |>.putChan (12 : Fin 32)
     { d.chan (12 : Fin 32) with codec := { (d.chan (12 : Fin 32)).codec with bad := 2 } } : Dev)) ready), by decide +kernel⟩,
   ⟨3, at_ ((fun (d : Dev) => (((d.wf (R.fchDrvStat (3 : Fin 32)) F.fchDrvStatReady 1).setN (R.cdcCfg ((3 : Fin 32) / 8) ((3 : Fin 32) % 8)) 5) :
     Dev)) ready), by decide +kernel⟩,
   ⟨3, at_ ((fun (d : Dev) => (((d.wf (R.fchDrvStat (3 : Fin 32)) F.fchDrvStatReady 1).setN (R.cdcCfg ((3 : Fin 32) / 8) ((3 : Fin 32) % 8)) 5).wf
     (R.cdcRxstat ((3 : Fin 32) / 8) ((3 : Fin 32) % 8)) F.cdcRxstatLocked 1 : Dev)) ready), by decide +kernel⟩⟩

theorem test_witness_CompareResultsReachCountersAndTheCdr :
    (∃ (p : Fin 4) (v : CmpJob) (j : PinJob) (rest : List CmpJob) (s : State), (s.dev.flpOf p).jobs = v :: rest ∧ (s.dev.flpOf p).snaps = [] ∧
      v.pins = [j] ∧ v.dec = [] ∧ v.prog = true ∧ v.rx = none ∧ j.pin < 8 ∧ j.mode = 0 ∧ j.cmp = true ∧ j.slip = false ∧ j.back = false ∧
      s.dev.flpFrozen p = false ∧ s.dev.fcTrack (8 * p + j.pin) ≠ 1) ∧
    (∃ (n : Fin 32) (st : Int) (s : State), (s.dev.chan n).cdr.due = some st) :=
  ⟨⟨1,
     { n := 9, t := 1000, a := 2000, seg := 4, prog := true, pc := 3, ofs := 7, beat := 2, ts := 1, cmask := 0xFFFFFF, rx := none, pins := [{ pin := 5, stb := 3, cst := 3, at_ := 0, at3 := 0, cmp := true, mode := 0, exp := 1, useV := false, part := true, slip := false, back := false, tag := none }], dec := [] },
     { pin := 5, stb := 3, cst := 3, at_ := 0, at3 := 0, cmp := true, mode := 0, exp := 1, useV := false, part := true, slip := false, back := false, tag := none },
     [], at_ ((fun (d : Dev) => (((d.putFlp (1 : Fin 4)
     { d.flpOf (1 : Fin 4) with jobs := [{ n := 9, t := 1000, a := 2000, seg := 4, prog := true, pc := 3, ofs := 7, beat := 2, ts := 1, cmask := 0xFFFFFF, rx := none, pins := [{ pin := 5, stb := 3, cst := 3, at_ := 0, at3 := 0, cmp := true, mode := 0, exp := 1, useV := false, part := true, slip := false, back := false, tag := none }], dec := [] }] }).putSeq
     (1 : Fin 4) (Dev.setSegRes (d.seqOf (1 : Fin 4)) 4 { Dev.segRes (d.seqOf (1 : Fin 4)) 4 with open_ := 2 })).setN (R.flpPinmask (1 : Fin 4))
     0x20 : Dev)) ready), by decide +kernel⟩,
   ⟨17, 500000, at_ ((fun (d : Dev) => ((d.putChan (17 : Fin 32)
     { d.chan (17 : Fin 32) with cdr := { (d.chan (17 : Fin 32)).cdr with due := some 500000, vote := -5, n := 32 } }).setN (R.fchCdrGain (17 : Fin
     32)) 0x54321 : Dev)) ready), by decide +kernel⟩⟩

theorem test_witness_FailCountersLogAndBitmapAreKept :
    (∃ (path : Fin 7) (p : Fin 4) (w : Word) (s : State), s.dev.takes path (R.flpCtrl p) w.toNat = true ∧ nbit w.toNat 0 = true ∧ s.dev.seqState p
      = 0) ∧
    (∃ (path : Fin 7) (p : Fin 4) (w : Word) (s : State), s.dev.takes path (R.flpCtrl p) w.toNat = true ∧ nbit w.toNat 0 = true ∧ s.dev.seqState p
      ≠ 0) ∧
    (∃ (path : Fin 7) (p : Fin 4) (w : Word) (s : State), s.dev.takes path (R.flpCtrl p) w.toNat = true ∧ nbit w.toNat 1 = true ∧ s.dev.seqState p
      = 0) ∧
    (∃ (p : Fin 4) (x : SnapReq) (s : State), (s.dev.flpOf p).snaps = [x] ∧ x.snap = true ∧ (s.dev.flpOf p).jobs.all (fun j => decide (x.bound ≤
      j.t)) = true ∧ (if (s.dev.seqOf p).tref then decide (x.bound ≤ (s.dev.seqOf p).nextUi) else decide (x.bound ≤ s.dev.now)) = true) ∧
    (∃ (path : Fin 7) (p : Fin 4) (w : Word) (s : State), s.dev.takes path (R.flpCtrl p) w.toNat = true ∧ nbit w.toNat 2 = true) ∧
    (∃ (path : Fin 7) (p : Fin 4) (w : Word) (s : State), s.dev.takes path (R.flpCtrl p) w.toNat = true ∧ nbit w.toNat 3 = true) ∧
    (∃ (p : Fin 4) (y : List Nat) (l : List (List Nat)) (s : State), (s.dev.flpOf p).staged = y :: l ∧ (s.dev.flpOf p).rlost = 0 ∧ y.length = 8 ∧
      s.dev.rb (R.flpCtrl p) F.flpCtrlLogPol = false ∧ 0 < s.dev.rn (R.flpLogLen p) ∧ s.dev.wide (R.flpLogBaseLo p) 2 % 64 = 0 ∧ s.dev.dramOk
      (s.dev.wide (R.flpLogBaseLo p) 2 + 32 * (s.dev.rn (R.flpLogWptr p) % (128 * s.dev.rn (R.flpLogLen p)))) 32 = true ∧ s.dev.poisonOf
      ((s.dev.wide (R.flpLogBaseLo p) 2 + 32 * (s.dev.rn (R.flpLogWptr p) % (128 * s.dev.rn (R.flpLogLen p)))) / 64 * 64) = none) ∧
    (∃ (p : Fin 4) (y : List Nat) (l : List (List Nat)) (s : State), (s.dev.flpOf p).staged = y :: l ∧ y.headD 0 < 3 * 2 ^ 28 ∧ s.dev.rb (R.flpCtrl
      p) F.flpCtrlLogPol = true ∧ 128 * s.dev.rn (R.flpLogLen p) ≤ (s.dev.rn (R.flpLogWptr p) + 2 ^ 32 - s.dev.rn (R.flpLogRptr p)) % 2 ^ 32) ∧
    (∃ (p : Fin 4) (la b : Nat) (l : List (Nat × Nat)) (s : State), (s.dev.flpOf p).wq = (la, b) :: l ∧ b < 2 ^ 512 ∧ s.dev.dramOk (64 * la) 64 =
      true ∧ s.dev.poisonOf (64 * la) = none) :=
  ⟨⟨0, 2, 1#32, at_ ((fun (d : Dev) => (d.putFlp (2 : Fin 4)
     { d.flpOf (2 : Fin 4) with fails := [(3, 7)], bits := [(3, 99)], errs := [(23, 2 ^ 47)] } : Dev)) ready), by decide +kernel⟩,
   ⟨0, 2, 1#32, at_ ((fun (d : Dev) => ({ (d.setN (R.seqStat 2) 0x20000000) with seq := [(2, { Seq.reset with tref := true, ts := 3 })] } : Dev))
     ready), by decide +kernel⟩,
   ⟨0, 2, 2#32, at_ ((fun (d : Dev) => (d.putFlp (2 : Fin 4)
     { d.flpOf (2 : Fin 4) with fails := [(3, 7)], bits := [(3, 99)], errs := [(23, 2 ^ 47)] } : Dev)) ready), by decide +kernel⟩,
   ⟨3, ⟨true, true, 4000⟩, at_ ((fun (d : Dev) =>
     ({ (d.putFlp (3 : Fin 4) { d.flpOf (3 : Fin 4) with fails := [(3, 7)], bits := [(3, 99)], errs := [(23, 2 ^ 47)], snaps := [⟨true, true, 4000⟩] }) with gtc := 999999, counting := true }
     : Dev)) ready), by decide +kernel⟩,
   ⟨0, 2, 4#32, at_ ((fun (d : Dev) => ((d.setN (R.flpFirst 2 3) 9).wf (R.flpStat 2) F.flpStatFirstValid 1 : Dev)) ready), by decide +kernel⟩,
   ⟨0, 2, 8#32, at_ ((fun (d : Dev) => (d.putFlp (2 : Fin 4) { d.flpOf (2 : Fin 4) with lines := [(4, 9), (6, 1)], wq := [(3, 3)] } : Dev)) ready),
     by decide +kernel⟩,
   ⟨1, [0x10000020, 2, 3, 4, 5, 6, 7, 8], [], at_ ((fun (d : Dev) => (((((((d.wf (R.mcStat 0) F.mcStatRanks 1).setN R.mcgCch 65536).setN R.mcgCap
     65536).setN (R.flpLogLen (1 : Fin 4)) 1).setN (R.flpLogBaseLo (1 : Fin 4)) 0x10000).setN (R.flpLogWptr (1 : Fin 4)) 131).putFlp (1 : Fin 4)
     { d.flpOf (1 : Fin 4) with staged := [[0x10000020, 2, 3, 4, 5, 6, 7, 8]] } : Dev)) ready), by decide +kernel⟩,
   ⟨1, [0x10000020, 2, 3, 4, 5, 6, 7, 8], [], at_ ((fun (d : Dev) => ((((((((d.wf (R.mcStat 0) F.mcStatRanks 1).setN R.mcgCch 65536).setN R.mcgCap
     65536).setN (R.flpLogLen (1 : Fin 4)) 1).setN (R.flpLogBaseLo (1 : Fin 4)) 0x10000).setN (R.flpLogWptr (1 : Fin 4)) 131).putFlp (1 : Fin 4)
     { d.flpOf (1 : Fin 4) with staged := [[0x10000020, 2, 3, 4, 5, 6, 7, 8]] }).wf (R.flpCtrl (1 : Fin 4)) F.flpCtrlLogPol 1 : Dev)) ready),
     by decide +kernel⟩,
   ⟨1, 1024, 2 ^ 500 + 5, [], at_ ((fun (d : Dev) =>
     (({ (((d.wf (R.mcStat 0) F.mcStatRanks 1).setN R.mcgCch 65536).setN R.mcgCap 65536) with dram := mputNat d.dram 65536 2 12 }).putFlp (1 : Fin
     4) { d.flpOf (1 : Fin 4) with wq := [(1024, 2 ^ 500 + 5)] } : Dev)) ready), by decide +kernel⟩⟩

theorem test_witness_TheEyeMonitorScansAndStops :
    (∃ (path : Fin 7) (n : Fin 32) (w : Word) (s : State), s.dev.takes path (R.fchEyeCtrl n) w.toNat = true ∧ nbit w.toNat 31 = true ∧ nbit w.toNat
      30 = false) ∧
    (∃ (path : Fin 7) (n : Fin 32) (w : Word) (s : State), s.dev.takes path (R.fchEyeCtrl n) w.toNat = true ∧ nbit w.toNat 31 = false ∧ nbit
      w.toNat 30 = true ∧ (s.dev.eyeState n = 1 ∨ s.dev.eyeState n = 2)) ∧
    (∃ (n : Fin 32) (s : State), s.dev.eyeState n = 1 ∧ s.dev.rn (R.fchEyeDwell n) ≤ (s.dev.chan n).eye.samples ∧ s.dev.rf (R.fchEyeStat n)
      F.fchEyeStatCol + 1 < s.dev.rf (R.fchEyeN n) F.fchEyeNNt ∧ s.dev.rf (R.fchEyeStat n) F.fchEyeStatCol < 256 ∧ s.dev.rf (R.fchEyeN n)
      F.fchEyeNNt ≤ 256) ∧
    (∃ (n : Fin 32) (s : State), s.dev.eyeState n = 1 ∧ s.dev.rn (R.fchEyeDwell n) ≤ (s.dev.chan n).eye.samples ∧ s.dev.rf (R.fchEyeN n)
      F.fchEyeNNt ≤ s.dev.rf (R.fchEyeStat n) F.fchEyeStatCol + 1 ∧ 0 < s.dev.rf (R.fchEyeN n) F.fchEyeNNt ∧ s.dev.rf (R.fchEyeN n) F.fchEyeNNt ≤
      256 ∧ s.dev.wide (R.fchEyeBaseLo n) 2 % 1024 = 0 ∧ s.dev.dramOk (s.dev.wide (R.fchEyeBaseLo n) 2 + 1024 * s.dev.rf (R.fchEyeStat n)
      F.fchEyeStatRow) (4 * s.dev.rf (R.fchEyeN n) F.fchEyeNNt) = true ∧ (∀ k : Fin 16, s.dev.poisonOf ((s.dev.wide (R.fchEyeBaseLo n) 2 + 1024 *
      s.dev.rf (R.fchEyeStat n) F.fchEyeStatRow) + 64 * k) = none) ∧ s.dev.rf (R.fchEyeStat n) F.fchEyeStatRow + 1 < s.dev.rf (R.fchEyeN n)
      F.fchEyeNNv ∧ (s.dev.chan n).eye.stopping = false) ∧
    (∃ (n : Fin 32) (s : State), s.dev.eyeState n = 1 ∧ s.dev.rn (R.fchEyeDwell n) ≤ (s.dev.chan n).eye.samples ∧ s.dev.rf (R.fchEyeN n)
      F.fchEyeNNt ≤ s.dev.rf (R.fchEyeStat n) F.fchEyeStatCol + 1 ∧ 0 < s.dev.rf (R.fchEyeN n) F.fchEyeNNt ∧ s.dev.rf (R.fchEyeN n) F.fchEyeNNt ≤
      256 ∧ s.dev.wide (R.fchEyeBaseLo n) 2 % 1024 = 0 ∧ s.dev.dramOk (s.dev.wide (R.fchEyeBaseLo n) 2 + 1024 * s.dev.rf (R.fchEyeStat n)
      F.fchEyeStatRow) (4 * s.dev.rf (R.fchEyeN n) F.fchEyeNNt) = true ∧ (∀ k : Fin 16, s.dev.poisonOf ((s.dev.wide (R.fchEyeBaseLo n) 2 + 1024 *
      s.dev.rf (R.fchEyeStat n) F.fchEyeStatRow) + 64 * k) = none) ∧ ((s.dev.chan n).eye.stopping = true ∨ (s.dev.rf (R.fchEyeN n) F.fchEyeNNv ≤
      s.dev.rf (R.fchEyeStat n) F.fchEyeStatRow + 1 ∧ s.dev.rb (R.fchEyeCtrl n) F.fchEyeCtrlCont = false))) :=
  ⟨⟨0, 7, 0x80000000#32, at_ ((fun (d : Dev) => (({ d with seq := [(0, { Seq.reset with tref := true })] }).wf (R.fchDrvStat (7 : Fin 32))
     F.fchDrvStatReady 1 |>.sramPut (Dev.eyeRow (7 : Fin 32) + 4) 77 : Dev)) ready), by decide +kernel⟩,
   ⟨0, 7, 0x40000000#32, at_ ((fun (d : Dev) => (d.wf (R.fchEyeStat (7 : Fin 32)) F.fchEyeStatState 1 : Dev)) ready), by decide +kernel⟩,
   ⟨2, at_ ((fun (d : Dev) => (((d.wf (R.fchEyeStat (2 : Fin 32)) F.fchEyeStatState 1).setN (R.fchEyeDwell (2 : Fin 32)) 5).setN (R.fchEyeN (2 :
     Fin 32)) 0x200010 |>.putChan (2 : Fin 32) { d.chan (2 : Fin 32) with eye := ⟨5, 2, false⟩ } : Dev)) ready), by decide +kernel⟩,
   ⟨2, at_ ((fun (d : Dev) => (((((((d.wf (R.mcStat 0) F.mcStatRanks 1).setN R.mcgCch 65536).setN R.mcgCap 65536).wf (R.fchEyeStat (2 : Fin 32))
     F.fchEyeStatState 1).setN (R.fchEyeDwell (2 : Fin 32)) 5).setN (R.fchEyeN (2 : Fin 32)) 0x20010).setN (R.fchEyeBaseLo (2 : Fin 32)) 0x40000
     |>.wf (R.fchEyeStat (2 : Fin 32)) F.fchEyeStatCol 15 |>.putChan (2 : Fin 32) { d.chan (2 : Fin 32) with eye := ⟨5, 2, false⟩ } |>.sramPut
     (Dev.eyeRow (2 : Fin 32) + 60) 0x99887766 : Dev)) ready), by decide +kernel⟩,
   ⟨2, at_ ((fun (d : Dev) => (((((((d.wf (R.mcStat 0) F.mcStatRanks 1).setN R.mcgCch 65536).setN R.mcgCap 65536).wf (R.fchEyeStat (2 : Fin 32))
     F.fchEyeStatState 1).setN (R.fchEyeDwell (2 : Fin 32)) 5).setN (R.fchEyeN (2 : Fin 32)) 0x20010).setN (R.fchEyeBaseLo (2 : Fin 32)) 0x40000
     |>.wf (R.fchEyeStat (2 : Fin 32)) F.fchEyeStatCol 15 |>.putChan (2 : Fin 32) { d.chan (2 : Fin 32) with eye := ⟨5, 2, false⟩ } |>.sramPut
     (Dev.eyeRow (2 : Fin 32) + 60) 0x99887766 |>.wf (R.fchEyeStat (2 : Fin 32)) F.fchEyeStatRow 1 : Dev)) ready), by decide +kernel⟩⟩

theorem test_witness_MeasurementScansAndTheCalibrationBus :
    (∃ (path : Fin 7) (p : Fin 4) (w : Word) (s : State), s.dev.takes path (R.measCtrl p) w.toNat = true ∧ nbits w.toNat 1 0 = 1) ∧
    (∃ (path : Fin 7) (p : Fin 4) (w : Word) (s : State), s.dev.takes path (R.measCtrl p) w.toNat = true ∧ nbits w.toNat 1 0 = 2 ∧ s.dev.measState
      p = 1) ∧
    (∃ (path : Fin 7) (p : Fin 4) (w : Word) (s : State), s.dev.takes path (R.measCtrl p) w.toNat = true ∧ nbits w.toNat 1 0 = 2 ∧ s.dev.measState
      p = 2) ∧
    (∃ (p : Fin 4) (e : Fin 16) (s : State), s.dev.measState p = 1 ∧ (s.dev.measOf p).stop = false ∧ s.dev.rf (R.measStat p) F.measStatEntry = e ∧
      fget (s.dev.get (R.measEnt p e)) F.measEntQty ≠ 1 ∧ e ≠ s.dev.rf (R.measCtrl p) F.measCtrlLast ∧ e.val < 15 ∧ (s.dev.measOf p).borrow = 0) ∧
    (∃ (p : Fin 4) (e : Fin 16) (s : State), s.dev.measState p = 1 ∧ (s.dev.measOf p).stop = false ∧ s.dev.rf (R.measStat p) F.measStatEntry = e ∧
      fget (s.dev.get (R.measEnt p e)) F.measEntQty ≠ 1 ∧ e = s.dev.rf (R.measCtrl p) F.measCtrlLast ∧ s.dev.rb (R.measCtrl p) F.measCtrlCont =
      false) ∧
    (∃ (p : Fin 4) (e : Fin 16) (moved : Bool) (s : State), s.dev.measState p = 1 ∧ (s.dev.measOf p).stop = false ∧ s.dev.rf (R.measStat p)
      F.measStatEntry = e ∧ fget (s.dev.get (R.measEnt p e)) F.measEntQty = 1 ∧ (moved = true ∨ s.dev.pmuOn (16 * p + fget (s.dev.get (R.measEnt p
      e)) F.measEntCh) = false)) ∧
    (∃ (path : Fin 7) (p : Fin 4) (w : Word) (s : State), s.dev.takes path (R.measCalbus p) w.toNat = true ∧ nbit w.toNat 31 = true) ∧
    (∃ (path : Fin 7) (p : Fin 4) (w : Word) (s : State), s.dev.takes path (R.measCalbus p) w.toNat = true ∧ nbit w.toNat 31 = false ∧
      s.dev.calbusBusy p = true) ∧
    (∃ (p : Nat) (l : List Nat) (s : State), s.dev.calbus.holder = none ∧ s.dev.calbus.queue = p :: l ∧ s.dev.boot.keeperOn = true) :=
  ⟨⟨0, 3, 0x701#32, at_ ((fun (d : Dev) => (d.wf (R.measStat (3 : Fin 4)) F.measStatState 0 : Dev)) ready), by decide +kernel⟩,
   ⟨0, 3, 2#32, at_ ((fun (d : Dev) => (d.wf (R.measStat (3 : Fin 4)) F.measStatState 1 : Dev)) ready), by decide +kernel⟩,
   ⟨0, 3, 2#32, at_ ((fun (d : Dev) => (d.wf (R.measStat (3 : Fin 4)) F.measStatState 2 : Dev)) ready), by decide +kernel⟩,
   ⟨1, 0, at_ ((fun (d : Dev) => (((d.setN (R.measStat (1 : Fin 4)) (0x10000000 + (0 : Fin 16).val * 0x1000000)).setN (R.measCtrl (1 : Fin 4))
     0x700).setN (R.measEnt (1 : Fin 4) (0 : Fin 16)) 0x0003030A : Dev)) ready), by decide +kernel⟩,
   ⟨1, 7, at_ ((fun (d : Dev) => (((d.setN (R.measStat (1 : Fin 4)) (0x10000000 + (7 : Fin 16).val * 0x1000000)).setN (R.measCtrl (1 : Fin 4))
     0x700).setN (R.measEnt (1 : Fin 4) (7 : Fin 16)) 0x0003030A : Dev)) ready), by decide +kernel⟩,
   ⟨1, 7, true, at_ ((fun (d : Dev) => (((d.setN (R.measStat (1 : Fin 4)) (0x10000000 + (7 : Fin 16).val * 0x1000000)).setN (R.measCtrl (1 : Fin
     4)) 0x700).setN (R.measEnt (1 : Fin 4) (7 : Fin 16)) 0x0003034A : Dev)) ready), by decide +kernel⟩,
   ⟨0, 3, 0x83000104#32, at_ ((fun (d : Dev) => ({ d with calbus := ⟨[1], some 0⟩ } : Dev)) ready), by decide +kernel⟩,
   ⟨0, 3, 0#32, at_ ((fun (d : Dev) => (({ d with calbus := ⟨[1], some 3⟩ }).wf (R.measCalstat (3 : Fin 4)) F.measCalstatState 2 : Dev)) ready),
     by decide +kernel⟩,
   ⟨2, [0], at_ ((fun (d : Dev) => (({ d with calbus := ⟨[2, 0], none⟩ }).wf (R.measCalbus 2) F.measCalbusNode 3 : Dev)) ready), by decide +kernel⟩⟩

theorem test_witness_TriggerInputsAndSamplesAreJudged :
    (∃ (k : Fin 4) (lvl : Bool) (s : State), nbit s.dev.pins.trigIn k ≠ lvl) ∧
    (∃ (k : Fin 4) (lvl : Bool) (s : State), nbit s.dev.pins.trigIn k ≠ lvl ∧ s.dev.pins.trigAt = []) ∧
    (∃ (k p : Fin 4) (u : Fin 8) (lvl : Bool) (s : State), nbit s.dev.pins.trigIn k ≠ lvl ∧ s.dev.unitsLive p = true ∧ (s.dev.acqOf p).last = none
      ∧ s.dev.cuType p u = 7 ∧ s.dev.cuSel p u = k ∧ (s.dev.cuMode p u = 3 ∨ s.dev.cuMode p u = (if lvl then 1 else 2))) ∧
    (∃ (m : Fin 64) (c : Fin 2) (lvl : Bool) (s : State), nbit s.dev.pins.ucCmp (2 * m + c) ≠ lvl ∧ s.dev.ucReady m = true ∧ s.dev.ucOwner m ≠ 0) ∧
    (∃ (p : Fin 4) (x : Smp) (l : List Smp) (s : State), (s.dev.acqOf p).smps = x :: l ∧ s.dev.decidable p x = true ∧ (s.dev.acqOf p).force = none
      ∧ (s.dev.acqOf p).mask = none ∧ s.dev.acqState p = 1 ∧ (s.dev.acqOf p).st < 4 ∧ fget (s.dev.get (R.trgStCtrl p (s.dev.acqOf p).st))
      F.trgStCtrlCond = 0 ∧ s.dev.rn (R.trgStTmo p (s.dev.acqOf p).st) = 0) ∧
    (∃ (p : Fin 4) (x : Smp) (l : List Smp) (o : AcqRec) (s : State), (s.dev.acqOf p).smps = x :: l ∧ s.dev.decidable p x = true ∧ (s.dev.acqOf
      p).force = none ∧ (s.dev.acqOf p).mask = none ∧ s.dev.acqState p = 1 ∧ (s.dev.acqOf p).st < 4 ∧ fget (s.dev.get (R.trgStCtrl p (s.dev.acqOf
      p).st)) F.trgStCtrlCond &&& (s.dev.sampleHits p
      { (s.dev.acqOf p) with wins := Dev.rawWindows (s.dev.acqOf p) x, t0 := if x.n = (s.dev.acqOf p).na then x.t else (s.dev.acqOf p).t0 } x) ≠ 0
      ∧ fget (s.dev.get (R.trgStCtrl p (s.dev.acqOf p).st)) F.trgStCtrlAll = 0 ∧ fget (s.dev.get (R.trgStCtrl p (s.dev.acqOf p).st)) F.trgStCtrlAct
      = 0 ∧ (s.dev.acqOf p).entered ≤ x.n ∧ s.dev.rb (R.acqCfg p) F.acqCfgPreFull = false ∧ 0 < s.dev.rn (R.acqPost p) ∧ s.dev.noReact (Ev.trgFire
      p) = true ∧ s.dev.noReact (Ev.acqPreShort p) = true ∧ o = s.dev.openRec p
      { (s.dev.acqOf p) with wins := Dev.rawWindows (s.dev.acqOf p) x, t0 := if x.n = (s.dev.acqOf p).na then x.t else (s.dev.acqOf p).t0 } x
      ((s.dev.sampleHits p
      { (s.dev.acqOf p) with wins := Dev.rawWindows (s.dev.acqOf p) x, t0 := if x.n = (s.dev.acqOf p).na then x.t else (s.dev.acqOf p).t0 } x) &&&
      fget (s.dev.get (R.trgStCtrl p (s.dev.acqOf p).st)) F.trgStCtrlCond) (((List.range 8).find? (fun u => nbit ((s.dev.sampleHits p
      { (s.dev.acqOf p) with wins := Dev.rawWindows (s.dev.acqOf p) x, t0 := if x.n = (s.dev.acqOf p).na then x.t else (s.dev.acqOf p).t0 } x) &&&
      fget (s.dev.get (R.trgStCtrl p (s.dev.acqOf p).st)) F.trgStCtrlCond) u)).getD 0) false false) ∧
    (∃ (p : Fin 4) (s : State), s.dev.acqState p = 3 ∧ (s.dev.acqOf p).na ≤ (s.dev.seqOf p).n ∧ (s.dev.acqOf p).smps.any (fun x => decide (x.n <
      (s.dev.acqOf p).na)) = false ∧ (s.dev.rb (R.acqCfg p) F.acqCfgFullPol = false ∨ s.dev.slotsFull p = false)) ∧
    (∃ (p : Fin 4) (s : State), s.dev.acqState p = 3 ∧ (s.dev.acqOf p).na ≤ (s.dev.seqOf p).n ∧ (s.dev.acqOf p).smps.any (fun x => decide (x.n <
      (s.dev.acqOf p).na)) = false ∧ s.dev.rb (R.acqCfg p) F.acqCfgFullPol = true ∧ s.dev.slotsFull p = true) :=
  ⟨⟨2, true, at_ ((fun (d : Dev) => (d.wf (R.acqStat 0) F.acqStatState 0 : Dev)) ready), by decide +kernel⟩,
   ⟨2, true, at_ ((fun (d : Dev) => (d.wf (R.acqStat 0) F.acqStatState 0 : Dev)) ready), by decide +kernel⟩,
   ⟨2, 1, 5, true, at_ ((fun (d : Dev) => ((d.wf (R.acqStat (1 : Fin 4)) F.acqStatState 1).setN (R.trgCuCfg (1 : Fin 4) (5 : Fin 8)) 0x20307 :
     Dev)) ready), by decide +kernel⟩,
   ⟨40, 1, true, at_ ((fun (d : Dev) => (((d.wf (R.uchDrvStat (40 : Fin 64)) F.uchDrvStatReady 1).setN (R.prtUcown0 ((40 : Fin 64) / 16))
     0x88888888).setN (R.prtUcown1 ((40 : Fin 64) / 16)) 0x88888888 : Dev)) ready), by decide +kernel⟩,
   ⟨1,
     { n := 9, t := 1000, end_ := 2000, ts := 0, prog := true, pc := 3, ofs := 4, sf := 0, sfp := 0, a := 1500, bits := 0xFF, slips := 0, fails := 0x10, dec := 0 },
     [], at_ ((fun (d : Dev) => ((((((d.wf (R.acqStat (1 : Fin 4)) F.acqStatState 1).setN (R.trgCuCfg (1 : Fin 4) 6) 0x2).setN (R.trgCuParam (1 :
     Fin 4) 6) 0x10).setN (R.trgStCtrl (1 : Fin 4) 2) 0x0).setN (R.lksRxFmt (1 : Fin 4)) 0x100FF).setN (R.acqPost (1 : Fin 4)) 5 |>.putAcq (1 : Fin
     4)
     { Acq.reset with st := 2, smps := [{ n := 9, t := 1000, end_ := 2000, ts := 0, prog := true, pc := 3, ofs := 4, sf := 0, sfp := 0, a := 1500, bits := 0xFF, slips := 0, fails := 0x10, dec := 0 }] }
     : Dev)) ready), by decide +kernel⟩,
   ⟨1,
     { n := 9, t := 1000, end_ := 2000, ts := 0, prog := true, pc := 3, ofs := 4, sf := 0, sfp := 0, a := 1500, bits := 0xFF, slips := 0, fails := 0x10, dec := 0 },
     [], (fun s0 : Dev => s0.openRec (1 : Fin 4)
     { s0.acqOf (1 : Fin 4) with wins := Dev.rawWindows (s0.acqOf (1 : Fin 4)) ({ n := 9, t := 1000, end_ := 2000, ts := 0, prog := true, pc := 3, ofs := 4, sf := 0, sfp := 0, a := 1500, bits := 0xFF, slips := 0, fails := 0x10, dec := 0 } : Smp), t0 := if ({ n := 9, t := 1000, end_ := 2000, ts := 0, prog := true, pc := 3, ofs := 4, sf := 0, sfp := 0, a := 1500, bits := 0xFF, slips := 0, fails := 0x10, dec := 0 } : Smp).n = (s0.acqOf (1 : Fin 4)).na then ({ n := 9, t := 1000, end_ := 2000, ts := 0, prog := true, pc := 3, ofs := 4, sf := 0, sfp := 0, a := 1500, bits := 0xFF, slips := 0, fails := 0x10, dec := 0 } : Smp).t else (s0.acqOf (1 : Fin 4)).t0 }
     ({ n := 9, t := 1000, end_ := 2000, ts := 0, prog := true, pc := 3, ofs := 4, sf := 0, sfp := 0, a := 1500, bits := 0xFF, slips := 0, fails := 0x10, dec := 0 }
     : Smp) 0x40 6 false false) ((((((ready.wf (R.acqStat (1 : Fin 4)) F.acqStatState 1).setN (R.trgCuCfg (1 : Fin 4) 6) 0x2).setN (R.trgCuParam (1
     : Fin 4) 6) 0x10).setN (R.trgStCtrl (1 : Fin 4) 2) 0x40).setN (R.lksRxFmt (1 : Fin 4)) 0x100FF).setN (R.acqPost (1 : Fin 4)) 5 |>.putAcq (1 :
     Fin 4)
     { Acq.reset with st := 2, smps := [{ n := 9, t := 1000, end_ := 2000, ts := 0, prog := true, pc := 3, ofs := 4, sf := 0, sfp := 0, a := 1500, bits := 0xFF, slips := 0, fails := 0x10, dec := 0 }] }),
     at_ ((fun (d : Dev) => ((((((d.wf (R.acqStat (1 : Fin 4)) F.acqStatState 1).setN (R.trgCuCfg (1 : Fin 4) 6) 0x2).setN (R.trgCuParam (1 : Fin
     4) 6) 0x10).setN (R.trgStCtrl (1 : Fin 4) 2) 0x40).setN (R.lksRxFmt (1 : Fin 4)) 0x100FF).setN (R.acqPost (1 : Fin 4)) 5 |>.putAcq (1 : Fin 4)
     { Acq.reset with st := 2, smps := [{ n := 9, t := 1000, end_ := 2000, ts := 0, prog := true, pc := 3, ofs := 4, sf := 0, sfp := 0, a := 1500, bits := 0xFF, slips := 0, fails := 0x10, dec := 0 }] }
     : Dev)) ready), by decide +kernel⟩,
   ⟨2, at_ ((fun (d : Dev) => ((d.wf (R.acqStat (2 : Fin 4)) F.acqStatState 3).setN (R.acqNslot (2 : Fin 4)) 2 : Dev)) ready), by decide +kernel⟩,
   ⟨2, at_ ((fun (d : Dev) => (((d.wf (R.acqStat (2 : Fin 4)) F.acqStatState 3).setN (R.acqNslot (2 : Fin 4)) 2).setN (R.acqWptr (2 : Fin 4)) 2
     |>.wf (R.acqCfg (2 : Fin 4)) F.acqCfgFullPol 1 : Dev)) ready), by decide +kernel⟩⟩

theorem test_witness_AcquisitionIsArmedForcedFrozenAndWritten :
    (∃ (path : Fin 7) (p : Fin 4) (w : Word) (s : State), s.dev.takes path (R.acqCtrl p) w.toNat = true ∧ nbits w.toNat 3 0 = 1 ∧ (s.dev.acqState p
      = 0 ∨ s.dev.acqState p = 6) ∧ s.dev.seqState p = 0 ∧ (s.dev.seqOf p).tref = false ∧ s.dev.rb (R.acqCfg p) F.acqCfgDest = true ∧ s.dev.areaOk
      p = true) ∧
    (∃ (path : Fin 7) (p : Fin 4) (w : Word) (s : State), s.dev.takes path (R.acqCtrl p) w.toNat = true ∧ nbits w.toNat 3 0 = 2) ∧
    (∃ (path : Fin 7) (p : Fin 4) (w : Word) (s : State), s.dev.takes path (R.acqCtrl p) w.toNat = true ∧ nbits w.toNat 3 0 = 8 ∧ s.dev.unitsLive p
      = true) ∧
    (∃ (path : Fin 7) (p : Fin 4) (w : Word) (s : State), s.dev.takesCtrl path (ppage p 8) w.toNat = true ∧ w = 4 ∧ s.dev.rb (pctl (ppage p 8))
      F.ctlFreeze = false) ∧
    (∃ (path : Fin 7) (p : Fin 4) (w : Word) (s : State), s.dev.takesCtrl path (ppage p 8) w.toNat = true ∧ w = 0 ∧ s.dev.rb (pctl (ppage p 8))
      F.ctlFreeze = true ∧ s.dev.acqState p = 5 ∧ s.dev.rb (R.acqCfg p) F.acqCfgRing = true) ∧
    (∃ (p : Fin 4) (x a : Nat) (l : List AcqOut) (s : State), (s.dev.acqOf p).out = .round x a :: l ∧ s.dev.acqReady p = true ∧ s.dev.dramOk a
      (s.dev.acqRb p) = true ∧ a % 64 = 0) ∧
    (∃ (p : Fin 4) (a : Nat) (ws : List Nat) (l : List AcqOut) (s : State), (s.dev.acqOf p).out = .desc a ws :: l ∧ ws.length = 16 ∧ (s.dev.acqOf
      p).derr = false ∧ s.dev.dramOk a 64 = true ∧ a % 64 = 0) ∧
    (∃ (path : Fin 7) (p : Fin 4) (w : Word) (s : State), s.dev.takes path (R.trgOut p) w.toNat = true) :=
  ⟨⟨0, 2, 1#32, at_ ((fun (d : Dev) => ((((((d.wf (R.mcStat 0) F.mcStatRanks 1).setN R.mcgCch 65536).setN R.mcgCap 65536).wf (R.acqCfg (2 : Fin 4))
     F.acqCfgDest 1).setN (R.acqNslot (2 : Fin 4)) 2).setN (R.lksRxFmt (2 : Fin 4)) 0x100FF : Dev)) ready), by decide +kernel⟩,
   ⟨0, 2, 2#32, at_ ((fun (d : Dev) => ((d.wf (R.acqStat (2 : Fin 4)) F.acqStatState 1).putAcq (2 : Fin 4) { Acq.reset with force := some 3 } :
     Dev)) ready), by decide +kernel⟩,
   ⟨0, 2, 8#32, at_ ((fun (d : Dev) => (d.wf (R.acqStat (2 : Fin 4)) F.acqStatState 2 : Dev)) ready), by decide +kernel⟩,
   ⟨0, 2, 4#32, at_ ((fun (d : Dev) => (d.wf (R.acqStat (2 : Fin 4)) F.acqStatState 3 : Dev)) ready), by decide +kernel⟩,
   ⟨0, 2, 0#32, at_ ((fun (d : Dev) => (((d.wf (R.acqStat (2 : Fin 4)) F.acqStatState 5).wf (pctl (ppage (2 : Fin 4) 8)) F.ctlFreeze 1).wf
     (R.acqCfg (2 : Fin 4)) F.acqCfgRing 1 : Dev)) ready), by decide +kernel⟩,
   ⟨2, 1, 0x8000, [], at_ ((fun (d : Dev) => ((((((d.wf (R.mcStat 0) F.mcStatRanks 1).setN R.mcgCch 65536).setN R.mcgCap 65536).setN (R.lksRxFmt (2
     : Fin 4)) 0x100FF).putAcq (2 : Fin 4) { Acq.reset with out := [.round 1 0x8000] }).sramPut (Dev.rxSlot (2 : Fin 4) 0 + 600) 0x55667788 : Dev))
     ready), by decide +kernel⟩,
   ⟨2, 0x8000, List.replicate 16 0x1234567, [], at_ ((fun (d : Dev) => ((((d.wf (R.mcStat 0) F.mcStatRanks 1).setN R.mcgCch 65536).setN R.mcgCap
     65536).putAcq (2 : Fin 4) { Acq.reset with out := [.desc 0x8000 (List.replicate 16 0x1234567)] } : Dev)) ready), by decide +kernel⟩,
   ⟨0, 1, 0x05000102#32, at_ ((fun (d : Dev) => (d.wf (R.acqStat (1 : Fin 4)) F.acqStatState 1 : Dev)) ready), by decide +kernel⟩⟩

theorem test_witness_MaskViolationsAreShownAndCleared :
    (∃ (p : Fin 4) (x : MskViol) (l : List MskViol) (s : State), (s.dev.flpOf p).viols = x :: l ∧ x.ch < 8 ∧ s.dev.rb (R.mskStat p) F.mskStatViol =
      false ∧ s.dev.rf (R.mskCtrl p) F.mskCtrlStopAct = 0) ∧
    (∃ (p : Fin 4) (x : MskViol) (l : List MskViol) (s : State), (s.dev.flpOf p).viols = x :: l ∧ x.ch < 8 ∧ s.dev.rb (R.mskStat p) F.mskStatViol =
      false ∧ s.dev.rf (R.mskCtrl p) F.mskCtrlStopAct = 1 ∧ s.dev.acqState p = 1 ∧ s.dev.noReact (Ev.mskViol p) = true) ∧
    (∃ (p : Fin 4) (x : MskViol) (l : List MskViol) (s : State), (s.dev.flpOf p).viols = x :: l ∧ s.dev.rb (R.mskStat p) F.mskStatViol = true) ∧
    (∃ (path : Fin 7) (p : Fin 4) (w : Word) (s : State), s.dev.takes path (R.mskCtrl p) w.toNat = true ∧ nbit w.toNat 8 = true) :=
  ⟨⟨3, ⟨77, 123456, 130000, true, 5, 9, 0x80001122, 3⟩, [], at_ ((fun (d : Dev) => (((d.putFlp (3 : Fin 4)
     { Flp.reset with viols := [⟨77, 123456, 130000, true, 5, 9, 0x80001122, 3⟩] }).setN (R.mskStat (3 : Fin 4)) 0).wf (R.mskCtrl (3 : Fin 4))
     F.mskCtrlStopAct 0 : Dev)) ready), by decide +kernel⟩,
   ⟨3, ⟨77, 123456, 130000, true, 5, 9, 0x80001122, 3⟩, [], at_ ((fun (d : Dev) => (((d.putFlp (3 : Fin 4)
     { Flp.reset with viols := [⟨77, 123456, 130000, true, 5, 9, 0x80001122, 3⟩] }).setN (R.mskStat (3 : Fin 4)) 0).wf (R.mskCtrl (3 : Fin 4))
     F.mskCtrlStopAct 1|>.wf (R.acqStat (3 : Fin 4)) F.acqStatState 1 : Dev)) ready), by decide +kernel⟩,
   ⟨3, ⟨77, 123456, 130000, true, 5, 9, 0x80001122, 3⟩, [], at_ ((fun (d : Dev) => ((d.putFlp (3 : Fin 4)
     { Flp.reset with viols := [⟨77, 123456, 130000, true, 5, 9, 0x80001122, 3⟩] }).wf (R.mskStat (3 : Fin 4)) F.mskStatViol 1 : Dev)) ready),
     by decide +kernel⟩,
   ⟨0, 1, 0x100#32, at_ ((fun (d : Dev) => (d.setN (R.mskStat (1 : Fin 4)) 0xA5000000 : Dev)) ready), by decide +kernel⟩⟩

theorem test_witness_SidebandEnginesEnableFlushAndAbort :
    (∃ (path : Fin 7) (p e : Fin 4) (w : Word) (s : State), s.dev.takesCtrl path (ppage p (0xB + e)) w.toNat = true ∧ w = 1 ∧ s.dev.linesOwned p e
      = true ∧ s.dev.sbOn p e = false ∧ s.dev.cmdAvail p e < 8) ∧
    (∃ (path : Fin 7) (p e : Fin 4) (w : Word) (s : State), s.dev.takesCtrl path (ppage p (0xB + e)) w.toNat = true ∧ w = 0 ∧ s.dev.sbOn p e = true
      ∧ (s.dev.sbOf p e).busy = false) ∧
    (∃ (path : Fin 7) (p : Fin 4) (e : Fin 3) (w : Word) (s : State), s.dev.takes path (Dev.sbReg p e 0x5C) w.toNat = true ∧ nbits w.toNat 1 0 = 1
      ∧ (s.dev.sbOf p e).busy = true ∧ (s.dev.sbOf p e).skip = none ∧ s.dev.cmdAvail p e = (s.dev.sbCmd p e).size ∧ s.dev.ringRoom p e = true) ∧
    (∃ (path : Fin 7) (p : Fin 4) (e : Fin 3) (w : Word) (s : State), s.dev.takes path (Dev.sbReg p e 0x5C) w.toNat = true ∧ nbits w.toNat 1 0 = 2
      ∧ (s.dev.sbOf p e).busy = false) ∧
    (∃ (path : Fin 7) (p : Fin 4) (e : Fin 3) (w : Word) (s : State), s.dev.takes path (Dev.sbReg p e 0x5C) w.toNat = true ∧ nbits w.toNat 1 0 = 2
      ∧ (s.dev.sbOf p e).busy = true) ∧
    (∃ (p e : Fin 4) (s : State), e.val < 3 ∧ s.dev.sbOn p e = true ∧ s.dev.linesReady p e = false ∧ (s.dev.sbOf p e).busy = false ∧ s.dev.ringRoom
      p e = true) ∧
    (∃ (p e : Fin 4) (s : State), e.val = 1 ∧ s.dev.sbOn p e = true ∧ s.dev.linesReady p e = false ∧ (s.dev.sbOf p e).busy = true ∧ (s.dev.sbOf p
      e).skip = none ∧ s.dev.cmdAvail p e = (s.dev.sbCmd p e).size ∧ s.dev.ringRoom p e = true) :=
  ⟨⟨0, 2, 1, 1#32, at_ ((fun (d : Dev) => ((((List.range 6).foldl (fun (d : Dev) u => d.wf (R.uchDrvStat (16 * (2 : Fin 4) + u)) F.uchDrvStatReady
     1) (d)).setN (R.prtUcown0 (2 : Fin 4)) 0x765432 |>.setN (R.prtUcown1 (2 : Fin 4)) 0 |>.wf (pctl (Dev.sbPage (2 : Fin 4) (1 : Fin 4)))
     F.ctlEnable 1 |>.setN (Dev.sbReg (2 : Fin 4) (1 : Fin 4) 0x80) 0 |>.setN (Dev.sbRptr (2 : Fin 4) (1 : Fin 4)) 0 |>.wf (pctl (Dev.sbPage (2 :
     Fin 4) (1 : Fin 4))) F.ctlEnable 0 |>.setN (Dev.sbWptr (2 : Fin 4) (1 : Fin 4)) 0) : Dev)) ready), by decide +kernel⟩,
   ⟨0, 2, 1, 0#32, at_ ((fun (d : Dev) => ((((List.range 6).foldl (fun (d : Dev) u => d.wf (R.uchDrvStat (16 * (2 : Fin 4) + u)) F.uchDrvStatReady
     1) (d)).setN (R.prtUcown0 (2 : Fin 4)) 0x765432 |>.setN (R.prtUcown1 (2 : Fin 4)) 0 |>.wf (pctl (Dev.sbPage (2 : Fin 4) (1 : Fin 4)))
     F.ctlEnable 1 |>.setN (Dev.sbReg (2 : Fin 4) (1 : Fin 4) 0x80) 0 |>.setN (Dev.sbRptr (2 : Fin 4) (1 : Fin 4)) 0 |>.setN (Dev.sbWptr (2 : Fin
     4) (1 : Fin 4)) 24) : Dev)) ready), by decide +kernel⟩,
   ⟨0, 1, 0, 1#32, at_ ((fun (d : Dev) => ((((List.range 6).foldl (fun (d : Dev) u => d.wf (R.uchDrvStat (16 * (1 : Fin 4) + u)) F.uchDrvStatReady
     1) (d)).setN (R.prtUcown0 (1 : Fin 4)) 0x765432 |>.setN (R.prtUcown1 (1 : Fin 4)) 0 |>.wf (pctl (Dev.sbPage (1 : Fin 4) (0 : Fin 3)))
     F.ctlEnable 1 |>.setN (Dev.sbReg (1 : Fin 4) (0 : Fin 3) 0x80) 0 |>.setN (Dev.sbRptr (1 : Fin 4) (0 : Fin 3)) 0 |>.setN (Dev.sbWptr (1 : Fin
     4) (0 : Fin 3)) 12 |>.sramPut (Dev.sbArea (1 : Fin 4) + 0xA000 + 0x400 * (0 : Fin 3) + 0) 0x14020077 |>.sramPut (Dev.sbArea (1 : Fin 4) +
     0xA000 + 0x400 * (0 : Fin 3) + 4) 0x5 |>.sramPut (Dev.sbArea (1 : Fin 4) + 0xA000 + 0x400 * (0 : Fin 3) + 8) 0x809 |>.putSb (1 : Fin 4) (0 :
     Fin 3) { Sb.reset with busy := true }) : Dev)) ready), by decide +kernel⟩,
   ⟨0, 1, 2, 2#32, at_ ((fun (d : Dev) => ((((List.range 6).foldl (fun (d : Dev) u => d.wf (R.uchDrvStat (16 * (1 : Fin 4) + u)) F.uchDrvStatReady
     1) (d)).setN (R.prtUcown0 (1 : Fin 4)) 0x765432 |>.setN (R.prtUcown1 (1 : Fin 4)) 0 |>.wf (pctl (Dev.sbPage (1 : Fin 4) (2 : Fin 3)))
     F.ctlEnable 1 |>.setN (Dev.sbReg (1 : Fin 4) (2 : Fin 3) 0x80) 0 |>.setN (Dev.sbRptr (1 : Fin 4) (2 : Fin 3)) 0 |>.setN (Dev.sbWptr (1 : Fin
     4) (2 : Fin 3)) 24) : Dev)) ready), by decide +kernel⟩,
   ⟨0, 1, 2, 2#32, at_ ((fun (d : Dev) => ((((List.range 6).foldl (fun (d : Dev) u => d.wf (R.uchDrvStat (16 * (1 : Fin 4) + u)) F.uchDrvStatReady
     1) (d)).setN (R.prtUcown0 (1 : Fin 4)) 0x765432 |>.setN (R.prtUcown1 (1 : Fin 4)) 0 |>.wf (pctl (Dev.sbPage (1 : Fin 4) (2 : Fin 3)))
     F.ctlEnable 1 |>.setN (Dev.sbReg (1 : Fin 4) (2 : Fin 3) 0x80) 0 |>.setN (Dev.sbRptr (1 : Fin 4) (2 : Fin 3)) 0 |>.setN (Dev.sbWptr (1 : Fin
     4) (2 : Fin 3)) 12 |>.sramPut (Dev.sbArea (1 : Fin 4) + 0xA000 + 0x400 * (2 : Fin 3) + 0) 0x10010003 |>.sramPut (Dev.sbArea (1 : Fin 4) +
     0xA000 + 0x400 * (2 : Fin 3) + 4) 0x5 |>.sramPut (Dev.sbArea (1 : Fin 4) + 0xA000 + 0x400 * (2 : Fin 3) + 8) 0x9 |>.putSb (1 : Fin 4) (2 : Fin
     3) { Sb.reset with busy := true }) : Dev)) ready), by decide +kernel⟩,
   ⟨3, 0, at_ ((fun (d : Dev) => (((((List.range 6).foldl (fun (d : Dev) u => d.wf (R.uchDrvStat (16 * (3 : Fin 4) + u)) F.uchDrvStatReady 1)
     (d)).setN (R.prtUcown0 (3 : Fin 4)) 0x765432 |>.setN (R.prtUcown1 (3 : Fin 4)) 0 |>.wf (pctl (Dev.sbPage (3 : Fin 4) (0 : Fin 4))) F.ctlEnable
     1 |>.setN (Dev.sbReg (3 : Fin 4) (0 : Fin 4) 0x80) 0 |>.setN (Dev.sbRptr (3 : Fin 4) (0 : Fin 4)) 0)).wf (R.uchDrvStat (16 * (3 : Fin 4)))
     F.uchDrvStatReady 0 |>.wf (R.uchDrvStat (16 * (3 : Fin 4) + 1)) F.uchDrvStatReady 0 : Dev)) ready), by decide +kernel⟩,
   ⟨3, 1, at_ ((fun (d : Dev) => (((((List.range 6).foldl (fun (d : Dev) u => d.wf (R.uchDrvStat (16 * (3 : Fin 4) + u)) F.uchDrvStatReady 1)
     (d)).setN (R.prtUcown0 (3 : Fin 4)) 0x765432 |>.setN (R.prtUcown1 (3 : Fin 4)) 0 |>.wf (pctl (Dev.sbPage (3 : Fin 4) (1 : Fin 4))) F.ctlEnable
     1 |>.setN (Dev.sbReg (3 : Fin 4) (1 : Fin 4) 0x80) 0 |>.setN (Dev.sbRptr (3 : Fin 4) (1 : Fin 4)) 0 |>.setN (Dev.sbWptr (3 : Fin 4) (1 : Fin
     4)) 12 |>.sramPut (Dev.sbArea (3 : Fin 4) + 0xA000 + 0x400 * (1 : Fin 4) + 0) 0x10020003 |>.sramPut (Dev.sbArea (3 : Fin 4) + 0xA000 + 0x400 *
     (1 : Fin 4) + 4) 0x50 |>.sramPut (Dev.sbArea (3 : Fin 4) + 0xA000 + 0x400 * (1 : Fin 4) + 8) 0x201 |>.putSb (3 : Fin 4) (1 : Fin 4)
     { Sb.reset with busy := true })).wf (R.uchDrvStat (16 * (3 : Fin 4))) F.uchDrvStatReady 0 |>.wf (R.uchDrvStat (16 * (3 : Fin 4) + 1))
     F.uchDrvStatReady 0 : Dev)) ready), by decide +kernel⟩⟩

theorem test_witness_CecAndDdcMessagesEndInRecords :
    (∃ (p : Fin 4) (s : State), s.dev.working p 0 1 = true ∧ (s.dev.sbOf p 0).run = true) ∧
    (∃ (p : Fin 4) (status : Nat) (s : State), s.dev.working p 0 1 = true ∧ (s.dev.sbOf p 0).run = true ∧ status ∈ [1, 3, 4, 8] ∧ (s.dev.sbOf p
      0).att ≤ s.dev.rf (R.cecCfg p) F.cecCfgRetry) ∧
    (∃ (p : Fin 4) (s : State), s.dev.working p 0 1 = true ∧ (s.dev.sbOf p 0).run = false) ∧
    (∃ (p : Fin 4) (hdr : Nat) (l : List Nat) (s : State), s.dev.sbLive p 0 = true ∧ s.dev.ringRoom p 0 = true ∧ s.dev.sbRole p 0 = 0 ∧ hdr % 16 ≠
      15 ∧ l.length < 16 ∧ s.dev.cecEmulated p (hdr % 16) = true) ∧
    (∃ (p : Fin 4) (hdr : Nat) (l : List Nat) (s : State), s.dev.sbLive p 0 = true ∧ s.dev.ringRoom p 0 = true ∧ s.dev.sbRole p 0 = 0 ∧ hdr % 16 ≠
      15 ∧ l.length < 16 ∧ s.dev.cecEmulated p (hdr % 16) = false) ∧
    (∃ (p : Fin 4) (s : State), s.dev.working p 1 1 = true) ∧
    (∃ (p : Fin 4) (s : State), s.dev.working p 1 2 = true ∧ 0 < (s.dev.sbCmd p 1).rdlen 1) ∧
    (∃ (p : Fin 4) (s : State), s.dev.working p 1 3 = true ∧ 0 < (s.dev.sbCmd p 1).rdlen 1) ∧
    (∃ (p : Fin 4) (losses : Nat) (s : State), s.dev.working p 1 1 = true ∧ s.dev.rf (R.ddcCfg p) F.ddcCfgRetry < losses) ∧
    (∃ (p : Fin 4) (op : Nat) (s : State), s.dev.working p 1 op = true) ∧
    (∃ (p : Fin 4) (l : List Nat) (s : State), s.dev.sbLive p 1 = true ∧ s.dev.ringRoom p 1 = true ∧ l.length ≤ 256 ∧ s.dev.sbRole p 1 = 1) ∧
    (∃ (p : Fin 4) (ab : Nat) (l : List Nat) (n : Fin 8) (s : State), s.dev.sbLive p 1 = true ∧ s.dev.ringRoom p 1 = true ∧ l.length ≤ 256 ∧
      s.dev.sbRole p 1 = 0 ∧ ab < 256 ∧ ab % 2 = 1 ∧ s.dev.respEntry p (ab / 2) = some n.val ∧ s.dev.rb (R.ddcRespCfg p n) F.ddcRespCfgHold = false
      ∧ ab ≠ 0x61) :=
  ⟨⟨2, at_ ((fun (d : Dev) => ((((List.range 6).foldl (fun (d : Dev) u => d.wf (R.uchDrvStat (16 * (2 : Fin 4) + u)) F.uchDrvStatReady 1) (d)).setN
     (R.prtUcown0 (2 : Fin 4)) 0x765432 |>.setN (R.prtUcown1 (2 : Fin 4)) 0 |>.wf (pctl (Dev.sbPage (2 : Fin 4) 0)) F.ctlEnable 1 |>.setN
     (Dev.sbReg (2 : Fin 4) 0 0x80) 0 |>.setN (Dev.sbRptr (2 : Fin 4) 0) 0 |>.setN (Dev.sbWptr (2 : Fin 4) 0) 12 |>.sramPut (Dev.sbArea (2 : Fin 4)
     + 0xA000 + 0x400 * 0 + 0) 0x14020077 |>.sramPut (Dev.sbArea (2 : Fin 4) + 0xA000 + 0x400 * 0 + 4) 0x5 |>.sramPut (Dev.sbArea (2 : Fin 4) +
     0xA000 + 0x400 * 0 + 8) 0x809 |>.putSb (2 : Fin 4) 0 { Sb.reset with busy := true, run := true, att := 1 }) : Dev)) ready), by decide +kernel⟩,
   ⟨2, 3, at_ ((fun (d : Dev) => (((((List.range 6).foldl (fun (d : Dev) u => d.wf (R.uchDrvStat (16 * (2 : Fin 4) + u)) F.uchDrvStatReady 1)
     (d)).setN (R.prtUcown0 (2 : Fin 4)) 0x765432 |>.setN (R.prtUcown1 (2 : Fin 4)) 0 |>.wf (pctl (Dev.sbPage (2 : Fin 4) 0)) F.ctlEnable 1 |>.setN
     (Dev.sbReg (2 : Fin 4) 0 0x80) 0 |>.setN (Dev.sbRptr (2 : Fin 4) 0) 0 |>.setN (Dev.sbWptr (2 : Fin 4) 0) 12 |>.sramPut (Dev.sbArea (2 : Fin 4)
     + 0xA000 + 0x400 * 0 + 0) 0x14020077 |>.sramPut (Dev.sbArea (2 : Fin 4) + 0xA000 + 0x400 * 0 + 4) 0x5 |>.sramPut (Dev.sbArea (2 : Fin 4) +
     0xA000 + 0x400 * 0 + 8) 0x809 |>.putSb (2 : Fin 4) 0 { Sb.reset with busy := true, run := true, att := 1 })).wf (R.cecCfg (2 : Fin 4))
     F.cecCfgRetry 3 : Dev)) ready), by decide +kernel⟩,
   ⟨2, at_ ((fun (d : Dev) => ((((List.range 6).foldl (fun (d : Dev) u => d.wf (R.uchDrvStat (16 * (2 : Fin 4) + u)) F.uchDrvStatReady 1) (d)).setN
     (R.prtUcown0 (2 : Fin 4)) 0x765432 |>.setN (R.prtUcown1 (2 : Fin 4)) 0 |>.wf (pctl (Dev.sbPage (2 : Fin 4) 0)) F.ctlEnable 1 |>.setN
     (Dev.sbReg (2 : Fin 4) 0 0x80) 0 |>.setN (Dev.sbRptr (2 : Fin 4) 0) 0 |>.setN (Dev.sbWptr (2 : Fin 4) 0) 12 |>.sramPut (Dev.sbArea (2 : Fin 4)
     + 0xA000 + 0x400 * 0 + 0) 0x14020077 |>.sramPut (Dev.sbArea (2 : Fin 4) + 0xA000 + 0x400 * 0 + 4) 0x5 |>.sramPut (Dev.sbArea (2 : Fin 4) +
     0xA000 + 0x400 * 0 + 8) 0x809 |>.putSb (2 : Fin 4) 0 { Sb.reset with busy := true }) : Dev)) ready), by decide +kernel⟩,
   ⟨1, 0x4F0, [0x83], at_ ((fun (d : Dev) => (((((List.range 6).foldl (fun (d : Dev) u => d.wf (R.uchDrvStat (16 * (1 : Fin 4) + u))
     F.uchDrvStatReady 1) (d)).setN (R.prtUcown0 (1 : Fin 4)) 0x765432 |>.setN (R.prtUcown1 (1 : Fin 4)) 0 |>.wf (pctl (Dev.sbPage (1 : Fin 4) 0))
     F.ctlEnable 1 |>.setN (Dev.sbReg (1 : Fin 4) 0 0x80) 0 |>.setN (Dev.sbRptr (1 : Fin 4) 0) 0)).setN (R.cecLa (1 : Fin 4)) 0x10000 : Dev))
     ready), by decide +kernel⟩,
   ⟨1, 0x43, [0x83], at_ ((fun (d : Dev) => (((((List.range 6).foldl (fun (d : Dev) u => d.wf (R.uchDrvStat (16 * (1 : Fin 4) + u))
     F.uchDrvStatReady 1) (d)).setN (R.prtUcown0 (1 : Fin 4)) 0x765432 |>.setN (R.prtUcown1 (1 : Fin 4)) 0 |>.wf (pctl (Dev.sbPage (1 : Fin 4) 0))
     F.ctlEnable 1 |>.setN (Dev.sbReg (1 : Fin 4) 0 0x80) 0 |>.setN (Dev.sbRptr (1 : Fin 4) 0) 0)).setN (R.cecLa (1 : Fin 4)) 0x10000 : Dev))
     ready), by decide +kernel⟩,
   ⟨2, at_ ((fun (d : Dev) => ((((List.range 6).foldl (fun (d : Dev) u => d.wf (R.uchDrvStat (16 * (2 : Fin 4) + u)) F.uchDrvStatReady 1) (d)).setN
     (R.prtUcown0 (2 : Fin 4)) 0x765432 |>.setN (R.prtUcown1 (2 : Fin 4)) 0 |>.wf (pctl (Dev.sbPage (2 : Fin 4) 1)) F.ctlEnable 1 |>.setN
     (Dev.sbReg (2 : Fin 4) 1 0x80) 0 |>.setN (Dev.sbRptr (2 : Fin 4) 1) 0 |>.setN (Dev.sbWptr (2 : Fin 4) 1) 12 |>.sramPut (Dev.sbArea (2 : Fin 4)
     + 0xA000 + 0x400 * 1 + 0) 0x10020077 |>.sramPut (Dev.sbArea (2 : Fin 4) + 0xA000 + 0x400 * 1 + 4) 0x10450 |>.sramPut (Dev.sbArea (2 : Fin 4) +
     0xA000 + 0x400 * 1 + 8) 0x809 |>.putSb (2 : Fin 4) 1 { Sb.reset with busy := true }) : Dev)) ready), by decide +kernel⟩,
   ⟨2, at_ ((fun (d : Dev) => ((((List.range 6).foldl (fun (d : Dev) u => d.wf (R.uchDrvStat (16 * (2 : Fin 4) + u)) F.uchDrvStatReady 1) (d)).setN
     (R.prtUcown0 (2 : Fin 4)) 0x765432 |>.setN (R.prtUcown1 (2 : Fin 4)) 0 |>.wf (pctl (Dev.sbPage (2 : Fin 4) 1)) F.ctlEnable 1 |>.setN
     (Dev.sbReg (2 : Fin 4) 1 0x80) 0 |>.setN (Dev.sbRptr (2 : Fin 4) 1) 0 |>.setN (Dev.sbWptr (2 : Fin 4) 1) 8 |>.sramPut (Dev.sbArea (2 : Fin 4)
     + 0xA000 + 0x400 * 1 + 0) 0x20000077 |>.sramPut (Dev.sbArea (2 : Fin 4) + 0xA000 + 0x400 * 1 + 4) 0x1000050 |>.putSb (2 : Fin 4) 1
     { Sb.reset with busy := true }) : Dev)) ready), by decide +kernel⟩,
   ⟨2, at_ ((fun (d : Dev) => ((((List.range 6).foldl (fun (d : Dev) u => d.wf (R.uchDrvStat (16 * (2 : Fin 4) + u)) F.uchDrvStatReady 1) (d)).setN
     (R.prtUcown0 (2 : Fin 4)) 0x765432 |>.setN (R.prtUcown1 (2 : Fin 4)) 0 |>.wf (pctl (Dev.sbPage (2 : Fin 4) 1)) F.ctlEnable 1 |>.setN
     (Dev.sbReg (2 : Fin 4) 1 0x80) 0 |>.setN (Dev.sbRptr (2 : Fin 4) 1) 0 |>.setN (Dev.sbWptr (2 : Fin 4) 1) 12 |>.sramPut (Dev.sbArea (2 : Fin 4)
     + 0xA000 + 0x400 * 1 + 0) 0x30010077 |>.sramPut (Dev.sbArea (2 : Fin 4) + 0xA000 + 0x400 * 1 + 4) 0x1000050 |>.sramPut (Dev.sbArea (2 : Fin 4)
     + 0xA000 + 0x400 * 1 + 8) 0x4 |>.putSb (2 : Fin 4) 1 { Sb.reset with busy := true }) : Dev)) ready), by decide +kernel⟩,
   ⟨2, 200, at_ ((fun (d : Dev) => (((((List.range 6).foldl (fun (d : Dev) u => d.wf (R.uchDrvStat (16 * (2 : Fin 4) + u)) F.uchDrvStatReady 1)
     (d)).setN (R.prtUcown0 (2 : Fin 4)) 0x765432 |>.setN (R.prtUcown1 (2 : Fin 4)) 0 |>.wf (pctl (Dev.sbPage (2 : Fin 4) 1)) F.ctlEnable 1 |>.setN
     (Dev.sbReg (2 : Fin 4) 1 0x80) 0 |>.setN (Dev.sbRptr (2 : Fin 4) 1) 0 |>.setN (Dev.sbWptr (2 : Fin 4) 1) 12 |>.sramPut (Dev.sbArea (2 : Fin 4)
     + 0xA000 + 0x400 * 1 + 0) 0x10020077 |>.sramPut (Dev.sbArea (2 : Fin 4) + 0xA000 + 0x400 * 1 + 4) 0x10450 |>.sramPut (Dev.sbArea (2 : Fin 4) +
     0xA000 + 0x400 * 1 + 8) 0x809 |>.putSb (2 : Fin 4) 1 { Sb.reset with busy := true })).wf (R.ddcCfg (2 : Fin 4)) F.ddcCfgRetry 2 : Dev))
     ready), by decide +kernel⟩,
   ⟨2, 1, at_ ((fun (d : Dev) => ((((List.range 6).foldl (fun (d : Dev) u => d.wf (R.uchDrvStat (16 * (2 : Fin 4) + u)) F.uchDrvStatReady 1)
     (d)).setN (R.prtUcown0 (2 : Fin 4)) 0x765432 |>.setN (R.prtUcown1 (2 : Fin 4)) 0 |>.wf (pctl (Dev.sbPage (2 : Fin 4) 1)) F.ctlEnable 1 |>.setN
     (Dev.sbReg (2 : Fin 4) 1 0x80) 0 |>.setN (Dev.sbRptr (2 : Fin 4) 1) 0 |>.setN (Dev.sbWptr (2 : Fin 4) 1) 12 |>.sramPut (Dev.sbArea (2 : Fin 4)
     + 0xA000 + 0x400 * 1 + 0) 0x10020077 |>.sramPut (Dev.sbArea (2 : Fin 4) + 0xA000 + 0x400 * 1 + 4) 0x10450 |>.sramPut (Dev.sbArea (2 : Fin 4) +
     0xA000 + 0x400 * 1 + 8) 0x809 |>.putSb (2 : Fin 4) 1 { Sb.reset with busy := true }) : Dev)) ready), by decide +kernel⟩,
   ⟨0, [0], at_ ((fun (d : Dev) => (((((List.range 6).foldl (fun (d : Dev) u => d.wf (R.uchDrvStat (16 * (0 : Fin 4) + u)) F.uchDrvStatReady 1)
     (d)).setN (R.prtUcown0 (0 : Fin 4)) 0x765432 |>.setN (R.prtUcown1 (0 : Fin 4)) 0 |>.wf (pctl (Dev.sbPage (0 : Fin 4) 1)) F.ctlEnable 1 |>.setN
     (Dev.sbReg (0 : Fin 4) 1 0x80) 0 |>.setN (Dev.sbRptr (0 : Fin 4) 1) 0)).setN (Dev.sbReg (0 : Fin 4) 1 0x80) 1 : Dev)) ready),
     by decide +kernel⟩,
   ⟨0, 0xA1, [0, 0, 0], 3, at_ ((fun (d : Dev) => (((((List.range 6).foldl (fun (d : Dev) u => d.wf (R.uchDrvStat (16 * (0 : Fin 4) + u))
     F.uchDrvStatReady 1) (d)).setN (R.prtUcown0 (0 : Fin 4)) 0x765432 |>.setN (R.prtUcown1 (0 : Fin 4)) 0 |>.wf (pctl (Dev.sbPage (0 : Fin 4) 1))
     F.ctlEnable 1 |>.setN (Dev.sbReg (0 : Fin 4) 1 0x80) 0 |>.setN (Dev.sbRptr (0 : Fin 4) 1) 0)).wf (R.ddcRespCfg (0 : Fin 4) 3) F.ddcRespCfgEn 1
     |>.wf (R.ddcRespCfg (0 : Fin 4) 3) F.ddcRespCfgAddr 0x50 |>.wf (R.ddcRespCfg (0 : Fin 4) 3) F.ddcRespCfgSize 1 |>.sramPut (Dev.sbArea (0 : Fin
     4)) 0x445566 : Dev)) ready), by decide +kernel⟩⟩

theorem test_witness_AuxTransactionsEndInRecords :
    (∃ (p : Fin 4) (s : State), s.dev.working p 2 1 = true ∧ (s.dev.sbOf p 2).run = false ∧ (s.dev.sbOf p 2).wait = false) ∧
    (∃ (p : Fin 4) (s : State), s.dev.working p 2 2 = true ∧ (s.dev.sbOf p 2).run = false ∧ (s.dev.sbOf p 2).wait = false) ∧
    (∃ (p : Fin 4) (s : State), s.dev.working p 2 3 = true ∧ (s.dev.sbOf p 2).run = false ∧ (s.dev.sbOf p 2).wait = false) ∧
    (∃ (p : Fin 4) (s : State), s.dev.working p 2 4 = true ∧ (s.dev.sbOf p 2).run = false ∧ (s.dev.sbOf p 2).wait = false) ∧
    (∃ (p : Fin 4) (op comm : Nat) (s : State), s.dev.working p 2 op = true ∧ (s.dev.sbOf p 2).run = true ∧ s.dev.sbRole p 2 = 0 ∧ op ≤ 2 ∧ comm %
      4 ≠ 2) ∧
    (∃ (p : Fin 4) (op comm : Nat) (s : State), s.dev.working p 2 op = true ∧ (s.dev.sbOf p 2).run = true ∧ s.dev.sbRole p 2 = 0 ∧ op ≤ 2 ∧ comm %
      4 = 2 ∧ (s.dev.sbOf p 2).defers < s.dev.rf (R.auxCfg p) F.auxCfgDeferMax) ∧
    (∃ (p : Fin 4) (s : State), s.dev.sbLive p 2 = true ∧ (s.dev.sbOf p 2).wait = true) ∧
    (∃ (p : Fin 4) (op : Nat) (s : State), s.dev.working p 2 op = true ∧ (s.dev.sbOf p 2).run = true ∧ s.dev.sbRole p 2 = 0 ∧ (s.dev.sbOf p 2).att
      < s.dev.rf (R.auxCfg p) F.auxCfgRetry) ∧
    (∃ (p : Fin 4) (op : Nat) (s : State), s.dev.working p 2 op = true ∧ (s.dev.sbOf p 2).run = true ∧ s.dev.sbRole p 2 = 0 ∧ s.dev.rf (R.auxCfg p)
      F.auxCfgRetry ≤ (s.dev.sbOf p 2).att) ∧
    (∃ (p : Fin 4) (addr len : Nat) (n : Nat) (s : State), s.dev.sbLive p 2 = true ∧ s.dev.ringRoom p 2 = true ∧ s.dev.sbRole p 2 = 1 ∧ addr < 2 ^
      20 ∧ 1 ≤ len ∧ len ≤ 16 ∧ s.dev.auxWindow p addr len = some n ∧ s.dev.rf (R.auxWinA p n) F.auxWinAPol = 0) ∧
    (∃ (p : Fin 4) (comm : Nat) (s : State), s.dev.sbLive p 2 = true ∧ s.dev.sbRole p 2 = 2 ∧ comm < 16) ∧
    (∃ (p : Fin 4) (data : List Nat) (s : State), s.dev.sbLive p 2 = true ∧ s.dev.ringRoom p 2 = true ∧ s.dev.sbRole p 2 ≠ 0 ∧ data.length ≤ 256) ∧
    (∃ (path : Fin 7) (p : Fin 4) (w : Word) (s : State), s.dev.takes path (R.auxRelease p) w.toNat = true ∧ nbit w.toNat 0 = true) :=
  ⟨⟨1, at_ ((fun (d : Dev) => ((((List.range 6).foldl (fun (d : Dev) u => d.wf (R.uchDrvStat (16 * (1 : Fin 4) + u)) F.uchDrvStatReady 1) (d)).setN
     (R.prtUcown0 (1 : Fin 4)) 0x765432 |>.setN (R.prtUcown1 (1 : Fin 4)) 0 |>.wf (pctl (Dev.sbPage (1 : Fin 4) 2)) F.ctlEnable 1 |>.setN
     (Dev.sbReg (1 : Fin 4) 2 0x80) 0 |>.setN (Dev.sbRptr (1 : Fin 4) 2) 0 |>.setN (Dev.sbWptr (1 : Fin 4) 2) 12 |>.sramPut (Dev.sbArea (1 : Fin 4)
     + 0xA000 + 0x400 * 2 + 0) 0x10010003 |>.sramPut (Dev.sbArea (1 : Fin 4) + 0xA000 + 0x400 * 2 + 4) 0x5000202 |>.sramPut (Dev.sbArea (1 : Fin 4)
     + 0xA000 + 0x400 * 2 + 8) 0x9 |>.putSb (1 : Fin 4) 2 { Sb.reset with busy := true }) : Dev)) ready), by decide +kernel⟩,
   ⟨1, at_ ((fun (d : Dev) => ((((List.range 6).foldl (fun (d : Dev) u => d.wf (R.uchDrvStat (16 * (1 : Fin 4) + u)) F.uchDrvStatReady 1) (d)).setN
     (R.prtUcown0 (1 : Fin 4)) 0x765432 |>.setN (R.prtUcown1 (1 : Fin 4)) 0 |>.wf (pctl (Dev.sbPage (1 : Fin 4) 2)) F.ctlEnable 1 |>.setN
     (Dev.sbReg (1 : Fin 4) 2 0x80) 0 |>.setN (Dev.sbRptr (1 : Fin 4) 2) 0 |>.setN (Dev.sbWptr (1 : Fin 4) 2) 8 |>.sramPut (Dev.sbArea (1 : Fin 4)
     + 0xA000 + 0x400 * 2 + 0) 0x20000003 |>.sramPut (Dev.sbArea (1 : Fin 4) + 0xA000 + 0x400 * 2 + 4) 0x5000202 |>.putSb (1 : Fin 4) 2
     { Sb.reset with busy := true }) : Dev)) ready), by decide +kernel⟩,
   ⟨1, at_ ((fun (d : Dev) => ((((List.range 6).foldl (fun (d : Dev) u => d.wf (R.uchDrvStat (16 * (1 : Fin 4) + u)) F.uchDrvStatReady 1) (d)).setN
     (R.prtUcown0 (1 : Fin 4)) 0x765432 |>.setN (R.prtUcown1 (1 : Fin 4)) 0 |>.wf (pctl (Dev.sbPage (1 : Fin 4) 2)) F.ctlEnable 1 |>.setN
     (Dev.sbReg (1 : Fin 4) 2 0x80) 0 |>.setN (Dev.sbRptr (1 : Fin 4) 2) 0 |>.setN (Dev.sbWptr (1 : Fin 4) 2) 12 |>.sramPut (Dev.sbArea (1 : Fin 4)
     + 0xA000 + 0x400 * 2 + 0) 0x30010003 |>.sramPut (Dev.sbArea (1 : Fin 4) + 0xA000 + 0x400 * 2 + 4) 0x5000202 |>.sramPut (Dev.sbArea (1 : Fin 4)
     + 0xA000 + 0x400 * 2 + 8) 0x9 |>.putSb (1 : Fin 4) 2 { Sb.reset with busy := true }) : Dev)) ready), by decide +kernel⟩,
   ⟨1, at_ ((fun (d : Dev) => ((((List.range 6).foldl (fun (d : Dev) u => d.wf (R.uchDrvStat (16 * (1 : Fin 4) + u)) F.uchDrvStatReady 1) (d)).setN
     (R.prtUcown0 (1 : Fin 4)) 0x765432 |>.setN (R.prtUcown1 (1 : Fin 4)) 0 |>.wf (pctl (Dev.sbPage (1 : Fin 4) 2)) F.ctlEnable 1 |>.setN
     (Dev.sbReg (1 : Fin 4) 2 0x80) 0 |>.setN (Dev.sbRptr (1 : Fin 4) 2) 0 |>.setN (Dev.sbWptr (1 : Fin 4) 2) 8 |>.sramPut (Dev.sbArea (1 : Fin 4)
     + 0xA000 + 0x400 * 2 + 0) 0x40000003 |>.sramPut (Dev.sbArea (1 : Fin 4) + 0xA000 + 0x400 * 2 + 4) 0x5000202 |>.putSb (1 : Fin 4) 2
     { Sb.reset with busy := true }) : Dev)) ready), by decide +kernel⟩,
   ⟨3, 2, 0, at_ ((fun (d : Dev) => ((((List.range 6).foldl (fun (d : Dev) u => d.wf (R.uchDrvStat (16 * (3 : Fin 4) + u)) F.uchDrvStatReady 1)
     (d)).setN (R.prtUcown0 (3 : Fin 4)) 0x765432 |>.setN (R.prtUcown1 (3 : Fin 4)) 0 |>.wf (pctl (Dev.sbPage (3 : Fin 4) 2)) F.ctlEnable 1 |>.setN
     (Dev.sbReg (3 : Fin 4) 2 0x80) 0 |>.setN (Dev.sbRptr (3 : Fin 4) 2) 0 |>.setN (Dev.sbWptr (3 : Fin 4) 2) 8 |>.sramPut (Dev.sbArea (3 : Fin 4)
     + 0xA000 + 0x400 * 2 + 0) 0x20000003 |>.sramPut (Dev.sbArea (3 : Fin 4) + 0xA000 + 0x400 * 2 + 4) 0x5000202 |>.putSb (3 : Fin 4) 2
     { Sb.reset with busy := true, run := true, t := 44, att := 1 }) : Dev)) ready), by decide +kernel⟩,
   ⟨3, 2, 2, at_ ((fun (d : Dev) => (((((List.range 6).foldl (fun (d : Dev) u => d.wf (R.uchDrvStat (16 * (3 : Fin 4) + u)) F.uchDrvStatReady 1)
     (d)).setN (R.prtUcown0 (3 : Fin 4)) 0x765432 |>.setN (R.prtUcown1 (3 : Fin 4)) 0 |>.wf (pctl (Dev.sbPage (3 : Fin 4) 2)) F.ctlEnable 1 |>.setN
     (Dev.sbReg (3 : Fin 4) 2 0x80) 0 |>.setN (Dev.sbRptr (3 : Fin 4) 2) 0 |>.setN (Dev.sbWptr (3 : Fin 4) 2) 8 |>.sramPut (Dev.sbArea (3 : Fin 4)
     + 0xA000 + 0x400 * 2 + 0) 0x20000003 |>.sramPut (Dev.sbArea (3 : Fin 4) + 0xA000 + 0x400 * 2 + 4) 0x5000202 |>.putSb (3 : Fin 4) 2
     { Sb.reset with busy := true, run := true, t := 44, att := 1 })).wf (R.auxCfg (3 : Fin 4)) F.auxCfgDeferMax 3 : Dev)) ready),
     by decide +kernel⟩,
   ⟨3, at_ ((fun (d : Dev) => ((((List.range 6).foldl (fun (d : Dev) u => d.wf (R.uchDrvStat (16 * (3 : Fin 4) + u)) F.uchDrvStatReady 1) (d)).setN
     (R.prtUcown0 (3 : Fin 4)) 0x765432 |>.setN (R.prtUcown1 (3 : Fin 4)) 0 |>.wf (pctl (Dev.sbPage (3 : Fin 4) 2)) F.ctlEnable 1 |>.setN
     (Dev.sbReg (3 : Fin 4) 2 0x80) 0 |>.setN (Dev.sbRptr (3 : Fin 4) 2) 0 |>.setN (Dev.sbWptr (3 : Fin 4) 2) 8 |>.sramPut (Dev.sbArea (3 : Fin 4)
     + 0xA000 + 0x400 * 2 + 0) 0x20000003 |>.sramPut (Dev.sbArea (3 : Fin 4) + 0xA000 + 0x400 * 2 + 4) 0x5000202 |>.putSb (3 : Fin 4) 2
     { Sb.reset with busy := true, wait := true }) : Dev)) ready), by decide +kernel⟩,
   ⟨3, 2, at_ ((fun (d : Dev) => (((((List.range 6).foldl (fun (d : Dev) u => d.wf (R.uchDrvStat (16 * (3 : Fin 4) + u)) F.uchDrvStatReady 1)
     (d)).setN (R.prtUcown0 (3 : Fin 4)) 0x765432 |>.setN (R.prtUcown1 (3 : Fin 4)) 0 |>.wf (pctl (Dev.sbPage (3 : Fin 4) 2)) F.ctlEnable 1 |>.setN
     (Dev.sbReg (3 : Fin 4) 2 0x80) 0 |>.setN (Dev.sbRptr (3 : Fin 4) 2) 0 |>.setN (Dev.sbWptr (3 : Fin 4) 2) 8 |>.sramPut (Dev.sbArea (3 : Fin 4)
     + 0xA000 + 0x400 * 2 + 0) 0x20000003 |>.sramPut (Dev.sbArea (3 : Fin 4) + 0xA000 + 0x400 * 2 + 4) 0x5000202 |>.putSb (3 : Fin 4) 2
     { Sb.reset with busy := true, run := true, t := 44, att := 1 })).wf (R.auxCfg (3 : Fin 4)) F.auxCfgRetry 3 : Dev)) ready), by decide +kernel⟩,
   ⟨3, 2, at_ ((fun (d : Dev) => ((((List.range 6).foldl (fun (d : Dev) u => d.wf (R.uchDrvStat (16 * (3 : Fin 4) + u)) F.uchDrvStatReady 1)
     (d)).setN (R.prtUcown0 (3 : Fin 4)) 0x765432 |>.setN (R.prtUcown1 (3 : Fin 4)) 0 |>.wf (pctl (Dev.sbPage (3 : Fin 4) 2)) F.ctlEnable 1 |>.setN
     (Dev.sbReg (3 : Fin 4) 2 0x80) 0 |>.setN (Dev.sbRptr (3 : Fin 4) 2) 0 |>.setN (Dev.sbWptr (3 : Fin 4) 2) 8 |>.sramPut (Dev.sbArea (3 : Fin 4)
     + 0xA000 + 0x400 * 2 + 0) 0x20000003 |>.sramPut (Dev.sbArea (3 : Fin 4) + 0xA000 + 0x400 * 2 + 4) 0x5000202 |>.putSb (3 : Fin 4) 2
     { Sb.reset with busy := true, run := true, t := 44, att := 1 }) : Dev)) ready), by decide +kernel⟩,
   ⟨2, 0x202, 2, 1, at_ ((fun (d : Dev) => (((((List.range 6).foldl (fun (d : Dev) u => d.wf (R.uchDrvStat (16 * (2 : Fin 4) + u))
     F.uchDrvStatReady 1) (d)).setN (R.prtUcown0 (2 : Fin 4)) 0x765432 |>.setN (R.prtUcown1 (2 : Fin 4)) 0 |>.wf (pctl (Dev.sbPage (2 : Fin 4) 2))
     F.ctlEnable 1 |>.setN (Dev.sbReg (2 : Fin 4) 2 0x80) 0 |>.setN (Dev.sbRptr (2 : Fin 4) 2) 0)).wf (R.auxCfg (2 : Fin 4)) F.auxCfgRole 1 |>.wf
     (R.auxWinA (2 : Fin 4) 1) F.auxWinAEn 1 |>.wf (R.auxWinA (2 : Fin 4) 1) F.auxWinAPol 0 |>.wf (R.auxWinA (2 : Fin 4) 1) F.auxWinAStart 0x200
     |>.wf (R.auxWinB (2 : Fin 4) 1) F.auxWinBLen 16 |>.wf (R.auxWinA (2 : Fin 4) 0) F.auxWinAEn 0 |>.sramPut (Dev.sbArea (2 : Fin 4) + 0x8002)
     0x1122 : Dev)) ready), by decide +kernel⟩,
   ⟨2, 9, at_ ((fun (d : Dev) => (((((List.range 6).foldl (fun (d : Dev) u => d.wf (R.uchDrvStat (16 * (2 : Fin 4) + u)) F.uchDrvStatReady 1)
     (d)).setN (R.prtUcown0 (2 : Fin 4)) 0x765432 |>.setN (R.prtUcown1 (2 : Fin 4)) 0 |>.wf (pctl (Dev.sbPage (2 : Fin 4) 2)) F.ctlEnable 1 |>.setN
     (Dev.sbReg (2 : Fin 4) 2 0x80) 0 |>.setN (Dev.sbRptr (2 : Fin 4) 2) 0)).wf (R.auxCfg (2 : Fin 4)) F.auxCfgRole 2 : Dev)) ready),
     by decide +kernel⟩,
   ⟨2, [7], at_ ((fun (d : Dev) => (((((List.range 6).foldl (fun (d : Dev) u => d.wf (R.uchDrvStat (16 * (2 : Fin 4) + u)) F.uchDrvStatReady 1)
     (d)).setN (R.prtUcown0 (2 : Fin 4)) 0x765432 |>.setN (R.prtUcown1 (2 : Fin 4)) 0 |>.wf (pctl (Dev.sbPage (2 : Fin 4) 2)) F.ctlEnable 1 |>.setN
     (Dev.sbReg (2 : Fin 4) 2 0x80) 0 |>.setN (Dev.sbRptr (2 : Fin 4) 2) 0)).wf (R.auxCfg (2 : Fin 4)) F.auxCfgRole 1 : Dev)) ready),
     by decide +kernel⟩,
   ⟨0, 2, 1#32, at_ ((fun (d : Dev) => (d.wf (R.auxHostreq (2 : Fin 4)) F.auxHostreqPending 1 : Dev)) ready), by decide +kernel⟩⟩

theorem test_witness_HpdLinesAreDrivenAndSensed :
    (∃ (path : Fin 7) (p : Fin 4) (w : Word) (s : State), s.dev.takes path (R.hpdCtrl p) w.toNat = true ∧ nbit w.toNat 31 = false ∧ s.dev.hpdDrives
      p = true ∧ (s.dev.sbOf p 3).pulse = none ∧ (s.dev.sbOf p 3).line ≠ decide (fget w F.hpdCtrlLevel = 1) ∧ s.dev.ringRoom p 3 = true) ∧
    (∃ (path : Fin 7) (p : Fin 4) (w : Word) (s : State), s.dev.takes path (R.hpdCtrl p) w.toNat = true ∧ nbit w.toNat 31 = true ∧ s.dev.hpdDrives
      p = true) ∧
    (∃ (p : Fin 4) (t0 : Nat) (s : State), (s.dev.sbOf p 3).pulse = some t0 ∧ s.dev.rb (R.hpdCtrl p) F.hpdCtrlLevel = true ∧ s.dev.ringRoom p 3 =
      true) ∧
    (∃ (p : Fin 4) (s : State), s.dev.sbLive p 3 = true ∧ s.dev.sbRole p 3 = 0 ∧ (s.dev.sbOf p 3).known = true ∧ (s.dev.sbOf p 3).line = true) ∧
    (∃ (p : Fin 4) (a t0 : Nat) (s : State), s.dev.sbLive p 3 = true ∧ s.dev.sbRole p 3 = 0 ∧ (s.dev.sbOf p 3).known = true ∧ (s.dev.sbOf p 3).line
      = false ∧ (s.dev.sbOf p 3).fall = some a ∧ (s.dev.sbOf p 3).unplugged = false ∧ ((t0 - a) / Dev.usTicks) < s.dev.rf (R.hpdLim p)
      F.hpdLimUnplug ∧ s.dev.ringRoom p 3 = true) ∧
    (∃ (p : Fin 4) (a : Nat) (s : State), s.dev.sbLive p 3 = true ∧ s.dev.sbRole p 3 = 0 ∧ (s.dev.sbOf p 3).fall = some a ∧ (s.dev.sbOf p
      3).unplugged = false ∧ s.dev.ringRoom p 3 = true) :=
  ⟨⟨0, 1, 0x101F4#32, at_ ((fun (d : Dev) => (((((List.range 6).foldl (fun (d : Dev) u => d.wf (R.uchDrvStat (16 * (1 : Fin 4) + u))
     F.uchDrvStatReady 1) (d)).setN (R.prtUcown0 (1 : Fin 4)) 0x765432 |>.setN (R.prtUcown1 (1 : Fin 4)) 0 |>.wf (pctl (Dev.sbPage (1 : Fin 4) 3))
     F.ctlEnable 1 |>.setN (Dev.sbReg (1 : Fin 4) 3 0x80) 0 |>.setN (Dev.sbRptr (1 : Fin 4) 3) 0)).setN (R.hpdCfg (1 : Fin 4)) 1 |>.putSb (1 : Fin
     4) 3 { Sb.reset with line := false } : Dev)) ready), by decide +kernel⟩,
   ⟨0, 1, 0x800101F4#32, at_ ((fun (d : Dev) => (((((List.range 6).foldl (fun (d : Dev) u => d.wf (R.uchDrvStat (16 * (1 : Fin 4) + u))
     F.uchDrvStatReady 1) (d)).setN (R.prtUcown0 (1 : Fin 4)) 0x765432 |>.setN (R.prtUcown1 (1 : Fin 4)) 0 |>.wf (pctl (Dev.sbPage (1 : Fin 4) 3))
     F.ctlEnable 1 |>.setN (Dev.sbReg (1 : Fin 4) 3 0x80) 0 |>.setN (Dev.sbRptr (1 : Fin 4) 3) 0)).setN (R.hpdCfg (1 : Fin 4)) 1 |>.putSb (1 : Fin
     4) 3 { Sb.reset with line := true } : Dev)) ready), by decide +kernel⟩,
   ⟨1, 66, at_ ((fun (d : Dev) => ((((((List.range 6).foldl (fun (d : Dev) u => d.wf (R.uchDrvStat (16 * (1 : Fin 4) + u)) F.uchDrvStatReady 1)
     (d)).setN (R.prtUcown0 (1 : Fin 4)) 0x765432 |>.setN (R.prtUcown1 (1 : Fin 4)) 0 |>.wf (pctl (Dev.sbPage (1 : Fin 4) 3)) F.ctlEnable 1 |>.setN
     (Dev.sbReg (1 : Fin 4) 3 0x80) 0 |>.setN (Dev.sbRptr (1 : Fin 4) 3) 0)).setN (R.hpdCfg (1 : Fin 4)) 1 |>.putSb (1 : Fin 4) 3
     { Sb.reset with line := false, pulse := some 66 }).wf (R.hpdCtrl (1 : Fin 4)) F.hpdCtrlLevel 1 : Dev)) ready), by decide +kernel⟩,
   ⟨0, at_ ((fun (d : Dev) => (((((List.range 6).foldl (fun (d : Dev) u => d.wf (R.uchDrvStat (16 * (0 : Fin 4) + u)) F.uchDrvStatReady 1)
     (d)).setN (R.prtUcown0 (0 : Fin 4)) 0x765432 |>.setN (R.prtUcown1 (0 : Fin 4)) 0 |>.wf (pctl (Dev.sbPage (0 : Fin 4) 3)) F.ctlEnable 1 |>.setN
     (Dev.sbReg (0 : Fin 4) 3 0x80) 0 |>.setN (Dev.sbRptr (0 : Fin 4) 3) 0)).setN (R.hpdCfg (0 : Fin 4)) 0x07D00000 |>.setN (R.hpdLim (0 : Fin 4))
     0x0FA000C8 |>.putSb (0 : Fin 4) 3 { Sb.reset with known := true, line := true } : Dev)) ready), by decide +kernel⟩,
   ⟨0, 60, 60 + 500 * Dev.usTicks, at_ ((fun (d : Dev) => (((((List.range 6).foldl (fun (d : Dev) u => d.wf (R.uchDrvStat (16 * (0 : Fin 4) + u))
     F.uchDrvStatReady 1) (d)).setN (R.prtUcown0 (0 : Fin 4)) 0x765432 |>.setN (R.prtUcown1 (0 : Fin 4)) 0 |>.wf (pctl (Dev.sbPage (0 : Fin 4) 3))
     F.ctlEnable 1 |>.setN (Dev.sbReg (0 : Fin 4) 3 0x80) 0 |>.setN (Dev.sbRptr (0 : Fin 4) 3) 0)).setN (R.hpdCfg (0 : Fin 4)) 0x07D00000 |>.setN
     (R.hpdLim (0 : Fin 4)) 0x0FA000C8 |>.putSb (0 : Fin 4) 3 { Sb.reset with known := true, line := false, fall := some 60 } : Dev)) ready),
     by decide +kernel⟩,
   ⟨0, 60, at_ ((fun (d : Dev) => (((((List.range 6).foldl (fun (d : Dev) u => d.wf (R.uchDrvStat (16 * (0 : Fin 4) + u)) F.uchDrvStatReady 1)
     (d)).setN (R.prtUcown0 (0 : Fin 4)) 0x765432 |>.setN (R.prtUcown1 (0 : Fin 4)) 0 |>.wf (pctl (Dev.sbPage (0 : Fin 4) 3)) F.ctlEnable 1 |>.setN
     (Dev.sbReg (0 : Fin 4) 3 0x80) 0 |>.setN (Dev.sbRptr (0 : Fin 4) 3) 0)).setN (R.hpdCfg (0 : Fin 4)) 0x07D00000 |>.setN (R.hpdLim (0 : Fin 4))
     0x0FA000C8 |>.putSb (0 : Fin 4) 3 { Sb.reset with known := true, line := false, fall := some 60 } : Dev)) ready), by decide +kernel⟩⟩

theorem test_witness_EventRegistersActOnTheirSources :
    (∃ (path : Fin 7) (page : Fin 1024) (k : PageKind) (i : Nat) (s : State), s.dev.lets path (page * 0x1000 + 0x14) = true ∧ pageOf page = some
      (k, i) ∧ hasEvents k = true ∧ (∀ j : Fin 64, j.val < (pageSources k i).2 → (s.dev.esrc ((pageSources k i).1 + j)).lastCyc ≠ s.dev.cycNo)) ∧
    (∃ (path : Fin 7) (page : Fin 1024) (k : PageKind) (i : Nat) (s : State), s.dev.lets path (page * 0x1000 + 0x1C) = true ∧ pageOf page = some
      (k, i) ∧ hasEvents k = true) ∧
    (∃ (path : Fin 7) (g : Fin 36) (k : Fin 32) (w : Word) (s : State), s.dev.takes path (R.evgCfg g k) w.toNat = true ∧ (srcBase (32 * g +
      k)).isSome = true ∧ srcFatal (32 * g + k) = false ∧ srcIsReact (32 * g + k) = false) :=
  ⟨⟨0, 0x200, .fch, 0, at_ ((fun (d : Dev) => ((d.setEsrc 0 { EvtSrc.reset 0 with sticky := true, esc := true }).setEsrc 1
     { EvtSrc.reset 1 with sticky := true, cond := true } : Dev)) ready), by decide +kernel⟩,
   ⟨0, 0x200, .fch, 0, at_ ready, by decide +kernel⟩,
   ⟨1, 0, 2, 0x3060000#32, at_ ready, by decide +kernel⟩⟩

theorem test_witness_FaultRecordsAreTakenAndCleared :
    (∃ (path : Fin 7) (w : Word) (s : State), s.dev.takes path R.evcFfClr w.toNat = true ∧ nbit w.toNat 0 = true ∧ (s.dev.rn R.evcFf1 + 2 ^ 32 *
      s.dev.rn R.evcFf2 + 2 ^ 64 * (s.dev.rn R.evcFf3 % 2 ^ 16)) / Dev.hclk + 1 ≠ s.dev.cycNo) ∧
    (∃ (x : FaultCand) (l : List FaultCand) (s : State), s.dev.evt.cands = x :: l ∧ 7 ≤ s.dev.boot.done ∧ s.dev.ledgerOk = true ∧
      s.dev.boot.keeperOn = true ∧ (s.dev.esrc x.src).lastRec = none ∧ s.dev.evt.capSec ≠ x.gtc / (1000000 * Dev.usTicks) ∧ s.dev.rf R.evcLedgerCfg
      F.evcLedgerCfgGcap ≠ 0) ∧
    (∃ (x : FaultCand) (l : List FaultCand) (n : Nat) (s : State), s.dev.evt.cands = x :: l ∧ 7 ≤ s.dev.boot.done ∧ s.dev.ledgerOk = true ∧
      s.dev.boot.keeperOn = true ∧ (s.dev.esrc x.src).lastRec = some n ∧ x.gtc < n + s.dev.rf R.evcLedgerCfg F.evcLedgerCfgHold * 1000 *
      Dev.usTicks) :=
  ⟨⟨0, 1#32, at_ ((fun (d : Dev) => (d.setN R.evcFf0 0x80000000 : Dev)) ready), by decide +kernel⟩,
   ⟨⟨3, 2, false, false, false, 0, 70000000⟩, [], at_ ((fun (d : Dev) =>
     (({ d with evt := { d.evt with cands := [⟨3, 2, false, false, false, 0, 70000000⟩], capSec := 5 } }).wf R.bootDegraded F.bootDegradedLedger 0
     |>.wf R.evcLedgerCfg F.evcLedgerCfgGcap 3 : Dev)) ready), by decide +kernel⟩,
   ⟨⟨3, 2, false, false, false, 0, 70000000⟩, [], 60000000, at_ ((fun (d : Dev) =>
     ((({ d with evt := { d.evt with cands := [⟨3, 2, false, false, false, 0, 70000000⟩] } }).setEsrc 3
     { EvtSrc.reset 3 with lastRec := some 60000000 }).wf R.bootDegraded F.bootDegradedLedger 0 |>.wf R.evcLedgerCfg F.evcLedgerCfgHold 3 : Dev))
     ready), by decide +kernel⟩⟩

theorem test_witness_DramErrorsAreCorrectedLoggedAndPoisoned :
    (∃ (a c : Nat) (x : LinePos) (devs : List Nat) (s : State), s.dev.mcPlace (a / 64 * 64) = some (c, x) ∧ (s.dev.mcOf c).poison.contains (a / 64
      * 64) = false ∧ s.dev.dramNoinit (a / 64 * 64) 64 = false ∧ s.dev.rf (R.mcEccCfg c) ⟨16 + 4 * (2 * x.rank + x.sc) + 3, 16 + 4 * (2 * x.rank +
      x.sc)⟩ < 8 ∧ 1 ≤ ((List.range 5).map (fun i => min 16 ((devs[i]?).getD 0))).sum ∧ ((List.range 5).map (fun i => min 16 ((devs[i]?).getD
      0))).sum ≤ 8 ∧ (s.dev.mcOf c).elog.length < 16) ∧
    (∃ (a c : Nat) (x : LinePos) (devs : List Nat) (s : State), s.dev.mcPlace (a / 64 * 64) = some (c, x) ∧ (s.dev.mcOf c).poison.contains (a / 64
      * 64) = false ∧ s.dev.dramNoinit (a / 64 * 64) 64 = false ∧ s.dev.rf (R.mcEccCfg c) ⟨16 + 4 * (2 * x.rank + x.sc) + 3, 16 + 4 * (2 * x.rank +
      x.sc)⟩ < 8 ∧ 8 < ((List.range 5).map (fun i => min 16 ((devs[i]?).getD 0))).sum ∧ (s.dev.mcOf c).elog.length < 16 ∧ (s.dev.mcOf
      c).poison.length < 16) ∧
    (∃ (a c : Nat) (x : LinePos) (s : State), s.dev.mcPlace (a / 64 * 64) = some (c, x) ∧ (s.dev.mcOf c).poison.contains (a / 64 * 64) = true ∧
      (s.dev.mcOf c).elog.length < 16) ∧
    (∃ (a c : Nat) (x : LinePos) (s : State), s.dev.mcPlace (a / 64 * 64) = some (c, x) ∧
      (match (s.dev.mcOf c).alert with | some (l, k) => if l = (a / 64 * 64) then k + 1 else 1 | none => 1) < 4) ∧
    (∃ (a c : Nat) (x : LinePos) (s : State), s.dev.mcPlace (a / 64 * 64) = some (c, x) ∧ 4 ≤
      (match (s.dev.mcOf c).alert with | some (l, k) => if l = (a / 64 * 64) then k + 1 else 1 | none => 1) ∧ (s.dev.mcOf c).poison.length < 16 ∧
      (s.dev.mcOf c).poison.contains (a / 64 * 64) = false ∧ (s.dev.mcOf c).elog.length < 16) ∧
    (∃ (path : Fin 7) (c : Fin 4) (ws : List Nat) (l : List (List Nat)) (s : State), s.dev.letsRead path (R.mcElog c 0) = true ∧ (s.dev.mcOf
      c).elog = ws :: l) ∧
    (∃ (path : Fin 7) (c : Fin 4) (s : State), s.dev.letsRead path (R.mcElog c 0) = true ∧ (s.dev.mcOf c).elog = []) :=
  ⟨⟨0x12345, 0, { (linePos 0 1 ((0x12345 : Nat) / 64)) with rank := 0 }, [1, 0, 5], at_ ((fun (d : Dev) => ((((d.wf (R.mcStat 0) F.mcStatRanks
     1).setN R.mcgCch 65536).setN R.mcgCap 65536).setN R.mcgMap 0 |>.wf (R.mcStat 1) F.mcStatRanks 0 |>.wf (R.mcStat 2) F.mcStatRanks 0 |>.wf
     (R.mcStat 3) F.mcStatRanks 0 |>.wf (R.mcStat 0) F.mcStatExcluded 0 |>.setN R.mcgInitStat 0 |>.setN (R.mcEccCfg 0) 0 |>.putMc 0
     { Mc.reset with elogSeq := 6 } : Dev)) ready), by decide +kernel⟩,
   ⟨0x12345, 0, { (linePos 0 1 ((0x12345 : Nat) / 64)) with rank := 0 }, [4, 0, 5], at_ ((fun (d : Dev) => ((((d.wf (R.mcStat 0) F.mcStatRanks
     1).setN R.mcgCch 65536).setN R.mcgCap 65536).setN R.mcgMap 0 |>.wf (R.mcStat 1) F.mcStatRanks 0 |>.wf (R.mcStat 2) F.mcStatRanks 0 |>.wf
     (R.mcStat 3) F.mcStatRanks 0 |>.wf (R.mcStat 0) F.mcStatExcluded 0 |>.setN R.mcgInitStat 0 |>.setN (R.mcEccCfg 0) 0 |>.putMc 0
     { Mc.reset with elogSeq := 6 } : Dev)) ready), by decide +kernel⟩,
   ⟨0x12345, 0, { (linePos 0 1 ((0x12345 : Nat) / 64)) with rank := 0 }, at_ ((fun (d : Dev) => ((((d.wf (R.mcStat 0) F.mcStatRanks 1).setN
     R.mcgCch 65536).setN R.mcgCap 65536).setN R.mcgMap 0 |>.wf (R.mcStat 1) F.mcStatRanks 0 |>.wf (R.mcStat 2) F.mcStatRanks 0 |>.wf (R.mcStat 3)
     F.mcStatRanks 0 |>.wf (R.mcStat 0) F.mcStatExcluded 0 |>.setN R.mcgInitStat 0 |>.setN (R.mcEccCfg 0) 0 |>.putMc 0
     { Mc.reset with poison := [0x12340] } : Dev)) ready), by decide +kernel⟩,
   ⟨0x12345, 0, { (linePos 0 1 ((0x12345 : Nat) / 64)) with rank := 0 }, at_ ((fun (d : Dev) => ((((d.wf (R.mcStat 0) F.mcStatRanks 1).setN
     R.mcgCch 65536).setN R.mcgCap 65536).setN R.mcgMap 0 |>.wf (R.mcStat 1) F.mcStatRanks 0 |>.wf (R.mcStat 2) F.mcStatRanks 0 |>.wf (R.mcStat 3)
     F.mcStatRanks 0 |>.wf (R.mcStat 0) F.mcStatExcluded 0 |>.setN R.mcgInitStat 0 |>.setN (R.mcEccCfg 0) 0 |>.putMc 0
     { Mc.reset with alert := some (0x12340, 2) } : Dev)) ready), by decide +kernel⟩,
   ⟨0x12345, 0, { (linePos 0 1 ((0x12345 : Nat) / 64)) with rank := 0 }, at_ ((fun (d : Dev) => ((((d.wf (R.mcStat 0) F.mcStatRanks 1).setN
     R.mcgCch 65536).setN R.mcgCap 65536).setN R.mcgMap 0 |>.wf (R.mcStat 1) F.mcStatRanks 0 |>.wf (R.mcStat 2) F.mcStatRanks 0 |>.wf (R.mcStat 3)
     F.mcStatRanks 0 |>.wf (R.mcStat 0) F.mcStatExcluded 0 |>.setN R.mcgInitStat 0 |>.setN (R.mcEccCfg 0) 0 |>.putMc 0
     { Mc.reset with alert := some (0x12340, 3) } : Dev)) ready), by decide +kernel⟩,
   ⟨0, 2, [1, 2, 3, 4, 5, 6, 7, 8], [[9]], at_ ((fun (d : Dev) => (d.putMc (2 : Fin 4) { Mc.reset with elog := [[1, 2, 3, 4, 5, 6, 7, 8], [9]] } :
     Dev)) ready), by decide +kernel⟩,
   ⟨0, 2, at_ ready, by decide +kernel⟩⟩

theorem test_witness_DramRowsRefreshAndScrubAreKept :
    (∃ (a req c : Nat) (x : LinePos) (s : State), s.dev.mcPlace a = some (c, x) ∧ Dev.reqClass req = 0 ∧ (s.dev.mcOf c).raaImt = 0 ∧ (s.dev.mcOf
      c).rq = []) ∧
    (∃ (c : Fin 4) (r : Fin 2) (s : State), s.dev.mcInUse c = true ∧ r.val < s.dev.rf (R.mcStat c) F.mcStatRanks ∧ (s.dev.urgent c r = true ∨
      s.dev.debt c r + 1 ≤ s.dev.rf (R.mcRefCfg c) F.mcRefCfgPostpone)) ∧
    (∃ (c : Fin 4) (r : Fin 2) (s : State), s.dev.mcInUse c = true ∧ r.val < s.dev.rf (R.mcStat c) F.mcStatRanks ∧ s.dev.urgent c r = false ∧
      s.dev.rf (R.mcRefCfg c) F.mcRefCfgPostpone < s.dev.debt c r + 1) ∧
    (∃ (rs : List (Nat × Nat)) (s : State), (∃ c : Fin 4, s.dev.mcInUse c = true ∧ ∃ q : Fin 2, q.val < s.dev.rf (R.mcStat c) F.mcStatRanks ∧ 1 ≤
      ((rs[2 * c.val + q.val]?).getD (0, 0)).2) ∧ (∀ c : Fin 4, s.dev.mcInUse c = true → s.dev.rb (R.mcRefStat c) F.mcRefStatDouble = false)) ∧
    (∃ (rs : List (Nat × Nat)) (c0 : Fin 4) (s : State), ¬ (∃ c : Fin 4, s.dev.mcInUse c = true ∧ ∃ q : Fin 2, q.val < s.dev.rf (R.mcStat c)
      F.mcStatRanks ∧ 1 ≤ ((rs[2 * c.val + q.val]?).getD (0, 0)).2) ∧ s.dev.mcInUse c0 = true ∧ s.dev.rb (R.mcRefStat c0) F.mcRefStatDouble = true
      ∧ s.dev.dramc.streak = 1) ∧
    (∃ (c : Fin 4) (s : State), s.dev.urgent c 0 = true) ∧
    (∃ (c : Fin 4) (rank : Fin 2) (s : State), s.dev.mcInUse c = true ∧ rank.val < s.dev.rf (R.mcStat c) F.mcStatRanks ∧ s.dev.rf (R.mcOscCfg c)
      F.mcOscCfgOscInt ≠ 0) ∧
    (∃ (n : Nat) (s : State), s.dev.rf R.mcgScrub F.mcgScrubPeriod ≠ 0 ∧ 0 < (s.dev.mcUse.length * (s.dev.mcAvail / 64)) ∧ 0 < n ∧ s.dev.sagging =
      false) ∧
    (∃ (s : State), s.dev.mcLazy = true ∧ s.dev.rb R.mcgInitStat F.mcgInitStatLazyDone = false ∧ 0 < (s.dev.mcAvail / 4096) ∧ s.dev.sagging =
      false) ∧
    (∃ (path : Fin 7) (w : Word) (s : State), s.dev.takes path R.mcgMap w.toNat = true) ∧
    (∃ (c : Fin 4) (s : State), s.dev.mcInUse c = true ∧ (s.dev.mcOf c).urg1 = none ∧ (s.dev.mcOf c).raa = [] ∧ (s.dev.mcOf c).busy = [] ∧
      (s.dev.mcOf c).wq = [] ∧ s.dev.dramc.guard = none ∧ (∀ q : Fin 2, s.dev.debt c q = 0 ∧ s.dev.urgent c q = false) ∧ (s.dev.mcOf c).rq = []) ∧
    (∃ (c : Fin 4) (sc : Fin 2) (y : DReq) (x : LinePos) (u : Nat) (s : State), s.dev.mcInUse c = true ∧ (s.dev.mcOf c).urg1 = none ∧ (s.dev.mcOf
      c).raa = [] ∧ (s.dev.mcOf c).busy = [] ∧ (s.dev.mcOf c).wq = [] ∧ s.dev.dramc.guard = none ∧ (∀ q : Fin 2, s.dev.debt c q = 0 ∧ s.dev.urgent
      c q = false) ∧ (s.dev.mcOf c).rq = [y] ∧ s.dev.mcPlace y.addr = some (c.val, x) ∧ x.sc = sc.val ∧ y.cls = 1 ∧ y.guard = false ∧ x.rank <
      s.dev.rf (R.mcStat c) F.mcStatRanks ∧ tget (fun _ => ((0 : Nat), (0 : Nat))) (s.dev.mcOf c).opens (bankKey x) = (x.row + 1, u)) :=
  ⟨⟨0x12340, 0x10, 0, { (linePos 0 1 ((0x12340 : Nat) / 64)) with rank := 0 }, at_ ((fun (d : Dev) => ((((d.wf (R.mcStat 0) F.mcStatRanks 1).setN
     R.mcgCch 65536).setN R.mcgCap 65536).setN R.mcgMap 0 |>.wf (R.mcStat 1) F.mcStatRanks 0 |>.wf (R.mcStat 2) F.mcStatRanks 0 |>.wf (R.mcStat 3)
     F.mcStatRanks 0 |>.wf (R.mcStat 0) F.mcStatExcluded 0 |>.setN R.mcgInitStat 0 |>.setN (R.mcEccCfg 0) 0 |>.putMc 0 { Mc.reset with rows := [] }
     : Dev)) ready), by decide +kernel⟩,
   ⟨1, 1, at_ ((fun (d : Dev) => ((((d.wf (R.mcStat (1 : Fin 4)) F.mcStatRanks 2).wf (R.mcStat (1 : Fin 4)) F.mcStatExcluded 0).setN (R.mcRefStat
     (1 : Fin 4)) 0).wf (R.mcRefCfg (1 : Fin 4)) F.mcRefCfgPostpone 4 : Dev)) ready), by decide +kernel⟩,
   ⟨1, 1, at_ ((fun (d : Dev) => ((((d.wf (R.mcStat (1 : Fin 4)) F.mcStatRanks 2).wf (R.mcStat (1 : Fin 4)) F.mcStatExcluded 0).setN (R.mcRefStat
     (1 : Fin 4)) 0x40000).wf (R.mcRefCfg (1 : Fin 4)) F.mcRefCfgPostpone 4 : Dev)) ready), by decide +kernel⟩,
   ⟨[(1, 0), (0, 0), (5, 1)], at_ ((fun (d : Dev) => (((d.wf (R.mcStat 1) F.mcStatRanks 2).wf (R.mcStat 1) F.mcStatExcluded 0).setN (R.mcRefStat 1)
     0x300 |>.setN (R.mcRefStat 0) 0 |>.setN (R.mcRefStat 2) 0 |>.setN (R.mcRefStat 3) 0 : Dev)) ready), by decide +kernel⟩,
   ⟨[], 2, at_ ((fun (d : Dev) => ((((d.wf (R.mcStat (2 : Fin 4)) F.mcStatRanks 1).wf (R.mcStat (2 : Fin 4)) F.mcStatExcluded 0).wf (R.mcRefStat (2
     : Fin 4)) F.mcRefStatDouble 1 : Dev) |> fun d => { d with dramc := { d.dramc with streak := 1 } } : Dev)) ready), by decide +kernel⟩,
   ⟨0, at_ ((fun (d : Dev) => (((d.setN (R.mcRefStat (0 : Fin 4)) 0x10000600)).putMc (0 : Fin 4) { Mc.reset with urgD := [(0, 6)] } : Dev)) ready),
     by decide +kernel⟩,
   ⟨3, 1, at_ ((fun (d : Dev) => (((d.wf (R.mcStat (3 : Fin 4)) F.mcStatRanks 2).wf (R.mcStat (3 : Fin 4)) F.mcStatExcluded 0).setN (R.mcOscCfg (3
     : Fin 4)) 0x100005 : Dev)) ready), by decide +kernel⟩,
   ⟨1000, at_ ((fun (d : Dev) => (((((d.wf (R.mcStat 0) F.mcStatRanks 1).setN R.mcgCch 65536).setN R.mcgCap 65536).setN R.mcgMap 0 |>.wf (R.mcStat
     1) F.mcStatRanks 0 |>.wf (R.mcStat 2) F.mcStatRanks 0 |>.wf (R.mcStat 3) F.mcStatRanks 0 |>.wf (R.mcStat 0) F.mcStatExcluded 0 |>.setN
     R.mcgInitStat 0 |>.setN (R.mcEccCfg 0) 0 |>.putMc 0 { Mc.reset with alert := none }).wf R.mcgScrub F.mcgScrubPeriod 5 |>.setN R.pwrSagStat 0 :
     Dev)) ready), by decide +kernel⟩,
   ⟨at_ ((fun (d : Dev) => (((((d.wf (R.mcStat 0) F.mcStatRanks 1).setN R.mcgCch 65536).setN R.mcgCap 65536).setN R.mcgMap 0 |>.wf (R.mcStat 1)
     F.mcStatRanks 0 |>.wf (R.mcStat 2) F.mcStatRanks 0 |>.wf (R.mcStat 3) F.mcStatRanks 0 |>.wf (R.mcStat 0) F.mcStatExcluded 0 |>.setN
     R.mcgInitStat 0x80000000 |>.setN (R.mcEccCfg 0) 0 |>.putMc 0 { Mc.reset with alert := none }).setN R.pwrSagStat 0 : Dev)) ready),
     by decide +kernel⟩,
   ⟨0, 0x101#32, at_ ((fun (d : Dev) => (((((d.wf (R.mcStat 0) F.mcStatRanks 1).setN R.mcgCch 65536).setN R.mcgCap 65536).setN R.mcgMap 0 |>.wf
     (R.mcStat 1) F.mcStatRanks 0 |>.wf (R.mcStat 2) F.mcStatRanks 0 |>.wf (R.mcStat 3) F.mcStatRanks 0 |>.wf (R.mcStat 0) F.mcStatExcluded 0
     |>.setN R.mcgInitStat 0 |>.setN (R.mcEccCfg 0) 0 |>.putMc 0 { Mc.reset with poison := [0x1000] } : Dev) |> fun d =>
     { (List.range 8).foldl (fun (d : Dev) e => d.setN (R.dmaCtrl e) 0) d with dram := mputNat [] 0x1234 4 0x11223344 } : Dev)) ready),
     by decide +kernel⟩,
   ⟨0, at_ ((fun (d : Dev) => (((((((d.wf (R.mcStat 0) F.mcStatRanks 1).setN R.mcgCch 65536).setN R.mcgCap 65536).setN R.mcgMap 0 |>.wf (R.mcStat
     1) F.mcStatRanks 0 |>.wf (R.mcStat 2) F.mcStatRanks 0 |>.wf (R.mcStat 3) F.mcStatRanks 0 |>.wf (R.mcStat 0) F.mcStatExcluded 0 |>.setN
     R.mcgInitStat 0 |>.setN (R.mcEccCfg 0) 0 |>.putMc 0 { Mc.reset with alert := none }).wf (R.mcStat 0) F.mcStatRanks 1).setN (R.mcRefStat 0) 0)
     : Dev)) ready), by decide +kernel⟩,
   ⟨0, Fin.ofNat 2 ((linePos 0 1 (0x12340 / 64)) : LinePos).sc, ⟨1, 0x19, 0x12340, false, false, 60000, 0, 0, false, false⟩, (linePos 0 1 (0x12340
     / 64)), 5, at_ ((fun (d : Dev) => (((((((d.wf (R.mcStat 0) F.mcStatRanks 1).setN R.mcgCch 65536).setN R.mcgCap 65536).setN R.mcgMap 0 |>.wf
     (R.mcStat 1) F.mcStatRanks 0 |>.wf (R.mcStat 2) F.mcStatRanks 0 |>.wf (R.mcStat 3) F.mcStatRanks 0 |>.wf (R.mcStat 0) F.mcStatExcluded 0
     |>.setN R.mcgInitStat 0 |>.setN (R.mcEccCfg 0) 0 |>.putMc 0
     { Mc.reset with rq := [⟨1, 0x19, 0x12340, false, false, 60000, 0, 0, false, false⟩], opens := [(bankKey (linePos 0 1 (0x12340 / 64)), ((linePos 0 1 (0x12340 / 64)).row + 1, 5))] }).wf
     (R.mcStat 0) F.mcStatRanks 1).setN (R.mcRefStat 0) 0) : Dev)) ready), by decide +kernel⟩⟩

theorem test_witness_MarchAndRetentionAndMailboxKeepTheirRules :
    (∃ (path : Fin 7) (w : Word) (s : State), s.dev.takes path R.srmMarchCtrl w.toNat = true ∧ nbit w.toNat 31 = true ∧ nbit w.toNat 30 = false ∧
      nbits w.toNat 6 0 ≠ 64 ∧ s.dev.retained (nbits w.toNat 6 0) = false ∧ s.dev.marchRefused (nbit w.toNat 26) (nbits w.toNat 6 0) = false) ∧
    (∃ (path : Fin 7) (w : Word) (s : State), s.dev.lets path R.srmMarchCtrl = true ∧ nbit w.toNat 31 = true ∧ (s.dev.srm.run.isSome = true ∨
      s.dev.marchStartBad w.toNat = true)) ∧
    (∃ (path : Fin 7) (w : Word) (out : Outside) (r : March) (s : State), s.dev.takes path R.srmMarchCtrl w.toNat = true ∧ nbit w.toNat 31 = false
      ∧ nbit w.toNat 30 = true ∧ s.dev.srm.run = some r ∧ r.pres = true ∧ r.yielded = true ∧ r.cur < 72 ∧ out.fails = [] ∧ s.dev.noReact 0x3B0 =
      true) ∧
    (∃ (r : March) (s : State), s.dev.srm.run = some r ∧ r.pres = false ∧ r.first = r.cur ∧ r.last = r.cur ∧ r.done = [] ∧ r.cur < 72 ∧ r.cur ≠ 64
      ∧ s.dev.rb (R.srmBank r.cur) F.srmBankFaulty = false ∧ s.dev.noReact 0x3B0 = true) ∧
    (∃ (x : MarchFail) (l : List MarchFail) (r : March) (s : State), s.dev.srm.run = some r ∧ r.pres = true ∧ r.first = r.cur ∧ r.last = r.cur ∧
      r.done = [] ∧ r.cur < 72 ∧ x.bank = r.cur ∧ (∀ y, y ∈ l → y.bank = r.cur) ∧ s.dev.noReact 0x3B0 && s.dev.noReact 0x3B1 = true) ∧
    (∃ (j : Nat) (r : March) (s : State), s.dev.srm.run = some r ∧ r.pres = true ∧ Dev.bankUrgent r.cur = true ∧ (s.dev.sagging = true ∨ s.dev.now
      < r.t + Dev.marchTime r) ∧ r.yielded = false ∧ (if r.win = j then r.yields + 1 else 1) < 255) ∧
    (∃ (j : Nat) (r : March) (s : State), s.dev.srm.run = some r ∧ r.pres = true ∧ Dev.bankUrgent r.cur = true ∧ (s.dev.sagging = true ∨ s.dev.now
      < r.t + Dev.marchTime r) ∧ r.yielded = false ∧ 255 ≤ (if r.win = j then r.yields + 1 else 1)) ∧
    (∃ (r : March) (s : State), s.dev.srm.run = some r) ∧
    (∃ (path : Fin 7) (i : Fin 3) (w : Word) (b : Nat) (s : State), s.dev.lets path (R.srmRetReq0 + 4 * i) = true ∧ (if i.val < 2 then b / 32 =
      i.val ∧ nbit w.toNat (b % 32) = true else (b = 66 ∧ nbit w.toNat 0 = true ∨ b = 67 ∧ nbit w.toNat 1 = true) ∧ w.toNat < 4) ∧ s.dev.retRefused
      b = true ∧ (∀ q : Fin 72, q.val < b → s.dev.retRefused q = false) ∧ s.dev.noReact 0x3B6 = true) ∧
    (∃ (path : Fin 7) (i : Fin 3) (w : Word) (s : State), s.dev.lets path (R.srmRetReq0 + 4 * i) = true ∧ (i.val = 2 → w.toNat < 4) ∧ (∀ b : Fin
      68, (b.val / 32 = i.val ∧ b.val < 64 ∨ i.val = 2 ∧ 66 ≤ b.val) → nbit w.toNat (Dev.retBit b) = true → s.dev.retRefused b = false)) ∧
    (∃ (path : Fin 7) (i : Fin 3) (w : Word) (s : State), s.dev.lets path (R.srmRetReq0 + 4 * i) = true ∧ (i.val = 2 → w.toNat < 4) ∧ (∀ b : Fin
      68, (b.val / 32 = i.val ∧ b.val < 64 ∨ i.val = 2 ∧ 66 ≤ b.val) → nbit w.toNat (Dev.retBit b) = true → s.dev.retRefused b = false)) ∧
    (∃ (x y : MbxAcc) (s : State), 6 ≤ s.dev.boot.done ∧ s.dev.hostUp = true ∧ s.dev.srm.run = none ∧ s.dev.offline false 0x51 = false ∧ x.word <
      16384 ∧ y.word = x.word ∧ x.write = true ∧ y.write = true) ∧
    (∃ (x y : MbxAcc) (a : MbxAcc) (s : State), 6 ≤ s.dev.boot.done ∧ s.dev.hostUp = true ∧ s.dev.srm.run = none ∧ s.dev.offline false 0x51 = false
      ∧ x.word < 16384 ∧ y.word = x.word ∧ x.write ≠ y.write ∧ a = (if x.write then x else { y with be := 15 }) ∧ a.data < 2 ^ 32) ∧
    (∃ (x : MbxAcc) (y : Option MbxAcc) (s : State), 6 ≤ s.dev.boot.done ∧ s.dev.hostUp = true ∧ s.dev.srm.run = none ∧ s.dev.offline false 0x51 =
      false ∧ x.word < 16384 ∧ x.write = true ∧ (y = none ∨ ∃ z, y = some z ∧ z.write = false ∧ z.word < 16384 ∧ z.word ≠ x.word)) ∧
    (∃ (path : Fin 7) (h2b : Bool) (w : Word) (s : State), s.dev.lets path (if h2b then R.mbxDbH2b else R.mbxDbB2h) = true ∧ w.toNat < 65536 ∧
      s.dev.rn (if h2b then R.mbxDbH2b else R.mbxDbB2h) < 65536 ∧ h2b = decide (path.val ≠ 1)) ∧
    (∃ (path : Fin 7) (h2b : Bool) (w : Word) (s : State), s.dev.lets path (if h2b then R.mbxDbH2b else R.mbxDbB2h) = true ∧ w.toNat < 65536 ∧
      s.dev.rn (if h2b then R.mbxDbH2b else R.mbxDbB2h) < 65536 ∧ h2b = decide (path.val = 1)) :=
  ⟨⟨0, 0x80104141#32, at_ ((fun (d : Dev) => (({ d.setN (R.srmFail 3) 7 with srm := { d.srm with run := none } } : Dev).setN R.pwrSagStat 0 : Dev))
     ready), by decide +kernel⟩,
   ⟨0, 0x80100505#32, at_ ((fun (d : Dev) => ({ d with srm := { d.srm with run := some ⟨64, 64, true, false, 1, 64, 7, [], 3, 2, false⟩ } } : Dev))
     ready), by decide +kernel⟩,
   ⟨0, 0x44104141#32, noOut, ⟨65, 65, true, false, 1, 65, 7, [], 3, 2, true⟩, at_ ((fun (d : Dev) =>
     ({ d with srm := { d.srm with run := some ⟨65, 65, true, false, 1, 65, 7, [], 3, 2, true⟩ } } : Dev)) ready), by decide +kernel⟩,
   ⟨⟨65, 65, false, true, 1, 65, 5, [], 0, 0, false⟩, at_ ((fun (d : Dev) =>
     ({ d with sram := [(0x810004, 9)], srm := { d.srm with run := some ⟨65, 65, false, true, 1, 65, 5, [], 0, 0, false⟩ } } : Dev)) ready),
     by decide +kernel⟩,
   ⟨⟨64, 3, 4, 2, 0⟩, [⟨64, 9, 9, 2, 0⟩], ⟨64, 64, true, false, 1, 64, 7, [], 3, 2, false⟩, at_ ((fun (d : Dev) =>
     ({ d with srm := { d.srm with run := some ⟨64, 64, true, false, 1, 64, 7, [], 3, 2, false⟩ } } : Dev)) ready), by decide +kernel⟩,
   ⟨3, ⟨64, 64, true, false, 1, 64, 7, [], 3, 2, false⟩, at_ ((fun (d : Dev) =>
     ({ d with srm := { d.srm with run := some ⟨64, 64, true, false, 1, 64, 7, [], 3, 2, false⟩ }, gtc := 9 } : Dev)) ready), by decide +kernel⟩,
   ⟨3, ⟨64, 64, true, false, 1, 64, 7, [], 3, 254, false⟩, at_ ((fun (d : Dev) =>
     ({ d with srm := { d.srm with run := some ⟨64, 64, true, false, 1, 64, 7, [], 3, 254, false⟩ }, gtc := 9 } : Dev)) ready), by decide +kernel⟩,
   ⟨⟨64, 64, true, false, 1, 64, 7, [], 3, 2, true⟩, at_ ((fun (d : Dev) =>
     ({ d with srm := { d.srm with run := some ⟨64, 64, true, false, 1, 64, 7, [], 3, 2, true⟩ } } : Dev)) ready), by decide +kernel⟩,
   ⟨0, 0, 0x18003#32, 15, at_ ((fun (d : Dev) => (({ d with srm := { d.srm with run := some ⟨15, 15, true, false, 1, 15, 5, [], 0, 0, false⟩ } } :
     Dev).wf (R.seqStat 0) F.seqStatState 0 : Dev)) ready), by decide +kernel⟩,
   ⟨0, 0, 0x18003#32, at_ ((fun (d : Dev) => ((((d.wf (R.seqStat 0) F.seqStatState 0).setN R.srmRetReq2 3).setN R.srmRetReq0 0x101 : Dev) |> fun d
     => { d with srm := { d.srm with waking := [1, 67, 5], run := none } } : Dev)) ready), by decide +kernel⟩,
   ⟨0, 2, 1#32, at_ ((fun (d : Dev) => ((((d.wf (R.seqStat 0) F.seqStatState 0).setN R.srmRetReq2 3).setN R.srmRetReq0 0x101 : Dev) |> fun d =>
     { d with srm := { d.srm with waking := [1, 67, 5], run := none } } : Dev)) ready), by decide +kernel⟩,
   ⟨⟨true, 0x101, 0xAABBCCDD, 6, 2⟩, ⟨true, 0x101, 5, 15, 1⟩, at_ ready, by decide +kernel⟩,
   ⟨⟨true, 0x100, 0xAABBCCDD, 15, 2⟩, ⟨false, 0x100, 0, 0, 2⟩, ⟨true, 0x100, 0xAABBCCDD, 15, 2⟩, at_ ready, by decide +kernel⟩,
   ⟨⟨true, 0x100, 0xAABBCCDD, 9, 2⟩, some ⟨false, 7, 0, 0, 2⟩, at_ ready, by decide +kernel⟩,
   ⟨1, false, 5#32, at_ ((fun (d : Dev) => (d.setN R.mbxDbB2h 3 : Dev)) ready), by decide +kernel⟩,
   ⟨0, false, 5#32, at_ ((fun (d : Dev) => (d.setN R.mbxDbB2h 7 : Dev)) ready), by decide +kernel⟩⟩

theorem test_witness_SeasonsKeysAndTamperMoveOneWay :
    (∃ (path : Fin 7) (w : Word) (s : State), s.dev.takes path R.vltSeasonReq w.toNat = true ∧ nbits w.toNat 1 0 = 1 ∧ Dev.laterSeason s.vault
      (nbits w.toNat 31 28) = true) ∧
    (∃ (path : Fin 7) (w : Word) (s : State), s.dev.takes path R.vltSeasonReq w.toNat = true ∧ nbits w.toNat 1 0 = 1 ∧ Dev.laterSeason s.vault
      (nbits w.toNat 31 28) = false) ∧
    (∃ (path : Fin 7) (w : Word) (out : Outside) (s : State), s.dev.takes path R.vltSeasonReq w.toNat = true ∧ nbits w.toNat 1 0 = 2 ∧ (if
      Dev.laterSeason s.vault (nbits w.toNat 31 28) = false then 1 else if s.dev.vlt.arm ≠ some (nbits w.toNat 31 28) then 2 else if
      s.dev.anyRunning = true then 3 else if (nbits w.toNat 31 28) = 4 ∧ out.auth = false then 4 else 0) = 0) ∧
    (∃ (path : Fin 7) (w : Word) (out : Outside) (s : State), s.dev.takes path R.vltSeasonReq w.toNat = true ∧ nbits w.toNat 1 0 = 2 ∧ (if
      Dev.laterSeason s.vault (nbits w.toNat 31 28) = false then 1 else if s.dev.vlt.arm ≠ some (nbits w.toNat 31 28) then 2 else if
      s.dev.anyRunning = true then 3 else if (nbits w.toNat 31 28) = 4 ∧ out.auth = false then 4 else 0) ≠ 0) ∧
    (∃ (g : Nat) (s : State), s.dev.vlt.arm = some g) ∧
    (∃ (g : Nat) (s : State), s.dev.vlt.trans = some g ∧ Dev.laterSeason s.vault g = true ∧ s.dev.ledgerOk = true ∧ s.dev.boot.keeperOn = true ∧
      (s.dev.noReact Ev.seasonChange && s.dev.noReact Ev.vaultWiped) = true ∧ g ≠ 8) ∧
    (∃ (g : Nat) (s : State), s.dev.vlt.trans = some g ∧ Dev.laterSeason s.vault g = true ∧ s.dev.ledgerOk = true ∧ s.dev.boot.keeperOn = true ∧
      (s.dev.noReact Ev.seasonChange && s.dev.noReact Ev.vaultWiped) = true ∧ g = 8) ∧
    (∃ (s : State), 3 ≤ s.dev.boot.done ∧ s.dev.vlt.ready = true ∧ s.dev.ledgerOk = true ∧ s.dev.boot.keeperOn = true ∧ (s.dev.noReact Ev.tamper &&
      s.dev.noReact Ev.vaultWiped) = true) ∧
    (∃ (s : State), s.dev.vlt.ready = false) ∧
    (∃ (s : State), s.dev.rb R.vltStat F.vltStatWipeBusy = true ∧ s.vault.tampers ≤ 32) ∧
    (∃ (path : Fin 7) (w : Word) (s : State), s.dev.takes path R.vltKeyctrl w.toNat = true ∧ nbit w.toNat 31 = true ∧ s.vault.season < 4 ∧
      s.vault.tampers < 32 ∧ s.dev.rb R.vltStat F.vltStatTransBusy = false ∧ s.dev.rb R.vltStat F.vltStatWipeBusy = false ∧
      ((s.dev.vlt.slots[(w.toNat % 16)]?).getD KeySlot.reset).lock = false ∧ s.dev.ledgerOk = true ∧ s.dev.boot.keeperOn = true) ∧
    (∃ (path : Fin 7) (w : Word) (s : State), s.dev.takes path R.vltKeyctrl w.toNat = true ∧ nbit w.toNat 31 = true ∧ (4 ≤ s.vault.season ∨
      s.dev.rb R.vltStat F.vltStatTransBusy = true ∨ s.dev.rb R.vltStat F.vltStatWipeBusy = true ∨ ((s.dev.vlt.slots[(w.toNat % 16)]?).getD
      KeySlot.reset).lock = true)) ∧
    (∃ (path : Fin 7) (w : Word) (a x : Nat) (s : State), s.dev.takes path R.vltApply w.toNat = true ∧ nbit w.toNat 31 = true ∧ s.dev.rn
      R.vltApplyCnt = 1 ∧ s.dev.applyEntries w.toNat = [(a, x)] ∧ Dev.ownPage (nbits w.toNat 29 28) (a / 0x1000) = false) ∧
    (∃ (path : Fin 7) (w : Word) (a x : Nat) (r : RegDef) (s : State), s.dev.takes path R.vltApply w.toNat = true ∧ nbit w.toNat 31 = true ∧
      s.dev.rn R.vltApplyCnt = 1 ∧ s.dev.applyEntries w.toNat = [(a, x)] ∧ pageOf (a / 0x1000) = some (.apg, (nbits w.toNat 29 28)) ∧ s.dev.takes
      (3 + (nbits w.toNat 29 28)) a x = true ∧ findReg (pageMap .apg) (a % 0x1000) = some r) ∧
    (∃ (i : JtagInstr), Dev.jtagDrives i = true) ∧
    (∃ (i : JtagInstr) (s : State), Dev.jtagDrives i = false ∧ (i = .private_ → ¬ (s.dev.season = 2 ∨ s.dev.season = 8))) ∧
    (∃ (i : JtagInstr) (s : State), i = .private_ ∧ (s.dev.season = 2 ∨ s.dev.season = 8)) :=
  ⟨⟨0, 0x40000001#32, at_ ((fun (d : Dev) => (d.setN R.vltStat 0x10000300 : Dev)) ready), by decide +kernel⟩,
   ⟨0, 0x30000001#32, at_ ready, by decide +kernel⟩,
   ⟨0, 0x40000002#32, ⟨[], false, [], [], true⟩, at_ ((fun (d : Dev) =>
     (({ d with vlt := { d.vlt with arm := some 4 }, sram := [(0x80005, 3), (0x810000, 4), (0x4000000, 7)] }.setN (R.vltAuth 3) 5).setN
     R.vltSealed0 0x10 |>.setN R.vltSealed1 0 : Dev)) ready), by decide +kernel⟩,
   ⟨0, 0x40000002#32, ⟨[], false, [], [], false⟩, at_ ((fun (d : Dev) => ({ d with vlt := { d.vlt with arm := some 4 } }.setN (R.vltAuth 3) 5 :
     Dev)) ready), by decide +kernel⟩,
   ⟨2, at_ ((fun (d : Dev) => ({ d with vlt := { d.vlt with arm := some 2 } }.setN R.vltNonce0 7 : Dev)) ready), by decide +kernel⟩,
   ⟨4, at_ ((fun (d : Dev) => (({ d with vlt := { d.vlt with trans := some 4, recs := 5 }, ledger := [(0x28003, 5)] }.wf R.bootDegraded
     F.bootDegradedLedger 0) : Dev)) ready), by decide +kernel⟩,
   ⟨8, at_ ((fun (d : Dev) => ((({ d with vlt := { d.vlt with trans := some 8, recs := 5 }, ledger := [(0x28003, 5)] }.wf R.bootDegraded
     F.bootDegradedLedger 0).putChan 3 { Chan.reset with driven := true }).wf (pctl (Dev.chPage 3)) F.ctlEnable 1 |>.wf (R.measStat 2)
     F.measStatState 1 |>.wf (R.fchEyeStat 9) F.fchEyeStatState 2 : Dev)) ready), by decide +kernel⟩,
   ⟨at_ ((fun (d : Dev) => (({ d with vlt := { d.vlt with recs := 5 }, sram := [(0x80005, 3), (0x810000, 4), (0x4000000, 7)] }.wf R.bootDegraded
     F.bootDegradedLedger 0).setN R.vltSealed0 0x10 |>.setN R.vltSealed1 0 : Dev)) ready), by decide +kernel⟩,
   ⟨at_ ((fun (d : Dev) => ({ d with vlt := { d.vlt with ready := false } } : Dev)) ready), by decide +kernel⟩,
   ⟨{ at_ ((fun (d : Dev) => (d.wf R.vltStat F.vltStatWipeBusy 1 : Dev)) ready) with vault := { Vault.reset with tampers := 31 } },
     by decide +kernel⟩,
   ⟨0, 0x80000103#32, at_ ((fun (d : Dev) => ((((d.wf R.bootDegraded F.bootDegradedLedger 0).setN R.vltStat 0).setN (R.vltKey 2) 9) : Dev)) ready),
     by decide +kernel⟩,
   ⟨0, 0x80000103#32, { at_ ready with vault := { Vault.reset with autumn := true } }, by decide +kernel⟩,
   ⟨0, 0x80080008#32, 0x140044, 5, at_ ((fun (d : Dev) => ((({ d with sram := mputNat (mputNat [] 0x80008 4 0x140044) 0x8000C 4 5 } : Dev).setN
     R.vltSealed0 0x10 |>.setN R.vltApplyCnt 1 |>.wf (R.seqStat 0) F.seqStatState 0) : Dev)) ready), by decide +kernel⟩,
   ⟨0, 0x80080008#32, 0x103064, 5, (regDef 0x103064).getD ⟨0, 0, 0, 0, 0, 0, 0, 0, 0, 0, [], (0, 1)⟩, at_ ((fun (d : Dev) =>
     ((({ d with sram := mputNat (mputNat [] 0x80008 4 0x103064) 0x8000C 4 5 } : Dev).setN R.vltSealed0 0x10 |>.setN R.vltApplyCnt 1 |>.wf
     (R.seqStat 0) F.seqStatState 0) : Dev)) ready), by decide +kernel⟩,
   ⟨.extest, by decide +kernel⟩,
   ⟨.private_, at_ ((fun (d : Dev) => (d.setN R.glbSeason 4 : Dev)) ready), by decide +kernel⟩,
   ⟨.private_, at_ ((fun (d : Dev) => (d.setN R.glbSeason 8 : Dev)) ready), by decide +kernel⟩⟩

theorem test_witness_InModeWriteRestartsCapture :
    (∃ (path : Fin 7) (w : Word) (s : State), s.dev.takes path R.syncCtrl w.toNat = true) ∧
    (∃ (path : Fin 7) (w : Word) (s : State), s.dev.takes path R.syncCtrl w.toNat = true) ∧
    (∃ (path : Fin 7) (w : Word) (s : State), s.dev.takes path R.syncCtrl w.toNat = true) ∧
    (∃ (path : Fin 7) (w : Word) (s : State), s.dev.takes path R.syncCtrl w.toNat = true) ∧
    (∃ (path : Fin 7) (w : Word) (s : State), s.dev.takes path R.syncCtrl w.toNat = true) :=
  ⟨⟨0, 0x0#32, at_ ((fun (d : Dev) => ({ d.setN R.syncStat 0x0700001E with sync := { d.sync with n := 9 } } : Dev)) ready), by decide +kernel⟩,
   ⟨0, 0x10#32, at_ ((fun (d : Dev) => ({ d.setN R.syncStat 0x0700001E with sync := { d.sync with n := 9 } } : Dev)) ready), by decide +kernel⟩,
   ⟨0, 0x20#32, at_ ((fun (d : Dev) => ({ d.setN R.syncStat 0x0700001E with sync := { d.sync with n := 9 } } : Dev)) ready), by decide +kernel⟩,
   ⟨0, 0x30#32, at_ ((fun (d : Dev) => ({ d.setN R.syncStat 0x0700001E with sync := { d.sync with n := 9 } } : Dev)) ready), by decide +kernel⟩,
   ⟨3, 0x10#32, at_ ((fun (d : Dev) => ({ d.setN R.syncStat 0x0700001E with sync := { d.sync with n := 9 } } : Dev)) ready), by decide +kernel⟩⟩

theorem test_witness_LockedPagesKeepEventSettings :
    (∃ (path : Fin 7) (page : Fin 1024) (k : PageKind) (i : Nat) (a : Fin 0x400000) (s : State), s.dev.arriving path = true ∧ (path.val ≠ 1 ∨
      bmpAccess k = 3) ∧ pageOf page = some (k, i) ∧ s.dev.offline (path.val == 1) page = false ∧ a.val = page * 0x1000 + 0x18 ∧ (s.dev.pageLocked
      page = true ∨ ∃ b ∈ Dev.bitPages k i, s.dev.pageLocked b = true)) ∧
    (∃ (path : Fin 7) (page : Fin 1024) (k : PageKind) (i : Nat) (a : Fin 0x400000) (s : State), s.dev.arriving path = true ∧ (path.val ≠ 1 ∨
      bmpAccess k = 3) ∧ pageOf page = some (k, i) ∧ s.dev.offline (path.val == 1) page = false ∧ a.val = page * 0x1000 + 0x1C ∧ (s.dev.pageLocked
      page = true ∨ ∃ b ∈ Dev.bitPages k i, s.dev.pageLocked b = true)) ∧
    (∃ (path : Fin 7) (page : Fin 1024) (k : PageKind) (i : Nat) (s : State), s.dev.arriving path = true ∧ (path.val ≠ 1 ∨ bmpAccess k = 3) ∧
      pageOf page = some (k, i) ∧ s.dev.offline (path.val == 1) page = false ∧ (s.dev.pageLocked page = true ∨ ∃ b ∈ Dev.bitPages k i,
      s.dev.pageLocked b = true)) ∧
    (∃ (path : Fin 7) (g : Fin 36) (k : Fin 32) (s : State), s.dev.arriving path = true ∧ (s.dev.pageLocked (0x10 + g) = true ∨ (srcBase (32 * g +
      k)).isSome = true ∧ s.dev.pageLocked (srcBlockPage (32 * g + k)) = true) ∧ s.dev.offline (path.val == 1) (0x10 + g) = false) ∧
    (∃ (path : Fin 7) (page : Fin 1024) (k : PageKind) (i : Nat) (a : Fin 0x400000) (s : State), s.dev.arriving path = true ∧ (path.val ≠ 1 ∨
      bmpAccess k = 3) ∧ pageOf page = some (k, i) ∧ s.dev.offline (path.val == 1) page = false ∧ a.val = page * 0x1000 + 0x14 ∧ hasEvents k = true
      ∧ s.dev.pageLocked page = true ∧ (∀ j : Fin 64, j.val < (pageSources k i).2 → (s.dev.esrc ((pageSources k i).1 + j)).lastCyc ≠ s.dev.cycNo)) :=
  ⟨⟨0, 0x200, .fch, 0, 0x200018, at_ ((fun (d : Dev) => ({ d with hif := { d.hif with keys := [(0x10, 5)] } } : Dev)) ready), by decide +kernel⟩,
   ⟨0, 0x200, .fch, 0, 0x20001C, at_ ((fun (d : Dev) => ({ d with hif := { d.hif with keys := [(0x10, 5)] } } : Dev)) ready), by decide +kernel⟩,
   ⟨0, 0x10, .evg, 0, at_ ((fun (d : Dev) => ({ d with hif := { d.hif with keys := [(0x201, 5)] } } : Dev)) ready), by decide +kernel⟩,
   ⟨0, 0, 9, at_ ((fun (d : Dev) => ({ d with hif := { d.hif with keys := [(0x201, 5)] } } : Dev)) ready), by decide +kernel⟩,
   ⟨0, 0x200, .fch, 0, 0x200014, at_ ((fun (d : Dev) =>
     ({ d.setEsrc 0 { EvtSrc.reset 0 with sticky := true, esc := true } with hif := { d.hif with keys := [(0x200, 5)] } } : Dev)) ready),
     by decide +kernel⟩⟩

theorem test_witness_AnEmptyQueueLetsOneCyclePass : ∃ s : State, s.pending = [] := ⟨State.reset, rfl⟩

theorem test_witness_OnlyTwoCommandsBlowFuses :
    ∃ (c : Instr) (s t : State), c ≠ .seasonChangeDone ∧ c ≠ .tamperWipeDone ∧ exec c s = .next t :=
  ⟨.wakeComplete 5, State.reset, _, by decide, by decide, rfl⟩

theorem test_witness_FusesOnlyMoveForward :
    ∃ (v : Vault) (s t : State), s.vault.atLeast v = true ∧ s.vault.tampers ≤ 32 ∧ step s = .next t :=
  ⟨Vault.reset, State.reset, _, by decide, by decide, rfl⟩

/-! ### `wellFormed` refuses a term for each of its checks -/

def badOut : Outside := ⟨[256], false, [], [], false⟩

theorem test_illformed_operands :
    ([.startupStepEnd ⟨[true, true, true, true, true], 0, 0, [], [], [], [], [], [], [], [], 0⟩, .startupStepEnd ⟨[], 4, 0, [], [], [], [], [], [], [], [], 0⟩,
      .startupStepEnd ⟨[], 0, 0, [(68, 0, 0)], [], [], [], [], [], [], [], 0⟩, .keeperUpdateEnd 8 0, .retrainEnd 0 true [] [⟨68, 0, 0, 0, 0⟩] [],
      .bar2Access true 0 1025 [] 15 false, .bmpWrite (2 ^ 24) [] false noOut, .bmpRead (2 ^ 24) 1 false, .warmReset 0 2#32 badOut,
      .registerWrite 0 0 0#32 15 ⟨[], false, [⟨68, 0, 0, 0, 0⟩], [], false⟩, .timingAffectingWrite 0 0 0#32, .compareResult 0 [] [], .mr4Poll [],
      .sensorReading [], .writeCrcAlert 256 0, .marchRunEnd [⟨68, 0, 0, 0, 0⟩] []] : List Instr).all (fun i => !i.wellFormed) = true := by
  decide +kernel

theorem test_illformed_words :
    ([.clearHist 0 0 0#32, .keeperUpdateStart 0 0xC0000000#32, .mailboxUpdateStart 0 0x80000000#32, .chunkLenWrite 0 0#32, .dmaEnable 0 0 0#32,
      .dmaAbort 0 0 1#32, .msixUnmask false 0 0 1#32, .syncInOff 0 0x10#32, .syncCaptureMode 0 0#32, .channelDisable 0 0 1#32, .eyeStop 0 0 0x80000000#32,
      .marchStart 0 0x40000000#32 noOut, .stickyClear 0 0 0#32, .seasonArm 0 2#32, .seasonCommit 0 1#32 noOut, .vltApply 0 0#32 noOut] :
      List Instr).all (fun i => !i.wellFormed) = true := by
  decide +kernel

theorem test_wellformed_words :
    ([.clearHist 0 0 0x80000000#32, .dmaEnable 0 0 1#32, .syncCaptureMode 0 0x10#32, .seasonArm 0 0x20000001#32, .bmpRead 0x400000 1 false] :
      List Instr).all Instr.wellFormed = true := by
  decide +kernel

/-! ### Examples of the spec, worked out there by hand -/

/-- R375's example: the place of line 0x1234567A under STRIPE, HASH and LINEAR, and the channel of the address. -/
theorem test_address_map_example :
    linePos 1 2 0x1234567A = ⟨0, 5, 1, 1, 0x91A2, 39⟩ ∧ (linePos 2 2 0x1234567A).bg = 7 ∧ (linePos 2 2 0x1234567A).ba = 1 ∧
      linePos 0 2 0x1234567A = ⟨1, 4, 1, 1, 0x91A2, 58⟩ ∧ mapAddr 0 (2 ^ 36) [0, 1, 2, 3] 0x1234567890 = some (0, 0x48D159E90) := by
  decide +kernel

/-- Timing sets of the examples: TS0 of port A at 12.8 GBd, and TS2 of port B at HBR3 with epoch 1,000,000,000. -/
def gridDev : Dev :=
  (((ready.setLive (R.tsPer1 0 0) 4096#32).setLive (R.tsPer1 1 2) 6472#32).setLive (R.tsPer0 1 2) 11599063#32).setLive
    (R.tsEpoch0 1 2) 1000000000#32

/-- R146's example with G = 655,360: result, decision edge, and the launch of the chosen instruction. -/
theorem test_decision_wait_example :
    gridDev.edgeAt Dev.sqclk (655360 + 391168) = 655360 + 393216 ∧ gridDev.boundAt 0 0 (655360 + 393216 + Dev.decodeLead) = 655360 + 720896 := by
  decide +kernel

/-- R304's example with G = 655,360: launch ends at the first boundary 5 ns after A(v). -/
theorem test_stop_on_fail_example : gridDev.boundAt 0 0 (655360 + 231424 + 262144) = 655360 + 495616 := by decide +kernel

/-- R326's example: the edge's rounded time and the boundaries around it. -/
theorem test_trigger_fraction_example :
    Dev.tdcRound 1000500017 = 1000500032 ∧ gridDev.bound 1 2 77 = 1000498397 ∧ gridDev.bound 1 2 78 = 1000504870 := by
  decide +kernel

/-- Table 15-4's example: the host's write and the supervisor's write meet at word 0x0101, and the host's data stands. -/
theorem test_mailbox_conflict_example :
    (match exec (.mailboxAccess (some ⟨true, 0x101, 0x11111111, 15, 5⟩) (some ⟨true, 0x101, 0x22222222, 15, 4⟩)) (at_ ready) with
      | .next t => t.dev.sramWord (Dev.mbxAddr 0x101) == 0x11111111 && t.dev.rb R.mbxStat F.mbxStatBmpWarn && t.dev.rf R.mbxCnt F.mbxCntWw == 1
      | _ => false) = true := by
  decide +kernel

/-- Table 15-9: 4,096 words of a port bank, one background: 11 × 4,096 cycles of PCLK. -/
theorem test_march_time_example : Dev.marchTime ⟨0, 0, false, true, 1, 0, 0, [], 0, 0, false⟩ = 11 * 4096 * 32768 := by decide +kernel

/-- A command runs from the queue: a host doorbell from reset is dropped, because no step of start-up has ended. -/
theorem test_step_from_reset :
    (match step { State.reset with pending := [.mbxDoorbellWrite 0 true 1#32] } with
      | .next t => t.dev.rn R.mbxDbH2b == 0 && t.pending == []
      | _ => false) = true := by
  decide +kernel

end Sys2Proof.Tests
end

section
/-! PROOFS. Facts about one register access that the statements of the scope family need: the addresses of the common registers, rows of
the register map, an access that reaches its register, and what it leaves. -/
namespace Sys2Proof.Machine

/-! ### Addresses of common registers -/

theorem plock_page (page : Nat) : plock page / 0x1000 = page := by unfold plock; omega

theorem plock_off (page : Nat) : plock page % 0x1000 = 0x20 := by unfold plock; omega

theorem pstat_ne_plock (page page' : Nat) : pstat page ≠ plock page' := by unfold pstat plock; omega

/-- A block-specific register is no `PAGE_STAT`. -/
theorem ne_pstat_of_off {a : Nat} (page : Nat) (h : 0x40 ≤ a % 0x1000) : a ≠ pstat page := by
  rintro rfl
  unfold pstat at h
  omega

/-! ### Rows of the register map -/

/-- The row that the search finds is one of the map, and it covers the offset. -/
theorem findReg_covers {l : List RegDef} {o : Nat} {r : RegDef} (h : findReg l o = some r) :
    r ∈ l ∧ (r.off = o ∨ (r.off < o ∧ (o - r.off) % r.stride = 0 ∧ (o - r.off) / r.stride < r.cnt)) := by
  induction l with
  | nil => cases h
  | cons q qs ih =>
    unfold findReg at h
    split at h
    · cases h
      exact ⟨List.mem_cons_self, .inl ‹_›⟩
    · split at h
      · cases h
        exact ⟨List.mem_cons_self, .inr ‹_›⟩
      · obtain ⟨hm, hc⟩ := ih h
        exact ⟨List.mem_cons_of_mem _ hm, hc⟩

/-- A row of one register stands at its own offset alone. -/
theorem findReg_off_of_single {l : List RegDef} {o : Nat} {r : RegDef} (h : findReg l o = some r) (hc : r.cnt = 1) : r.off = o := by
  obtain ⟨-, e | ⟨hlt, hmod, hdiv⟩⟩ := findReg_covers h
  · exact e
  · rw [hc, Nat.lt_one_iff] at hdiv
    have := Nat.div_add_mod (o - r.off) r.stride
    rw [hmod, hdiv] at this
    omega

theorem mapLks_single : ∀ r ∈ mapLks, r.wide.2 ≤ 1 → r.cnt = 1 ∧ r.off < 0x100 := by decide

/-- A register of one word of the `LKS` page is no word of a descriptor. -/
theorem mapLks_off_of_single {o : Nat} {r : RegDef} (h : findReg mapLks o = some r) (hw : r.wide.2 ≤ 1) : o < 0x100 := by
  obtain ⟨hc, hoff⟩ := mapLks_single r (findReg_covers h).1 hw
  exact findReg_off_of_single h hc ▸ hoff

namespace Dev

/-! ### Fields and frames -/

/-- A flag just stored reads as stored. -/
theorem rb_wf_same (d : Dev) (a : Nat) (f : Fld) (v : Nat) (h : fldOk f = true) (hv : v < 2 ^ (f.hi + 1 - f.lo)) :
    (d.wf a f v).rb a f = (v != 0) := by
  rw [rb, rf_wf_same d a f v h, Nat.mod_eq_of_lt hv]

/-- Another register keeps its flags. -/
theorem rb_wf_ne (d : Dev) {a b : Nat} (f g : Fld) (v : Nat) (h : b ≠ a) : (d.wf a f v).rb b g = d.rb b g := by
  rw [rb, rf_wf_ne d f g v h, rb]

/-- A flag that shares no bit with the field written keeps its value. -/
theorem rb_wf_apart (d : Dev) (a : Nat) (f g : Fld) (v : Nat) (h : fldOk f = true) (p : fldApart f g = true) :
    (d.wf a f v).rb a g = d.rb a g := by
  rw [rb, rf_wf_apart d a f g v h p, rb]

/-- The word that a register holds after a write is a word. -/
theorem stored_lt (r : RegDef) {old w : Nat} (ho : old < 2 ^ 32) (hw : w < 2 ^ 32) : stored r old w < 2 ^ 32 :=
  Nat.or_lt_two_pow (Nat.xor_lt_two_pow ho (Nat.and_le_left.trans_lt ho)) (Nat.and_le_left.trans_lt hw)

theorem rn_lt (d : Dev) (a : Nat) : d.rn a < 2 ^ 32 := (d.get a).isLt

/-- What the judgement of an action that does nothing leaves of the registers: all but the page's status. -/
theorem judged_keep_get (d : Dev) (page : Nat) {b : Nat} (h : b ≠ pstat page) : (d.judged page (fun s => s)).1.get b = d.get b := by
  rw [judged_get_ne d page _ h, cleared, get_wf_ne _ _ _ h]

theorem judged_keep_frame (d : Dev) (page : Nat) :
    (d.judged page (fun s => s)).1 = { d with regs := (d.judged page (fun s => s)).1.regs } := by
  rw [judged_fst]
  split <;> rfl

/-! ### Writes -/

/-- An access that the tests before the register let pass has arrived, at a word address. -/
theorem lets_arriving {d : Dev} {path a : Nat} (h : d.lets path a = true) : d.arriving path = true ∧ a % 4 = 0 := by
  simp only [lets, Bool.and_eq_true, decide_eq_true_eq] at h
  exact h.1

/-- A register that a write fits is a block-specific one of one word. -/
theorem fits_single {d : Dev} {a w : Nat} {k : PageKind} {i : Nat} {r : RegDef} (h : d.fits a w = true)
    (hp : pageOf (a / 0x1000) = some (k, i)) (hr : findReg (pageMap k) (a % 0x1000) = some r) : 0x40 ≤ a % 0x1000 ∧ r.wide.2 ≤ 1 := by
  unfold fits at h
  simp only [hp, hr, Bool.and_eq_true, decide_eq_true_eq] at h
  obtain ⟨⟨⟨⟨⟨⟨⟨h40, -⟩, hw⟩, -⟩, -⟩, -⟩, -⟩, -⟩ := h
  exact ⟨h40, hw⟩

/-- Writes below the descriptors of the `LKS` page start no walk. -/
theorem lksEffect_low (d : Dev) (p : Nat) {o : Nat} (h : o < 0x100) : d.lksEffect p o = d := by
  unfold lksEffect
  rw [if_neg (by omega)]

/-- Kinds of page whose registers of one word have no effect of their own. -/
theorem writeEffect_plain (v : Vault) (x : Access) (o_ d : Dev) {k : PageKind} (i : Nat) {o : Nat} (old raw : Nat) (ws : List Nat) {r : RegDef}
    (hk : k ∈ [PageKind.qos, .lks, .apg, .cdc, .tsa, .dds, .uch]) (hr : findReg (pageMap k) o = some r) (hw : r.wide.2 ≤ 1) :
    writeEffect v x o_ k i o old raw ws d = d := by
  simp only [List.mem_cons, List.not_mem_nil, or_false] at hk
  rcases hk with rfl | rfl | rfl | rfl | rfl | rfl | rfl
  case inr.inl => exact lksEffect_low d i (mapLks_off_of_single hr hw)
  all_goals rfl

/-- On a page whose registers have no effect of their own, a write that no test turns away stores the register, and the judgement of the
write finds nothing. -/
theorem takes_arrives_plain (v : Vault) (out : Sys2Proof.Outside) (path : Nat) (d : Dev) (a w : Nat) (k : PageKind) (i : Nat) (r : RegDef)
    (hp : pageOf (a / 0x1000) = some (k, i)) (h : d.takes path a w = true) (ht : timingAff a = false)
    (hk : k ∈ [PageKind.qos, .lks, .apg, .cdc, .tsa, .dds, .uch]) (hr : findReg (pageMap k) (a % 0x1000) = some r) :
    d.arrives v out path a w = ((d.setN a (stored r (d.rn a) w)).judged (a / 0x1000) (fun s => s)).1 := by
  have hf : d.fits a w = true := by simp only [takes, Bool.and_eq_true] at h; exact h.2
  have hw := (fits_single hf hp hr).2
  have hreg : regDef a = some r := by unfold regDef; simp [hp, hr]
  obtain ⟨hevg, hself⟩ : (k == PageKind.evg) = false ∧ storesItself k (a % 0x1000) = false := by
    simp only [List.mem_cons, List.not_mem_nil, or_false] at hk
    rcases hk with rfl | rfl | rfl | rfl | rfl | rfl | rfl <;> exact ⟨rfl, rfl⟩
  have hv : a ≠ R.vltApply := by
    rintro rfl
    obtain ⟨rfl, rfl⟩ : PageKind.vlt = k ∧ 0 = i := by simpa [pageOf, R.vltApply] using hp
    simp at hk
  rw [takes_arrives v out path d a w k i hp h ht (.inl hv), storedWord_eq d a w k i r hp hself hreg]
  simp only [hevg, writeEffect_plain _ _ _ _ _ _ _ _ hk hr hw]
  rfl

/-! ### Page locks -/

/-- A write of `PAGE_LOCK` that the tests before it let pass is judged by its key. -/
theorem arrives_plock (v : Vault) (out : Sys2Proof.Outside) (path : Nat) (d : Dev) (page w : Nat) (k : PageKind) (i : Nat)
    (hp : pageOf page = some (k, i)) (h : d.lets path (plock page) = true) :
    d.arrives v out path (plock page) w = (d.lockWrite page k w).1 := by
  have hv : plock page ≠ R.vltApply := by unfold plock R.vltApply; omega
  obtain ⟨ha, h4⟩ := lets_arriving h
  rw [arrives_eq v out path _ w d ha h4, busWrite_plain v _ d _ w (.inl hv)]
  unfold lets at h
  simp only [plock_page, plock_off, hp, Bool.and_eq_true, Bool.or_eq_true, bne_iff_ne, beq_iff_eq, Bool.not_eq_true'] at h
  obtain ⟨-, ⟨hb, ho⟩, hl⟩ := h
  unfold plainWrite gate
  simp only [plock_page, plock_off, hp, ho, hl]
  rw [if_neg (fun q => hb.elim (fun e => e q.1) q.2)]
  simp

section
variable {d : Dev} {page w : Nat} {k : PageKind} (hk : k ≠ .hif) (hb : nbits w 7 1 = 0) (hkey : w / 2 ^ 16 ≠ 0)
include hk hb hkey

/-- What a key must be for the write to be judged by it (R61, R511). -/
theorem lockTests_pass : (k == .hif || w / 2 ^ 16 == 0 || nbits w 7 1 != 0) = false := by
  rw [beq_eq_false_iff_ne.mpr hk, beq_eq_false_iff_ne.mpr hkey, hb]
  rfl

/-- The first key with `LOCKED` = 1 locks the page (R61). -/
theorem lockWrite_first (hn : d.hif.keys.find? (fun x => x.1 == page) = none) (hw : nbit w 0 = true) :
    (d.lockWrite page k w).1 = (({ d with hif := { d.hif with keys := d.hif.keys ++ [(page, w / 2 ^ 16)] } } : Dev).wf
      (plock page) F.lockLocked 1).wf (pstat page) F.stLocked 1 := by
  unfold lockWrite
  simp only [lockTests_pass hk hb hkey, hn, hw]
  rfl

/-- The key of the lock with `LOCKED` = 0 unlocks the page (R61). -/
theorem lockWrite_release (hs : d.hif.keys.find? (fun x => x.1 == page) = some (page, w / 2 ^ 16)) (hw : nbit w 0 = false) :
    (d.lockWrite page k w).1 = ((({ d with hif := { d.hif with keys := d.hif.keys.filter (fun y => y.1 != page) } } : Dev).wf
      (plock page) F.lockLocked 0).wf (plock page) F.lockFail 0).wf (pstat page) F.stLocked 0 := by
  unfold lockWrite
  simp only [lockTests_pass hk hb hkey, hs, hw, if_true]
  rfl

/-- Another key is counted, and the page shows the violation (R61). -/
theorem lockWrite_wrongKey {key : Nat} (hs : d.hif.keys.find? (fun x => x.1 == page) = some (page, key)) (hne : key ≠ w / 2 ^ 16) :
    (d.lockWrite page k w).1 = (d.cnt (plock page) F.lockFail 1).lockViol page := by
  unfold lockWrite
  simp only [lockTests_pass hk hb hkey, hs, if_neg hne]
  rfl

end

/-! ### Reads -/

theorem letsRead_arriving {d : Dev} {path a : Nat} (h : d.letsRead path a = true) : d.arriving path = true ∧ a % 4 = 0 := by
  simp only [letsRead, Bool.and_eq_true, decide_eq_true_eq] at h
  exact h.1

theorem readArrives_eq (d : Dev) (path a : Nat) (h : d.arriving path = true) (h4 : a % 4 = 0) :
    d.readArrives path a = (d.busRead path a).1.answer [(d.busRead path a).2.1] := by
  simp only [arriving, Bool.and_eq_true, Bool.or_eq_true, bne_iff_ne, decide_eq_true_eq] at h
  obtain ⟨hhost, hsup⟩ := h
  unfold readArrives
  rw [if_neg (by rintro ⟨rfl, q⟩; simp_all), if_neg (by rintro ⟨rfl, q⟩; simp at hsup; omega), h4, Nat.sub_zero]

/-- A read that reaches its page reads the register there. -/
theorem busRead_open (d : Dev) (path a : Nat) (k : PageKind) (i : Nat) (r : RegDef) (h : d.letsRead path a = true)
    (h40 : 0x40 ≤ a % 0x1000) (hp : pageOf (a / 0x1000) = some (k, i)) (hr : findReg (pageMap k) (a % 0x1000) = some r) :
    d.busRead path a = ((d.readReg path k i (a % 0x1000) r a).1, (d.readReg path k i (a % 0x1000) r a).2, false) := by
  simp only [letsRead, hp, Bool.and_eq_true, Bool.or_eq_true, bne_iff_ne, Bool.not_eq_true'] at h
  obtain ⟨-, hb, ho⟩ := h
  unfold busRead
  simp only [hp, ho, hr]
  rw [if_neg (fun q => hb.elim (fun e => e q.1) (fun e => e q.2)), if_neg (by simp), if_neg (by omega)]

section
variable {k : PageKind} (hk : k ∈ [PageKind.clk, .prt, .lks, .cdc, .msk, .meas, .hif])
include hk

/-- Pages without views of their own: a register reads as its word, and its read has no effect of its own. -/
theorem readOne_plain (d : Dev) (path i o : Nat) (r : RegDef) (a : Nat) (hwo : r.wo = 0) :
    d.readOne path k i o r a = (if r.rc = 0 then d else d.setN a (d.rn a - (d.rn a &&& r.rc)), d.rn a) := by
  obtain ⟨hmask, hview, hready, heff⟩ : (∀ e : Dev, e.appliedMask path k i o = false) ∧
      d.regView path k i o r a = d.rn a - (d.rn a &&& r.wo) ∧ d.readReady k o = d ∧ ∀ e : Dev, e.readEffect k i o = e := by
    simp only [List.mem_cons, List.not_mem_nil, or_false] at hk
    rcases hk with rfl | rfl | rfl | rfl | rfl | rfl | rfl <;> exact ⟨fun _ => Bool.and_false _, rfl, rfl, fun _ => rfl⟩
  unfold readOne
  simp only [hready, heff, hview, hmask, hwo, Nat.and_zero, Nat.sub_zero]
  rfl

/-- There, a register of one word answers its word and clears its read-clear bits. -/
theorem readReg_plain (d : Dev) (path i o : Nat) (r : RegDef) (a : Nat) (hw : r.wide.2 ≤ 1) (hwo : r.wo = 0) :
    d.readReg path k i o r a = (if r.rc = 0 then d else d.setN a (d.rn a - (d.rn a &&& r.rc)), d.rn a) := by
  rw [← readOne_plain hk d path i o r a hwo]
  simp only [List.mem_cons, List.not_mem_nil, or_false] at hk
  rcases hk with rfl | rfl | rfl | rfl | rfl | rfl | rfl <;> exact if_pos hw

end

end Dev

/-! ### The commands -/

theorem exec_registerWrite_whole (path : Fin 7) (a : Fin 0x400000) (w : Word) (be : Fin 16) (out : Outside) (s : State)
    (h : path.val ≠ 0 ∨ be.val = 15) :
    exec (.registerWrite path a w be out) s = .next { s with dev := s.dev.arrives s.vault out path.val a.val w.toNat } := by
  change execRegisterWrite path a w be out s = _
  unfold execRegisterWrite
  rw [if_neg (fun q => h.elim (fun e => e q.1) (fun e => q.2 e))]
  rfl

/-- A host dword without all four byte enables goes no further than its counter (R57). -/
theorem exec_registerWrite_partial (a : Fin 0x400000) (w : Word) (be : Fin 16) (out : Outside) (s : State) (h : be.val ≠ 15)
    (hu : s.dev.hostUp = true) :
    exec (.registerWrite 0 a w be out) s = .next { s with dev := s.dev.cnt R.hifDropCnt F.hifDropCntPartial 1 } := by
  change execRegisterWrite 0 a w be out s = _
  unfold execRegisterWrite
  rw [if_pos ⟨rfl, h⟩, onDev_next, if_pos hu]

theorem exec_readClear (path : Fin 7) (a : Fin 0x400000) (s : State) :
    exec (.readClear path a) s = .next { s with dev := s.dev.readArrives path.val a.val } := rfl

theorem exec_pageLockWrite (path : Fin 7) (page : Fin 1024) (w : Word) (s : State) (k : PageKind) (i : Nat)
    (hp : pageOf page = some (k, i)) (h : s.dev.lets path (plock page) = true) :
    exec (.pageLockWrite path page w) s = .next { s with dev := (s.dev.lockWrite page k w.toNat).1 } := by
  rw [← Dev.arrives_plock s.vault noOut path s.dev page w.toNat k i hp h]
  rfl

end Sys2Proof.Machine
end

section
/-! PROOFS. The scope family: a step runs the front command; plain register writes and reads; page locks. -/
namespace Sys2Proof.Machine

/-- Settles O1: the queue's front decides the step's branch. -/
theorem stepRunsTheFrontCommand : Obligations.StepRunsTheFrontCommand := by
  intro c cs s
  rfl

/-! ### Register writes -/

/-- A write that no test turns away, on a page whose registers have no effect of their own (R5). -/
theorem registerWrite_stores (path : Fin 7) (a : Fin 0x400000) (w : Word) (be : Fin 16) (out : Outside) (k : PageKind) (i : Nat) (r : RegDef)
    (s : State) (hbe : path.val ≠ 0 ∨ be.val = 15) (ht : s.dev.takes path a w.toNat = true) (hta : Dev.timingAff a = false)
    (hp : pageOf (a / 0x1000) = some (k, i)) (hk : k ∈ [PageKind.qos, .lks, .apg, .cdc, .tsa, .dds, .uch])
    (hr : findReg (pageMap k) (a % 0x1000) = some r) :
    ∃ t, exec (.registerWrite path a w be out) s = .next t ∧
      t.dev.rn a = Dev.stored r (s.dev.rn a) w.toNat ∧ t.dev.sameRegs s.dev [a.val, pstat (a / 0x1000)] ∧
      t.dev = { s.dev with regs := t.dev.regs } := by
  have hf : s.dev.fits a w.toNat = true := by simp only [Dev.takes, Bool.and_eq_true] at ht; exact ht.2
  have hne : a.val ≠ pstat (a / 0x1000) := ne_pstat_of_off _ (Dev.fits_single hf hp hr).1
  refine ⟨_, exec_registerWrite_whole path a w be out s hbe, ?_⟩
  dsimp only
  rw [Dev.takes_arrives_plain s.vault out path s.dev a w.toNat k i r hp ht hta hk hr]
  refine ⟨?_, ?_, Dev.judged_keep_frame _ _⟩
  · rw [Dev.rn, Dev.judged_keep_get _ _ hne]
    exact (Dev.rn_setN_same _ _ _).trans (Nat.mod_eq_of_lt (Dev.stored_lt r (Dev.rn_lt _ _) w.isLt))
  · intro b hb
    simp only [List.mem_cons, List.not_mem_nil, or_false, not_or] at hb
    rw [Dev.judged_keep_get _ _ hb.2, Dev.get_setN_ne _ _ hb.1]

/-- A host dword without all four byte enables counts and changes nothing else (R57). -/
theorem registerWrite_partial_counts (a : Fin 0x400000) (w : Word) (be : Fin 16) (out : Outside) (s : State) (hbe : be.val ≠ 15)
    (hu : s.dev.hostUp = true) :
    ∃ t, exec (.registerWrite 0 a w be out) s = .next t ∧
      t.dev.rf R.hifDropCnt F.hifDropCntPartial = min 65535 (s.dev.rf R.hifDropCnt F.hifDropCntPartial + 1) ∧
      t.dev.sameRegs s.dev [R.hifDropCnt] ∧ t.dev = { s.dev with regs := t.dev.regs } := by
  refine ⟨_, exec_registerWrite_partial a w be out s hbe hu, Dev.rf_cnt_same _ _ _ _ rfl, ?_, rfl⟩
  intro b hb
  exact Dev.get_cnt_ne _ _ _ (by simpa using hb)

/-- Settles O7: such a write stores the register and then runs an effect that does nothing. -/
theorem writesThatNothingTurnsAwayAreStored : Obligations.WritesThatNothingTurnsAwayAreStored :=
  ⟨registerWrite_stores, registerWrite_partial_counts⟩

/-! ### Reads -/

/-- A read that reaches a register of one word on a page without views of its own (R5). -/
theorem readClear_answers (path : Fin 7) (a : Fin 0x400000) (k : PageKind) (i : Nat) (r : RegDef) (s : State)
    (hl : s.dev.letsRead path a = true) (h40 : 0x40 ≤ a.val % 0x1000) (hp : pageOf (a / 0x1000) = some (k, i))
    (hk : k ∈ [PageKind.clk, .prt, .lks, .cdc, .msk, .meas, .hif]) (hr : findReg (pageMap k) (a % 0x1000) = some r)
    (hw : r.wide.2 ≤ 1) (hwo : r.wo = 0) :
    ∃ t, exec (.readClear path a) s = .next t ∧
      t.dev.hif.rdata = [s.dev.get a] ∧ t.dev.rn a = s.dev.rn a - (s.dev.rn a &&& r.rc) ∧ t.dev.sameRegs s.dev [a.val] ∧
      t.dev = { s.dev with regs := t.dev.regs, hif := t.dev.hif } := by
  obtain ⟨harr, h4⟩ := Dev.letsRead_arriving hl
  refine ⟨_, exec_readClear path a s, ?_⟩
  dsimp only
  rw [Dev.readArrives_eq _ _ _ harr h4, Dev.busRead_open _ _ _ k i r hl h40 hp hr, Dev.readReg_plain hk _ _ _ _ _ _ hw hwo]
  have hword : [s.dev.rn a].map (BitVec.ofNat 32) = [s.dev.get a] := by simp [Dev.rn]
  by_cases hrc : r.rc = 0
  · rw [if_pos hrc]
    exact ⟨hword, by rw [hrc, Nat.and_zero]; rfl, fun _ _ => rfl, rfl⟩
  · rw [if_neg hrc]
    refine ⟨hword, ?_, ?_, rfl⟩
    · exact (Dev.rn_setN_same _ _ _).trans (Nat.mod_eq_of_lt ((Nat.sub_le _ _).trans_lt (Dev.rn_lt _ _)))
    · intro b hb
      exact Dev.get_setN_ne _ _ (by simpa using hb)

/-! ### Page locks -/

section
variable (path : Fin 7) (page : Fin 1024) (w : Word) (k : PageKind) (i : Nat)

/-- The first key with `LOCKED` = 1 (R61). -/
theorem pageLockWrite_locks (s : State) (hl : s.dev.lets path (plock page) = true) (hp : pageOf page = some (k, i)) (hk : k ≠ .hif)
    (hb : nbits w.toNat 7 1 = 0) (hkey : w.toNat / 2 ^ 16 ≠ 0) (hn : s.dev.hif.keys.find? (fun x => x.1 == page.val) = none)
    (hw : nbit w.toNat 0 = true) :
    ∃ t, exec (.pageLockWrite path page w) s = .next t ∧
      t.dev.pageLocked page = true ∧ t.dev.rb (plock page) F.lockLocked = true ∧ t.dev.rb (pstat page) F.stLocked = true ∧
      t.dev.hif.keys = s.dev.hif.keys ++ [(page.val, w.toNat / 2 ^ 16)] ∧ t.dev.sameRegs s.dev [plock page, pstat page] ∧
      t.dev = { s.dev with regs := t.dev.regs, hif := t.dev.hif } := by
  refine ⟨_, exec_pageLockWrite path page w s k i hp hl, ?_⟩
  dsimp only
  rw [Dev.lockWrite_first hk hb hkey hn hw]
  refine ⟨by simp [Dev.pageLocked], ?_, Dev.rb_wf_same _ _ _ _ rfl (by decide), rfl, ?_, rfl⟩
  · rw [Dev.rb_wf_ne _ _ _ _ (pstat_ne_plock _ _).symm, Dev.rb_wf_same _ _ _ _ rfl (by decide)]
    rfl
  · intro b hb
    simp only [List.mem_cons, List.not_mem_nil, or_false, not_or] at hb
    rw [Dev.get_wf_ne _ _ _ hb.2, Dev.get_wf_ne _ _ _ hb.1]
    rfl

/-- The lock's own key with `LOCKED` = 0 (R61). -/
theorem pageLockWrite_unlocks (s : State) (hl : s.dev.lets path (plock page) = true) (hp : pageOf page = some (k, i)) (hk : k ≠ .hif)
    (hb : nbits w.toNat 7 1 = 0) (hkey : w.toNat / 2 ^ 16 ≠ 0)
    (hs : s.dev.hif.keys.find? (fun x => x.1 == page.val) = some (page.val, w.toNat / 2 ^ 16)) (hw : nbit w.toNat 0 = false) :
    ∃ t, exec (.pageLockWrite path page w) s = .next t ∧
      t.dev.pageLocked page = false ∧ t.dev.rb (plock page) F.lockLocked = false ∧ t.dev.rf (plock page) F.lockFail = 0 ∧
      t.dev.rb (pstat page) F.stLocked = false ∧ t.dev.sameRegs s.dev [plock page, pstat page] ∧
      t.dev = { s.dev with regs := t.dev.regs, hif := t.dev.hif } := by
  have hne : plock page ≠ pstat page := (pstat_ne_plock _ _).symm
  refine ⟨_, exec_pageLockWrite path page w s k i hp hl, ?_⟩
  dsimp only
  rw [Dev.lockWrite_release hk hb hkey hs hw]
  refine ⟨by simp [Dev.pageLocked], ?_, ?_, Dev.rb_wf_same _ _ _ _ rfl (by decide), ?_, rfl⟩
  · rw [Dev.rb_wf_ne _ _ _ _ hne, Dev.rb_wf_apart _ _ _ _ _ rfl rfl, Dev.rb_wf_same _ _ _ _ rfl (by decide)]
    rfl
  · rw [Dev.rf_wf_ne _ _ _ _ hne, Dev.rf_wf_same _ _ _ _ rfl]
    rfl
  · intro b hb
    simp only [List.mem_cons, List.not_mem_nil, or_false, not_or] at hb
    rw [Dev.get_wf_ne _ _ _ hb.2, Dev.get_wf_ne _ _ _ hb.1, Dev.get_wf_ne _ _ _ hb.1]
    rfl

/-- A key other than the lock's (R61). -/
theorem pageLockWrite_refuses (key : Nat) (s : State) (hl : s.dev.lets path (plock page) = true) (hp : pageOf page = some (k, i))
    (hk : k ≠ .hif) (hb : nbits w.toNat 7 1 = 0) (hkey : w.toNat / 2 ^ 16 ≠ 0)
    (hs : s.dev.hif.keys.find? (fun x => x.1 == page.val) = some (page.val, key)) (hne : key ≠ w.toNat / 2 ^ 16) :
    ∃ t, exec (.pageLockWrite path page w) s = .next t ∧
      t.dev.pageLocked page = true ∧ t.dev.rf (plock page) F.lockFail = min 255 (s.dev.rf (plock page) F.lockFail + 1) ∧
      t.dev.rb (pstat page) F.stLockViol = true ∧ t.dev.sameRegs s.dev [plock page, pstat page] ∧
      t.dev = { s.dev with regs := t.dev.regs } := by
  refine ⟨_, exec_pageLockWrite path page w s k i hp hl, ?_⟩
  dsimp only
  rw [Dev.lockWrite_wrongKey hk hb hkey hs hne, Dev.lockViol]
  refine ⟨?_, ?_, Dev.rb_wf_same _ _ _ _ rfl (by decide), ?_, rfl⟩
  · change (s.dev.hif.keys.find? (fun x => x.1 == page.val)).isSome = true
    rw [hs]
    rfl
  · rw [Dev.rf_wf_ne _ _ _ _ (pstat_ne_plock _ _).symm, Dev.rf_cnt_same _ _ _ _ rfl]
    rfl
  · intro b hb
    simp only [List.mem_cons, List.not_mem_nil, or_false, not_or] at hb
    rw [Dev.get_wf_ne _ _ _ hb.2, Dev.get_cnt_ne _ _ _ hb.1]

end

/-- Settles O9: a plain read answers the word that stood, and the key of a write of `PAGE_LOCK` decides among locking, unlocking and a
violation. -/
theorem readsClearAndLocksHold : Obligations.ReadsClearAndLocksHold :=
  ⟨readClear_answers, pageLockWrite_locks, pageLockWrite_unlocks, pageLockWrite_refuses⟩

end Sys2Proof.Machine
end

section
/-! PROOFS. The architecture family: three statements whose frames leave out the record of the pattern generator.  An event may ask for
STOP_PORT (R438), and a stop cuts the segment that the port's generator produces (R157, `Dev.apgCut`); the frames refuted here list what else
an occurrence and its reactions touch, but keep `Dev.apg` as it was. -/
namespace Sys2Proof.Machine

/-! ### A command whose event stops a producing generator -/

/-- The command takes from the generator of port A the segment that it produced. -/
def cutsGenerator (c : Sys2Proof.Instr) (s : State) : Bool :=
  match exec c s with
  | .next t => (s.dev.apgOf 0).seg.isSome && (t.dev.apgOf 0).seg.isNone
  | _ => false

/-- No next state after such a command keeps the generators' records, as a frame without `apg` would have it. -/
theorem apg_ne_of_cutsGenerator {c : Sys2Proof.Instr} {s t : State} (hcut : cutsGenerator c s = true) (ht : exec c s = .next t) :
    t.dev.apg ≠ s.dev.apg := by
  intro happ
  have hseg : (t.dev.apgOf 0).seg = (s.dev.apgOf 0).seg := by rw [Dev.apgOf, happ, Dev.apgOf]
  rw [cutsGenerator, ht] at hcut
  simp only [hseg] at hcut
  cases hs : (s.dev.apgOf 0).seg <;> simp [hs] at hcut

/-- A started block with the host link up: port A launches, its generator produces segment 0, and source `n` is enabled with the reaction
STOP_PORT on port A (`EVG_CFG`: REACT 1, RPORT 0; R438). -/
def generatingDev (n : Nat) : Dev where
  __ := Dev.reset
  counting := true
  gtc := 131072007#80
  boot := { Boot.reset with done := 13, runs := [], keeperOn := true }
  hif := { Hif.reset with linkUp := true, linkWasUp := true }
  regs := [(R.bootStat, 0x1100000D#32), (R.seqStat 0, 0x20000000#32)]
  apg := [(0, { Apg.reset with seg := some 0 })]
  evt := { Evt.reset with src := [(n, { EvtSrc.reset n with en := true, cfg := 0x41000#32 })] }

/-! ### The timing profile -/

/-- Port A is under STILL, and sensor 0 reads 25 °C above the temperature of its channels' last trim: stale as soon as PERIODIC is written
(R218). -/
def driftedState : State where
  __ := State.reset
  dev := (generatingDev (Ev.tcalStale 0)).setN (R.pwrTemp 0) (2 ^ 31 + 100)

/-- PERIODIC raises TCAL_STALE. -/
theorem timingProfileWrite_cutsGenerator : cutsGenerator (.timingProfileWrite 0 0 1#32) driftedState = true := by decide +kernel

/-- Refutes O28, by its first clause: a write of PERIODIC that finds the port's calibration stale raises TCAL_STALE, whose STOP_PORT cuts the
running generator's segment, and the clause's frame keeps `apg`. -/
theorem not_trackingFollowsTheTimingProfile : ¬ Obligations.TrackingFollowsTheTimingProfile := by
  rintro ⟨hperiodic, -⟩
  obtain ⟨t, ht, -, -, -, -, hframe⟩ := hperiodic 0 0 1#32 driftedState (by decide +kernel) rfl (by decide +kernel)
  exact apg_ne_of_cutsGenerator timingProfileWrite_cutsGenerator ht (congrArg Dev.apg hframe :)

/-! ### The adaptive supply -/

/-- A block in which AVS_LIMIT stops port A. -/
def avsLimitState : State where
  __ := State.reset
  dev := generatingDev Ev.avsLimit

/-- A measured minimum of 900 mV asks for more than 800 mV and raises AVS_LIMIT (R451). -/
theorem avsMeasure_cutsGenerator : cutsGenerator (.avsMeasure 900) avsLimitState = true := by decide +kernel

/-- Refutes O30, by its second clause: a measurement of 900 mV is clipped and raises AVS_LIMIT, whose STOP_PORT cuts the running generator's
segment, and the clause's frame keeps `apg`. -/
theorem not_supplyAndTemperatureAreWatched : ¬ Obligations.SupplyAndTemperatureAreWatched := by
  rintro ⟨-, havs, -⟩
  obtain ⟨t, ht, -, -, -, hframe⟩ := havs 900 avsLimitState rfl
  exact apg_ne_of_cutsGenerator avsMeasure_cutsGenerator ht (congrArg Dev.apg hframe :)

/-! ### Owners of utility channels -/

/-- Utility channel 0 shows its current limit in `UCH_DRV_STAT`, and its source does not hold the condition yet.  The statement asks for no
agreement of the two; that commands reach such a state is not claimed. -/
def limitedState : State where
  __ := State.reset
  dev := (generatingDev (Ev.ucOverdrive 0)).wf (R.uchDrvStat 0) Dev.F.uchDrvOver 1

/-- The clamps are judged anew at a write of the owners, and the current limit is what is left of the overdrive (R242). -/
theorem prtUcownWrite_cutsGenerator : cutsGenerator (.prtUcownWrite 0 0 false 0#32) limitedState = true := by decide +kernel

/-- Refutes O39, by its third clause: a write of the owners judges the clamps of the port, an overdrive that is left raises its event, whose
STOP_PORT cuts the running generator's segment, and the clause's frame keeps `apg`. -/
theorem not_levelsSettleAndTonesStep : ¬ Obligations.LevelsSettleAndTonesStep := by
  rintro ⟨-, -, howners⟩
  obtain ⟨t, ht, -, -, -, hframe⟩ := howners 0 0 false 0#32 limitedState (by decide +kernel)
  exact apg_ne_of_cutsGenerator prtUcownWrite_cutsGenerator ht (congrArg Dev.apg hframe :)

end Sys2Proof.Machine
end

section
/-! PROOFS. Facts that the statements of the host interface need: the writes that a test before the register turns away; what a message, an
event and an abort leave alone; and the steps by which the PCIe function changes its state. -/
namespace Sys2Proof.Machine

/-! ### The sparse store -/

theorem tget_filter {β : Type} (d : Nat → β) (f : Nat → Bool) (l : List (Nat × β)) (q : Nat) :
    tget d (l.filter (fun x => f x.1)) q = if f q then tget d l q else d q := by
  induction l with
  | nil => simp [tget]
  | cons x t ih =>
    obtain ⟨j, u⟩ := x
    by_cases hj : f j = true
    · by_cases e : j = q
      · subst e; simp [tget, hj]
      · simp [tget, hj, e, ih]
    · by_cases e : j = q
      · subst e; simpa [tget, hj] using ih
      · simpa [tget, hj, e] using ih

/-! ### Writes that a test before the register turns away -/

namespace Dev

/-- An access that arrives is a write by its path, at the word that holds its address. -/
theorem arrives_of_arriving (v : Vault) (out : Sys2Proof.Outside) (path a w : Nat) (d : Dev) (h : d.arriving path = true) :
    d.arrives v out path a w = (busWrite v ⟨path, out, none⟩ d (a - a % 4) w).1 := by
  unfold arriving at h
  simp only [Bool.and_eq_true, Bool.or_eq_true, bne_iff_ne, decide_eq_true_eq] at h
  obtain ⟨hhost, hsup⟩ := h
  unfold arrives
  rw [if_neg (by rintro ⟨rfl, q⟩; simp_all), if_neg (by rintro ⟨rfl, q⟩; simp at hsup; omega)]

/-- A write that ends with another status than DONE starts no register image. -/
theorem busWrite_of_status (v : Vault) (x : Access) (d : Dev) (a w : Nat) (h : (plainWrite v x d a w).2 ≠ St.done) :
    busWrite v x d a w = plainWrite v x d a w := by
  unfold busWrite
  exact if_neg (fun q => h q.2.2.1)

section
variable (d : Dev) (path a w : Nat) (f : PageKind → Nat → Nat → Dev × Nat)

/-- An unassigned page (Table 2-11 test 1, R54). -/
theorem gate_unassigned (h : pageOf (a / 0x1000) = none) :
    d.gate path a w f = (if path = 0 then d.cnt R.hifDropCnt F.hifDropCntUnassigned 1 else d, St.denied) := by
  unfold gate
  simp only [h]

variable {k : PageKind} {i : Nat} (hp : pageOf (a / 0x1000) = some (k, i)) (h1 : path ≠ 1)
include hp h1

/-- An offline page (Table 2-11 test 3, R62). -/
theorem gate_offline (ho : d.offline false (a / 0x1000) = true) :
    d.gate path a w f = (d.cnt (pstat (a / 0x1000)) F.stDrops 1, St.offline) := by
  unfold gate
  simp only [hp, beq_eq_false_iff_ne.mpr h1, ho]
  rw [if_neg (fun q => h1 q.1)]
  rfl

/-- A page lock (Table 2-11 test 4, R61). -/
theorem gate_locked (ho : d.offline false (a / 0x1000) = false) (hl : d.lockBars (a / 0x1000) (a % 0x1000) k i = true) :
    d.gate path a w f = (d.lockViol (a / 0x1000), St.locked) := by
  unfold gate
  simp only [hp, beq_eq_false_iff_ne.mpr h1, ho, hl]
  rw [if_neg (fun q => h1 q.1)]
  rfl

end

/-- A page lock bars every block-specific register of its page. -/
theorem lockBars_of_pageLocked {d : Dev} {page off : Nat} (k : PageKind) (i : Nat) (h : d.pageLocked page = true) (h40 : 0x40 ≤ off) :
    d.lockBars page off k i = true := by
  simp [lockBars, h, h40]

end Dev

/-- A write that the tests before the register turn away: the device and the status are those of the tests. -/
theorem exec_registerWrite_turnedAway (path : Fin 7) (a : Fin 0x400000) (w : Word) (out : Outside) (s : State) (e : Dev) (st : Nat)
    (h : s.dev.arriving path = true) (hst : st ≠ St.done)
    (hg : ∀ f, s.dev.gate path.val (a.val - a.val % 4) w.toNat f = (e, st)) :
    exec (.registerWrite path a w 15 out) s = .next { s with dev := e } := by
  have hpw : Dev.plainWrite s.vault ⟨path.val, out, none⟩ s.dev (a.val - a.val % 4) w.toNat = (e, st) := hg _
  rw [exec_registerWrite_whole path a w 15 out s (.inr rfl), Dev.arrives_of_arriving _ _ _ _ _ _ h,
    Dev.busWrite_of_status _ _ _ _ _ (by rw [hpw]; exact hst), hpw]

/-! ### What messages change -/

namespace Dev

/-- The device without what a message of MSI-X may touch: registers, host memory and the count of messages. -/
def unsent (d : Dev) : Dev := { d with regs := [], hostMem := [], hif := { d.hif with msgCnt := 0 } }

/-- The state of the host interface but for the count of messages. -/
def link (d : Dev) : Hif := { d.hif with msgCnt := 0 }

theorem link_of_unsent {e d : Dev} (h : e.unsent = d.unsent) : e.link = d.link := congrArg Dev.hif h

theorem frame_of_unsent {e d : Dev} (h : e.unsent = d.unsent) :
    e = { d with regs := e.regs, hif := e.hif, hostMem := e.hostMem } :=
  calc e = { e.unsent with regs := e.regs, hif := e.hif, hostMem := e.hostMem } := rfl
    _ = { d.unsent with regs := e.regs, hif := e.hif, hostMem := e.hostMem } := by rw [h]

@[simp] theorem msixRelease_unsent (d : Dev) (v : Nat) : (d.msixRelease v).unsent = d.unsent := by
  unfold msixRelease
  split <;> rfl

@[simp] theorem msixAll_unsent (d : Dev) : d.msixAll.unsent = d.unsent := foldl_keep unsent msixRelease msixRelease_unsent _ _

theorem msixPba_of_lt {v : Nat} (hv : v < 64) : R.msixPba (v / 32) = R.msixPba 0 ∨ R.msixPba (v / 32) = R.msixPba 1 := by
  have : v / 32 = 0 ∨ v / 32 = 1 := by omega
  exact this.imp (congrArg _) (congrArg _)

/-- Releasing a vector writes no register but the pending bits. -/
theorem msixRelease_get (d : Dev) {v a : Nat} (hv : v < 64) (h0 : a ≠ R.msixPba 0) (h1 : a ≠ R.msixPba 1) :
    (d.msixRelease v).get a = d.get a := by
  unfold msixRelease
  split
  · rw [get_msixSend]
    exact get_wf_ne _ _ _ ((msixPba_of_lt hv).elim (fun e => e ▸ h0) (fun e => e ▸ h1))
  · rfl

theorem msixAll_get (d : Dev) {a : Nat} (h0 : a ≠ R.msixPba 0) (h1 : a ≠ R.msixPba 1) : d.msixAll.get a = d.get a :=
  foldl_keep_mem (fun x => x.get a) msixRelease _ (fun _ hv x => msixRelease_get x (List.mem_range.mp hv) h0 h1) d

/-- A release masks and unmasks nothing. -/
theorem msixRelease_masked (d : Dev) {w : Nat} (hw : w < 64) (v : Nat) : (d.msixRelease w).msixMasked v = d.msixMasked v := by
  have hlink : (d.msixRelease w).link = d.link := link_of_unsent (msixRelease_unsent d w)
  have hctrl : (d.msixRelease w).get (R.msixVctrl v) = d.get (R.msixVctrl v) :=
    msixRelease_get d hw (by unfold R.msixVctrl R.msixPba; omega) (by unfold R.msixVctrl R.msixPba; omega)
  have hfm : (d.msixRelease w).hif.fmask = d.hif.fmask := (congrArg Hif.fmask hlink :)
  have hd3 : (d.msixRelease w).hif.d3hot = d.hif.d3hot := (congrArg Hif.d3hot hlink :)
  have hup : (d.msixRelease w).hif.linkUp = d.hif.linkUp := (congrArg Hif.linkUp hlink :)
  rw [msixMasked, msixMasked, rb, rf, hctrl, hfm, hd3, hup, rb, rf]

/-- The pending bit as a field of its word. -/
theorem msixPending_eq_rb (d : Dev) (v : Nat) : d.msixPending v = d.rb (R.msixPba (v / 32)) ⟨v % 32, v % 32⟩ := by
  rw [msixPending, rb, rf, fget, nbits_one, rn]
  cases nbit (d.get (R.msixPba (v / 32))).toNat (v % 32) <;> rfl

theorem msixPending_setMsixPending (d : Dev) (w v : Nat) :
    (d.setMsixPending w false).msixPending v = (d.msixPending v && decide (v ≠ w)) := by
  have hok : fldOk ⟨w % 32, w % 32⟩ = true := by simp [fldOk]; omega
  rw [msixPending_eq_rb, msixPending_eq_rb, setMsixPending]
  by_cases e : v = w
  · subst e
    rw [rb_wf_same _ _ _ _ hok (by positivity)]
    simp [b2n]
  · simp only [ne_eq, e, not_false_eq_true, decide_true, Bool.and_true]
    by_cases ew : v / 32 = w / 32
    · rw [ew]
      exact rb_wf_apart _ _ _ _ _ hok (by simp [fldApart]; omega)
    · exact rb_wf_ne _ _ _ _ (by unfold R.msixPba; omega)

/-- A release ends what is pending on its own vector, where nothing masks it. -/
theorem msixRelease_pending (d : Dev) (w v : Nat) :
    (d.msixRelease w).msixPending v = (d.msixPending v && (decide (v ≠ w) || d.msixMasked v)) := by
  unfold msixRelease
  split
  · rename_i h
    refine (msixPending_setMsixPending d w v).trans ?_
    by_cases e : v = w
    · subst e; simp_all
    · simp [e]
  · by_cases e : v = w
    · subst e; simp_all
    · simp [e]

theorem msixReleases_pending (v : Nat) : ∀ (l : List Nat), (∀ w ∈ l, w < 64) → ∀ d : Dev,
    (l.foldl msixRelease d).msixPending v = (d.msixPending v && (decide (v ∉ l) || d.msixMasked v)) := by
  intro l
  induction l with
  | nil => simp
  | cons w t ih =>
    intro hl d
    rw [List.foldl_cons, ih (fun x hx => hl x (List.mem_cons_of_mem _ hx)), msixRelease_pending,
      msixRelease_masked d (hl w List.mem_cons_self)]
    by_cases e : v = w <;> cases d.msixMasked v <;> simp [e]

/-- Once every vector is released, what is still pending is masked (R48). -/
theorem msixAll_pending (d : Dev) {v : Nat} (hv : v < 64) : d.msixAll.msixPending v = (d.msixPending v && d.msixMasked v) := by
  refine (msixReleases_pending v (List.range 64) (fun _ h => List.mem_range.mp h) d).trans ?_
  simp [hv]

/-! ### What an event leaves of the host interface -/

@[simp] theorem wf_link (d : Dev) (a : Nat) (f : Fld) (v : Nat) : (d.wf a f v).link = d.link := rfl
@[simp] theorem setN_link (d : Dev) (a v : Nat) : (d.setN a v).link = d.link := rfl
@[simp] theorem evt_link (d : Dev) (e : Evt) : Dev.link { d with evt := e } = d.link := rfl
@[simp] theorem gtc_link (d : Dev) (t : BitVec 80) : Dev.link { d with gtc := t } = d.link := rfl
@[simp] theorem sramWrite_link (d : Dev) (a : Nat) (b : List Byte) : (d.sramWrite a b).link = d.link := rfl
@[simp] theorem putSeq_link (d : Dev) (p : Nat) (s : Seq) : (d.putSeq p s).link = d.link := by rw [link, putSeq_hif, link]
@[simp] theorem putChan_link (d : Dev) (i : Nat) (c : Chan) : (d.putChan i c).link = d.link := rfl
@[simp] theorem putAcq_link (d : Dev) (p : Nat) (a : Acq) : (d.putAcq p a).link = d.link := rfl

@[simp] theorem msixAssert_link (d : Dev) (v : Nat) : (d.msixAssert v).link = d.link := by
  unfold msixAssert
  split <;> rfl

theorem evqPlace_link (s t : Nat) : ∀ (n : Nat) (bs : List Byte) (j : Nat) (d : Dev), (d.evqPlace s t bs n j).link = d.link := by
  intro n
  induction n with
  | zero => intro bs j d; rfl
  | succ n ih =>
    intro bs j d
    unfold evqPlace
    dsimp only
    split
    · rw [ih, sramWrite_link]
    · exact sramWrite_link ..

theorem evqWrite_link (d : Dev) (cls : Nat) (e f : Bool) (r s c : Nat) : (d.evqWrite cls e f r s c).1.link = d.link := by
  unfold evqWrite
  split
  · rfl
  · exact (setN_link _ _ _).trans ((evt_link _ _).trans (evqPlace_link _ _ _ _ _ _))

theorem firstFault_link (d : Dev) (s c : Nat) (e f : Bool) : (d.firstFault s c e f).link = d.link := by
  unfold firstFault
  dsimp only
  split
  · rfl
  · split <;> rfl

theorem latchOut_link (d : Dev) (s cls : Nat) (e f : Bool) (r c : Nat) (x : Bool) : (d.latchOut s cls e f r c x).1.link = d.link := by
  unfold latchOut
  extract_lets cfg r1 d1 d2 src d3
  have h1 : d1.link = d.link := by
    simp only [d1, r1]
    split
    · exact evqWrite_link ..
    · rfl
  have h2 : d2.link = d1.link := by
    simp only [d2]
    split
    · exact msixAssert_link ..
    · rfl
  have h3 : d3.link = d2.link := by
    simp only [d3]
    split <;> rfl
  exact h3.trans (h2.trans h1)

theorem occurOne_link (s : Nat) (d : Dev) : (d.occurOne s).1.link = d.link := by
  unfold occurOne
  split
  · rfl
  · extract_lets e w fresh c n up cls escd latch forced e' d1 react same coinc da cands src d2 r
    have h2 : d2.link = d.link := by
      simp only [d2]
      split
      · exact firstFault_link d1 _ _ _ _
      · rfl
    split
    · rfl
    · split
      · rfl
      · split
        · exact (latchOut_link ..).trans h2
        · exact h2

theorem occurBook_link (s : Nat) (d : Dev) : (d.occurBook s).1.link = d.link := by
  unfold occurBook
  dsimp only
  split
  · rw [occurOne_link, occurOne_link]
  · exact occurOne_link s d

@[simp] theorem capFall_link (d : Dev) : d.capFall.link = d.link := by
  unfold capFall
  split <;> rfl

@[simp] theorem qosReturn_link (d : Dev) (p : Nat) : (d.qosReturn p).link = d.link := by
  unfold qosReturn
  dsimp only
  split <;> rfl

@[simp] theorem apgCut_link (d : Dev) (p : Nat) : (d.apgCut p).link = d.link := by
  unfold apgCut
  dsimp only
  split <;> rfl

@[simp] theorem seqHalt_link (d : Dev) (p t : Nat) : (d.seqHalt p t).link = d.link := by
  unfold seqHalt
  split
  · rfl
  · rw [wf_link, wf_link, wf_link, setSeqState, wf_link, putSeq_link, apgCut_link]

@[simp] theorem seqStop_link (d : Dev) (p : Nat) : (d.seqStop p).link = d.link := by
  unfold seqStop seqStopAt
  split <;> simp

@[simp] theorem readyFall_link (d : Dev) (i : Nat) : (d.readyFall i).link = d.link := by
  unfold readyFall
  split
  · dsimp only
    split <;> rfl
  · rfl

@[simp] theorem pmuOff_link (d : Dev) (m : Nat) : (d.pmuOff m).link = d.link := rfl

@[simp] theorem safeChan_link (d : Dev) (i : Nat) : (d.safeChan i).link = d.link := by
  unfold safeChan
  dsimp only
  rw [putChan_link]
  split <;> simp

@[simp] theorem safeState_link (d : Dev) (p : Nat) : (d.safeState p).link = d.link := by
  rw [safeState, capFall_link, foldl_keep link safeChan safeChan_link]

@[simp] theorem closeOut_link (d : Dev) (p : Nat) (r : AcqRec) (e : Nat) (t : Bool) : (d.closeOut p r e t).link = d.link := rfl

@[simp] theorem setAcqState_link (d : Dev) (p v : Nat) : (d.setAcqState p v).link = d.link := rfl

@[simp] theorem acqFreeze_link (d : Dev) (p : Nat) : (d.acqFreeze p).link = d.link := by
  unfold acqFreeze
  dsimp only
  split
  · split <;> simp
  · split
    · rw [setAcqState_link, putAcq_link]
      split
      · split <;> simp
      · simp
    · split <;> simp

@[simp] theorem flpFreeze_link (d : Dev) (p : Nat) : (d.flpFreeze p).link = d.link := rfl

theorem reactOn_link (d : Dev) (b p : Nat) : (d.reactOn b p).link = d.link := by
  unfold reactOn
  dsimp only
  split <;> split <;> split <;> simp

theorem atNextEdge_link (f : Dev → Dev) (h : ∀ x, (f x).link = x.link) (d : Dev) : (atNextEdge f d).link = d.link := by
  rw [atNextEdge, gtc_link, h, gtc_link]

theorem raiseF_link : ∀ (f s : Nat) (d : Dev), (raiseF f s d).link = d.link := by
  intro f
  induction f with
  | zero => intro s d; exact occurBook_link s d
  | succ f ih =>
    intro s d
    unfold raiseF
    dsimp only
    rw [foldl_keep link]
    · exact occurBook_link s d
    · intro x re
      split
      · rfl
      · refine atNextEdge_link _ (fun z => foldl_keep link _ (fun y p => ?_) _ z) x
        split
        · rfl
        · rw [ih, reactOn_link]

/-- Of the host interface, an occurrence and its reactions touch the count of messages alone. -/
theorem raise_link (d : Dev) (s : Nat) : (d.raise s).link = d.link := raiseF_link 2 s d

theorem setCond_link (d : Dev) (s : Nat) (b : Bool) : (d.setCond s b).link = d.link := by
  unfold setCond
  dsimp only
  split
  · exact raise_link ..
  · rfl

/-! ### The end of a level condition -/

/-- A condition that ends is no occurrence: where a force still holds the source's raw state, it held it before (R433). -/
theorem setCond_false (d : Dev) (s : Nat) : d.setCond s false = d.setEsrc s { d.esrc s with cond := false } := by
  have hsrc : ((d.setEsrc s { d.esrc s with cond := false }).esrc s) = { d.esrc s with cond := false } := tget_tset_same ..
  have hoff : (d.setEsrc s { d.esrc s with cond := false }).srcOffline s = d.srcOffline s := rfl
  have hno : (d.condSet s false).2 = false := by
    simp only [condSet, effRaw, hsrc, hoff]
    cases (d.esrc s).force
    · simp only [Bool.or_false, Bool.and_false]
    · simp only [Bool.or_true, Bool.and_true, Bool.not_and_self]
  unfold setCond
  dsimp only
  rw [hno]
  rfl

/-! ### A page returned to its reset values -/

theorem clrPage_get (d : Dev) (page a : Nat) : (d.clrPage page).get a = if a / 0x1000 = page then resetWord a else d.get a := by
  change tget resetWord (d.regs.filter (fun x => x.1 / 0x1000 != page)) a = _
  rw [tget_filter resetWord (fun b => b / 0x1000 != page)]
  by_cases h : a / 0x1000 = page <;> simp [h, get]

end Dev

/-! ### Aborting the DMA engines (R45) -/

/-- The engine's record once `ABORT` has been written: a descriptor in progress ends at the next 4 KiB boundary. -/
def Dma.aborted (x : Dma) : Dma := if x.desc.isSome then { x with aborting := true } else x

theorem Dma.aborted_aborting (x : Dma) : x.aborted.aborting = (x.aborting || x.desc.isSome) := by
  unfold Dma.aborted
  cases h : x.desc <;> simp

theorem Dma.aborted_aborted (x : Dma) : x.aborted.aborted = x.aborted := by
  unfold Dma.aborted
  cases h : x.desc <;> simp [h]

namespace Dev

theorem dmaAbort_dmaOf (d : Dev) (e q : Nat) : (d.dmaAbort e).dmaOf q = if q = e then (d.dmaOf e).aborted else d.dmaOf q := by
  unfold dmaAbort Dma.aborted
  have hput : ∀ x, ((d.wf (R.dmaCtrl e) F.dmaCtrlEnable 0).putDma e x).dmaOf q = if q = e then x else d.dmaOf q :=
    fun x => tget_tset _ _ _ _ _
  have hkeep : ∀ k, (d.wf (R.dmaCtrl e) F.dmaCtrlEnable 0).dmaOf k = d.dmaOf k := fun _ => rfl
  dsimp only
  rw [hkeep]
  split
  · exact hput _
  · rw [hkeep]
    split
    · rename_i h; rw [h]
    · rfl

theorem dmaAbort_get (d : Dev) (e a : Nat) : (d.dmaAbort e).get a = (d.wf (R.dmaCtrl e) F.dmaCtrlEnable 0).get a := by
  unfold dmaAbort
  dsimp only
  split <;> rfl

theorem dmaAbort_enable (d : Dev) (e q : Nat) :
    (d.dmaAbort e).rb (R.dmaCtrl q) F.dmaCtrlEnable = (decide (q ≠ e) && d.rb (R.dmaCtrl q) F.dmaCtrlEnable) := by
  rw [rb, rf, dmaAbort_get]
  by_cases h : q = e
  · subst h
    exact (rb_wf_same d _ F.dmaCtrlEnable 0 rfl (by decide)).trans (by simp)
  · exact (rb_wf_ne d _ _ _ (by unfold R.dmaCtrl; omega)).trans (by simp [h])

/-- The device without what entering D3hot may touch: registers, the state of the host interface, and the DMA engines. -/
def unaborted (d : Dev) : Dev := { d with regs := [], hif := Hif.reset, dma := [] }

theorem dmaAbort_unaborted (d : Dev) (e : Nat) : (d.dmaAbort e).unaborted = d.unaborted := by
  unfold dmaAbort
  dsimp only
  split <;> rfl

theorem frame_of_unaborted {e d : Dev} (h : e.unaborted = d.unaborted) : e = { d with regs := e.regs, hif := e.hif, dma := e.dma } :=
  calc e = { e.unaborted with regs := e.regs, hif := e.hif, dma := e.dma } := rfl
    _ = { d.unaborted with regs := e.regs, hif := e.hif, dma := e.dma } := by rw [h]

theorem dmaAborts_dmaOf (q : Nat) : ∀ (l : List Nat) (d : Dev),
    (l.foldl dmaAbort d).dmaOf q = if q ∈ l then (d.dmaOf q).aborted else d.dmaOf q := by
  intro l
  induction l with
  | nil => intro d; rfl
  | cons e t ih =>
    intro d
    rw [List.foldl_cons, ih, dmaAbort_dmaOf]
    by_cases h : q = e
    · subst h
      simp [Dma.aborted_aborted]
    · simp [h]

theorem dmaAborts_enable (q : Nat) : ∀ (l : List Nat) (d : Dev), (l.foldl dmaAbort d).rb (R.dmaCtrl q) F.dmaCtrlEnable =
    (decide (q ∉ l) && d.rb (R.dmaCtrl q) F.dmaCtrlEnable) := by
  intro l
  induction l with
  | nil => simp
  | cons e t ih =>
    intro d
    rw [List.foldl_cons, ih, dmaAbort_enable]
    by_cases h : q = e <;> simp [h]

theorem dmaAborts_get {a : Nat} {l : List Nat} (h : ∀ e ∈ l, a ≠ R.dmaCtrl e) (d : Dev) : (l.foldl dmaAbort d).get a = d.get a :=
  foldl_keep_mem (fun x => x.get a) dmaAbort l (fun e he x => (dmaAbort_get x e a).trans (get_wf_ne _ _ _ (h e he))) d

end Dev

/-! ### The states of the PCIe function (R36, R37, R101) -/

namespace Dev

/-- A device that agrees with another but for what events touch, and in the generators' records, differs from it in the rest alone. -/
theorem frame_of_calm {e d : Dev} (h : e.calm = d.calm) (hapg : e.apg = d.apg) :
    e = { d with regs := e.regs, evt := e.evt, sram := e.sram, hostMem := e.hostMem, hif := e.hif, seq := e.seq,
                 chans := e.chans, lvls := e.lvls, acq := e.acq } :=
  calc e = { e.calm with regs := e.regs, evt := e.evt, sram := e.sram, hostMem := e.hostMem, hif := e.hif,
                         seq := e.seq, apg := e.apg, chans := e.chans, lvls := e.lvls, acq := e.acq } := rfl
    _ = { d.calm with regs := e.regs, evt := e.evt, sram := e.sram, hostMem := e.hostMem, hif := e.hif,
                      seq := e.seq, apg := d.apg, chans := e.chans, lvls := e.lvls, acq := e.acq } := by rw [h, hapg]

/-- The link is up and the condition of a lost link has ended; no message is sent yet. -/
def linked (d : Dev) : Dev :=
  ({ d with hif := { d.hif with linkUp := true, linkWasUp := true } } : Dev).setEsrc Ev.pcieLinkDown { d.esrc Ev.pcieLinkDown with cond := false }

theorem linkUp_eq (d : Dev) (hdone : 6 ≤ d.boot.done) (hdeg : d.rb R.bootDegraded F.bootDegradedHostlink = false)
    (hdown : d.hif.linkUp = false) : d.linkUp = d.linked.msixAll := by
  unfold linkUp
  rw [if_neg (by simp [hdeg, hdown]; omega), setCond_false]
  rfl

/-- The device as a reset of the host interface leaves it, before its events (R36). -/
def hifCleared (d : Dev) (kind : Nat) : Dev :=
  { d.clrPage 0x60 with
    dma := []
    hif := { (d.clrPage 0x60).hif with fmask := false, d3hot := false, linkUp := d.hif.linkUp && kind == 3 } }

theorem hifReset_eq (d : Dev) (kind : Nat) (hdone : 6 ≤ d.boot.done) (hupd : d.updating = false) :
    d.hifReset kind = ((d.hifCleared kind).setCond Ev.pcieLinkDown
      ((d.hifCleared kind).hif.linkWasUp && !(d.hifCleared kind).hif.linkUp)).raise Ev.hifReset := by
  unfold hifReset
  rw [if_neg (by omega), hupd]
  rfl

theorem hifReset_get (d : Dev) (kind : Nat) (hdone : 6 ≤ d.boot.done) (hupd : d.updating = false) {a : Nat} (hq : quiet a = true) :
    (d.hifReset kind).get a = if a / 0x1000 = 0x60 then resetWord a else d.get a := by
  rw [hifReset_eq d kind hdone hupd, raise_get hq, setCond_get hq]
  exact clrPage_get d 0x60 a

theorem hifReset_calm (d : Dev) (kind : Nat) (hdone : 6 ≤ d.boot.done) (hupd : d.updating = false) :
    (d.hifReset kind).calm = (d.hifCleared kind).calm := by
  rw [hifReset_eq d kind hdone hupd, raise_calm, setCond_calm]

theorem hifReset_link (d : Dev) (kind : Nat) (hdone : 6 ≤ d.boot.done) (hupd : d.updating = false) :
    (d.hifReset kind).link = (d.hifCleared kind).link := by
  rw [hifReset_eq d kind hdone hupd, raise_link, setCond_link]

/-- The function enters or leaves D3hot (R37). -/
def setD3hot (d : Dev) (b : Bool) : Dev := { d with hif := { d.hif with d3hot := b } }

theorem setD3hot_get (d : Dev) (b : Bool) (a : Nat) : (d.setD3hot b).get a = d.get a := rfl
theorem setD3hot_rb (d : Dev) (b : Bool) (a : Nat) (f : Fld) : (d.setD3hot b).rb a f = d.rb a f := rfl
theorem setD3hot_dmaOf (d : Dev) (b : Bool) (e : Nat) : (d.setD3hot b).dmaOf e = d.dmaOf e := rfl
theorem setD3hot_unaborted (d : Dev) (b : Bool) : (d.setD3hot b).unaborted = d.unaborted := rfl

theorem d3Enter_eq (d : Dev) (hup : d.hif.linkUp = true) (hd0 : d.hif.d3hot = false) :
    d.d3Enter = ((List.range 8).foldl dmaAbort d).setD3hot true := by
  unfold d3Enter
  rw [if_neg (by simp [hup, hd0])]
  generalize (List.range 8).foldl dmaAbort d = x
  rfl

theorem d3Leave_eq (d : Dev) (hd3 : d.hif.d3hot = true) : d.d3Leave = (d.setD3hot false).msixAll := if_pos hd3

end Dev

end Sys2Proof.Machine
end

section
/-! PROOFS. The host interface family: writes turned away, the two windows, and the states of the link. -/
namespace Sys2Proof.Machine

/-! ### Writes turned away -/

/-- A write of an unassigned page by the host is counted (R54). -/
theorem registerWrite_unassigned_counts (a : Fin 0x400000) (w : Word) (out : Outside) (s : State) (hu : s.dev.hostUp = true)
    (hp : pageOf (a / 0x1000) = none) :
    ∃ t, exec (.registerWrite 0 a w 15 out) s = .next t ∧
      t.dev.rf R.hifDropCnt F.hifDropCntUnassigned = min 65535 (s.dev.rf R.hifDropCnt F.hifDropCntUnassigned + 1) ∧
      t.dev.sameRegs s.dev [R.hifDropCnt] ∧ t.dev = { s.dev with regs := t.dev.regs } := by
  have hpage : (a.val - a.val % 4) / 0x1000 = a / 0x1000 := by omega
  have harr : s.dev.arriving 0 = true := by simp [Dev.arriving, hu]
  refine ⟨_, exec_registerWrite_turnedAway 0 a w out s _ St.denied harr (by decide)
    (fun f => Dev.gate_unassigned _ _ _ _ f (hpage ▸ hp)), Dev.rf_cnt_same _ _ _ _ rfl, ?_, rfl⟩
  intro b hb
  exact Dev.get_cnt_ne _ _ _ (by simpa using hb)

section
variable (path : Fin 7) (a : Fin 0x400000) (w : Word) (out : Outside) (k : PageKind) (i : Nat) (s : State) (h1 : path.val ≠ 1)
  (harr : s.dev.arriving path = true) (hp : pageOf (a / 0x1000) = some (k, i))
include h1 harr hp

/-- A write of an offline page is counted there (R62). -/
theorem registerWrite_offline_counts (ho : s.dev.offline false (a / 0x1000) = true) :
    ∃ t, exec (.registerWrite path a w 15 out) s = .next t ∧
      t.dev.rf (pstat (a / 0x1000)) F.stDrops = min 255 (s.dev.rf (pstat (a / 0x1000)) F.stDrops + 1) ∧
      t.dev.sameRegs s.dev [pstat (a / 0x1000)] ∧ t.dev = { s.dev with regs := t.dev.regs } := by
  have hpage : (a.val - a.val % 4) / 0x1000 = a / 0x1000 := by omega
  rw [← hpage] at hp ho ⊢
  refine ⟨_, exec_registerWrite_turnedAway path a w out s _ St.offline harr (by decide)
    (fun f => Dev.gate_offline _ _ _ _ f hp h1 ho), Dev.rf_cnt_same _ _ _ _ rfl, ?_, rfl⟩
  intro b hb
  exact Dev.get_cnt_ne _ _ _ (by simpa using hb)

/-- A write of a block-specific register of a locked page shows there (R61). -/
theorem registerWrite_locked_shows (ho : s.dev.offline false (a / 0x1000) = false) (hl : s.dev.pageLocked (a / 0x1000) = true)
    (h40 : 0x40 ≤ a.val % 0x1000) :
    ∃ t, exec (.registerWrite path a w 15 out) s = .next t ∧
      t.dev.rb (pstat (a / 0x1000)) F.stLockViol = true ∧ t.dev.sameRegs s.dev [pstat (a / 0x1000)] ∧
      t.dev = { s.dev with regs := t.dev.regs } := by
  have hpage : (a.val - a.val % 4) / 0x1000 = a / 0x1000 := by omega
  have hoff : 0x40 ≤ (a.val - a.val % 4) % 0x1000 := by omega
  rw [← hpage] at hp ho hl ⊢
  refine ⟨_, exec_registerWrite_turnedAway path a w out s _ St.locked harr (by decide)
    (fun f => Dev.gate_locked _ _ _ _ f hp h1 ho (Dev.lockBars_of_pageLocked k i hl hoff)), Dev.rb_wf_same _ _ _ _ rfl (by decide), ?_, rfl⟩
  intro b hb
  exact Dev.get_wf_ne _ _ _ (by simpa using hb)

end

/-- Settles O8: the first of tests 1, 3 and 4 of Table 2-11 that fails ends the write with its own count or flag. -/
theorem writesTurnedAwayChangeNoRegister : Obligations.WritesTurnedAwayChangeNoRegister :=
  ⟨registerWrite_unassigned_counts, registerWrite_offline_counts, registerWrite_locked_shows⟩

/-! ### A staging set of one word -/

/-- A started block with the host link up, whose staging set for `HIF_W2_BASE` holds the low word alone.  Commands stage both words of the
value (R59); that they reach such a state is not claimed, but the statement's premises hold in it. -/
def lowWordStagedState : State where
  __ := State.reset
  dev := { Dev.reset with
    boot := { Boot.reset with done := 13, runs := [], keeperOn := true }
    hif := { Hif.reset with linkUp := true, linkWasUp := true, staged := [(Dev.pathKey 0 R.hifW2BaseLo, [0x300000#32])] } }

/-- The commit stores the words of the set, so that the high word stands as it was. -/
theorem w2BaseCommit_keeps_high_of_lowWordStaged {t : State} (ht : exec (.w2BaseCommit 0 5#32) lowWordStagedState = .next t) :
    t.dev.rn R.hifW2BaseHi = 0 := by
  change onDev (Dev.arrives lowWordStagedState.vault noOut 0 R.hifW2BaseHi 5) lowWordStagedState = .next t at ht
  obtain ⟨hdev, -, -⟩ := onDev_frame _ _ _ ht
  rw [hdev]
  decide +kernel

/-- Refutes O17, by its first clause: the clause does not ask that the staging set holds both words of the base, and from a set of the low
word alone the commit of the value 5 leaves `HIF_W2_BASE_HI` at 0. -/
theorem not_hostWindowsReachTheirMemories : ¬ Obligations.HostWindowsReachTheirMemories := by
  rintro ⟨hcommit, -⟩
  obtain ⟨t, ht, hhigh, -⟩ := hcommit 0 5#32 lowWordStagedState (by decide +kernel) (by decide) (by decide +kernel)
  exact absurd ((w2BaseCommit_keeps_high_of_lowWordStaged ht).symm.trans hhigh) (by decide)

/-! ### The link and its resets -/

/-- The link comes up (R101). -/
theorem pcieLinkUp_restores (s : State) (hdone : 6 ≤ s.dev.boot.done) (hdeg : s.dev.rb R.bootDegraded F.bootDegradedHostlink = false)
    (hdown : s.dev.hif.linkUp = false) :
    ∃ t, exec .pcieLinkUp s = .next t ∧
      t.dev.hif.linkUp = true ∧ t.dev.hif.linkWasUp = true ∧ t.dev.sameQuiet s.dev [] ∧
      t.dev = { s.dev with regs := t.dev.regs, evt := t.dev.evt, sram := t.dev.sram, hostMem := t.dev.hostMem, hif := t.dev.hif,
                           seq := t.dev.seq, chans := t.dev.chans, lvls := t.dev.lvls, acq := t.dev.acq } := by
  refine ⟨{ s with dev := s.dev.linkUp }, rfl, ?_⟩
  dsimp only
  rw [Dev.linkUp_eq s.dev hdone hdeg hdown]
  have hun := Dev.msixAll_unsent s.dev.linked
  have hlink := Dev.link_of_unsent hun
  refine ⟨(congrArg Hif.linkUp hlink :), (congrArg Hif.linkWasUp hlink :), ?_, Dev.frame_of_calm (congrArg Dev.calm hun :) (congrArg Dev.apg hun :)⟩
  intro a hq _
  exact Dev.msixAll_get _ (ne_of_quiet hq (mem_headRegs (by simp))) (ne_of_quiet hq (mem_headRegs (by simp)))

theorem quiet_dmaRegs : ∀ e : Fin 8, quiet (R.dmaCtrl e) = true ∧ quiet (R.dmaTail e) = true ∧ quiet (R.dmaStat e) = true := by decide +kernel

/-- A DMA engine at reset: nothing to do, and not running (R46). -/
theorem resetWord_dmaRegs : ∀ e : Fin 8, (resetWord (R.dmaTail e)).toNat = 0 ∧ fget (resetWord (R.dmaStat e)) F.dmaStatRunning = 0 := by decide +kernel

theorem dmaCtrl_mem {e : Nat} (h : e < 8) :
    R.dmaCtrl e ∈ [R.dmaCtrl 0, R.dmaCtrl 1, R.dmaCtrl 2, R.dmaCtrl 3, R.dmaCtrl 4, R.dmaCtrl 5, R.dmaCtrl 6, R.dmaCtrl 7] :=
  List.mem_map_of_mem (f := R.dmaCtrl) (List.mem_range.mpr h)

/-- A reset of the host interface (R36). -/
theorem hostInterfaceReset_clears (k : Fin 4) (s : State) (hdone : 6 ≤ s.dev.boot.done) (hupd : s.dev.updating = false) :
    ∃ t, exec (.hostInterfaceReset k) s = .next t ∧
      t.dev.hif.linkUp = (s.dev.hif.linkUp && decide (k.val = 3)) ∧ t.dev.hif.d3hot = false ∧ t.dev.hif.fmask = false ∧ t.dev.dma = [] ∧
      (∀ e : Fin 8, t.dev.get (R.dmaCtrl e) = resetWord (R.dmaCtrl e) ∧ t.dev.rn (R.dmaTail e) = 0 ∧ t.dev.rb (R.dmaStat e) F.dmaStatRunning = false) ∧
      t.dev.sameOff s.dev 0x60 ∧ t.dev.dram = s.dev.dram ∧ t.dev.ledger = s.dev.ledger ∧ t.dev.gtc = s.dev.gtc := by
  have hcalm := Dev.hifReset_calm s.dev k hdone hupd
  have hlink := Dev.hifReset_link s.dev k hdone hupd
  have hget := fun a => Dev.hifReset_get (a := a) s.dev k hdone hupd
  refine ⟨{ s with dev := s.dev.hifReset k }, rfl, (congrArg Hif.linkUp hlink :), (congrArg Hif.d3hot hlink :), (congrArg Hif.fmask hlink :),
    (congrArg Dev.dma hcalm :), ?_, ?_, (congrArg Dev.dram hcalm :), (congrArg Dev.ledger hcalm :), (congrArg Dev.gtc hcalm :)⟩
  · intro e
    obtain ⟨hc, ht, hs⟩ := quiet_dmaRegs e
    obtain ⟨htail, hrun⟩ := resetWord_dmaRegs e
    dsimp only
    refine ⟨?_, ?_, ?_⟩
    · rw [hget _ hc, if_pos (by unfold R.dmaCtrl; omega)]
    · rw [Dev.rn, hget _ ht, if_pos (by unfold R.dmaTail; omega), htail]
    · rw [Dev.rb, Dev.rf, hget _ hs, if_pos (by unfold R.dmaStat; omega), hrun]
      rfl
  · intro a hq hpage
    exact (hget a hq).trans (if_neg hpage)

/-- Entering D3hot aborts every engine (R37, R45). -/
theorem d3hotEntry_aborts (s : State) (hup : s.dev.hif.linkUp = true) (hd0 : s.dev.hif.d3hot = false) :
    ∃ t, exec .d3hotEntry s = .next t ∧
      t.dev.hif.d3hot = true ∧ (∀ e : Fin 8, t.dev.rb (R.dmaCtrl e) F.dmaCtrlEnable = false) ∧
      (∀ e : Fin 8, (t.dev.dmaOf e).aborting = ((s.dev.dmaOf e).aborting || (s.dev.dmaOf e).desc.isSome)) ∧
      t.dev.sameRegs s.dev [R.dmaCtrl 0, R.dmaCtrl 1, R.dmaCtrl 2, R.dmaCtrl 3, R.dmaCtrl 4, R.dmaCtrl 5, R.dmaCtrl 6, R.dmaCtrl 7] ∧
      t.dev = { s.dev with regs := t.dev.regs, hif := t.dev.hif, dma := t.dev.dma } := by
  refine ⟨{ s with dev := s.dev.d3Enter }, rfl, ?_⟩
  dsimp only
  rw [Dev.d3Enter_eq s.dev hup hd0]
  refine ⟨rfl, fun e => ?_, fun e => ?_, fun a ha => ?_, Dev.frame_of_unaborted ?_⟩
  · rw [Dev.setD3hot_rb, Dev.dmaAborts_enable]
    simp
  · rw [Dev.setD3hot_dmaOf, Dev.dmaAborts_dmaOf, if_pos (List.mem_range.mpr e.isLt), Dma.aborted_aborting]
  · rw [Dev.setD3hot_get, Dev.dmaAborts_get (fun e he h => ha (by rw [h]; exact dmaCtrl_mem (List.mem_range.mp he)))]
  · rw [Dev.setD3hot_unaborted, foldl_keep Dev.unaborted Dev.dmaAbort Dev.dmaAbort_unaborted]

/-- Leaving D3hot sends the messages that nothing masks any more (R37, R48). -/
theorem d3hotExit_releases (s : State) (hd3 : s.dev.hif.d3hot = true) (hup : s.dev.hif.linkUp = true) (hfm : s.dev.hif.fmask = false) :
    ∃ t, exec .d3hotExit s = .next t ∧
      t.dev.hif.d3hot = false ∧ (∀ v : Fin 64, s.dev.rb (R.msixVctrl v) F.msixVctrlMask = false → t.dev.msixPending v = false) ∧
      t.dev.sameRegs s.dev [R.msixPba 0, R.msixPba 1] ∧ t.dev = { s.dev with regs := t.dev.regs, hif := t.dev.hif, hostMem := t.dev.hostMem } := by
  refine ⟨{ s with dev := s.dev.d3Leave }, rfl, ?_⟩
  dsimp only
  rw [Dev.d3Leave_eq s.dev hd3]
  have hun := Dev.msixAll_unsent (s.dev.setD3hot false)
  refine ⟨(congrArg Hif.d3hot (Dev.link_of_unsent hun) :), fun v hv => ?_, fun a ha => ?_, (Dev.frame_of_unsent hun).trans rfl⟩
  · have hmask : (s.dev.setD3hot false).msixMasked v = (s.dev.rb (R.msixVctrl v) F.msixVctrlMask || s.dev.hif.fmask || false ||
        !s.dev.hif.linkUp) := rfl
    rw [Dev.msixAll_pending _ v.isLt, hmask, hv, hfm, hup]
    simp
  · simp only [List.mem_cons, List.not_mem_nil, or_false, not_or] at ha
    exact Dev.msixAll_get _ ha.1 ha.2

/-- Settles O18: each change of state of the function ends in a sweep of the vectors or of the engines, and every step of a sweep, as every
event, leaves what lies outside its own scope. -/
theorem hostStatesStopAndRestoreTheLink : Obligations.HostStatesStopAndRestoreTheLink :=
  ⟨pcieLinkUp_restores, hostInterfaceReset_clears, d3hotEntry_aborts, d3hotExit_releases⟩

end Sys2Proof.Machine
end

section
/-! PROOFS. Facts about the SYNC engine that the statements of the time family need: what a write of `SYNC_CTRL` that nothing turns away leaves
behind, and what a pulse of SYNC_OUT does to its train. -/
namespace Sys2Proof.Machine

/-! ### Fields inside a field that is cleared -/

/-- Bits of a field that is written with zeros read 0. -/
theorem nbits_setNbits_zero_within (x : Nat) {hi lo h l : Nat} (hl : lo ≤ l) (hh : h ≤ hi) : nbits (setNbits x hi lo 0) h l = 0 := by
  apply Nat.eq_of_testBit_eq
  intro j
  have hz : (nbits (setNbits x hi lo 0) hi lo).testBit (l - lo + j) = false := by rw [nbits_setNbits, Nat.zero_mod, Nat.zero_testBit]
  rw [nbits_testBit, show lo + (l - lo + j) = l + j by omega] at hz
  rw [nbits_testBit, Nat.zero_testBit]
  by_cases hj : j < h + 1 - l
  · rw [decide_eq_true (by omega : l - lo + j < hi + 1 - lo)] at hz
    rw [← Bool.true_and (Nat.testBit ..), hz, Bool.and_false]
  · rw [decide_eq_false hj, Bool.false_and]

namespace Dev

theorem rf_wf_zero_within (d : Dev) (a : Nat) (f g : Fld) (h : fldOk f = true) (hl : f.lo ≤ g.lo) (hh : g.hi ≤ f.hi) :
    (d.wf a f 0).rf a g = 0 := by
  rw [rf, get_wf, if_pos rfl, fget, fset_toNat _ _ _ h, nbits_setNbits_zero_within _ hl hh]

/-! ### Registers that stand -/

/-- A wide value stands with its words. -/
theorem wide_congr {e d : Dev} : ∀ (n a : Nat), (∀ j < n, e.get (a + 4 * j) = d.get (a + 4 * j)) → e.wide a n = d.wide a n := by
  intro n
  induction n with
  | zero => intro a _; rfl
  | succ n ih =>
    intro a h
    have hlow : e.rn a = d.rn a := congrArg BitVec.toNat (h 0 (Nat.succ_pos n))
    rw [wide, wide, hlow, ih (a + 4) fun j hj => by rw [Nat.add_assoc, Nat.add_comm 4, ← Nat.mul_succ]; exact h (j + 1) (Nat.succ_lt_succ hj)]

theorem rf_congr {e d : Dev} {a : Nat} (h : e.get a = d.get a) (f : Fld) : e.rf a f = d.rf a f := congrArg (fget · f) h

theorem rb_congr {e d : Dev} {a : Nat} (h : e.get a = d.get a) (f : Fld) : e.rb a f = d.rb a f := congrArg (fget · f != 0) h

theorem judged_sync (d : Dev) (page : Nat) (f : Dev → Dev) : (d.judged page f).1.sync = (f (d.cleared page)).sync := by
  rw [judged_fst]
  split <;> rfl

/-! ### What the SYNC engine leaves alone -/

/-- The device without what a command of the SYNC engine may touch but for its events: registers and the engine's record. -/
def unsynced (d : Dev) : Dev := { d with regs := [], sync := Sync.reset }

theorem wf_unsynced (d : Dev) (a : Nat) (f : Fld) (v : Nat) : (d.wf a f v).unsynced = d.unsynced := rfl

theorem frame_of_unsynced {e d : Dev} (h : e.unsynced = d.unsynced) : e = { d with regs := e.regs, sync := e.sync } :=
  calc e = { e.unsynced with regs := e.regs, sync := e.sync } := rfl
    _ = { d.unsynced with regs := e.regs, sync := e.sync } := by rw [h]

theorem storedWord_unsynced (d : Dev) (a w : Nat) : (d.storedWord a w).unsynced = d.unsynced := by
  unfold storedWord
  split
  · rfl
  · split <;> rfl

theorem judged_unsynced (d : Dev) (page : Nat) (f : Dev → Dev) (h : ∀ x, (f x).unsynced = x.unsynced) :
    (d.judged page f).1.unsynced = d.unsynced := by
  rw [judged_fst]
  split
  · rw [badWrite, wf_unsynced, h, cleared, wf_unsynced]
  · rw [h, cleared, wf_unsynced]

/-! ### What restarts capture -/

/-- The SYNC engine after a write of `SYNC_CTRL` (R80, R83, R84). -/
def syncRestarted (d : Dev) : Sync :=
  let armed := d.rb R.syncCtrl F.syncCtrlOutArm
  { d.sync with
    n := 0, errs := [], lastCap := none, missed := false, relay := []
    outNext := if armed then some (d.wide R.syncOutAt0 3) else none
    outLeft := if armed then (if d.rb R.syncCtrl F.syncCtrlOutCont then none else some (d.rf R.syncCtrl F.syncCtrlOutRepeat)) else none }

theorem syncWrite_sync (d : Dev) : d.syncWrite.sync = d.syncRestarted := by
  unfold syncWrite
  dsimp only
  rw [wf_sync, wf_sync, wf_sync, wf_sync]
  rfl

theorem syncWrite_unsynced (d : Dev) : d.syncWrite.unsynced = d.unsynced := by
  unfold syncWrite
  dsimp only
  rw [wf_unsynced, wf_unsynced, wf_unsynced, wf_unsynced]
  rfl

theorem syncWrite_get (d : Dev) {a : Nat} (h : a ≠ R.syncStat) : d.syncWrite.get a = d.get a := by
  unfold syncWrite
  dsimp only
  iterate 4 rw [get_wf_ne _ _ _ h]
  rfl

/-- `SYNC_STAT` [4:2] reads 0 (R84). -/
theorem syncWrite_results (d : Dev) : d.syncWrite.rf R.syncStat ⟨4, 2⟩ = 0 := by
  unfold syncWrite
  dsimp only
  rw [rf_wf_apart _ _ _ _ _ rfl rfl, rf_wf_apart _ _ _ _ _ rfl rfl, rf_wf_apart _ _ _ _ _ rfl rfl]
  exact rf_wf_zero_within _ _ _ _ rfl (by decide) (by decide)

theorem syncWrite_alignFail (d : Dev) : d.syncWrite.rb R.syncStat F.syncStatAlignFail = false := by
  unfold syncWrite rb
  dsimp only
  rw [rf_wf_apart _ _ _ _ _ rfl rfl, rf_wf_apart _ _ _ _ _ rfl rfl, rf_wf_apart _ _ _ _ _ rfl rfl,
    rf_wf_zero_within _ _ _ _ rfl (by decide) (by decide)]
  rfl

theorem syncWrite_capCnt (d : Dev) : d.syncWrite.rf R.syncStat F.syncStatCapCnt = 0 := by
  unfold syncWrite
  dsimp only
  rw [rf_wf_apart _ _ _ _ _ rfl rfl, rf_wf_apart _ _ _ _ _ rfl rfl, rf_wf_same _ _ _ _ rfl]
  rfl

theorem syncWrite_outBusy (d : Dev) : d.syncWrite.rb R.syncStat F.syncStatOutBusy = d.rb R.syncCtrl F.syncCtrlOutArm := by
  unfold syncWrite
  dsimp only
  rw [rb_wf_apart _ _ _ _ _ rfl rfl, rb_wf_same _ _ _ _ rfl (by cases d.rb _ _ <;> decide)]
  cases d.rb R.syncCtrl F.syncCtrlOutArm <;> rfl

theorem syncWrite_alignBusy (d : Dev) :
    d.syncWrite.rf R.syncStat F.syncStatAlignBusy = if d.rf R.syncCtrl F.syncCtrlInMode = 2 then 1 else 0 := by
  unfold syncWrite
  dsimp only
  rw [rf_wf_same _ _ _ _ rfl]
  by_cases h : d.rf R.syncCtrl F.syncCtrlInMode = 2
  · rw [if_pos h, beq_iff_eq.mpr h]
    rfl
  · rw [if_neg h, beq_eq_false_iff_ne.mpr h]
    rfl

/-! ### A write of `SYNC_CTRL` -/

/-- What a write of `w` to `SYNC_CTRL` that nothing turns away leaves of the device `d` (R80, R83, R84). -/
structure CaptureRestarted (e d : Dev) (w : Nat) : Prop where
  n : e.sync.n = 0
  errs : e.sync.errs = []
  lastCap : e.sync.lastCap = none
  relay : e.sync.relay = []
  outNext : e.sync.outNext = if nbit w 0 = true then some (d.wide R.syncOutAt0 3) else none
  outLeft : e.sync.outLeft = if nbit w 0 = true then (if nbit w 8 = true then none else some (nbits w 31 16)) else none
  inMode : e.rf R.syncCtrl F.syncCtrlInMode = nbits w 5 4
  outArm : e.rb R.syncCtrl F.syncCtrlOutArm = nbit w 0
  capCnt : e.rf R.syncStat F.syncStatCapCnt = 0
  outBusy : e.rb R.syncStat F.syncStatOutBusy = nbit w 0
  results : e.rf R.syncStat ⟨4, 2⟩ = 0
  alignFail : e.rb R.syncStat F.syncStatAlignFail = false
  alignBusy : e.rf R.syncStat F.syncStatAlignBusy = if nbits w 5 4 = 2 then 1 else 0
  regs : e.sameRegs d [R.syncCtrl, R.syncStat, pstat 2]
  frame : e = { d with regs := e.regs, sync := e.sync }

theorem arrives_syncCtrl (v : Vault) (out : Sys2Proof.Outside) (path w : Nat) (d : Dev) (h : d.takes path R.syncCtrl w = true) :
    d.arrives v out path R.syncCtrl w = ((d.storedWord R.syncCtrl w).judged 2 syncWrite).1 :=
  takes_arrives v out path d R.syncCtrl w .gtc 0 rfl h rfl (.inl (by decide))

/-- The row of `SYNC_CTRL` in the register map: every field of it may be written. -/
theorem regDef_syncCtrl : regDef R.syncCtrl = some ⟨0x60, 1, 0, 0, 0xFFFF0131, 0, 0, 0, 0, 0, [], (0, 1)⟩ := rfl

theorem storedWord_syncCtrl_get (d : Dev) (w : Nat) {a : Nat} (h : a ≠ R.syncCtrl) : (d.storedWord R.syncCtrl w).get a = d.get a := by
  rw [storedWord_get d R.syncCtrl w .gtc 0 _ rfl rfl regDef_syncCtrl, if_neg h]

theorem storedWord_syncCtrl_rf (d : Dev) (w : Nat) (f : Fld) (hf : f.hi < 32)
    (hw : nbits 0xFFFF0131 f.hi f.lo = 2 ^ (f.hi + 1 - f.lo) - 1) : (d.storedWord R.syncCtrl w).rf R.syncCtrl f = nbits w f.hi f.lo :=
  storedWord_rf d R.syncCtrl w f .gtc 0 _ rfl rfl regDef_syncCtrl hf hw

theorem storedWord_syncCtrl_rb (d : Dev) (w i : Nat) (hi : i < 32) (hw : nbits 0xFFFF0131 i i = 2 ^ (i + 1 - i) - 1) :
    (d.storedWord R.syncCtrl w).rb R.syncCtrl ⟨i, i⟩ = nbit w i := by
  rw [rb, storedWord_syncCtrl_rf d w ⟨i, i⟩ hi hw, nbits_one]
  cases nbit w i <;> rfl

/-- The state in which the effect of the write runs: `SYNC_CTRL` holds the word, `BADWRITE` reads 0, all else stands. -/
def syncCtrlStored (d : Dev) (w : Nat) : Dev := (d.storedWord R.syncCtrl w).cleared 2

theorem syncCtrlStored_get (d : Dev) (w : Nat) {a : Nat} (h : a ≠ R.syncCtrl) (hp : a ≠ pstat 2) : (d.syncCtrlStored w).get a = d.get a := by
  rw [syncCtrlStored, cleared, get_wf_ne _ _ _ hp, storedWord_syncCtrl_get d w h]

theorem syncCtrlStored_ctrl (d : Dev) (w : Nat) : (d.syncCtrlStored w).get R.syncCtrl = (d.storedWord R.syncCtrl w).get R.syncCtrl :=
  get_wf_ne _ _ _ (by decide)

theorem syncCtrlStored_outAt (d : Dev) (w : Nat) : (d.syncCtrlStored w).wide R.syncOutAt0 3 = d.wide R.syncOutAt0 3 :=
  wide_congr 3 _ fun _ _ => syncCtrlStored_get d w (by unfold R.syncOutAt0 R.syncCtrl; omega) (by unfold R.syncOutAt0 pstat; omega)

/-- A write of `SYNC_CTRL` that nothing turns away restarts capture in the mode written and arms or ends the train. -/
theorem takes_syncCtrl_restarts (v : Vault) (out : Sys2Proof.Outside) (path w : Nat) (d : Dev) (h : d.takes path R.syncCtrl w = true) :
    CaptureRestarted (d.arrives v out path R.syncCtrl w) d w := by
  rw [arrives_syncCtrl v out path w d h]
  have hmode : (d.syncCtrlStored w).rf R.syncCtrl F.syncCtrlInMode = nbits w 5 4 :=
    (rf_congr (syncCtrlStored_ctrl d w) _).trans (storedWord_syncCtrl_rf d w _ (by decide) rfl)
  have harm : (d.syncCtrlStored w).rb R.syncCtrl F.syncCtrlOutArm = nbit w 0 :=
    (rb_congr (syncCtrlStored_ctrl d w) _).trans (storedWord_syncCtrl_rb d w 0 (by decide) rfl)
  have hcont : (d.syncCtrlStored w).rb R.syncCtrl F.syncCtrlOutCont = nbit w 8 :=
    (rb_congr (syncCtrlStored_ctrl d w) _).trans (storedWord_syncCtrl_rb d w 8 (by decide) rfl)
  have hrep : (d.syncCtrlStored w).rf R.syncCtrl F.syncCtrlOutRepeat = nbits w 31 16 :=
    (rf_congr (syncCtrlStored_ctrl d w) _).trans (storedWord_syncCtrl_rf d w _ (by decide) rfl)
  have hsync : ((d.storedWord R.syncCtrl w).judged 2 syncWrite).1.sync = (d.syncCtrlStored w).syncRestarted :=
    (judged_sync _ _ _).trans (syncWrite_sync _)
  have hget : ∀ a, a ≠ pstat 2 → ((d.storedWord R.syncCtrl w).judged 2 syncWrite).1.get a = (d.syncCtrlStored w).syncWrite.get a :=
    fun a ha => judged_get_ne _ _ _ ha
  have hctrl : ((d.storedWord R.syncCtrl w).judged 2 syncWrite).1.get R.syncCtrl = (d.syncCtrlStored w).get R.syncCtrl :=
    (hget _ (by decide)).trans (syncWrite_get _ (by decide))
  have hstat := hget R.syncStat (by decide)
  exact {
    n := hsync ▸ rfl
    errs := hsync ▸ rfl
    lastCap := hsync ▸ rfl
    relay := hsync ▸ rfl
    outNext := by rw [hsync, syncRestarted, harm, syncCtrlStored_outAt]
    outLeft := by rw [hsync, syncRestarted, harm, hcont, hrep]
    inMode := (rf_congr hctrl _).trans hmode
    outArm := (rb_congr hctrl _).trans harm
    capCnt := (rf_congr hstat _).trans (syncWrite_capCnt _)
    outBusy := (rb_congr hstat _).trans ((syncWrite_outBusy _).trans harm)
    results := (rf_congr hstat _).trans (syncWrite_results _)
    alignFail := (rb_congr hstat _).trans (syncWrite_alignFail _)
    alignBusy := by rw [rf_congr hstat, syncWrite_alignBusy, hmode]
    regs := by
      intro a ha
      simp only [List.mem_cons, List.not_mem_nil, or_false, not_or] at ha
      obtain ⟨hc, hs, hp⟩ := ha
      rw [hget a hp, syncWrite_get _ hs, syncCtrlStored_get d w hc hp]
    frame := frame_of_unsynced ((judged_unsynced _ _ _ syncWrite_unsynced).trans (storedWord_unsynced _ _ _)) }

/-! ### Pulses of SYNC_OUT (R80) -/

/-- A pulse that further pulses follow. -/
theorem syncPulse_next (d : Dev) {a n : Nat} (ha : d.sync.outNext = some a) (hdue : a < d.now + hclk) (hl : d.sync.outLeft = some (n + 1)) :
    d.syncPulse = { d with sync := { d.sync with outNext := some (a + d.syncTicks), outLeft := some n } } := by
  unfold syncPulse
  simp only [ha, hl, if_neg (Nat.not_le.mpr hdue)]
  rfl

/-- The last pulse of a train. -/
theorem syncPulse_last (d : Dev) {a : Nat} (ha : d.sync.outNext = some a) (hdue : a < d.now + hclk) (hl : d.sync.outLeft = some 0) :
    d.syncPulse = (({ d with sync := { d.sync with outNext := none, outLeft := none } } : Dev).wf R.syncCtrl F.syncCtrlOutArm 0).wf
      R.syncStat F.syncStatOutBusy 0 := by
  unfold syncPulse
  simp only [ha, hl, if_neg (Nat.not_le.mpr hdue)]

end Dev
end Sys2Proof.Machine
end

section
/-! PROOFS. The time family: writes of `SYNC_CTRL` and the trains of SYNC_OUT. -/
namespace Sys2Proof.Machine

/-! ### Writes of `SYNC_CTRL` -/

/-- A write of `SYNC_CTRL` as a command: the next state has its captures restarted. -/
theorem writeWith_syncCtrl_restarts (out : Outside) (path : Fin 7) (w : Word) (s : State) (ht : s.dev.takes path R.syncCtrl w.toNat = true) :
    ∃ t, writeWith out path R.syncCtrl w s = .next t ∧ Dev.CaptureRestarted t.dev s.dev w.toNat :=
  ⟨{ s with dev := s.dev.arrives s.vault out path R.syncCtrl w.toNat }, rfl, Dev.takes_syncCtrl_restarts s.vault out path w.toNat s.dev ht⟩

/-- Arming: the first pulse stands at `SYNC_OUT_AT` (R80). -/
theorem syncOutArm_arms (path : Fin 7) (w : Word) (s : State) (ht : s.dev.takes path R.syncCtrl w.toNat = true) (harm : nbit w.toNat 0 = true) :
    ∃ t, exec (.syncOutArm path w) s = .next t ∧
      t.dev.sync.outNext = some (s.dev.wide R.syncOutAt0 3) ∧
      t.dev.sync.outLeft = (if nbit w.toNat 8 = true then none else some (nbits w.toNat 31 16)) ∧ t.dev.rb R.syncStat F.syncStatOutBusy = true ∧
      t.dev.rb R.syncCtrl F.syncCtrlOutArm = true ∧ t.dev.sameRegs s.dev [R.syncCtrl, R.syncStat, pstat 2] ∧
      t.dev = { s.dev with regs := t.dev.regs, sync := t.dev.sync } := by
  obtain ⟨t, hex, hr⟩ := writeWith_syncCtrl_restarts noOut path w s ht
  exact ⟨t, hex, hr.outNext.trans (if_pos harm), hr.outLeft.trans (if_pos harm), hr.outBusy.trans harm, hr.outArm.trans harm, hr.regs, hr.frame⟩

/-- A write that arms no train: capture starts again in the mode written, and only ALIGN is busy (R83, R84). -/
theorem writeBy_syncCtrl_disarmed (path : Fin 7) (w : Word) (s : State) (busy : Bool) (ht : s.dev.takes path R.syncCtrl w.toNat = true)
    (hbusy : decide (nbits w.toNat 5 4 = 2) = busy) (harm : nbit w.toNat 0 = false) :
    ∃ t, writeBy path R.syncCtrl w s = .next t ∧
      t.dev.sync.n = 0 ∧ t.dev.sync.errs = [] ∧ t.dev.sync.lastCap = none ∧ t.dev.sync.relay = [] ∧ t.dev.rf R.syncStat F.syncStatCapCnt = 0 ∧
      t.dev.rf R.syncCtrl F.syncCtrlInMode = nbits w.toNat 5 4 ∧ t.dev.sync.outNext = none ∧ t.dev.rb R.syncStat F.syncStatAlignBusy = busy ∧
      t.dev.rb R.syncStat F.syncStatAlignFail = false ∧ t.dev.sameRegs s.dev [R.syncCtrl, R.syncStat, pstat 2] ∧
      t.dev = { s.dev with regs := t.dev.regs, sync := t.dev.sync } := by
  obtain ⟨t, hex, hr⟩ := writeWith_syncCtrl_restarts noOut path w s ht
  refine ⟨t, hex, hr.n, hr.errs, hr.lastCap, hr.relay, hr.capCnt, hr.inMode, hr.outNext.trans (if_neg (by simp [harm])), ?_, hr.alignFail,
    hr.regs, hr.frame⟩
  rw [Dev.rb, hr.alignBusy, ← hbusy]
  by_cases h : nbits w.toNat 5 4 = 2 <;> simp [h]

/-- Any write clears `SYNC_STAT` [4:1] but for the alignment that it begins, the capture count and the pulse number (R84). -/
theorem writeWith_syncCtrl_clearsStatus (out : Outside) (path : Fin 7) (w : Word) (s : State)
    (ht : s.dev.takes path R.syncCtrl w.toNat = true) :
    ∃ t, writeWith out path R.syncCtrl w s = .next t ∧
      t.dev.rf R.syncStat ⟨4, 2⟩ = 0 ∧ t.dev.rf R.syncStat ⟨1, 1⟩ = (if nbits w.toNat 5 4 = 2 then 1 else 0) ∧
      t.dev.rf R.syncStat F.syncStatCapCnt = 0 ∧ t.dev.sync.n = 0 ∧ t.dev.sameRegs s.dev [R.syncCtrl, R.syncStat, pstat 2] ∧
      t.dev = { s.dev with regs := t.dev.regs, sync := t.dev.sync } := by
  obtain ⟨t, hex, hr⟩ := writeWith_syncCtrl_restarts out path w s ht
  exact ⟨t, hex, hr.results, hr.alignBusy, hr.capCnt, hr.n, hr.regs, hr.frame⟩

/-- Settles O59: the commands that name a mode are one register write, and it restarts capture whatever its path and its word. -/
theorem inModeWriteRestartsCapture : Obligations.InModeWriteRestartsCapture :=
  ⟨writeWith_syncCtrl_clearsStatus noOut, writeWith_syncCtrl_clearsStatus noOut, writeWith_syncCtrl_clearsStatus noOut,
    writeWith_syncCtrl_clearsStatus noOut, fun path w out s ht => by
      rw [exec_registerWrite_whole path _ w 15 out s (.inr rfl)]
      exact writeWith_syncCtrl_clearsStatus out path w s ht⟩

/-! ### Trains of SYNC_OUT -/

/-- A pulse that is not the last moves the train by the period (R80). -/
theorem syncOutPulse_moves (a n : Nat) (s : State) (ha : s.dev.sync.outNext = some a) (hdue : a < s.dev.now + 131072)
    (hl : s.dev.sync.outLeft = some (n + 1)) :
    ∃ t, exec .syncOutPulse s = .next t ∧
      t.dev.sync.outNext = some (a + s.dev.rn R.syncPeriod * 65536) ∧ t.dev.sync.outLeft = some n ∧ t.dev.sameRegs s.dev [] ∧
      t.dev = { s.dev with regs := t.dev.regs, sync := t.dev.sync } := by
  refine ⟨{ s with dev := s.dev.syncPulse }, rfl, ?_⟩
  dsimp only
  rw [Dev.syncPulse_next s.dev ha hdue hl]
  exact ⟨rfl, rfl, fun _ _ => rfl, rfl⟩

/-- The last pulse ends the train (R80). -/
theorem syncOutPulse_ends (a : Nat) (s : State) (ha : s.dev.sync.outNext = some a) (hdue : a < s.dev.now + 131072)
    (hl : s.dev.sync.outLeft = some 0) :
    ∃ t, exec .syncOutPulse s = .next t ∧
      t.dev.sync.outNext = none ∧ t.dev.rb R.syncCtrl F.syncCtrlOutArm = false ∧ t.dev.rb R.syncStat F.syncStatOutBusy = false ∧
      t.dev.sameRegs s.dev [R.syncCtrl, R.syncStat] ∧ t.dev = { s.dev with regs := t.dev.regs, sync := t.dev.sync } := by
  refine ⟨{ s with dev := s.dev.syncPulse }, rfl, ?_⟩
  dsimp only
  rw [Dev.syncPulse_last s.dev ha hdue hl]
  refine ⟨rfl, ?_, Dev.rb_wf_same _ _ _ _ rfl (by decide), ?_, rfl⟩
  · rw [Dev.rb_wf_ne _ _ _ _ (by decide), Dev.rb_wf_same _ _ _ _ rfl (by decide)]
    rfl
  · intro b hb
    simp only [List.mem_cons, List.not_mem_nil, or_false, not_or] at hb
    rw [Dev.get_wf_ne _ _ _ hb.2, Dev.get_wf_ne _ _ _ hb.1]
    rfl

/-- Settles O23: every write of `SYNC_CTRL` restarts capture and arms or ends the train by its own bits, and a pulse moves the train or ends
it by the count of pulses left. -/
theorem syncOutTrainsRunAndEnd : Obligations.SyncOutTrainsRunAndEnd :=
  ⟨syncOutArm_arms,
    fun path w s ht hm => writeBy_syncCtrl_disarmed path w s false ht (by rw [hm]; rfl),
    fun path w s ht hm => writeBy_syncCtrl_disarmed path w s false ht (by rw [hm]; rfl),
    fun path w s ht hm => writeBy_syncCtrl_disarmed path w s true ht (by rw [hm]; rfl),
    fun path w s ht hm => writeBy_syncCtrl_disarmed path w s false ht (by rw [hm]; rfl),
    syncOutPulse_moves, syncOutPulse_ends⟩

end Sys2Proof.Machine
end

section
/-! PROOFS. The time family: five statements that fail.  Four of them have a clause with an event whose reaction STOP_PORT (R438) cuts the
segment that a running generator produces, and a frame that keeps `Dev.apg` as it was. -/
namespace Sys2Proof.Machine

/-! ### A towpath mismatch that is no occurrence -/

/-- The state after commands that each answer a next state. -/
def afterAll (s : State) : List Sys2Proof.Instr → State
  | [] => s
  | c :: cs => match exec c s with
    | .next t => afterAll t cs
    | _ => s

/-- A started block after these commands, between which no time passes: a towpath mismatch; a GTC step of one HCLK cycle; a clear of the
sticky bit, which is bit 5 of the `CLK` page; and the step back (R73, R434). -/
def steppedBackState : State :=
  afterAll { State.reset with dev := generatingDev Ev.towpathMismatch }
    [.towpathCheck false,
      .registerWrite 0 ⟨R.gtcStep0, by decide⟩ 0x20000#32 15 noOut, .registerWrite 0 ⟨R.gtcStep1, by decide⟩ 0#32 15 noOut,
      .gtcStepCommit 0 0#32,
      .registerWrite 0 0x1014 0x20#32 15 noOut,
      .registerWrite 0 ⟨R.gtcStep0, by decide⟩ 0xFFFE0000#32 15 noOut, .registerWrite 0 ⟨R.gtcStep1, by decide⟩ 0xFFFFFFFF#32 15 noOut,
      .gtcStepCommit 0 0xFFFF#32]

/-- There the GTC counts, the source is enabled, and a further mismatch leaves its sticky bit 0: the source has occurred in this HCLK cycle
(R433). -/
theorem towpath_unlatched_of_steppedBack :
    steppedBackState.dev.counting = true ∧ (steppedBackState.dev.esrc Ev.towpathMismatch).en = true ∧
      ((steppedBackState.dev.towpath false).esrc Ev.towpathMismatch).sticky = false := by decide +kernel

theorem dev_of_towpathCheck {s t : State} (h : exec (.towpathCheck false) s = .next t) : t.dev = s.dev.towpath false :=
  (onDev_frame (fun d => d.towpath false) s t h).1

/-- Refutes O22, by its fourth clause: a mismatch in an HCLK cycle in which the source has occurred is no occurrence, and where the sticky bit
was cleared since, it stays 0. -/
theorem not_gtcStepsAreAddedToTheGtc : ¬ Obligations.GtcStepsAreAddedToTheGtc := by
  rintro ⟨-, -, -, hmismatch⟩
  obtain ⟨hcount, hen, hclear⟩ := towpath_unlatched_of_steppedBack
  obtain ⟨t, ht, hsticky, -⟩ := hmismatch steppedBackState hcount hen
  rw [dev_of_towpathCheck ht] at hsticky
  exact Bool.false_ne_true (hclear.symm.trans hsticky)

/-! ### A missing pulse -/

/-- An ALIGN whose last capture is 131,072,007 ticks old, with 4,194,304 ticks between pulses: the next one is overdue. -/
def overdueAlignState : State where
  __ := State.reset
  dev := { (generatingDev Ev.syncInMismatch).wf R.syncCtrl F.syncCtrlInMode 2 with sync := { Sync.reset with n := 1, lastCap := some 0 } }

theorem syncInMissing_cutsGenerator : cutsGenerator .syncInMissing overdueAlignState = true := by decide +kernel

/-- Refutes O24, by its fourth clause: a missing pulse raises SYNC_IN_MISMATCH, whose STOP_PORT cuts the running generator's segment, and the
clause's frame keeps `apg`. -/
theorem not_syncCapturesMeasureAlignAndRelay : ¬ Obligations.SyncCapturesMeasureAlignAndRelay := by
  rintro ⟨-, -, -, hmissing, -⟩
  obtain ⟨t, ht, -, -, -, -, -, hframe⟩ := hmissing 0 overdueAlignState (by decide +kernel) rfl rfl (by decide +kernel)
  exact apg_ne_of_cutsGenerator syncInMissing_cutsGenerator ht (congrArg Dev.apg hframe :)

/-! ### Timed commands -/

/-- A timed command that came too late: 9 to `LKS_TX_FMT` of port B. -/
def lateCommand : TcqEntry := ⟨3, 77, false, R.lksTxFmt 1, [9#32], 0, true⟩

/-- The late command waits at the head of the queue while port A launches. -/
def lateCommandState : State where
  __ := State.reset
  dev := { generatingDev Ev.tcqLate with tcq := { Tcq.reset with q := [lateCommand] } }

theorem tcqExecute_cutsGenerator : cutsGenerator (.tcqExecute noOut) lateCommandState = true := by decide +kernel

/-- Refutes O25, by its second clause: a late command raises TCQ_LATE as it ends, whose STOP_PORT cuts the running generator's segment, and
the clause's frame keeps `apg`. -/
theorem not_timedCommandsQueueAndExecute : ¬ Obligations.TimedCommandsQueueAndExecute := by
  rintro ⟨-, hexecute, -⟩
  obtain ⟨t, ht, -, -, -, -, -, hframe⟩ := hexecute lateCommand [] 9#32 .lks 1 _ noOut lateCommandState rfl rfl (by decide +kernel)
    (by decide +kernel) (by decide +kernel) rfl (by decide +kernel) (by decide +kernel) (by decide) rfl rfl
  exact apg_ne_of_cutsGenerator tcqExecute_cutsGenerator ht (congrArg Dev.apg hframe :)

/-- A command is held and a completion waits, and the source TCQ_FULL does not show the condition yet (R91).  The statement asks for no
agreement of the holding slots with the source; that commands reach such a state is not claimed. -/
def heldCommandState : State where
  __ := State.reset
  dev := { generatingDev Ev.tcqFull with tcq := { Tcq.reset with held := [(0, lateCommand)], cpl := [[1, 2, 3, 4]] } }

theorem tcqCompletionRead_cutsGenerator : cutsGenerator (.tcqCompletionRead 0) heldCommandState = true := by decide +kernel

/-- Refutes O26, by its third clause: taking a completion shows the queue anew, which raises TCQ_FULL where a command is held, its STOP_PORT
cuts the running generator's segment, and the clause's frame keeps `apg`. -/
theorem not_timedCommandsAreCancelledAndReported : ¬ Obligations.TimedCommandsAreCancelledAndReported := by
  rintro ⟨-, -, hread, -⟩
  obtain ⟨t, ht, -, -, -, -, hframe⟩ := hread 0 1 2 3 4 [] heldCommandState (by decide +kernel) rfl
  exact apg_ne_of_cutsGenerator tcqCompletionRead_cutsGenerator ht (congrArg Dev.apg hframe :)

/-! ### A timing change -/

/-- A jitter amplitude of 32,768 ticks on the drive edges of timing set 0 of port A, which waits for a boundary at or after tick 131,072,000. -/
def jitterChange : PendCh := ⟨R.tsSj 0 0, [0x80008000#32], 0, 131072000, false, none⟩

/-- The set is in use, the change is due, and the tuning word in force, 2⁴⁴, limits the amplitude to half the period (R211). -/
def jitterState : State where
  __ := State.reset
  dev := { generatingDev (Ev.sjLimit 0) with live := [(R.ddsFtw1 0, 0x1000#32)], pend := [jitterChange] }

theorem timingChangeApply_cutsGenerator : cutsGenerator (.timingChangeApply 0) jitterState = true := by decide +kernel

/-- Refutes O27, by its third clause: an amplitude that takes effect above the limit raises SJ_LIMIT, whose STOP_PORT cuts the running
generator's segment, and the clause's frame keeps `apg`. -/
theorem not_timingAffectingWritesWaitWhileInUse : ¬ Obligations.TimingAffectingWritesWaitWhileInUse := by
  rintro ⟨-, -, happly, -⟩
  obtain ⟨t, ht, -, -, -, hframe⟩ := happly 0 jitterChange 0x80008000#32 jitterState rfl (by decide +kernel) (by decide +kernel) rfl rfl
    (by decide +kernel)
  exact apg_ne_of_cutsGenerator timingChangeApply_cutsGenerator ht (congrArg Dev.apg hframe :)

end Sys2Proof.Machine
end

section
/-! PROOFS. The start-up family: the memories at reset, and the cold reset. -/
namespace Sys2Proof.Machine

/-- Settles O6: the reset state lists no cell of any memory, and `Vault.reset` has no fuse blown. -/
theorem memoriesAreCanonicalAtReset : Obligations.MemoriesAreCanonicalAtReset :=
  ⟨reset_memOk, rfl, Nat.zero_le _, rfl, rfl, rfl, rfl⟩

/-! ### The cold reset (R98, R99) -/

namespace Dev

/-- Showing the fuses writes two registers. -/
theorem showFuses_get_ne (v : Vault) (d : Dev) {a : Nat} (hs : a ≠ R.glbSeason) (hv : a ≠ R.vltStat) :
    (showFuses v d).get a = d.get a := by
  unfold showFuses
  dsimp only
  rw [get_wf_ne _ _ _ hv, get_wf_ne _ _ _ hv, get_wf_ne _ _ _ hv, get_setN_ne _ _ hs]

/-- After a cold reset every register but four reads its reset value: the register file is empty but for what the reset itself shows. -/
theorem coldReset_resetRegs (v : Vault) (d : Dev) (cause : Nat) :
    (coldReset v d cause).resetRegs [R.bootKeeper, R.glbSeason, R.vltStat, R.bootStat] := by
  intro a ha
  simp only [List.mem_cons, List.not_mem_nil, or_false, not_or] at ha
  obtain ⟨hkeeper, hseason, hvlt, hstat⟩ := ha
  unfold coldReset
  dsimp only
  rw [get_wf_ne _ _ _ hstat, showFuses_get_ne v _ hseason hvlt, get_wf_ne _ _ _ hkeeper]
  rfl

theorem coldReset_cause (v : Vault) (d : Dev) {cause : Nat} (h : cause < 16) :
    (coldReset v d cause).rf R.bootStat F.bootStatCause = cause :=
  (rf_wf_same _ _ _ _ rfl).trans (Nat.mod_eq_of_lt h)

/-- `BOOT_STAT` shows step POWER, its reset value, beside the cause. -/
theorem coldReset_step (v : Vault) (d : Dev) (cause : Nat) : (coldReset v d cause).rf R.bootStat F.bootStatStep = 1 := by
  unfold coldReset
  dsimp only
  rw [rf_wf_apart _ _ _ _ _ rfl rfl, rf_congr (showFuses_get_ne v _ (by decide) (by decide)), rf_wf_ne _ _ _ _ (by decide)]
  exact (by decide +kernel : fget (resetWord R.bootStat) F.bootStatStep = 1)

end Dev

/-- What a command that is a cold reset with a cause leaves (R98, R99). -/
theorem coldReset_leaves (s : State) {cause : Nat} (h : cause < 16) :
    ∃ t, onDev (fun d => Dev.coldReset s.vault d cause) s = .next t ∧
      t.dev.rf R.bootStat F.bootStatCause = cause ∧ t.dev.resetRegs [R.bootKeeper, R.glbSeason, R.vltStat, R.bootStat] ∧
      t.dev.rf R.bootStat F.bootStatStep = 1 ∧ t.dev.boot.done = 0 ∧ t.dev.gtc = 0 ∧ t.dev.counting = false ∧ t.dev.tcq = Tcq.reset ∧
      t.dev.pend = [] ∧ t.dev.seq = [] ∧ t.dev.chans = [] ∧ t.dev.hif = Hif.reset ∧ t.dev.evt = Evt.reset ∧ t.dev.ledger = s.dev.ledger ∧
      t.dev.hostMem = s.dev.hostMem ∧ t.vault = s.vault :=
  ⟨_, rfl, Dev.coldReset_cause _ _ h, Dev.coldReset_resetRegs _ _ _, Dev.coldReset_step _ _ _, rfl, rfl, rfl, rfl, rfl, rfl, rfl, rfl, rfl, rfl,
    rfl, rfl⟩

theorem exec_coldReset (ns : Nat) (s : State) (h : 1000 ≤ ns) :
    exec (.coldReset ns) s = onDev (fun d => Dev.coldReset s.vault d 1) s := by
  change onDev (fun d => Dev.resetN s.vault d ns) s = _
  rw [onDev_next, onDev_next, Dev.resetN, if_neg (Nat.not_lt.mpr h)]

/-- A pulse under 1 µs is ignored (R99). -/
theorem exec_coldReset_short (ns : Nat) (s : State) (h : ns < 1000) : exec (.coldReset ns) s = .next s := by
  change onDev (fun d => Dev.resetN s.vault d ns) s = _
  rw [onDev_next, Dev.resetN, if_pos h]

theorem exec_railLoss (s : State) (h : s.dev.boot.done ≠ 0) :
    exec .railLoss s = onDev (fun d => Dev.coldReset s.vault d 2) s := by
  change onDev (fun d => Dev.railLoss s.vault d) s = _
  rw [onDev_next, onDev_next, Dev.railLoss, if_neg h]

/-- Settles O10: a pulse that is long enough and a rail that is lost run the same reset, which builds the device anew from `Dev.reset`. -/
theorem coldResetReturnsEveryRegister : Obligations.ColdResetReturnsEveryRegister := by
  refine ⟨fun ns s h => ?_, fun ns s h => ⟨s, exec_coldReset_short ns s h, rfl⟩, fun s h => ?_⟩
  · rw [exec_coldReset ns s h]
    exact coldReset_leaves s (by decide)
  · rw [exec_railLoss s h]
    exact coldReset_leaves s (by decide)

end Sys2Proof.Machine
end

section
/-! PROOFS. The start-up family: six statements that fail.  Four of them have a clause with an event whose reaction STOP_PORT (R438) cuts the
segment that a running generator produces, and a frame that keeps `Dev.apg` as it was. -/
namespace Sys2Proof.Machine

/-! ### An attempt that times out -/

/-- A run in its first attempt at step READY on a block whose pages are online, with three attempts allowed.  A start that runs its steps in
order has the port pages off line until READY ends; that commands reach such a state is not claimed, but the clause's premises hold in it. -/
def timedOutState : State where
  __ := State.reset
  dev :=
    let d := (generatingDev Ev.bootStepFail).wf (Dev.policyReg 13) Dev.F.polAttempts 3
    { d with boot := { d.boot with runs := [StepRun.start] } }

/-- The failed attempt raises BOOT_STEP_FAIL. -/
theorem startupAttemptTimeout_cutsGenerator : cutsGenerator .startupAttemptTimeout timedOutState = true := by decide +kernel

/-- Refutes O11, by its third clause: a failed attempt raises BOOT_STEP_FAIL, whose STOP_PORT cuts the running generator's segment, and the
clause's frame keeps `apg`. -/
theorem not_startupStepsAdvance : ¬ Obligations.StartupStepsAdvance := by
  rintro ⟨-, -, htimeout⟩
  obtain ⟨t, ht, -, -, -, hframe⟩ := htimeout StepRun.start 13 timedOutState rfl rfl rfl rfl (by decide +kernel) (by decide) (by decide)
    (by decide) (by decide +kernel)
  exact apg_ne_of_cutsGenerator startupAttemptTimeout_cutsGenerator ht (congrArg Dev.apg hframe :)

/-! ### A policy with a reserved bit -/

/-- A started block in which `BOOT_POLICY4` holds its default 0x200 and the reserved bit 2.  POWER takes the words of the start block as they
stand (`Dev.readStartBlock`); that commands reach such a word is not claimed, but the statement's premises hold in it. -/
def reservedPolicyBitState : State where
  __ := State.reset
  dev := { Dev.reset with
    boot := { Boot.reset with done := 13, runs := [], keeperOn := true }
    hif := { Hif.reset with linkUp := true, linkWasUp := true }
    regs := [(R.bootStat, 0x1100000D#32), (Dev.policyReg 4, 0x204#32)] }

/-- A write changes no reserved bit (R5). -/
theorem bootPolicyWrite_keeps_reservedBit {t : State} (ht : exec (.bootPolicyWrite 0 3 0x300#32) reservedPolicyBitState = .next t) :
    t.dev.rn (R.bootPolicy1 + 4 * (3 : Fin 13)) = 0x304 := by
  change onDev (Dev.arrives reservedPolicyBitState.vault noOut 0 (R.bootPolicy1 + 4 * 3) 0x300) reservedPolicyBitState = .next t at ht
  obtain ⟨hdev, -, -⟩ := onDev_frame _ _ _ ht
  rw [hdev]
  decide +kernel

/-- Refutes O12, by its first clause: the clause does not ask that the register's reserved bits read 0, and a write leaves them as they stood,
so that the register reads 0x304 after a write of 0x300. -/
theorem not_policyWritesReachTheLedger : ¬ Obligations.PolicyWritesReachTheLedger := by
  rintro ⟨hpolicy, -⟩
  obtain ⟨t, ht, hword, -⟩ := hpolicy 0 3 0x300#32 reservedPolicyBitState (by decide +kernel) rfl rfl (by decide +kernel)
  exact absurd ((bootPolicyWrite_keeps_reservedBit ht).symm.trans hword) (by decide)

/-! ### An update that fails -/

/-- An update from DRAM of four bytes is in progress while port A launches. -/
def updatingState : State where
  __ := State.reset
  dev := ((generatingDev Ev.keeperUpdateFail).wf R.bootKupdStat F.bootKupdStatState 1).setN R.bootKupdLen 4

theorem keeperUpdateEnd_cutsGenerator : cutsGenerator (.keeperUpdateEnd 1 0) updatingState = true := by decide +kernel

/-- Refutes O13, by its last clause: a failed update raises KEEPER_UPDATE_FAIL, whose STOP_PORT cuts the running generator's segment, and the
clause's frame keeps `apg`. -/
theorem not_keeperUpdateWritesTheOtherSlot : ¬ Obligations.KeeperUpdateWritesTheOtherSlot := by
  rintro ⟨-, -, -, -, hfail⟩
  obtain ⟨t, ht, -, -, -, -, hframe⟩ := hfail 1 0 updatingState (by decide +kernel) (by decide +kernel) (by decide +kernel)
    (by decide +kernel) (by decide +kernel) (by decide) (by decide)
  exact apg_ne_of_cutsGenerator keeperUpdateEnd_cutsGenerator ht (congrArg Dev.apg hframe :)

/-! ### A Keeper restart -/

/-- A block in which KEEPER_RESTART stops port A. -/
def keeperRestartState : State where
  __ := State.reset
  dev := generatingDev Ev.keeperRestart

theorem keeperRestartCmd_cutsGenerator : cutsGenerator (.keeperRestartCmd 0 1#32) keeperRestartState = true := by decide +kernel

/-- Refutes O14, by its first clause: a restart raises KEEPER_RESTART, whose STOP_PORT cuts the running generator's segment, and the clause's
frame keeps `apg`. -/
theorem not_keeperRestartsAndResumes : ¬ Obligations.KeeperRestartsAndResumes := by
  rintro ⟨hrestart, -⟩
  obtain ⟨t, ht, -, -, -, hframe⟩ := hrestart 0 1#32 keeperRestartState (by decide +kernel) (by decide)
  exact apg_ne_of_cutsGenerator keeperRestartCmd_cutsGenerator ht (congrArg Dev.apg hframe :)

/-! ### A port reset during a march -/

/-- A destructive run with repair over banks 0 and 1 of port A has completed bank 0 and is in bank 1. -/
def marchingState : State where
  __ := State.reset
  dev := { Dev.reset with
    counting := true
    gtc := 131072007#80
    boot := { Boot.reset with done := 13, runs := [], keeperOn := true }
    hif := { Hif.reset with linkUp := true, linkWasUp := true }
    regs := [(R.bootStat, 0x1100000D#32)]
    srm := { Srm.reset with run := some { first := 0, last := 1, pres := false, repair := true, bg := 1, cur := 1, t := 131072000,
                                          done := [0], win := 0, yields := 0, yielded := false } } }

/-- What the march reports as the reset ends it: a failing cell of bank 0, whose repair passes. -/
def bankZeroFails : Outside := { noOut with fails := [{ bank := 0, elem := 1, bg := 0, row := 5, bit := 9 }], passes := [0] }

/-- The repair of bank 0 goes to the ledger: its record is valid (R424, R428). -/
theorem portReset_writes_repairRecord {t : State} (ht : exec (.portReset 0 0 2#32 bankZeroFails) marchingState = .next t) :
    mget t.dev.ledger (Dev.ledRepair 0 + 3) = 0x80 := by
  change onDev (Dev.arrives marchingState.vault bankZeroFails 0 (pctl (ppage 0 0)) 2) marchingState = .next t at ht
  obtain ⟨hdev, -, -⟩ := onDev_frame _ _ _ ht
  rw [hdev]
  decide +kernel

/-- Refutes O15, by its first clause: a port reset ends a march run in a bank of the port, the run's completed banks are judged, and the
repair of one with a failing cell is recorded in the ledger, which the clause keeps. -/
theorem not_portAndWarmResetsTakeTheirScope : ¬ Obligations.PortAndWarmResetsTakeTheirScope := by
  rintro ⟨hreset, -⟩
  obtain ⟨t, ht, -, -, -, -, -, -, hledger, -⟩ := hreset 0 0 2#32 bankZeroFails marchingState (by decide +kernel) (by decide)
  exact absurd ((portReset_writes_repairRecord ht).symm.trans (congrArg (mget · (Dev.ledRepair 0 + 3)) hledger :)) (by decide)

/-! ### A DRAM retrain that fails -/

/-- DRAM channel 0 retrains while port A launches. -/
def retrainingState : State where
  __ := State.reset
  dev := (generatingDev (Ev.mcRetrainFail 0)).wf (R.mcStat 0) F.mcStatRetrain 1

theorem retrainEnd_cutsGenerator : cutsGenerator (.retrainEnd 0 false [] [] []) retrainingState = true := by decide +kernel

/-- Refutes O16, by its last clause: a failed retrain raises MC_RETRAIN_FAIL, whose STOP_PORT cuts the running generator's segment, and the
clause's frame keeps `apg`. -/
theorem not_sidebandResetsAndRecalibrations : ¬ Obligations.SidebandResetsAndRecalibrations := by
  rintro ⟨-, -, -, -, -, -, hfail⟩
  obtain ⟨t, ht, -, -, -, hframe⟩ := hfail 0 [] [] [] retrainingState (by decide +kernel) rfl
  exact apg_ne_of_cutsGenerator retrainEnd_cutsGenerator ht (congrArg Dev.apg hframe :)

end Sys2Proof.Machine
end

section
/-! PROOFS. The sequencer family: three statements that fail.  Two of them have a clause whose premises leave open how a stream walk stands. -/
namespace Sys2Proof.Machine

/-! ### A descriptor that a walk waits for -/

/-- Port B runs and its TX walk waits for descriptor 3, whose first three words are staged: eight barges of populated DRAM from 0x4000. -/
def waitingWalkState : State where
  __ := State.reset
  dev := { ((((Dev.reset.setN R.bootStat 0x1100000D).wf (R.mcStat 0) F.mcStatRanks 1).setN R.mcgCch 65536).setN R.mcgCap 65536).setN
      (R.seqStat 1) 0x20000000 with
    counting := true
    gtc := 131072007#80
    boot := { Boot.reset with done := 13, runs := [], keeperOn := true }
    hif := { Hif.reset with
      linkUp := true
      linkWasUp := true
      staged := [(Dev.pathKey 0 (Dev.descReg 1 false 3 0), [0x4000#32, 0#32, 8#32, 0#32])] }
    seq := [(1, { Seq.reset with fe := .run, tref := true, tx := { Walk.reset with idx := 3, waiting := true } })] }

/-- The commit of the descriptor that the walk waits for ends the wait (R149). -/
theorem streamDescriptorCommit_ends_wait {t : State} (ht : exec (.streamDescriptorCommit 0 1 false 3 0xC0000001#32) waitingWalkState = .next t) :
    (t.dev.seqOf 1).tx.waiting = false := by
  change onDev (Dev.arrives waitingWalkState.vault noOut 0 (Dev.descReg 1 false 3 3) 0xC0000001) waitingWalkState = .next t at ht
  obtain ⟨hdev, -, -⟩ := onDev_frame _ _ _ ht
  rw [hdev]
  decide +kernel

/-- Refutes O31, by its fifth clause: the commit of the descriptor that a running port's walk waits for lets the walk go on, which the port's
sequencer shows, and the clause's frame keeps `seq`. -/
theorem not_portsStartFillAndStop : ¬ Obligations.PortsStartFillAndStop := by
  rintro ⟨-, -, -, -, hcommit⟩
  obtain ⟨t, ht, -, -, hframe⟩ := hcommit 0 1 false 3 0xC0000001#32 0x4000#32 0#32 8#32 0#32 waitingWalkState (by decide +kernel)
    (by decide +kernel) (by decide) (by decide) (by decide) (by decide) (by decide) (by decide +kernel)
  have hkeep : t.dev.seq = waitingWalkState.dev.seq := (congrArg Dev.seq hframe :)
  have hwaits : (t.dev.seqOf 1).tx.waiting = true := by rw [Dev.seqOf, hkeep]; rfl
  exact Bool.false_ne_true ((streamDescriptorCommit_ends_wait ht).symm.trans hwaits)

/-! ### A fill count below zero -/

/-- Port B runs; its TX walk is at the second of eight barges; and more barges are counted as freed than as fetched.  The clause bounds their
difference alone, cut at zero; that commands reach such counts is not claimed. -/
def freedPastFetchedState : State where
  __ := State.reset
  dev := { ((((((((Dev.reset.setN R.bootStat 0x1100000D).wf (R.mcStat 0) F.mcStatRanks 1).setN R.mcgCch 65536).setN R.mcgCap 65536).setN
      (R.seqStat 1) 0x20000000).setN (R.lksTxFmt 1) 1).setN (R.lksTxd0 1 0) 0x10000).setN (R.lksTxd2 1 0) 8).setN (R.lksTxd3 1 0) 0xC0000001 with
    counting := true
    gtc := 131072007#80
    boot := { Boot.reset with done := 13, runs := [], keeperOn := true }
    seq := [(1, { Seq.reset with tx := { Walk.reset with pos := 1 }, txFetched := 1, txFreed := 5 })] }

/-- After one more barge the lock still shows no fill. -/
theorem bargeFill_shows_no_fill {t : State} (ht : exec (.bargeFill 1 false) freedPastFetchedState = .next t) :
    t.dev.rf (R.lksTxFill 1) F.lksTxFillFill = 0 := by
  change onDev (fun d => d.bargeFill 1 false) freedPastFetchedState = .next t at ht
  obtain ⟨hdev, -, -⟩ := onDev_frame _ _ _ ht
  rw [hdev]
  decide +kernel

/-- Refutes O35, by its third clause: where more barges are counted as freed than as fetched, the fill is 0 before the barge and after it, and
the clause asks for one more. -/
theorem not_beatsAreIssuedAndLaunched : ¬ Obligations.BeatsAreIssuedAndLaunched := by
  rintro ⟨-, -, hfill, -⟩
  obtain ⟨t, ht, -, -, -, -, hone, -⟩ := hfill 1 freedPastFetchedState (by decide +kernel) (by decide +kernel) (by decide +kernel)
    (by decide +kernel) (by decide +kernel) (by decide +kernel) (by decide +kernel) (by decide +kernel) (by decide +kernel) (by decide +kernel)
  exact absurd ((bargeFill_shows_no_fill ht).symm.trans hone) (by decide +kernel)

/-! ### A timed SET that comes between its decode and the register fabric -/

/-- Port C decodes at the present tick a SET in TIMED mode: 0x800 to `LKS` register 0x64 of its own at SEQ_TREF, which is the present tick
too. -/
def timedSetState : State where
  __ := State.reset
  dev := { (((Dev.reset.setN R.bootStat 0x1100000D).setN (R.seqStat 2) 0x20000000).setN (R.seqPc 2) 5).setN (R.seqTref0 2) 131072007 with
    counting := true
    gtc := 131072007#80
    boot := { Boot.reset with done := 13, runs := [], keeperOn := true }
    sram := mputNat [] (2 * 0x200000 + 0x180000 + 80) 16 0xD0008018206400000000000000000800
    seq := [(2, { Seq.reset with fe := .run, decoded := 131072007 - Dev.sqclk, tref := true })] }

/-- The write of a SET takes effect at the HCLK edge after its decode (R138), which comes after the stamp: the command is late (R90). -/
theorem setTimed_queues_late {t : State} (ht : exec (.setTimed 2) timedSetState = .next t) : t.dev.tcq.q.map TcqEntry.late = [true] := by
  change onDev (fun d => d.setTimed 2) timedSetState = .next t at ht
  obtain ⟨hdev, -, -⟩ := onDev_frame _ _ _ ht
  rw [hdev]
  decide +kernel

/-- Refutes O33, by its eleventh clause: the clause judges a timed SET late by the present tick, and the model by the HCLK edge after the
decode, at which a SET takes effect; a stamp that is neither before the one nor at the other is late in the model alone. -/
theorem not_waitsSetsAndEnds : ¬ Obligations.WaitsSetsAndEnds := by
  rintro ⟨-, -, -, -, -, -, -, -, -, -, htimed, -⟩
  obtain ⟨t, ht, hq, -⟩ := htimed 2 timedSetState (by decide +kernel) (by decide +kernel) (by decide +kernel) (by decide +kernel)
    (by decide +kernel) (by decide +kernel)
  have hlate := (setTimed_queues_late ht).symm.trans (congrArg (List.map TcqEntry.late) hq)
  exact absurd hlate (by decide +kernel)

end Sys2Proof.Machine
end

section
/-! PROOFS. An occurrence that asks for no reaction: what it leaves alone, said once for every view of the device that its bookkeeping cannot
change. -/
namespace Sys2Proof.Machine
namespace Dev

/-! ### What an occurrence writes -/

/-- The registers that the bookkeeping of an occurrence writes: first fault, event queue and pending messages (R441 to R443). -/
def noteRegs : List Nat := [R.evcFf0, R.evcFf1, R.evcFf2, R.evcFf3, R.evcEvqWptr, R.evcEvqLost, R.msixPba 0, R.msixPba 1]

/-- A view of the device that the bookkeeping of an occurrence cannot change: it shows none of its registers and memories, and of an event
source at most what software configures. -/
structure Unnoted {γ : Type} (g : Dev → γ) : Prop where
  set : ∀ (d : Dev) (a : Nat) (w : Word), a ∈ noteRegs → g (d.set a w) = g d
  src : ∀ (d : Dev) (s : Nat) (e : EvtSrc), e.cfg = (d.esrc s).cfg → e.en = (d.esrc s).en → g (d.setEsrc s e) = g d
  evt : ∀ (d : Dev) (e : Evt), e.src = d.evt.src → g { d with evt := e } = g d
  sram : ∀ (d : Dev) (m : List Host.Cell), g { d with sram := m } = g d
  hostMem : ∀ (d : Dev) (m : List Host.Cell), g { d with hostMem := m } = g d
  hif : ∀ (d : Dev) (h : Hif), g { d with hif := h } = g d

section
variable {γ : Type} {g : Dev → γ} (hg : Unnoted g)
include hg

theorem Unnoted.setN (d : Dev) {a : Nat} (v : Nat) (h : a ∈ noteRegs) : g (d.setN a v) = g d := hg.set _ _ _ h

theorem Unnoted.cnt (d : Dev) {a : Nat} (f : Fld) (k : Nat) (h : a ∈ noteRegs) : g (d.cnt a f k) = g d := hg.set _ _ _ h

theorem Unnoted.wf (d : Dev) {a : Nat} (f : Fld) (v : Nat) (h : a ∈ noteRegs) : g (d.wf a f v) = g d := hg.set _ _ _ h

theorem msixSend_unnoted (d : Dev) (v : Nat) : g (d.msixSend v) = g d := (hg.hif _ _).trans (hg.hostMem _ _)

theorem msixAssert_unnoted (d : Dev) {v : Nat} (hv : v < 64) : g (d.msixAssert v) = g d := by
  unfold msixAssert
  split
  · rcases msixPba_of_lt hv with e | e <;> exact hg.wf _ _ _ (by rw [e]; simp [noteRegs])
  · exact msixSend_unnoted hg d v

theorem evqPlace_unnoted (s t : Nat) : ∀ (n : Nat) (bs : List Byte) (j : Nat) (d : Dev), g (d.evqPlace s t bs n j) = g d := by
  intro n
  induction n with
  | zero => intro bs j d; exact hg.sram _ _
  | succ n ih =>
    intro bs j d
    unfold evqPlace
    dsimp only
    split
    · exact (ih _ _ _).trans (hg.sram _ _)
    · exact hg.sram _ _

theorem evqWritten_unnoted (d : Dev) (j : Nat) :
    g (({ d with evt := { d.evt with gap := false } } : Dev).setN R.evcEvqWptr j) = g d :=
  (hg.setN _ _ (by simp [noteRegs])).trans (hg.evt _ _ (by rfl))

theorem evqWrite_unnoted (d : Dev) (cls : Nat) (e f : Bool) (r s c : Nat) : g (d.evqWrite cls e f r s c).1 = g d := by
  unfold evqWrite
  split
  · exact (hg.cnt _ _ _ (by simp [noteRegs])).trans (hg.evt _ _ (by rfl))
  · exact (evqWritten_unnoted hg _ _).trans (evqPlace_unnoted hg _ _ _ _ _ _)

theorem firstFault_unnoted (d : Dev) (s c : Nat) (e f : Bool) : g (d.firstFault s c e f) = g d := by
  have four : ∀ (y : Dev) (w x z u : Nat), g ((((y.setN R.evcFf0 w).setN R.evcFf1 x).setN R.evcFf2 z).setN R.evcFf3 u) = g y := by
    intro y w x z u
    rw [hg.setN _ _ (by simp [noteRegs]), hg.setN _ _ (by simp [noteRegs]), hg.setN _ _ (by simp [noteRegs]),
      hg.setN _ _ (by simp [noteRegs])]
  unfold firstFault
  extract_lets w0 put t n oc win
  split
  · exact four ..
  · split
    · exact four ..
    · rfl

theorem latchOut_unnoted (d : Dev) (s cls : Nat) (e f : Bool) (r c : Nat) (x : Bool) : g (d.latchOut s cls e f r c x).1 = g d := by
  unfold latchOut
  extract_lets cfg r1 d1 d2 src d3
  have h1 : g d1 = g d := by
    simp only [d1, r1]
    split
    · exact evqWrite_unnoted hg ..
    · rfl
  have h2 : g d2 = g d := by
    simp only [d2]
    split
    · exact (msixAssert_unnoted hg _ (fget_lt _ F.cfgVector)).trans h1
    · exact h1
  change g d3 = g d
  simp only [d3]
  split
  · exact (hg.evt _ _ (by rfl)).trans h2
  · exact h2

theorem occurOne_unnoted (s : Nat) (d : Dev) : g (d.occurOne s).1 = g d := by
  unfold occurOne
  split
  · rfl
  · extract_lets e w fresh c n up cls escd latch forced e' d1 react same coinc da cands src d2 r
    have h1 : g d1 = g d := hg.src _ _ _ rfl rfl
    have h2 : g d2 = g d := by
      simp only [d2]
      split
      · exact (hg.evt _ _ (by rfl)).trans ((firstFault_unnoted hg _ _ _ _ _).trans h1)
      · exact h1
    split
    · rfl
    · split
      · exact h1
      · split
        · exact (latchOut_unnoted hg _ _ _ _ _ _ _ _).trans h2
        · exact h2

theorem occurBook_unnoted (s : Nat) (d : Dev) : g (d.occurBook s).1 = g d := by
  unfold occurBook
  extract_lets r q
  have hr : g r.1 = g d := occurOne_unnoted hg s d
  split
  · exact (occurOne_unnoted hg _ _).trans hr
  · exact hr

end

/-! ### The reactions it asks for -/

/-- What software configures of a source. -/
def srcSetup (d : Dev) (k : Nat) : Word × Bool := ((d.esrc k).cfg, (d.esrc k).en)

theorem srcSetup_unnoted (k : Nat) : Unnoted (fun d => d.srcSetup k) where
  set _ _ _ _ := rfl
  src d s e hc he := by
    unfold srcSetup
    have hget : (d.setEsrc s e).esrc k = if k = s then e else d.esrc k := tget_tset ..
    rw [hget]
    split
    · next h => rw [h, hc, he]
    · rfl
  evt d e h := by
    unfold srcSetup esrc
    simp only [h]
  sram _ _ := rfl
  hostMem _ _ := rfl
  hif _ _ := rfl

/-- An occurrence of source `k` asks for no reaction: the part of `noReact` that speaks of one source. -/
def reactless (d : Dev) (k : Nat) : Bool :=
  !d.srcEn k || (d.srcClass k != 3 && (srcIsReact k || fget (d.esrc k).cfg F.cfgReact == 0))

theorem noReact_iff (d : Dev) (s : Nat) : d.noReact s = true ↔ d.reactless s = true ∧ d.reactless Ev.evqLost = true := by
  simp [noReact, reactless]

theorem reactless_congr {e d : Dev} {k : Nat} (h : e.srcSetup k = d.srcSetup k) : e.reactless k = d.reactless k := by
  obtain ⟨hcfg, hen⟩ := Prod.mk.inj h
  unfold reactless srcEn srcClass
  rw [hcfg, hen]

/-- Whether a source asks for a reaction is a matter of its configuration, which no occurrence changes. -/
theorem noReact_of_unnoted {e d : Dev} (h : ∀ k, e.srcSetup k = d.srcSetup k) (s : Nat) : e.noReact s = d.noReact s := by
  rw [Bool.eq_iff_iff, noReact_iff, noReact_iff, reactless_congr (h s), reactless_congr (h _)]

theorem reactOf_reactless {d : Dev} {s cls : Nat} (hcls : cls ≠ 3) (h : srcIsReact s = true ∨ fget (d.esrc s).cfg F.cfgReact = 0) :
    (d.reactOf s cls).1 = 0 := by
  unfold reactOf
  dsimp only
  rw [if_neg hcls]
  split
  · rfl
  · rcases h with h | h
    · contradiction
    · simp [h]

theorem srcClass_lt (d : Dev) (s : Nat) : d.srcClass s < 4 := by
  unfold srcClass
  split
  · decide
  · exact fget_lt _ F.cfgClass

theorem occurOne_reactless {s : Nat} {d : Dev} (h : d.reactless s = true) : (d.occurOne s).2.1.1 = 0 := by
  unfold occurOne
  split
  · rfl
  · extract_lets e w fresh c n up cls escd latch forced e' d1 react same coinc da cands src d2 r
    have hsrc : d1.srcSetup s = d.srcSetup s := (srcSetup_unnoted s).src _ _ _ rfl rfl
    split
    · rfl
    · split
      · rfl
      · next hen =>
        have h1 : d1.reactless s = true := (reactless_congr hsrc).trans h
        have hclass : d1.srcClass s = d.srcClass s := by
          unfold srcClass
          rw [(Prod.mk.inj hsrc).1]
        simp only [reactless, Bool.or_eq_true, Bool.not_eq_true', Bool.and_eq_true, bne_iff_ne, beq_iff_eq, hclass] at h1
        obtain ⟨hne, hbits⟩ := h1.resolve_left (by simpa using hen)
        have hcls : cls ≠ 3 := by
          have := srcClass_lt d s
          simp only [cls]
          split <;> omega
        have hreact : react.1 = 0 := reactOf_reactless hcls hbits
        split <;> exact hreact

theorem occurBook_reactless {s : Nat} {d : Dev} (h : d.noReact s = true) : ∀ re ∈ (d.occurBook s).2, re.1 = 0 := by
  obtain ⟨hs, hlost⟩ := (noReact_iff d s).mp h
  unfold occurBook
  extract_lets r q
  have hr : r.2.1.1 = 0 := occurOne_reactless hs
  have hq : q.2.1.1 = 0 :=
    occurOne_reactless ((reactless_congr (occurOne_unnoted (srcSetup_unnoted Ev.evqLost) s d)).trans hlost)
  split
  · intro re hre
    rcases List.mem_pair.mp hre with e | e
    · rw [e]; exact hr
    · rw [e]; exact hq
  · intro re hre
    rw [List.mem_singleton.mp hre]; exact hr

/-- An occurrence that asks for no reaction is no more than its bookkeeping (R438). -/
theorem raise_eq_occurBook {s : Nat} {d : Dev} (h : d.noReact s = true) : d.raise s = (d.occurBook s).1 := by
  change raiseF 2 s d = _
  unfold raiseF
  dsimp only
  exact foldl_keep_mem id _ _ (fun re hre x => by rw [if_pos (occurBook_reactless h re hre)]) _

/-- An occurrence that asks for no reaction changes no view that its bookkeeping cannot change. -/
theorem raise_unnoted {γ : Type} {g : Dev → γ} (hg : Unnoted g) {s : Nat} {d : Dev} (h : d.noReact s = true) : g (d.raise s) = g d := by
  rw [raise_eq_occurBook h, occurBook_unnoted hg]

/-! ### Views -/

theorem get_unnoted {a : Nat} (h : a ∉ noteRegs) : Unnoted (fun d => d.get a) where
  set _ _ _ hb := get_set_ne _ _ (fun e => h (e ▸ hb))
  src _ _ _ _ _ := rfl
  evt _ _ _ := rfl
  sram _ _ := rfl
  hostMem _ _ := rfl
  hif _ _ := rfl

/-- The device without what the bookkeeping of an occurrence may touch. -/
def noted (d : Dev) : Dev := { d with regs := [], evt := Evt.reset, sram := [], hostMem := [], hif := Hif.reset }

theorem noted_unnoted : Unnoted noted where
  set _ _ _ _ := rfl
  src _ _ _ _ _ := rfl
  evt _ _ _ := rfl
  sram _ _ := rfl
  hostMem _ _ := rfl
  hif _ _ := rfl

theorem raise_noReact_get {s : Nat} {d : Dev} (h : d.noReact s = true) {a : Nat} (ha : a ∉ noteRegs) : (d.raise s).get a = d.get a :=
  raise_unnoted (get_unnoted ha) h

theorem raise_noReact_noted {s : Nat} {d : Dev} (h : d.noReact s = true) : (d.raise s).noted = d.noted := raise_unnoted noted_unnoted h

theorem raise_noReact_seqOf {s : Nat} {d : Dev} (h : d.noReact s = true) (p : Nat) : (d.raise s).seqOf p = d.seqOf p :=
  (congrArg (Dev.seqOf · p) (raise_noReact_noted h) :)

theorem raise_noReact_apg {s : Nat} {d : Dev} (h : d.noReact s = true) : (d.raise s).apg = d.apg := (congrArg Dev.apg (raise_noReact_noted h) :)

theorem raise_noReact_noReact {s : Nat} {d : Dev} (h : d.noReact s = true) (k : Nat) : (d.raise s).noReact k = d.noReact k :=
  noReact_of_unnoted (fun j => raise_unnoted (srcSetup_unnoted j) h) k

/-- What a change of the registers and of the units leaves of the sources. -/
theorem noReact_of_evt {e d : Dev} (h : e.evt = d.evt) (s : Nat) : e.noReact s = d.noReact s :=
  noReact_of_unnoted (fun k => by unfold srcSetup esrc; rw [h]) s

end Dev
end Sys2Proof.Machine
end

section
/-! PROOFS. The sequencer's record and its registers: what storing a record and moving the program counter change, and what the front end
decodes. -/
namespace Sys2Proof.Machine
namespace Dev

/-! ### Storing a record -/

theorem seqOf_putSeq (d : Dev) (p : Nat) (s : Seq) : (d.putSeq p s).seqOf p = s := tget_tset_same _ _ _ _

theorem seqOf_set (d : Dev) (a : Nat) (w : Word) (q : Nat) : (d.set a w).seqOf q = d.seqOf q := rfl
theorem seqOf_setN (d : Dev) (a v q : Nat) : (d.setN a v).seqOf q = d.seqOf q := rfl
theorem seqOf_wf (d : Dev) (a : Nat) (f : Fld) (v q : Nat) : (d.wf a f v).seqOf q = d.seqOf q := rfl

/-- The device without its registers and its sequencers' records. -/
def unsequenced (d : Dev) : Dev := { d with regs := [], seq := [] }

theorem set_unsequenced (d : Dev) (a : Nat) (w : Word) : (d.set a w).unsequenced = d.unsequenced := rfl
theorem setN_unsequenced (d : Dev) (a v : Nat) : (d.setN a v).unsequenced = d.unsequenced := rfl
theorem wf_unsequenced (d : Dev) (a : Nat) (f : Fld) (v : Nat) : (d.wf a f v).unsequenced = d.unsequenced := rfl
theorem setPc_unsequenced (d : Dev) (p v : Nat) : (d.setPc p v).unsequenced = d.unsequenced := rfl
theorem putSeq_unsequenced (d : Dev) (p : Nat) (s : Seq) : (d.putSeq p s).unsequenced = d.unsequenced := by
  simp [unsequenced]

theorem frame_of_unsequenced {e d : Dev} (h : e.unsequenced = d.unsequenced) : e = { d with regs := e.regs, seq := e.seq } :=
  congrArg (fun x : Dev => { x with regs := e.regs, seq := e.seq }) h

/-- The sequencer's registers are words of one page, told apart by their offsets. -/
theorem seqStat_ne_seqSflag (p : Nat) : R.seqStat p ≠ R.seqSflag p := by unfold R.seqStat R.seqSflag; omega
theorem seqPc_ne_seqStat (p : Nat) : R.seqPc p ≠ R.seqStat p := by unfold R.seqPc R.seqStat; omega
theorem seqPc_ne_seqSflag (p : Nat) : R.seqPc p ≠ R.seqSflag p := by unfold R.seqPc R.seqSflag; omega

/-- The state code stands when a record is stored. -/
theorem seqState_putSeq (d : Dev) (p : Nat) (s : Seq) : (d.putSeq p s).seqState p = d.seqState p := by
  unfold seqState putSeq
  dsimp only
  rw [rf_congr (get_setN_ne _ _ (seqStat_ne_seqSflag p))]
  iterate 7 rw [rf_wf_apart _ _ _ _ _ rfl rfl]
  rfl

theorem pc_putSeq (d : Dev) (p : Nat) (s : Seq) : (d.putSeq p s).pc p = d.pc p :=
  congrArg BitVec.toNat (get_putSeq_ne d p s (seqPc_ne_seqStat p) (seqPc_ne_seqSflag p))

theorem rb_putSeq_moored (d : Dev) (p : Nat) (s : Seq) :
    (d.putSeq p s).rb (R.seqStat p) F.seqStatMoored = match s.fe with | .moor _ _ => true | _ => false := by
  unfold putSeq
  dsimp only
  rw [rb_congr (get_setN_ne _ _ (seqStat_ne_seqSflag p)), rb_wf_apart _ _ _ _ _ rfl rfl, rb_wf_apart _ _ _ _ _ rfl rfl, rb, rf_wf_same _ _ _ _ rfl]
  cases s.fe <;> rfl

theorem rn_putSeq_ne (d : Dev) (p : Nat) (s : Seq) {a : Nat} (h1 : a ≠ R.seqStat p) (h2 : a ≠ R.seqSflag p) : (d.putSeq p s).rn a = d.rn a :=
  congrArg BitVec.toNat (get_putSeq_ne d p s h1 h2)

theorem sameRegs_putSeq (d : Dev) (p : Nat) (s : Seq) : (d.putSeq p s).sameRegs d [R.seqStat p, R.seqSflag p] := by
  intro a ha
  simp only [List.mem_cons, List.not_mem_nil, or_false, not_or] at ha
  exact get_putSeq_ne d p s ha.1 ha.2

theorem sameRegs_mono {e d : Dev} {l l' : List Nat} (h : e.sameRegs d l) (hs : l ⊆ l') : e.sameRegs d l' := fun a ha => h a (fun hm => ha (hs hm))

/-! ### Moving the program counter -/

theorem seqOf_setPc (d : Dev) (p v q : Nat) : (d.setPc p v).seqOf q = d.seqOf q := rfl

theorem pc_setPc (d : Dev) (p v : Nat) : (d.setPc p v).pc p = v % 16384 := by
  unfold pc setPc
  rw [rn_setN_same]
  omega

theorem seqState_setPc (d : Dev) (p v : Nat) : (d.setPc p v).seqState p = d.seqState p :=
  rf_congr (get_setN_ne d _ (seqPc_ne_seqStat p).symm) _

theorem get_setPc_ne (d : Dev) (p v : Nat) {a : Nat} (h : a ≠ R.seqPc p) : (d.setPc p v).get a = d.get a := get_setN_ne d _ h

/-- The record is stored, the program counter moves to `v`, and nothing else changes. -/
structure Moved (e d : Dev) (p : Nat) (s : Seq) (v : Nat) : Prop where
  record : e.seqOf p = s
  pc : e.pc p = v
  state : e.seqState p = d.seqState p
  regs : e.sameRegs d [R.seqStat p, R.seqSflag p, R.seqPc p]
  frame : e = { d with regs := e.regs, seq := e.seq }

theorem moved_putSeq_setPc (d : Dev) (p : Nat) (s : Seq) (v : Nat) : Moved ((d.putSeq p s).setPc p v) d p s (v % 16384) where
  record := (seqOf_setPc _ _ _ _).trans (seqOf_putSeq d p s)
  pc := pc_setPc _ _ _
  state := (seqState_setPc _ _ _).trans (seqState_putSeq d p s)
  regs a ha := by
    simp only [List.mem_cons, List.not_mem_nil, or_false, not_or] at ha
    rw [get_setPc_ne _ _ _ ha.2.2, get_putSeq_ne _ _ _ ha.1 ha.2.1]
  frame := frame_of_unsequenced ((setPc_unsequenced _ _ _).trans (putSeq_unsequenced d p s))

/-! ### Decoding -/

/-- The instruction at the program counter. -/
abbrev atPc (d : Dev) (p : Nat) : Nat := d.instrAt p (d.pc p)

/-- The record once the instruction at the program counter is decoded. -/
abbrev decodedSeq (d : Dev) (p : Nat) : Seq := { d.seqOf p with decoded := decodeEdge (d.seqOf p) }

/-- The address behind the program counter. -/
abbrev pcNext (d : Dev) (p : Nat) : Nat := (d.pc p + 1) % 16384

theorem fetchOp_of_runs {d : Dev} {p op : Nat} (h : d.runs p op = true) :
    d.fetchOp p op = some (d.atPc p, decodeEdge (d.seqOf p), d.decodedSeq p) := by
  unfold runs fetchOp at h
  unfold fetchOp
  dsimp only at h ⊢
  split at h
  · next hc => rw [if_pos hc]
  · cases h

/-- What the front end asks for before it decodes (R123, R134). -/
theorem runs_iff (d : Dev) (p op : Nat) : d.runs p op = true ↔
    p < 4 ∧ d.seqState p = 2 ∧ (d.seqOf p).fe = .run ∧ I.op (d.atPc p) = op ∧ I.legal p (d.atPc p) = true := by
  unfold runs fetchOp
  dsimp only
  split
  · next hc => exact ⟨fun _ => hc, fun _ => rfl⟩
  · next hc => exact ⟨fun h => (by cases h), fun h => absurd h hc⟩

theorem target_lt (w : Nat) : I.target w < 16384 := Nat.mod_lt _ (by decide)

theorem pcNext_mod (d : Dev) (p : Nat) : d.pcNext p % 16384 = d.pcNext p := Nat.mod_mod _ _

theorem target_mod (w : Nat) : I.target w % 16384 = I.target w := Nat.mod_eq_of_lt (target_lt w)

/-- A conditional jump stays within the program bank. -/
theorem jumpTo_mod (d : Dev) (p : Nat) (c : Prop) [Decidable c] :
    (if c then I.target (d.atPc p) else d.pcNext p) % 16384 = if c then I.target (d.atPc p) else d.pcNext p := by
  split
  · exact target_mod _
  · exact pcNext_mod _ _

end Dev

/-! ### Commands of the front end -/

/-- A command whose device moves: the shape in which the statements say it. -/
theorem next_of_moved {c : Sys2Proof.Instr} {s : State} {e : Dev} {p : Nat} {x : Seq} {v : Nat} (hc : exec c s = .next { s with dev := e })
    (h : e.Moved s.dev p x v) :
    ∃ t, exec c s = .next t ∧ t.dev.seqOf p = x ∧ t.dev.pc p = v ∧ t.dev.seqState p = s.dev.seqState p ∧
      t.dev.sameRegs s.dev [R.seqStat p, R.seqSflag p, R.seqPc p] ∧ t.dev = { s.dev with regs := t.dev.regs, seq := t.dev.seq } :=
  ⟨_, hc, h.record, h.pc, h.state, h.regs, h.frame⟩

end Sys2Proof.Machine
end

section
/-! PROOFS. The sequencer family: control flow and its stacks. -/
namespace Sys2Proof.Machine
namespace Dev

/-! ### Registers that an occurrence's bookkeeping does not write -/

theorem not_mem_noteRegs {a : Nat} (h : 0x100000 ≤ a) : a ∉ noteRegs := by
  simp only [noteRegs, R.evcFf0, R.evcFf1, R.evcFf2, R.evcFf3, R.evcEvqWptr, R.evcEvqLost, R.msixPba, List.mem_cons, List.not_mem_nil, or_false,
    not_or]
  omega

/-- The sequencer's registers are among those. -/
theorem seqReg_not_mem_noteRegs (p o : Nat) : portPage p 1 + o ∉ noteRegs :=
  not_mem_noteRegs (by unfold portPage; omega)

/-! ### An error that stops the front end (R158) -/

/-- The record of a front end that an error stopped, with what earlier instructions queued. -/
def faultSeq (s : Seq) (em : Nat) : Seq :=
  fixCs { s with fe := .off, idleOnly := true, errPend := true, errMin := em, csWait := if s.cs.isNone && s.csWait.isNone then some s.decoded else s.csWait }

theorem fixCs_fe (s : Seq) : (fixCs s).fe = s.fe := by
  unfold fixCs
  split
  · split <;> rfl
  · rfl

theorem fixCs_segs (s : Seq) : (fixCs s).segs = s.segs := by
  unfold fixCs
  split
  · split <;> rfl
  · rfl

theorem seqFault_eq (d : Dev) (p cause pcv vofs em : Nat) (h : d.seqState p = 2) : d.seqFault p cause pcv vofs true em =
    ((((d.putSeq p (faultSeq (d.seqOf p) em)).setSeqState p 4).set (R.seqErr p) (fset (fset 0 F.seqErrCause cause) F.seqErrPc pcv))).setN
      (R.seqErrVofs p) vofs := by
  unfold seqFault
  rw [if_neg (by omega)]
  simp only [if_true, faultSeq]

/-- The front end is off, the error record tells the cause and the program counter, and nothing but the sequencer has changed. -/
structure Faulted (e d : Dev) (p cause pcv : Nat) : Prop where
  fe : (e.seqOf p).fe = .off
  state : e.seqState p = 4
  cause : e.rf (R.seqErr p) F.seqErrCause = cause % 16
  errPc : e.rf (R.seqErr p) F.seqErrPc = pcv % 16384
  pc : e.pc p = d.pc p
  regs : e.sameRegs d [R.seqStat p, R.seqSflag p, R.seqErr p, R.seqErrVofs p]
  unsequenced : e.unsequenced = d.unsequenced

theorem faulted_seqFault (d : Dev) (p cause pcv vofs em : Nat) (h : d.seqState p = 2) :
    Faulted (d.seqFault p cause pcv vofs true em) d p cause pcv := by
  have hregs : (d.seqFault p cause pcv vofs true em).sameRegs d [R.seqStat p, R.seqSflag p, R.seqErr p, R.seqErrVofs p] := by
    intro a ha
    simp only [List.mem_cons, List.not_mem_nil, or_false, not_or] at ha
    obtain ⟨hstat, hsflag, herr, hvofs⟩ := ha
    rw [seqFault_eq _ _ _ _ _ _ h, get_setN_ne _ _ hvofs, get_set_ne _ _ herr, setSeqState, get_wf_ne _ _ _ hstat,
      get_putSeq_ne _ _ _ hstat hsflag]
  have herr : (d.seqFault p cause pcv vofs true em).get (R.seqErr p) = fset (fset 0 F.seqErrCause cause) F.seqErrPc pcv := by
    rw [seqFault_eq _ _ _ _ _ _ h, get_setN_ne _ _ (by unfold R.seqErr R.seqErrVofs; omega), get_set_same]
  have hstate : (d.seqFault p cause pcv vofs true em).seqState p = 4 := by
    rw [seqFault_eq _ _ _ _ _ _ h, seqState, rf_congr (get_setN_ne _ _ (by unfold R.seqStat R.seqErrVofs; omega)),
      rf_congr (get_set_ne _ _ (by unfold R.seqStat R.seqErr; omega)), setSeqState, rf_wf_same _ _ _ _ rfl]
    rfl
  refine { fe := ?_, state := hstate, cause := ?_, errPc := ?_, pc := ?_, regs := hregs, unsequenced := ?_ }
  · rw [seqFault_eq _ _ _ _ _ _ h, seqOf_setN, seqOf_set, setSeqState, seqOf_wf, seqOf_putSeq, faultSeq, fixCs_fe]
  · rw [rf, herr, fget_fset_apart _ _ _ _ rfl rfl, fget_fset _ _ _ rfl]
    rfl
  · rw [rf, herr, fget_fset _ _ _ rfl]
    rfl
  · refine congrArg BitVec.toNat (hregs _ ?_)
    simp only [R.seqPc, R.seqStat, R.seqSflag, R.seqErr, R.seqErrVofs, List.mem_cons, List.not_mem_nil, or_false, not_or]
    omega
  · rw [seqFault_eq _ _ _ _ _ _ h]
    exact (setN_unsequenced _ _ _).trans ((set_unsequenced _ _ _).trans ((wf_unsequenced _ _ _ _).trans (putSeq_unsequenced _ _ _)))

theorem calm_of_unsequenced {e d : Dev} (h : e.unsequenced = d.unsequenced) : e.calm = d.calm :=
  (congrArg Dev.calm h :)

theorem apg_of_unsequenced {e d : Dev} (h : e.unsequenced = d.unsequenced) : e.apg = d.apg := (congrArg Dev.apg h :)

theorem evt_of_unsequenced {e d : Dev} (h : e.unsequenced = d.unsequenced) : e.evt = d.evt := (congrArg Dev.evt h :)

/-- What a front end that an error stopped shows after the error's event, which asks for no reaction. -/
structure Stopped (e d : Dev) (p cause pcv : Nat) : Prop where
  fe : (e.seqOf p).fe = .off
  state : e.seqState p = 4
  cause : e.rf (R.seqErr p) F.seqErrCause = cause % 16
  errPc : e.rf (R.seqErr p) F.seqErrPc = pcv % 16384
  pc : e.pc p = d.pc p
  regs : e.sameQuiet d [R.seqStat p, R.seqSflag p, R.seqPc p, R.seqErr p, R.seqErrVofs p]
  frame : e = { d with regs := e.regs, seq := e.seq, evt := e.evt, sram := e.sram, hostMem := e.hostMem, hif := e.hif, chans := e.chans,
                       lvls := e.lvls, acq := e.acq }

theorem Faulted.raise {e d : Dev} {p cause pcv ev : Nat} (h : Faulted e d p cause pcv) (hr : d.noReact ev = true) :
    Stopped (e.raise ev) d p cause pcv := by
  have he : e.noReact ev = true := (noReact_of_evt (evt_of_unsequenced h.unsequenced) ev).trans hr
  have hget : ∀ o, (e.raise ev).get (portPage p 1 + o) = e.get (portPage p 1 + o) := fun o => raise_noReact_get he (seqReg_not_mem_noteRegs p o)
  exact {
    fe := by rw [raise_noReact_seqOf he, h.fe]
    state := (rf_congr (hget 0x44) _).trans h.state
    cause := (rf_congr (hget 0x90) _).trans h.cause
    errPc := (rf_congr (hget 0x90) _).trans h.errPc
    pc := (congrArg BitVec.toNat (hget 0xB8)).trans h.pc
    regs := fun a hq ha => (raise_get hq e ev).trans (sameRegs_mono h.regs (by simp) a ha)
    frame := frame_of_calm ((raise_calm e ev).trans (calm_of_unsequenced h.unsequenced))
      ((raise_noReact_apg he).trans (apg_of_unsequenced h.unsequenced)) }

/-- A stack error stops the front end with cause STACK (R136, R158). -/
theorem stopped_stackError (d : Dev) (p : Nat) (s : Seq) (h : d.seqState p = 2) (hr : d.noReact (Ev.seqStack p) = true) :
    Stopped ((d.putSeq p s).stackError p) d p 2 (d.pc p) := by
  have hput : (d.putSeq p s).seqState p = 2 := (seqState_putSeq d p s).trans h
  have hf := faulted_seqFault (d.putSeq p s) p 2 ((d.putSeq p s).pc p) 0 (((d.putSeq p s).seqOf p).decoded + decodeLead) hput
  rw [pc_putSeq] at hf
  have hf' : Faulted ((d.putSeq p s).seqFault p 2 (d.pc p) 0 true (((d.putSeq p s).seqOf p).decoded + decodeLead)) d p 2 (d.pc p) :=
    { hf with
      pc := hf.pc.trans (pc_putSeq d p s)
      regs := fun a ha => (hf.regs a ha).trans (sameRegs_mono (sameRegs_putSeq d p s) (by simp) a ha)
      unsequenced := hf.unsequenced.trans (putSeq_unsequenced d p s) }
  have := hf'.raise hr
  unfold stackError
  rwa [pc_putSeq]

/-! ### Loops, calls and jumps (R136) -/

/-- The passes that the LOOP at the program counter asks for. -/
abbrev passes (d : Dev) (p : Nat) : Nat :=
  if I.bit100 (d.atPc p) then d.rn (R.seqCnt p (I.csel (d.atPc p))) else I.count (d.atPc p)

section
variable {d : Dev} {p : Nat}

theorem loopOp_skips (h : d.runs p 4 = true) (hn : d.passes p = 0) :
    d.loopOp p = (d.putSeq p (d.decodedSeq p)).setPc p (I.target (d.atPc p) + 1) := by
  unfold loopOp
  rw [fetchOp_of_runs h]
  exact if_pos hn

theorem loopOp_opens (h : d.runs p 4 = true) (hn : d.passes p ≠ 0) (hl : (d.seqOf p).loops.length < 8) :
    d.loopOp p = (d.putSeq p { d.decodedSeq p with loops := (d.pcNext p, d.passes p, (d.seqOf p).calls.length) :: (d.seqOf p).loops }).setPc p
      (d.pcNext p) := by
  unfold loopOp
  rw [fetchOp_of_runs h]
  exact (if_neg hn).trans (if_neg (by dsimp only; omega))

theorem loopOp_full (h : d.runs p 4 = true) (hn : d.passes p ≠ 0) (hl : (d.seqOf p).loops.length = 8) :
    d.loopOp p = (d.putSeq p (d.decodedSeq p)).stackError p := by
  unfold loopOp
  rw [fetchOp_of_runs h]
  exact (if_neg hn).trans (if_pos (by dsimp only; omega))

theorem endloopOp_repeats_or_ends {a n : Nat} {l : List (Nat × Nat × Nat)} (h : d.runs p 5 = true)
    (hl : (d.seqOf p).loops = (a, n, (d.seqOf p).calls.length) :: l) :
    d.endloopOp p = (d.putSeq p { d.decodedSeq p with loops := if 1 < n then (a, n - 1, (d.seqOf p).calls.length) :: l else l }).setPc p
      (if 1 < n then a else d.pc p + 1) := by
  unfold endloopOp loopEnd
  rw [fetchOp_of_runs h]
  simp only [hl]
  rw [if_neg (by simp)]
  by_cases hn : 1 < n <;> simp only [hn, if_true, if_false]

theorem callOp_pushes (h : d.runs p 6 = true) (hl : (d.seqOf p).calls.length < 16) :
    d.callOp p = (d.putSeq p { d.decodedSeq p with calls := d.pcNext p :: (d.seqOf p).calls }).setPc p (I.target (d.atPc p)) := by
  unfold callOp callPush
  rw [fetchOp_of_runs h]
  simp only [hl, if_true]

theorem retOp_pops {a : Nat} {l : List Nat} (h : d.runs p 7 = true) (hl : (d.seqOf p).calls = a :: l) (hloop : loopHere (d.seqOf p) = false) :
    d.retOp p = (d.putSeq p { d.decodedSeq p with calls := l }).setPc p a := by
  have hloop' : loopHere (d.decodedSeq p) = false := hloop
  unfold retOp retPop
  rw [fetchOp_of_runs h]
  simp only [hl, hloop']
  rfl

theorem jumpOp_jumps (h : d.runs p 8 = true) : d.jumpOp p = (d.putSeq p (d.decodedSeq p)).setPc p (I.target (d.atPc p)) := by
  unfold jumpOp
  rw [fetchOp_of_runs h]

/-! ### Conditional jumps (R133, R142) -/

theorem csel_lt (w : Nat) : I.csel w < 4 := Nat.mod_lt _ (by decide)

/-- A counter is no register that shows the record or the program counter. -/
theorem seqCnt_apart (q : Nat) {i : Nat} (hi : i < 4) : R.seqCnt q i ≠ R.seqStat q ∧ R.seqCnt q i ≠ R.seqSflag q ∧ R.seqCnt q i ≠ R.seqPc q := by
  unfold R.seqCnt R.seqStat R.seqSflag R.seqPc
  omega

/-- A condition that is decided at decode, by what the registers show then. -/
abbrev holdsNow (d : Dev) (p : Nat) : Bool := (d.condNow p (I.cond (d.atPc p)) (I.csel (d.atPc p))).2

theorem condNow_zero (csel : Nat) : (d.condNow p 2 csel).2 = decide (d.rn (R.seqCnt p csel) = 0) := rfl
theorem condNow_flag (csel : Nat) : (d.condNow p 5 csel).2 = nbit (d.rn (R.seqHflag p)) csel := rfl
theorem condNow_notFlag (csel : Nat) : (d.condNow p 6 csel).2 = !nbit (d.rn (R.seqHflag p)) csel := rfl
theorem condNow_triggered (csel : Nat) : (d.condNow p 7 csel).2 = d.rb (R.acqStat p) F.acqStatTriggered := rfl
theorem condNow_nonzero (csel : Nat) : (d.condNow p 3 csel).2 = decide (d.rn (R.seqCnt p csel) ≠ 0) := by
  change (d.rn (R.seqCnt p csel) != 0) = _
  rw [Bool.eq_iff_iff, bne_iff_ne, decide_eq_true_iff]

/-- No condition but CNT_DEC_NZ changes anything, and what the registers show of the record does not enter into it. -/
theorem condNow_putSeq (s : Seq) {cond csel : Nat} (hc : cond ≠ 4) (hs : csel < 4) :
    (d.putSeq p s).condNow p cond csel = (d.putSeq p s, (d.condNow p cond csel).2) := by
  obtain ⟨hstat, hsflag, -⟩ := seqCnt_apart p hs
  have hcnt : (d.putSeq p s).rn (R.seqCnt p csel) = d.rn (R.seqCnt p csel) := rn_putSeq_ne d p s hstat hsflag
  have hflag : (d.putSeq p s).rn (R.seqHflag p) = d.rn (R.seqHflag p) :=
    rn_putSeq_ne d p s (by unfold R.seqHflag R.seqStat; omega) (by unfold R.seqHflag R.seqSflag; omega)
  have htrig : (d.putSeq p s).triggered p = d.triggered p :=
    rb_congr (get_putSeq_ne d p s (by unfold R.acqStat R.seqStat portPage; omega) (by unfold R.acqStat R.seqSflag portPage; omega)) _
  unfold condNow
  simp only [hcnt, hflag, htrig, hc, if_false]
  repeat' split
  all_goals rfl

theorem jumpIfOp_decides (h : d.runs p 9 = true) (h2 : 2 ≤ I.cond (d.atPc p)) (h4 : I.cond (d.atPc p) ≠ 4) :
    d.jumpIfOp p = (d.putSeq p (d.decodedSeq p)).setPc p (if d.holdsNow p then I.target (d.atPc p) else d.pcNext p) := by
  unfold jumpIfOp condJump
  rw [fetchOp_of_runs h]
  dsimp only
  rw [if_neg (by omega), condNow_putSeq _ h4 (csel_lt _)]

theorem jumpIfOp_countsDown (h : d.runs p 9 = true) (h4 : I.cond (d.atPc p) = 4) :
    d.jumpIfOp p = ((d.putSeq p (d.decodedSeq p)).setN (R.seqCnt p (I.csel (d.atPc p)))
      ((d.rn (R.seqCnt p (I.csel (d.atPc p))) + 2 ^ 32 - 1) % 2 ^ 32)).setPc p
        (if (d.rn (R.seqCnt p (I.csel (d.atPc p))) + 2 ^ 32 - 1) % 2 ^ 32 != 0 then I.target (d.atPc p) else d.pcNext p) := by
  obtain ⟨hstat, hsflag, -⟩ := seqCnt_apart p (csel_lt (d.atPc p))
  unfold jumpIfOp condJump
  rw [fetchOp_of_runs h]
  dsimp only
  rw [if_neg (by omega), h4]
  simp only [condNow, Nat.reduceEqDiff, if_false, if_true, rn_putSeq_ne d p _ hstat hsflag]

/-- With no segment to watch, its compares count as passed. -/
theorem jumpIfOp_unwatched (h : d.runs p 9 = true) (hc : I.cond (d.atPc p) < 2) (hs : (d.seqOf p).lastSeg = none) :
    d.jumpIfOp p = (d.putSeq p (d.decodedSeq p)).setPc p (if I.cond (d.atPc p) = 1 then I.target (d.atPc p) else d.pcNext p) := by
  unfold jumpIfOp condJump
  rw [fetchOp_of_runs h]
  dsimp only
  rw [if_pos hc, hs]

theorem jumpIfOp_watches {g : Nat} (h : d.runs p 9 = true) (hc : I.cond (d.atPc p) < 2) (hs : (d.seqOf p).lastSeg = some g) :
    d.jumpIfOp p = d.putSeq p { beginWait (d.decodedSeq p) (decodeEdge (d.seqOf p)) (I.pad (d.atPc p)) with
      fe := .cmp g (I.target (d.atPc p)) (d.pcNext p) (I.cond (d.atPc p)) } := by
  unfold jumpIfOp condJump
  rw [fetchOp_of_runs h]
  dsimp only
  rw [if_pos hc, hs]

end

end Dev
end Sys2Proof.Machine
end

section
/-! PROOFS. The sequencer family: LOOP, ENDLOOP, CALL, RET, JUMP and JUMP_IF move the program counter and the stacks. -/
namespace Sys2Proof.Machine

/-- A command that stores a record and moves the program counter. -/
theorem next_of_putSeq_setPc {c : Sys2Proof.Instr} {s : State} {p : Nat} {x : Seq} {v w : Nat} {e : Dev}
    (hc : exec c s = .next { s with dev := e }) (he : e = (s.dev.putSeq p x).setPc p v) (hw : v % 16384 = w) :
    ∃ t, exec c s = .next t ∧ t.dev.seqOf p = x ∧ t.dev.pc p = w ∧ t.dev.seqState p = s.dev.seqState p ∧
      t.dev.sameRegs s.dev [R.seqStat p, R.seqSflag p, R.seqPc p] ∧ t.dev = { s.dev with regs := t.dev.regs, seq := t.dev.seq } := by
  refine next_of_moved hc ?_
  rw [he, ← hw]
  exact Dev.moved_putSeq_setPc _ _ _ _

/-- A ninth open loop stops the port with cause STACK (R136). -/
theorem loop_stops_at_nine (p : Fin 4) (s : State) (h : s.dev.runs p 4 = true) (hr : s.dev.noReact (Ev.seqStack p) = true)
    (hn : s.dev.passes p ≠ 0) (hl : (s.dev.seqOf p).loops.length = 8) : ∃ t, exec (.loop p) s = .next t ∧
      t.dev.seqState p = 4 ∧ t.dev.rf (R.seqErr p) F.seqErrCause = 2 ∧ t.dev.rf (R.seqErr p) F.seqErrPc = s.dev.pc p % 16384 ∧
      (t.dev.seqOf p).fe = .off ∧ t.dev.pc p = s.dev.pc p ∧
      t.dev.sameQuiet s.dev [R.seqStat p, R.seqSflag p, R.seqPc p, R.seqErr p, R.seqErrVofs p] ∧
      t.dev = { s.dev with regs := t.dev.regs, seq := t.dev.seq, evt := t.dev.evt, sram := t.dev.sram, hostMem := t.dev.hostMem, hif := t.dev.hif, chans := t.dev.chans, lvls := t.dev.lvls, acq := t.dev.acq } := by
  have hst := Dev.stopped_stackError s.dev p (s.dev.decodedSeq p) ((Dev.runs_iff _ _ _).mp h).2.1 hr
  refine ⟨{ s with dev := s.dev.loopOp p }, rfl, ?_⟩
  dsimp only
  rw [Dev.loopOp_full h hn hl]
  exact ⟨hst.state, hst.cause, hst.errPc, hst.fe, hst.pc, hst.regs, hst.frame⟩

/-- CNT_DEC_NZ stores the counter decremented and jumps unless that is 0 (R142). -/
theorem jumpIf_countsDown (p : Fin 4) (s : State) (h : s.dev.runs p 9 = true) (h4 : Dev.I.cond (s.dev.atPc p) = 4) :
    ∃ t, exec (.jumpIf p) s = .next t ∧
      t.dev.rn (R.seqCnt p (Dev.I.csel (s.dev.atPc p))) = (s.dev.rn (R.seqCnt p (Dev.I.csel (s.dev.atPc p))) + 2 ^ 32 - 1) % 2 ^ 32 ∧
      t.dev.pc p = (if s.dev.rn (R.seqCnt p (Dev.I.csel (s.dev.atPc p))) = 1 then s.dev.pcNext p else Dev.I.target (s.dev.atPc p)) ∧
      t.dev.seqOf p = s.dev.decodedSeq p ∧ t.dev.seqState p = s.dev.seqState p ∧
      t.dev.sameRegs s.dev [R.seqStat p, R.seqSflag p, R.seqPc p, R.seqCnt p (Dev.I.csel (s.dev.atPc p))] ∧
      t.dev = { s.dev with regs := t.dev.regs, seq := t.dev.seq } := by
  obtain ⟨hstat, hsflag, hpc⟩ := Dev.seqCnt_apart p (Dev.csel_lt (s.dev.atPc p))
  have hlt := Dev.rn_lt s.dev (R.seqCnt p (Dev.I.csel (s.dev.atPc p)))
  refine ⟨{ s with dev := s.dev.jumpIfOp p }, rfl, ?_⟩
  dsimp only
  rw [Dev.jumpIfOp_countsDown h h4]
  refine ⟨?_, ?_, ?_, ?_, ?_, ?_⟩
  · rw [Dev.setPc, Dev.rn_setN_ne _ _ hpc, Dev.rn_setN_same]
    exact Nat.mod_mod _ _
  · rw [Dev.pc_setPc]
    by_cases h1 : s.dev.rn (R.seqCnt p (Dev.I.csel (s.dev.atPc p))) = 1
    · rw [h1]
      exact Dev.pcNext_mod _ _
    · rw [if_neg h1, if_pos (by rw [bne_iff_ne]; omega)]
      exact Dev.target_mod _
  · rw [Dev.seqOf_setPc, Dev.seqOf_setN, Dev.seqOf_putSeq]
  · rw [Dev.seqState_setPc]
    exact (Dev.rf_congr (Dev.get_setN_ne _ _ hstat.symm) _).trans (Dev.seqState_putSeq _ _ _)
  · intro a ha
    simp only [List.mem_cons, List.not_mem_nil, or_false, not_or] at ha
    obtain ⟨hs, hf, hp, hc⟩ := ha
    rw [Dev.get_setPc_ne _ _ _ hp, Dev.get_setN_ne _ _ hc, Dev.get_putSeq_ne _ _ _ hs hf]
  · exact Dev.frame_of_unsequenced ((Dev.setPc_unsequenced _ _ _).trans ((Dev.setN_unsequenced _ _ _).trans (Dev.putSeq_unsequenced _ _ _)))

/-- A condition on compares that are not in holds the front end (R133). -/
theorem jumpIf_watches (p : Fin 4) (g : Nat) (s : State) (h : s.dev.runs p 9 = true) (hc : Dev.I.cond (s.dev.atPc p) < 2)
    (hs : (s.dev.seqOf p).lastSeg = some g) : ∃ t, exec (.jumpIf p) s = .next t ∧
      (t.dev.seqOf p).fe = .cmp g (Dev.I.target (s.dev.atPc p)) (s.dev.pcNext p) (Dev.I.cond (s.dev.atPc p)) ∧
      (t.dev.seqOf p).inWait = true ∧ t.dev.pc p = s.dev.pc p ∧ t.dev.seqState p = s.dev.seqState p ∧
      t.dev.sameRegs s.dev [R.seqStat p, R.seqSflag p, R.seqPc p] ∧ t.dev = { s.dev with regs := t.dev.regs, seq := t.dev.seq } := by
  refine ⟨{ s with dev := s.dev.jumpIfOp p }, rfl, ?_⟩
  dsimp only
  rw [Dev.jumpIfOp_watches h hc hs]
  refine ⟨?_, ?_, Dev.pc_putSeq _ _ _, Dev.seqState_putSeq _ _ _, Dev.sameRegs_mono (Dev.sameRegs_putSeq _ _ _) (by simp),
    Dev.frame_of_unsequenced (Dev.putSeq_unsequenced _ _ _)⟩
  · rw [Dev.seqOf_putSeq]
  · rw [Dev.seqOf_putSeq]
    rfl

/-- A condition decided at decode (R133, R142). -/
theorem jumpIf_decides (p : Fin 4) (s : State) (h : s.dev.runs p 9 = true) (h2 : 2 ≤ Dev.I.cond (s.dev.atPc p))
    (h4 : Dev.I.cond (s.dev.atPc p) ≠ 4) : ∃ t, exec (.jumpIf p) s = .next t ∧
      t.dev.seqOf p = s.dev.decodedSeq p ∧ t.dev.pc p = (if s.dev.holdsNow p then Dev.I.target (s.dev.atPc p) else s.dev.pcNext p) ∧
      t.dev.seqState p = s.dev.seqState p ∧ t.dev.sameRegs s.dev [R.seqStat p, R.seqSflag p, R.seqPc p] ∧
      t.dev = { s.dev with regs := t.dev.regs, seq := t.dev.seq } :=
  next_of_putSeq_setPc rfl (Dev.jumpIfOp_decides h h2 h4) (Dev.jumpTo_mod _ _ _)

/-- Settles O32: each instruction stores the record with the stacks that it leaves and moves the program counter, but for the two cases that
hold or stop the front end. -/
theorem loopsCallsAndJumps : Obligations.LoopsCallsAndJumps := by
  refine ⟨fun p s h hn hl => next_of_putSeq_setPc rfl (Dev.loopOp_opens h hn hl) (Dev.pcNext_mod _ _),
    fun p s h hn => next_of_putSeq_setPc rfl (Dev.loopOp_skips h hn) rfl, loop_stops_at_nine,
    fun p a n l s h hl => next_of_putSeq_setPc rfl (Dev.endloopOp_repeats_or_ends h hl) (apply_ite (· % 16384) _ _ _),
    fun p s h hl => next_of_putSeq_setPc rfl (Dev.callOp_pushes h hl) (Dev.target_mod _),
    fun p a l s h hl hloop => next_of_putSeq_setPc rfl (Dev.retOp_pops h hl hloop) rfl,
    fun p s h => next_of_putSeq_setPc rfl (Dev.jumpOp_jumps h) (Dev.target_mod _), jumpIf_countsDown, fun p s h hc => ?_,
    fun p s h hc hs => next_of_putSeq_setPc rfl (Dev.jumpIfOp_unwatched h hc hs) (Dev.jumpTo_mod _ _ _),
    jumpIf_watches⟩
  have hcond : Dev.I.cond (s.dev.atPc p) = 2 ∨ Dev.I.cond (s.dev.atPc p) = 3 ∨ Dev.I.cond (s.dev.atPc p) = 5 ∨
      Dev.I.cond (s.dev.atPc p) = 6 ∨ Dev.I.cond (s.dev.atPc p) = 7 := by simpa using hc
  obtain ⟨t, ht, hrec, hpc, hrest⟩ := jumpIf_decides p s h (by omega) (by omega)
  refine ⟨t, ht, hrec, hpc.trans ?_, hrest⟩
  unfold Dev.holdsNow
  rcases hcond with e | e | e | e | e
  · simp only [e, Dev.condNow_zero]
  · simp only [e, Dev.condNow_nonzero]
  · simp only [e, Dev.condNow_flag]
  · simp only [e, Dev.condNow_notFlag]
  · simp only [e, Dev.condNow_triggered]

end Sys2Proof.Machine
end

section
/-! PROOFS. The sequencer family: issuing instructions and MATCH queue segments; moorings and decisions hold the front end. -/
namespace Sys2Proof.Machine
namespace Dev

/-! ### The queue of segments (R120) -/

/-- The segment that the instruction at the program counter queues, from the source `src`: it takes what waits for the next vector. -/
abbrev segAtPc (d : Dev) (p src copies : Nat) (rx : Bool) : Seg :=
  { id := (d.seqOf p).nextSeg, src := src, pc := d.pc p, raddr := I.raddr (d.atPc p), count := I.count (d.atPc p), copies := copies,
    issued := 0, wsm := I.wsm (d.atPc p), rxrec := rx, mark := I.mark (d.atPc p), apc := I.apc (d.atPc p), restart := I.bit100 (d.atPc p),
    decode := decodeEdge (d.seqOf p), nb := (d.seqOf p).nb, sync := (d.seqOf p).sync, nbPad := (d.seqOf p).nbPad, sets := (d.seqOf p).sets }

/-- The record with that segment queued. -/
abbrev queuedSeq (d : Dev) (p src copies : Nat) (rx : Bool) : Seq :=
  { d.decodedSeq p with
    segs := (d.seqOf p).segs ++ [d.segAtPc p src copies rx], nextSeg := (d.seqOf p).nextSeg + 1, lastSeg := some (d.seqOf p).nextSeg
    nb := [], sync := [], sets := [] }

section
variable {d : Dev} {p : Nat}

theorem pushSeg_decoded (src copies : Nat) (hn : I.count (d.atPc p) ≠ 0) :
    pushSeg (d.decodedSeq p) (d.atPc p) src (I.count (d.atPc p)) copies (decodeEdge (d.seqOf p)) (d.pc p) =
      d.queuedSeq p src copies (I.rxrec (d.atPc p) && decide (src < 3) && decide (I.op (d.atPc p) ≠ 10)) := if_neg hn

theorem moorPass_unmoored {w : Nat} (hm : I.moor w = false) (s : Seq) : moorPass w s = s := by
  unfold moorPass
  rw [hm]
  rfl

theorem moorStall_unmoored {w : Nat} (hm : I.moor w = false) (e : Nat) (s : Seq) : d.moorStall p w e s = none := by
  unfold moorStall
  rw [hm]
  rfl

theorem flowBad_jump {w : Nat} (hf : I.flow w ≤ 2) (s : Seq) : flowBad w s = false := by
  unfold flowBad
  have : I.flow w = 0 ∨ I.flow w = 1 ∨ I.flow w = 2 := by omega
  rcases this with e | e | e <;> rw [e] <;> rfl

theorem doFlow_jump {w : Nat} (hf : I.flow w ≤ 1) (e : Nat) (s : Seq) :
    d.doFlow p w e s = (d.putSeq p s).setPc p (if I.flow w = 1 then I.target w else d.pcNext p) := by
  unfold doFlow
  have : I.flow w = 0 ∨ I.flow w = 1 := by omega
  rcases this with h | h <;> rw [h] <;> rfl

/-- A legal ISSUE names one of two sources (R134). -/
theorem src_lt_of_runs (h : d.runs p 1 = true) : I.src (d.atPc p) < 2 := by
  obtain ⟨-, -, -, hop, hlegal⟩ := (runs_iff _ _ _).mp h
  unfold I.legal at hlegal
  simp only [hop, Bool.and_eq_true, Bool.not_eq_true', Bool.and_eq_false_iff, Bool.or_eq_false_iff, decide_eq_false_iff_not] at hlegal
  obtain ⟨⟨⟨⟨-, hsrc⟩, -⟩, -⟩, -⟩ := hlegal
  exact Nat.not_le.mp (hsrc.resolve_left (not_not_intro trivial)).1

/-- What the instruction issues from: ISSUE names its source, APG_RUN and IDLE are their own. -/
abbrev srcAtPc (d : Dev) (p op : Nat) : Nat := if op = 1 then I.src (d.atPc p) else op

/-- An unmoored issuing instruction with room in the queue and vectors to issue queues its segment (R120). -/
theorem issueOp_queues {op : Nat} (h : d.runs p op = true) (hroom : (d.seqOf p).segs.length < 2) (hn : I.count (d.atPc p) ≠ 0)
    (hm : I.moor (d.atPc p) = false) (hf : I.flow (d.atPc p) ≤ 1) :
    d.issueOp p op = (d.putSeq p (d.queuedSeq p (d.srcAtPc p op) 1
      (I.rxrec (d.atPc p) && decide (d.srcAtPc p op < 3) && decide (I.op (d.atPc p) ≠ 10)))).setPc p
        (if I.flow (d.atPc p) = 1 then I.target (d.atPc p) else d.pcNext p) := by
  unfold issueOp
  rw [fetchOp_of_runs h]
  dsimp only
  rw [if_neg (by omega), moorStall_unmoored hm]
  dsimp only
  rw [moorPass_unmoored hm, flowBad_jump (by omega), pushSeg_decoded _ _ hn, doFlow_jump hf]
  rfl

/-- With two segments queued, an instruction that has vectors to issue waits (R120). -/
theorem issueOp_waits {op : Nat} (h : d.runs p op = true) (hfull : (d.seqOf p).segs.length = 2) (hn : I.count (d.atPc p) ≠ 0)
    (hf : I.flow (d.atPc p) ≤ 2) : d.issueOp p op = d := by
  unfold issueOp
  rw [fetchOp_of_runs h]
  exact if_pos ⟨hfull.ge, hn, flowBad_jump hf _⟩

/-! ### Moorings (R152) -/

/-- The record of a front end that a low lock stalls. -/
abbrev mooredSeq (d : Dev) (p : Nat) : Seq :=
  { beginWait (d.decodedSeq p) (decodeEdge (d.seqOf p)) 2 with
    fe := .moor (d.seqOf p).txLow (d.seqOf p).rxLow, txLow := false, rxLow := false }

theorem beginWait_segs (s : Seq) (e src : Nat) : (beginWait s e src).segs = s.segs := by
  change (fixCs _).segs = _
  rw [fixCs_segs]
  split <;> rfl

theorem issueOp_stalls {op : Nat} (h : d.runs p op = true) (hroom : (d.seqOf p).segs.length < 2) (hm : I.moor (d.atPc p) = true)
    (hok : (d.seqOf p).moorOk = false) (hlow : (d.seqOf p).txLow = true ∨ (d.seqOf p).rxLow = true) :
    d.issueOp p op = (d.putSeq p (d.mooredSeq p)).raise (Ev.lockLow p) := by
  have hstall : d.moorStall p (d.atPc p) (decodeEdge (d.seqOf p)) (d.decodedSeq p) = some ((d.putSeq p (d.mooredSeq p)).raise (Ev.lockLow p)) := by
    unfold moorStall
    rw [if_pos (by rcases hlow with e | e <;> simp [hm, hok, e])]
  unfold issueOp
  rw [fetchOp_of_runs h]
  dsimp only
  rw [if_neg (by omega), hstall]

theorem mooringRelease_goes_on {x y : Bool} (hs : d.seqState p = 2) (hfe : (d.seqOf p).fe = .moor x y) (hfree : d.moorFree p x y = true) :
    d.mooringRelease p = d.putSeq p { d.seqOf p with
      fe := .run, moorOk := true, decoded := max (decodeEdge (d.seqOf p)) (d.edgeAt sqclk d.now) - sqclk } := by
  unfold mooringRelease
  simp only [hfe, hs, hfree, decide_true, Bool.and_self, if_true]

/-! ### MATCH (R147) -/

theorem matchOp_queues (h : d.runs p 10 = true) (hroom : (d.seqOf p).segs.length < 2) (hn : I.count (d.atPc p) ≠ 0)
    (hl : I.limit (d.atPc p) ≠ 0) (hm : I.moor (d.atPc p) = false) :
    d.matchOp p = d.putSeq p { d.queuedSeq p 0 (matchCopies (beatSize (d.tsPfx p (d.seqOf p).issueTs)) (I.count (d.atPc p))) false with
      fe := .match_ (d.seqOf p).nextSeg 1 } := by
  have hop : I.op (d.atPc p) = 10 := ((runs_iff _ _ _).mp h).2.2.2.1
  unfold matchOp
  rw [fetchOp_of_runs h]
  dsimp only
  rw [if_neg (by omega), moorStall_unmoored hm]
  dsimp only
  rw [moorPass_unmoored hm, if_neg (by omega), pushSeg_decoded _ _ hn, hop]
  simp

theorem matchOp_passes (h : d.runs p 10 = true) (hm : I.moor (d.atPc p) = false)
    (hz : I.count (d.atPc p) = 0 ∨ I.limit (d.atPc p) = 0) :
    d.matchOp p = ((d.putSeq p { d.decodedSeq p with lastSeg := none }).setMatchLast p 0 false).setPc p (d.pc p + 1) := by
  unfold matchOp
  rw [fetchOp_of_runs h]
  dsimp only
  rw [if_neg (by omega), moorStall_unmoored hm]
  dsimp only
  rw [moorPass_unmoored hm, if_pos hz]

/-! ### Decisions (R144, R147) -/

/-- The record of a front end that goes on after a decision at `x`. -/
abbrev decidedSeq (d : Dev) (p x : Nat) : Seq := { d.seqOf p with fe := .run, decoded := max (d.seqOf p).decoded (x - sqclk) }

theorem compareDecision_jumps {g a b c x : Nat} (hs : d.seqState p = 2) (hfe : (d.seqOf p).fe = .cmp g a b c)
    (hx : d.decideAt (d.seqOf p) g = some x) : d.compareDecision p =
      (d.putSeq p (d.decidedSeq p x)).setPc p (if (segRes (d.seqOf p) g).fail = decide (c = 0) then a else b) := by
  unfold compareDecision
  simp only [hs, hfe, hx, ne_eq, not_true_eq_false, if_false, beq_iff_eq]
  rfl

theorem compareDecision_matches {g n x : Nat} (hs : d.seqState p = 2) (hfe : (d.seqOf p).fe = .match_ g n)
    (hx : d.decideAt (d.seqOf p) g = some x) (hheld : (segRes (d.seqOf p) g).fail = (I.cond (d.atPc p) == 0)) :
    d.compareDecision p = ((d.putSeq p (d.decidedSeq p x)).setMatchLast p n true).setPc p (d.pc p + 1) := by
  unfold compareDecision
  simp only [hs, hfe, hx, ne_eq, not_true_eq_false, if_false]
  rw [if_pos (by rw [hheld]; exact BEq.rfl)]

end

/-! ### `SEQ_MATCH_LAST` -/

theorem seqMatchLast_apart (p : Nat) : R.seqMatchLast p ≠ R.seqStat p ∧ R.seqMatchLast p ≠ R.seqSflag p ∧ R.seqMatchLast p ≠ R.seqPc p := by
  unfold R.seqMatchLast R.seqStat R.seqSflag R.seqPc
  omega

/-- A MATCH that ends stores the record, shows its units and moves the program counter on. -/
structure MatchEnded (e d : Dev) (p : Nat) (s : Seq) (units : Nat) (held : Bool) : Prop where
  record : e.seqOf p = s
  pc : e.pc p = d.pcNext p
  state : e.seqState p = d.seqState p
  last : e.rn (R.seqMatchLast p) = b2n held * 2 ^ 31 + units % 2 ^ 16
  regs : e.sameRegs d [R.seqStat p, R.seqSflag p, R.seqPc p, R.seqMatchLast p]
  frame : e = { d with regs := e.regs, seq := e.seq }

theorem matchEnded_setMatchLast (d : Dev) (p : Nat) (s : Seq) (units : Nat) (held : Bool) :
    MatchEnded (((d.putSeq p s).setMatchLast p units held).setPc p (d.pc p + 1)) d p s units held := by
  obtain ⟨hstat, hsflag, hpc⟩ := seqMatchLast_apart p
  unfold setMatchLast
  exact {
    record := by rw [seqOf_setPc, seqOf_setN, seqOf_putSeq]
    pc := pc_setPc _ _ _
    state := by
      rw [seqState_setPc]
      exact (rf_congr (get_setN_ne _ _ hstat.symm) _).trans (seqState_putSeq _ _ _)
    last := by
      rw [setPc, rn_setN_ne _ _ hpc, rn_setN_same]
      have : b2n held ≤ 1 := by cases held <;> decide
      exact Nat.mod_eq_of_lt (by omega)
    regs := by
      intro a ha
      simp only [List.mem_cons, List.not_mem_nil, or_false, not_or] at ha
      obtain ⟨hs, hf, hp, hm⟩ := ha
      rw [get_setPc_ne _ _ _ hp, get_setN_ne _ _ hm, get_putSeq_ne _ _ _ hs hf]
    frame := frame_of_unsequenced ((setPc_unsequenced _ _ _).trans ((setN_unsequenced _ _ _).trans (putSeq_unsequenced _ _ _))) }

end Dev

/-! ### The commands -/

/-- An unmoored issuing instruction, in the shape in which the statement says it. -/
theorem next_of_issueOp {c : Sys2Proof.Instr} {s : State} {p op src : Nat} {rx : Bool}
    (hc : exec c s = .next { s with dev := s.dev.issueOp p op }) (h : s.dev.runs p op = true) (hroom : (s.dev.seqOf p).segs.length < 2)
    (hn : Dev.I.count (s.dev.atPc p) ≠ 0) (hm : Dev.I.moor (s.dev.atPc p) = false) (hf : Dev.I.flow (s.dev.atPc p) ≤ 1)
    (hsrc : s.dev.srcAtPc p op = src)
    (hrx : (Dev.I.rxrec (s.dev.atPc p) && decide (src < 3) && decide (op ≠ 10)) = rx) :
    ∃ t, exec c s = .next t ∧ t.dev.seqOf p = s.dev.queuedSeq p src 1 rx ∧
      t.dev.pc p = (if Dev.I.flow (s.dev.atPc p) = 1 then Dev.I.target (s.dev.atPc p) else s.dev.pcNext p) ∧
      t.dev.seqState p = s.dev.seqState p ∧ t.dev.sameRegs s.dev [R.seqStat p, R.seqSflag p, R.seqPc p] ∧
      t.dev = { s.dev with regs := t.dev.regs, seq := t.dev.seq } := by
  have hop : Dev.I.op (s.dev.atPc p) = op := ((Dev.runs_iff _ _ _).mp h).2.2.2.1
  subst hsrc hrx
  refine next_of_putSeq_setPc hc ?_ (Dev.jumpTo_mod _ _ _)
  rw [Dev.issueOp_queues h hroom hn hm hf, hop]

/-- A moored instruction stalls while a lock is low, and the stall is an event (R152). -/
theorem issue_stalls (p : Fin 4) (s : State) (h : s.dev.runs p 1 = true) (hroom : (s.dev.seqOf p).segs.length < 2)
    (hm : Dev.I.moor (s.dev.atPc p) = true) (hok : (s.dev.seqOf p).moorOk = false)
    (hlow : (s.dev.seqOf p).txLow = true ∨ (s.dev.seqOf p).rxLow = true) (hr : s.dev.noReact (Ev.lockLow p) = true) :
    ∃ t, exec (.issue p) s = .next t ∧
      (t.dev.seqOf p).fe = .moor (s.dev.seqOf p).txLow (s.dev.seqOf p).rxLow ∧ (t.dev.seqOf p).segs = (s.dev.seqOf p).segs ∧
      t.dev.pc p = s.dev.pc p ∧ t.dev.sameQuiet s.dev [R.seqStat p, R.seqSflag p, R.seqPc p] := by
  have hr' : (s.dev.putSeq p (s.dev.mooredSeq p)).noReact (Ev.lockLow p) = true :=
    (Dev.noReact_of_evt (Dev.putSeq_evt _ _ _) _).trans hr
  refine ⟨{ s with dev := s.dev.issueOp p 1 }, rfl, ?_⟩
  dsimp only
  rw [Dev.issueOp_stalls h hroom hm hok hlow, Dev.raise_noReact_seqOf hr', Dev.seqOf_putSeq]
  refine ⟨rfl, Dev.beginWait_segs (s.dev.decodedSeq p) (Dev.decodeEdge (s.dev.seqOf p)) 2, ?_, fun a hq ha => ?_⟩
  · exact (congrArg BitVec.toNat (Dev.raise_noReact_get hr' (Dev.seqReg_not_mem_noteRegs p 0xB8))).trans (Dev.pc_putSeq _ _ _)
  · rw [Dev.raise_get hq]
    exact Dev.sameRegs_mono (Dev.sameRegs_putSeq _ _ _) (by simp) a ha

/-- A released mooring lets the front end go on (R152). -/
theorem mooringRelease_goes_on (p : Fin 4) (x y : Bool) (s : State) (hs : s.dev.seqState p = 2) (hfe : (s.dev.seqOf p).fe = .moor x y)
    (hfree : s.dev.moorFree p x y = true) : ∃ t, exec (.mooringRelease p) s = .next t ∧
      t.dev.seqOf p = { s.dev.seqOf p with fe := .run, moorOk := true, decoded := max (Dev.decodeEdge (s.dev.seqOf p)) (s.dev.edgeAt Dev.sqclk s.dev.now) - Dev.sqclk } ∧
      t.dev.rb (R.seqStat p) F.seqStatMoored = false ∧ t.dev.seqState p = s.dev.seqState p ∧
      t.dev.sameRegs s.dev [R.seqStat p, R.seqSflag p] ∧ t.dev = { s.dev with regs := t.dev.regs, seq := t.dev.seq } := by
  refine ⟨{ s with dev := s.dev.mooringRelease p }, rfl, ?_⟩
  dsimp only
  rw [Dev.mooringRelease_goes_on hs hfe hfree]
  exact ⟨Dev.seqOf_putSeq _ _ _, Dev.rb_putSeq_moored _ _ _, Dev.seqState_putSeq _ _ _, Dev.sameRegs_putSeq _ _ _,
    Dev.frame_of_unsequenced (Dev.putSeq_unsequenced _ _ _)⟩

/-- MATCH queues one unit and waits for its compares (R147). -/
theorem matchUnits_queues (p : Fin 4) (s : State) (h : s.dev.runs p 10 = true) (hroom : (s.dev.seqOf p).segs.length < 2)
    (hn : Dev.I.count (s.dev.atPc p) ≠ 0) (hl : Dev.I.limit (s.dev.atPc p) ≠ 0) (hm : Dev.I.moor (s.dev.atPc p) = false) :
    ∃ t, exec (.matchUnits p) s = .next t ∧
      (t.dev.seqOf p).fe = .match_ (s.dev.seqOf p).nextSeg 1 ∧ (t.dev.seqOf p).segs.length = (s.dev.seqOf p).segs.length + 1 ∧
      (t.dev.seqOf p).nextSeg = (s.dev.seqOf p).nextSeg + 1 ∧ t.dev.pc p = s.dev.pc p ∧ t.dev.seqState p = s.dev.seqState p ∧
      t.dev.sameRegs s.dev [R.seqStat p, R.seqSflag p, R.seqPc p] ∧ t.dev = { s.dev with regs := t.dev.regs, seq := t.dev.seq } := by
  refine ⟨{ s with dev := s.dev.matchOp p }, rfl, ?_⟩
  dsimp only
  rw [Dev.matchOp_queues h hroom hn hl hm, Dev.seqOf_putSeq]
  exact ⟨rfl, List.length_append, rfl, Dev.pc_putSeq _ _ _, Dev.seqState_putSeq _ _ _, Dev.sameRegs_mono (Dev.sameRegs_putSeq _ _ _) (by simp),
    Dev.frame_of_unsequenced (Dev.putSeq_unsequenced _ _ _)⟩

/-- A MATCH of no vectors or no units is over at once (R147). -/
theorem matchUnits_passes (p : Fin 4) (s : State) (h : s.dev.runs p 10 = true) (hm : Dev.I.moor (s.dev.atPc p) = false)
    (hz : Dev.I.count (s.dev.atPc p) = 0 ∨ Dev.I.limit (s.dev.atPc p) = 0) : ∃ t, exec (.matchUnits p) s = .next t ∧
      t.dev.rn (R.seqMatchLast p) = 0 ∧ t.dev.pc p = s.dev.pcNext p ∧ t.dev.seqOf p = { s.dev.decodedSeq p with lastSeg := none } ∧
      t.dev.seqState p = s.dev.seqState p ∧ t.dev.sameRegs s.dev [R.seqStat p, R.seqSflag p, R.seqPc p, R.seqMatchLast p] ∧
      t.dev = { s.dev with regs := t.dev.regs, seq := t.dev.seq } := by
  have he := Dev.matchEnded_setMatchLast s.dev p { s.dev.decodedSeq p with lastSeg := none } 0 false
  refine ⟨{ s with dev := s.dev.matchOp p }, rfl, ?_⟩
  dsimp only
  rw [Dev.matchOp_passes h hm hz]
  exact ⟨he.last, he.pc, he.record, he.state, he.regs, he.frame⟩

/-- A MATCH whose condition holds is over and tells its units (R147). -/
theorem compareDecision_matches (p : Fin 4) (g n x : Nat) (s : State) (hs : s.dev.seqState p = 2) (hfe : (s.dev.seqOf p).fe = .match_ g n)
    (hx : s.dev.decideAt (s.dev.seqOf p) g = some x)
    (hheld : (Dev.segRes (s.dev.seqOf p) g).fail = (Dev.I.cond (s.dev.atPc p) == 0)) (hn : n < 65536) :
    ∃ t, exec (.compareDecision p) s = .next t ∧
      t.dev.seqOf p = s.dev.decidedSeq p x ∧ t.dev.pc p = s.dev.pcNext p ∧ t.dev.rb (R.seqMatchLast p) F.seqMatchLastHeld = true ∧
      t.dev.rf (R.seqMatchLast p) F.seqMatchLastUnits = n ∧
      t.dev.sameRegs s.dev [R.seqStat p, R.seqSflag p, R.seqPc p, R.seqMatchLast p] ∧
      t.dev = { s.dev with regs := t.dev.regs, seq := t.dev.seq } := by
  have he := Dev.matchEnded_setMatchLast s.dev p (s.dev.decidedSeq p x) n true
  refine ⟨{ s with dev := s.dev.compareDecision p }, rfl, ?_⟩
  dsimp only
  rw [Dev.compareDecision_matches hs hfe hx hheld]
  refine ⟨he.record, he.pc, ?_, ?_, he.regs, he.frame⟩
  · have h31 : nbits (2 ^ 31 + n % 2 ^ 16) F.seqMatchLastHeld.hi F.seqMatchLastHeld.lo = 1 := by
      simp only [nbits, F.seqMatchLastHeld]
      omega
    have hlast := he.last
    rw [b2n, if_pos rfl, one_mul] at hlast
    rw [Dev.rb, Dev.rf, fget, ← Dev.rn, hlast, h31]
    rfl
  · have h16 : nbits (2 ^ 31 + n % 2 ^ 16) F.seqMatchLastUnits.hi F.seqMatchLastUnits.lo = n := by
      simp only [nbits, F.seqMatchLastUnits]
      omega
    have hlast := he.last
    rw [b2n, if_pos rfl, one_mul] at hlast
    rw [Dev.rf, fget, ← Dev.rn, hlast, h16]

/-- Settles O34: each command stores the record with the segment that it queues, the wait that it begins or the wait that it ends, and the program
counter follows its flow. -/
theorem segmentsAreQueuedAndDecided : Obligations.SegmentsAreQueuedAndDecided := by
  refine ⟨fun p s h hroom hn hm hf => ?_,
    fun p s h hroom hn hm hf => next_of_issueOp rfl h hroom hn hm hf rfl (by simp),
    fun p s h hroom hn hm hf => next_of_issueOp rfl h hroom hn hm hf rfl (by simp),
    fun p s h hfull hn hf => ⟨s, ?_, rfl⟩, issue_stalls, matchUnits_queues, matchUnits_passes, mooringRelease_goes_on,
    fun p g a b c x s hs hfe hx => next_of_putSeq_setPc rfl (Dev.compareDecision_jumps hs hfe hx) rfl, compareDecision_matches⟩
  · have hsrc : decide (Dev.I.src (s.dev.atPc p) < 3) = true := decide_eq_true (by have := Dev.src_lt_of_runs h; omega)
    exact next_of_issueOp rfl h hroom hn hm hf rfl (by simp [hsrc])
  · change Host.Outcome.next { s with dev := s.dev.issueOp p 1 } = _
    rw [Dev.issueOp_waits h hfull hn hf]

end Sys2Proof.Machine
end

section
/-! PROOFS. Edges of trigger inputs and comparators: what noting an edge and its occurrences change of the acquisition records. -/
namespace Sys2Proof.Machine

/-- In a fold over distinct entries, what no other entry's step changes is decided by the one step of an entry `b`; `r` is the relation that the
other steps keep. -/
theorem foldl_once {α β : Type} (f : α → β → α) (r : α → α → Prop) (hrefl : ∀ x, r x x) (htrans : ∀ x y z, r x y → r y z → r x z) (b : β)
    (hne : ∀ x c, c ≠ b → r (f x c) x) {l : List β} (hb : b ∈ l) (hnd : l.Nodup) (d : α) : ∃ y, r y d ∧ r (l.foldl f d) (f y b) := by
  have hrest : ∀ (l : List β), b ∉ l → ∀ x, r (l.foldl f x) x := by
    intro l
    induction l with
    | nil => intro _ x; exact hrefl x
    | cons c l ih =>
      intro hmem x
      rw [List.mem_cons, not_or] at hmem
      exact htrans _ _ _ (ih hmem.2 _) (hne x c (Ne.symm hmem.1))
  induction l generalizing d with
  | nil => cases hb
  | cons c l ih =>
    rw [List.nodup_cons] at hnd
    by_cases hc : c = b
    · subst hc
      exact ⟨d, hrefl d, hrest l hnd.1 _⟩
    · obtain ⟨y, hy, hl⟩ := ih ((List.mem_cons.mp hb).resolve_left (Ne.symm hc)) hnd.2 (f d c)
      exact ⟨y, htrans _ _ _ hy (hne d c hc), hl⟩

namespace Dev

theorem acqOf_putAcq (d : Dev) (p : Nat) (a : Acq) (q : Nat) : (d.putAcq p a).acqOf q = if q = p then a else d.acqOf q := tget_tset _ _ _ _ _

theorem acqOf_putAcq_same (d : Dev) (p : Nat) (a : Acq) : (d.putAcq p a).acqOf p = a := tget_tset_same _ _ _ _

theorem acqOf_putAcq_ne (d : Dev) {p q : Nat} (a : Acq) (h : q ≠ p) : (d.putAcq p a).acqOf q = d.acqOf q := tget_tset_ne _ _ _ h

/-- The device without its registers and its acquisition records. -/
def unacquired (d : Dev) : Dev := { d with regs := [], acq := [] }

theorem putAcq_unacquired (d : Dev) (p : Nat) (a : Acq) : (d.putAcq p a).unacquired = d.unacquired := rfl

/-! ### Occurrences of units (R311 to R314) -/

/-- What occurrences of units of port `p` leave: they are added to those that wait, or counted late. -/
structure Struck (e d : Dev) (p : Nat) : Prop where
  hits : (d.acqOf p).hits ⊆ (e.acqOf p).hits
  trans : (e.acqOf p).trans = (d.acqOf p).trans
  last : (e.acqOf p).last = (d.acqOf p).last
  others : ∀ q, q ≠ p → e.acqOf q = d.acqOf q
  regs : e.sameRegs d [R.trgLateCnt p]
  unacquired : e.unacquired = d.unacquired

theorem Struck.refl (d : Dev) (p : Nat) : Struck d d p :=
  ⟨fun _ h => h, rfl, rfl, fun _ _ => rfl, fun _ _ => rfl, rfl⟩

theorem Struck.comp {a b c : Dev} {p : Nat} (h : Struck a b p) (g : Struck b c p) : Struck a c p where
  hits := fun _ m => h.hits (g.hits m)
  trans := h.trans.trans g.trans
  last := h.last.trans g.last
  others q hq := (h.others q hq).trans (g.others q hq)
  regs x hx := (h.regs x hx).trans (g.regs x hx)
  unacquired := h.unacquired.trans g.unacquired

theorem unitHit_dead {d : Dev} {p : Nat} (h : d.unitsLive p = false) (u t : Nat) (edge : Bool) : d.unitHit p u t edge = d := by
  unfold unitHit
  rw [h]
  rfl

/-- An occurrence of a live unit before any sample is decided waits for its sample. -/
theorem unitHit_waits {d : Dev} {p : Nat} (h : d.unitsLive p = true) (hlast : (d.acqOf p).last = none) (u t : Nat) (edge : Bool) :
    d.unitHit p u t edge = d.putAcq p { d.acqOf p with hits := (d.acqOf p).hits ++ [⟨u, t, edge⟩] } := by
  unfold unitHit
  simp only [h, hlast]
  rfl

theorem struck_unitHit (d : Dev) (p u t : Nat) (edge : Bool) : Struck (d.unitHit p u t edge) d p := by
  unfold unitHit
  dsimp only
  split_ifs
  · exact Struck.refl d p
  · exact ⟨fun _ h => h, rfl, rfl, fun _ _ => rfl, fun a ha => get_cnt_ne _ _ _ (by simpa using ha), rfl⟩
  · exact ⟨by rw [acqOf_putAcq_same]; exact List.subset_append_left _ _, by rw [acqOf_putAcq_same], by rw [acqOf_putAcq_same],
      fun q hq => acqOf_putAcq_ne _ _ hq, fun _ _ => rfl, rfl⟩

theorem struck_unitHit_if (c : Prop) [Decidable c] (d : Dev) (p u t : Nat) (edge : Bool) :
    Struck (if c then d.unitHit p u t edge else d) d p := by
  split
  · exact struck_unitHit d p u t edge
  · exact Struck.refl d p

/-- A pass over the units, each of which has an occurrence or none. -/
theorem struck_foldl {p : Nat} {f : Dev → Nat → Dev} (hf : ∀ x u, Struck (f x u) x p) : ∀ (l : List Nat) (d : Dev), Struck (l.foldl f d) d p := by
  intro l
  induction l with
  | nil => intro d; exact Struck.refl d p
  | cons u l ih => intro d; exact (ih _).comp (hf d u)

theorem unitsLive_congr {e d : Dev} {p : Nat} (h : e.get (R.acqStat p) = d.get (R.acqStat p)) : e.unitsLive p = d.unitsLive p := by
  unfold unitsLive acqState
  rw [rf_congr h]

/-- A register that no unit's late count is. -/
theorem Struck.get {e d : Dev} {p a : Nat} (h : Struck e d p) (ha : a ≠ R.trgLateCnt p) : e.get a = d.get a := h.regs a (by simpa using ha)

theorem Struck.unitsLive {e d : Dev} {p : Nat} (h : Struck e d p) : e.unitsLive p = d.unitsLive p :=
  unitsLive_congr (h.get (by unfold R.acqStat R.trgLateCnt portPage; omega))

/-! ### Noting a transition -/

theorem noteTrans_acqOf (d : Dev) (p input t : Nat) (lvl : Bool) : ∃ old, (d.noteTrans p input t lvl).acqOf p =
    { d.acqOf p with trans := (input, t, lvl) :: old } := ⟨_, acqOf_putAcq_same _ _ _⟩

theorem noteTrans_acqOf_ne (d : Dev) {p q : Nat} (input t : Nat) (lvl : Bool) (h : q ≠ p) : (d.noteTrans p input t lvl).acqOf q = d.acqOf q :=
  acqOf_putAcq_ne _ _ h

/-- An edge at port `p`: its transition is noted, and units have occurrences. -/
structure EdgeNoted (e d : Dev) (p input t : Nat) (lvl : Bool) : Prop where
  head : (e.acqOf p).trans.head? = some (input, t, lvl)
  others : ∀ q, q ≠ p → e.acqOf q = d.acqOf q
  regs : e.sameRegs d [R.trgLateCnt p]
  unacquired : e.unacquired = d.unacquired

theorem Struck.edgeNoted {e d : Dev} {p input t : Nat} {lvl : Bool} (h : Struck e (d.noteTrans p input t lvl) p) :
    EdgeNoted e d p input t lvl where
  head := by
    obtain ⟨old, hold⟩ := noteTrans_acqOf d p input t lvl
    rw [h.trans, hold]
    rfl
  others q hq := (h.others q hq).trans (noteTrans_acqOf_ne d input t lvl hq)
  regs a ha := h.regs a ha
  unacquired := h.unacquired

/-! ### TRIG_IN (R313) -/

/-- An EDGE unit of ball `k` takes the edge. -/
abbrev takesEdge (d : Dev) (p u k : Nat) (lvl : Bool) : Prop :=
  d.cuType p u = 7 ∧ d.cuSel p u = k ∧ (d.cuMode p u = 3 ∨ (d.cuMode p u = 1 ∧ lvl) ∨ (d.cuMode p u = 2 ∧ !lvl))

theorem takesEdge_congr {e d : Dev} {p u : Nat} (h : e.get (R.trgCuCfg p u) = d.get (R.trgCuCfg p u)) (k : Nat) (lvl : Bool) :
    e.takesEdge p u k lvl ↔ d.takesEdge p u k lvl := by
  unfold takesEdge cuType cuSel cuMode cuCfg
  rw [h]

/-- What an edge of ball `k` does at unit `u` of port `p`. -/
def edgeUnit (p k t : Nat) (lvl : Bool) (d : Dev) (u : Nat) : Dev := if d.takesEdge p u k lvl then d.unitHit p u t true else d

/-- What an edge of ball `k` does at port `p`. -/
def edgePort (k t : Nat) (lvl : Bool) (d : Dev) (p : Nat) : Dev := (List.range 8).foldl (edgeUnit p k t lvl) (d.noteTrans p k t lvl)

/-- The device with the new level of ball `k` and its change kept. -/
def ballSet (d : Dev) (k t : Nat) (lvl : Bool) : Dev :=
  { d with pins := { d.pins with trigIn := setNbits d.pins.trigIn k k (b2n lvl), trigAt := d.trigChanges k t } }

theorem trigInEdge_eq {d : Dev} {k : Nat} {lvl : Bool} (hk : k < 4) (h : nbit d.pins.trigIn k ≠ lvl) (t : Nat) :
    d.trigInEdge k t lvl = [0, 1, 2, 3].foldl (edgePort k (tdcRound t) lvl) (d.ballSet k t lvl) := by
  unfold trigInEdge
  rw [if_neg (by rintro (h4 | he); exacts [by omega, h he])]
  rfl

/-! ### An edge at one port -/

theorem struck_edgeUnit (p k t : Nat) (lvl : Bool) (d : Dev) (u : Nat) : Struck (edgeUnit p k t lvl d u) d p :=
  struck_unitHit_if _ d p u t true

theorem struck_edgePort (d : Dev) (p k t : Nat) (lvl : Bool) : Struck (edgePort k t lvl d p) (d.noteTrans p k t lvl) p :=
  struck_foldl (struck_edgeUnit p k t lvl) _ _

/-- While its units do not hit, an edge is noted and no more. -/
theorem edgePort_dead {d : Dev} {p : Nat} (h : d.unitsLive p = false) (k t : Nat) (lvl : Bool) :
    edgePort k t lvl d p = d.noteTrans p k t lvl := by
  have hdead : (d.noteTrans p k t lvl).unitsLive p = false := h
  refine List.foldl_fixed' (fun u => ?_) _
  unfold edgeUnit
  rw [unitHit_dead hdead, ite_self]

/-- A live EDGE unit that takes the edge has an occurrence that waits for its sample. -/
theorem edgePort_hits {d : Dev} {p u k : Nat} {lvl : Bool} (hu : u < 8) (hlive : d.unitsLive p = true) (hlast : (d.acqOf p).last = none)
    (ht : d.takesEdge p u k lvl) (t : Nat) : ⟨u, t, true⟩ ∈ ((edgePort k t lvl d p).acqOf p).hits := by
  obtain ⟨y, hy, hend⟩ := foldl_once (edgeUnit p k t lvl) (Struck · · p) (Struck.refl · p) (fun _ _ _ => Struck.comp) u
    (fun x c _ => struck_edgeUnit p k t lvl x c) (List.mem_range.mpr hu) List.nodup_range (d.noteTrans p k t lvl)
  obtain ⟨old, hold⟩ := noteTrans_acqOf d p k t lvl
  have hlive' : y.unitsLive p = true := hy.unitsLive.trans hlive
  have hlast' : (y.acqOf p).last = none := by rw [hy.last, hold]; exact hlast
  have ht' : y.takesEdge p u k lvl := (takesEdge_congr (hy.get (by unfold R.trgCuCfg R.trgLateCnt; omega)) k lvl).mpr ht
  refine hend.hits ?_
  rw [edgeUnit, if_pos ht', unitHit_waits hlive' hlast', acqOf_putAcq_same]
  exact List.mem_append_right _ (List.mem_singleton_self _)

/-! ### An edge at all ports -/

/-- Two states that port `p` cannot tell apart: its record, and every register but the late counts of other ports. -/
def alikeAt (p : Nat) (x y : Dev) : Prop := x.acqOf p = y.acqOf p ∧ ∀ a, (∀ q, q ≠ p → a ≠ R.trgLateCnt q) → x.get a = y.get a

theorem alikeAt_edgePort {p c : Nat} (h : c ≠ p) (k t : Nat) (lvl : Bool) (x : Dev) : alikeAt p (edgePort k t lvl x c) x :=
  ⟨(struck_edgePort x c k t lvl).edgeNoted.others p h.symm, fun _ ha => (struck_edgePort x c k t lvl).get (ha c h)⟩

/-- An edge at all ports is, for one port, an edge at that port. -/
theorem trigInEdge_at {d : Dev} {k p : Nat} {lvl : Bool} (hk : k < 4) (hp : p < 4) (h : nbit d.pins.trigIn k ≠ lvl) (t : Nat) :
    ∃ y, alikeAt p y (d.ballSet k t lvl) ∧ alikeAt p (d.trigInEdge k t lvl) (edgePort k (tdcRound t) lvl y p) := by
  rw [trigInEdge_eq hk h]
  refine foldl_once (edgePort k (tdcRound t) lvl) (alikeAt p) (fun _ => ⟨rfl, fun _ _ => rfl⟩)
    (fun _ _ _ hxy hyz => ⟨hxy.1.trans hyz.1, fun a ha => (hxy.2 a ha).trans (hyz.2 a ha)⟩) p
    (fun x c hc => alikeAt_edgePort hc k _ lvl x) ?_ (by decide) _
  simp only [List.mem_cons, List.not_mem_nil, or_false]
  omega

/-- Registers of a port that no other port's late count is. -/
theorem ne_trgLateCnt_of_page {p a : Nat} (h : a / 0x40000 = portPage p 0 / 0x40000) : ∀ q, q ≠ p → a ≠ R.trgLateCnt q := by
  rintro q hq rfl
  unfold R.trgLateCnt portPage at h
  omega

theorem trigInEdge_get {d : Dev} {k : Nat} {lvl : Bool} (hk : k < 4) (h : nbit d.pins.trigIn k ≠ lvl) (t : Nat) :
    (d.trigInEdge k t lvl).sameRegs d [R.trgLateCnt 0, R.trgLateCnt 1, R.trgLateCnt 2, R.trgLateCnt 3] := by
  intro a ha
  rw [trigInEdge_eq hk h]
  refine (foldl_keep_mem (Dev.get · a) _ _ (fun p hp x => (struck_edgePort x p k _ lvl).get ?_) _).trans rfl
  rintro rfl
  refine ha (List.mem_map_of_mem (f := R.trgLateCnt) hp)

theorem trigInEdge_unacquired {d : Dev} {k : Nat} {lvl : Bool} (hk : k < 4) (h : nbit d.pins.trigIn k ≠ lvl) (t : Nat) :
    (d.trigInEdge k t lvl).unacquired = (d.ballSet k t lvl).unacquired := by
  rw [trigInEdge_eq hk h]
  exact foldl_keep Dev.unacquired _ (fun x p => (struck_edgePort x p k _ lvl).unacquired) _ _

theorem frame_of_unacquired {e d : Dev} (h : e.unacquired = d.unacquired) : e = { d with regs := e.regs, acq := e.acq } :=
  congrArg (fun x : Dev => { x with regs := e.regs, acq := e.acq }) h

/-- A device that differs from another in its pins, from a third in registers and acquisition records. -/
theorem frame_of_pinned {e d : Dev} {x : Pins} (h : e = { ({ d with pins := x } : Dev) with regs := e.regs, acq := e.acq }) :
    e = { d with regs := e.regs, acq := e.acq, pins := e.pins } := by
  have hpins : e.pins = x := congrArg Dev.pins h
  rw [hpins]
  exact h

theorem trigInEdge_frame {d : Dev} {k : Nat} {lvl : Bool} (hk : k < 4) (h : nbit d.pins.trigIn k ≠ lvl) (t : Nat) :
    d.trigInEdge k t lvl =
      { d with regs := (d.trigInEdge k t lvl).regs, acq := (d.trigInEdge k t lvl).acq, pins := (d.trigInEdge k t lvl).pins } :=
  frame_of_pinned (frame_of_unacquired (trigInEdge_unacquired hk h t))

theorem trigInEdge_pins {d : Dev} {k : Nat} {lvl : Bool} (hk : k < 4) (h : nbit d.pins.trigIn k ≠ lvl) (t : Nat) :
    (d.trigInEdge k t lvl).pins = { d.pins with trigIn := setNbits d.pins.trigIn k k (b2n lvl), trigAt := d.trigChanges k t } :=
  (congrArg Dev.pins (trigInEdge_unacquired hk h t) :)

/-! ### What WAIT_EVENT sees of an edge (R140) -/

theorem nbit_setNbits_same (x k : Nat) (b : Bool) : nbit (setNbits x k k (b2n b)) k = b := by
  have h := nbits_setNbits x k k (b2n b)
  rw [nbits_one, Nat.add_sub_cancel_left] at h
  cases b <;> cases hb : nbit (setNbits x k k _) k <;> simp_all [b2n]

theorem edgeAt_congr {e d : Dev} (h : e.get R.gtcPhase = d.get R.gtcPhase) (c t : Nat) : e.edgeAt c t = d.edgeAt c t := by
  unfold edgeAt rn
  rw [h]

/-- A lone change is seen from the second SQCLK edge on. -/
theorem trigSeen_trigInEdge {d : Dev} {k : Nat} {lvl : Bool} (hk : k < 4) (h : nbit d.pins.trigIn k ≠ lvl) (hnone : d.pins.trigAt = []) (t E : Nat) :
    (d.trigInEdge k t lvl).trigSeen k E = if E < d.edgeAt sqclk (t + 1) + sqclk then nbit d.pins.trigIn k else lvl := by
  have hedge : (d.trigInEdge k t lvl).edgeAt sqclk (t + 1) = d.edgeAt sqclk (t + 1) :=
    edgeAt_congr (trigInEdge_get hk h t _ (by decide)) _ _
  have hold : nbit d.pins.trigIn k = !lvl := by cases lvl <;> simpa using h
  unfold trigSeen
  rw [trigInEdge_pins hk h, trigChanges, hnone]
  simp only [List.filter_nil, List.filter_cons, beq_self_eq_true, Bool.true_and, nbit_setNbits_same, trigSeenAt, hedge, decide_eq_true_eq]
  split
  · simp [hold]
  · simp

end Dev
end Sys2Proof.Machine
end

section
/-! PROOFS. The acquisition family: edges of TRIG_IN and of the utility comparators. -/
namespace Sys2Proof.Machine
namespace Dev

/-- The device with the new level of a utility comparator. -/
def comparatorSet (d : Dev) (m c : Nat) (lvl : Bool) : Dev :=
  { d with pins := { d.pins with ucCmp := setNbits d.pins.ucCmp (2 * m + c) (2 * m + c) (b2n lvl) } }

/-- A comparator's edge is one of its channel's port (R313). -/
theorem edgeNoted_ucEdge {d : Dev} {m c : Nat} {lvl : Bool} (hm : m < 64) (hc : c < 2) (h : nbit d.pins.ucCmp (2 * m + c) ≠ lvl)
    (hready : d.ucReady m = true) (howner : d.ucOwner m ≠ 0) (t : Nat) :
    EdgeNoted (d.ucEdge m c t lvl) (d.comparatorSet m c lvl) (m / 16) (16 + 2 * (m % 16) + c) (tdcRound t) lvl := by
  unfold ucEdge
  rw [if_neg (by simp only [hready, h, howner]; simp; omega)]
  refine (struck_foldl (fun x u => ?_) _ _).edgeNoted
  dsimp only
  split
  · exact struck_unitHit x _ u _ true
  · split
    · split
      · exact struck_unitHit_if _ x _ u _ true
      · exact Struck.refl x _
    · exact Struck.refl x _

end Dev

/-- An edge is noted at every port, and is an occurrence of no unit that does not hit (R313). -/
theorem trigInEdge_notes (k : Fin 4) (t0 : Nat) (lvl : Bool) (s : State) (h : nbit s.dev.pins.trigIn k ≠ lvl) :
    ∃ t, exec (.trigInEdge k t0 lvl) s = .next t ∧
      t.dev.pins = { s.dev.pins with trigIn := setNbits s.dev.pins.trigIn k k (b2n lvl), trigAt := s.dev.trigChanges k t0 } ∧
      (∀ p : Fin 4, (t.dev.acqOf p).trans.head? = some (k.val, Dev.tdcRound t0, lvl)) ∧
      (∀ p : Fin 4, s.dev.unitsLive p = false → (t.dev.acqOf p).hits = (s.dev.acqOf p).hits ∧ t.dev.rn (R.trgLateCnt p) = s.dev.rn (R.trgLateCnt p)) ∧
      t.dev.sameRegs s.dev [R.trgLateCnt 0, R.trgLateCnt 1, R.trgLateCnt 2, R.trgLateCnt 3] ∧
      t.dev = { s.dev with regs := t.dev.regs, acq := t.dev.acq, pins := t.dev.pins } := by
  refine ⟨{ s with dev := s.dev.trigInEdge k t0 lvl }, rfl, Dev.trigInEdge_pins k.isLt h t0, fun p => ?_, fun p hdead => ?_,
    Dev.trigInEdge_get k.isLt h t0, Dev.trigInEdge_frame k.isLt h t0⟩
  · obtain ⟨y, -, hend, -⟩ := Dev.trigInEdge_at k.isLt p.isLt h t0
    dsimp only
    rw [hend]
    exact (Dev.struck_edgePort y p k _ lvl).edgeNoted.head
  · obtain ⟨y, ⟨hacq, hget⟩, hend, hgetEnd⟩ := Dev.trigInEdge_at k.isLt p.isLt h t0
    have hy : y.unitsLive p = false :=
      (Dev.unitsLive_congr (hget _ (Dev.ne_trgLateCnt_of_page (by unfold R.acqStat portPage; omega)))).trans hdead
    have hlate := Dev.ne_trgLateCnt_of_page (p := p) (a := R.trgLateCnt p) (by unfold R.trgLateCnt portPage; omega)
    obtain ⟨old, hold⟩ := Dev.noteTrans_acqOf y p k (Dev.tdcRound t0) lvl
    rw [Dev.edgePort_dead hy] at hend hgetEnd
    refine ⟨?_, congrArg BitVec.toNat ((hgetEnd _ hlate).trans (hget _ hlate))⟩
    dsimp only
    rw [hend, hold, hacq]
    rfl

/-- WAIT_EVENT sees a lone edge at the second SQCLK edge after it (R140). -/
theorem trigInEdge_seen (k : Fin 4) (t0 E : Nat) (lvl : Bool) (s : State) (h : nbit s.dev.pins.trigIn k ≠ lvl) (hnone : s.dev.pins.trigAt = []) :
    ∃ t, exec (.trigInEdge k t0 lvl) s = .next t ∧
      t.dev.trigSeen k E = (if E < s.dev.edgeAt Dev.sqclk (t0 + 1) + Dev.sqclk then nbit s.dev.pins.trigIn k else lvl) ∧
      t.dev.sameRegs s.dev [R.trgLateCnt 0, R.trgLateCnt 1, R.trgLateCnt 2, R.trgLateCnt 3] ∧
      t.dev = { s.dev with regs := t.dev.regs, acq := t.dev.acq, pins := t.dev.pins } :=
  ⟨{ s with dev := s.dev.trigInEdge k t0 lvl }, rfl, Dev.trigSeen_trigInEdge k.isLt h hnone t0 E, Dev.trigInEdge_get k.isLt h t0,
    Dev.trigInEdge_frame k.isLt h t0⟩

/-- An edge is an occurrence of every live EDGE unit that takes it (R313). -/
theorem trigInEdge_hits (k p : Fin 4) (u : Fin 8) (t0 : Nat) (lvl : Bool) (s : State) (h : nbit s.dev.pins.trigIn k ≠ lvl)
    (hlive : s.dev.unitsLive p = true) (hlast : (s.dev.acqOf p).last = none) (htype : s.dev.cuType p u = 7) (hsel : s.dev.cuSel p u = k)
    (hmode : s.dev.cuMode p u = 3 ∨ s.dev.cuMode p u = (if lvl then 1 else 2)) : ∃ t, exec (.trigInEdge k t0 lvl) s = .next t ∧
      ⟨u.val, Dev.tdcRound t0, true⟩ ∈ (t.dev.acqOf p).hits ∧
      t.dev.sameRegs s.dev [R.trgLateCnt 0, R.trgLateCnt 1, R.trgLateCnt 2, R.trgLateCnt 3] ∧
      t.dev = { s.dev with regs := t.dev.regs, acq := t.dev.acq, pins := t.dev.pins } := by
  refine ⟨{ s with dev := s.dev.trigInEdge k t0 lvl }, rfl, ?_, Dev.trigInEdge_get k.isLt h t0, Dev.trigInEdge_frame k.isLt h t0⟩
  obtain ⟨y, ⟨hacq, hget⟩, hend, -⟩ := Dev.trigInEdge_at k.isLt p.isLt h t0
  have hy : y.unitsLive p = true :=
    (Dev.unitsLive_congr (hget _ (Dev.ne_trgLateCnt_of_page (by unfold R.acqStat portPage; omega)))).trans hlive
  have hcfg : y.get (R.trgCuCfg p u) = s.dev.get (R.trgCuCfg p u) :=
    hget _ (Dev.ne_trgLateCnt_of_page (by unfold R.trgCuCfg portPage; omega))
  have htakes : y.takesEdge p u k lvl :=
    (Dev.takesEdge_congr hcfg k lvl).mpr ⟨htype, hsel, hmode.imp_right (by cases lvl <;> simp)⟩
  dsimp only
  rw [hend]
  exact Dev.edgePort_hits u.isLt hy ((congrArg Acq.last hacq).trans hlast) htakes _

/-- A comparator's edge is noted at its port alone (R313). -/
theorem utilityComparatorEdge_notes (m : Fin 64) (c : Fin 2) (t0 : Nat) (lvl : Bool) (s : State)
    (h : nbit s.dev.pins.ucCmp (2 * m + c) ≠ lvl) (hready : s.dev.ucReady m = true) (howner : s.dev.ucOwner m ≠ 0) :
    ∃ t, exec (.utilityComparatorEdge m c t0 lvl) s = .next t ∧
      t.dev.pins = { s.dev.pins with ucCmp := setNbits s.dev.pins.ucCmp (2 * m + c) (2 * m + c) (b2n lvl) } ∧
      (t.dev.acqOf (m / 16)).trans.head? = some (16 + 2 * (m.val % 16) + c.val, Dev.tdcRound t0, lvl) ∧
      (∀ q : Fin 4, q.val ≠ m.val / 16 → t.dev.acqOf q = s.dev.acqOf q) ∧ t.dev.sameRegs s.dev [R.trgLateCnt (m / 16)] ∧
      t.dev = { s.dev with regs := t.dev.regs, acq := t.dev.acq, pins := t.dev.pins } := by
  have he := Dev.edgeNoted_ucEdge m.isLt c.isLt h hready howner t0
  exact ⟨{ s with dev := s.dev.ucEdge m c t0 lvl }, rfl, (congrArg Dev.pins he.unacquired :), he.head, fun q hq => he.others q hq,
    fun a ha => he.regs a ha, Dev.frame_of_pinned (Dev.frame_of_unacquired he.unacquired)⟩

end Sys2Proof.Machine
end

section
/-! PROOFS. The decision of a sample: the trigger sequencer's step, and what follows it. -/
namespace Sys2Proof.Machine
namespace Dev

/-! ### TRIG_OUT pulses (R324) -/

/-- A record without its pulses. -/
def unpulsed (a : Acq) : Acq := { a with pulses := [] }

/-- The device without its registers, its acquisition records and its pins. -/
def unshown (d : Dev) : Dev := { d with regs := [], acq := [], pins := Pins.reset }

theorem trgPulse_acqOf (d : Dev) (p src t q : Nat) : unpulsed ((d.trgPulse p src t).acqOf q) = unpulsed (d.acqOf q) := by
  unfold trgPulse
  dsimp only
  split
  · rfl
  · rw [acqOf_putAcq]
    split
    · next h => rw [h]; rfl
    · rfl

theorem trgPulse_get (d : Dev) (p src t a : Nat) : (d.trgPulse p src t).get a = d.get a := by
  unfold trgPulse
  dsimp only
  split <;> rfl

theorem trgPulse_calm (d : Dev) (p src t : Nat) : (d.trgPulse p src t).calm = d.calm := by
  unfold trgPulse
  dsimp only
  split <;> rfl

theorem trgPulse_apg (d : Dev) (p src t : Nat) : (d.trgPulse p src t).apg = d.apg := by
  unfold trgPulse
  dsimp only
  split <;> rfl

theorem trgPulse_evt (d : Dev) (p src t : Nat) : (d.trgPulse p src t).evt = d.evt := by
  unfold trgPulse
  dsimp only
  split <;> rfl

/-- The pulses of port `p` that are over are forgotten. -/
def pulsesPruned (d : Dev) (p : Nat) : Dev :=
  if ((d.acqOf p).pulses.filter (fun x => decide (d.now < x.2.2))).length = (d.acqOf p).pulses.length then d
  else d.putAcq p { d.acqOf p with pulses := (d.acqOf p).pulses.filter (fun x => decide (d.now < x.2.2)) }

theorem pulsesPruned_acqOf (d : Dev) (p q : Nat) : unpulsed ((d.pulsesPruned p).acqOf q) = unpulsed (d.acqOf q) := by
  unfold pulsesPruned
  split
  · rfl
  · rw [acqOf_putAcq]
    split
    · next h => rw [h]; rfl
    · rfl

theorem pulsesPruned_get (d : Dev) (p a : Nat) : (d.pulsesPruned p).get a = d.get a := by
  unfold pulsesPruned
  split <;> rfl

theorem pulsesPruned_unshown (d : Dev) (p : Nat) : (d.pulsesPruned p).unshown = d.unshown := by
  unfold pulsesPruned
  split <;> rfl

/-- The device with other pins. -/
def repinned (d : Dev) (x : Pins) : Dev := { d with pins := x }

theorem repinned_acqOf (d : Dev) (x : Pins) (q : Nat) : (d.repinned x).acqOf q = d.acqOf q := rfl
theorem repinned_get (d : Dev) (x : Pins) (a : Nat) : (d.repinned x).get a = d.get a := rfl
theorem repinned_unshown (d : Dev) (x : Pins) : (d.repinned x).unshown = d.unshown := rfl

theorem trgShow_eq (d : Dev) : ∃ x, d.trgShow = ([0, 1, 2, 3].foldl pulsesPruned d).repinned x := ⟨_, rfl⟩

theorem trgShow_acqOf (d : Dev) (q : Nat) : unpulsed (d.trgShow.acqOf q) = unpulsed (d.acqOf q) := by
  obtain ⟨x, hx⟩ := trgShow_eq d
  rw [hx, repinned_acqOf]
  exact foldl_keep (fun y => unpulsed (Dev.acqOf y q)) pulsesPruned (fun y p => pulsesPruned_acqOf y p q) [0, 1, 2, 3] d

theorem trgShow_get (d : Dev) (a : Nat) : d.trgShow.get a = d.get a := by
  obtain ⟨x, hx⟩ := trgShow_eq d
  rw [hx, repinned_get]
  exact foldl_keep (Dev.get · a) pulsesPruned (fun y p => pulsesPruned_get y p a) [0, 1, 2, 3] d

theorem trgShow_unshown (d : Dev) : d.trgShow.unshown = d.unshown := by
  obtain ⟨x, hx⟩ := trgShow_eq d
  rw [hx, repinned_unshown]
  exact foldl_keep Dev.unshown pulsesPruned pulsesPruned_unshown [0, 1, 2, 3] d

theorem frame_of_unshown {e d : Dev} (h : e.unshown = d.unshown) : e = { d with regs := e.regs, acq := e.acq, pins := e.pins } :=
  congrArg (fun x : Dev => { x with regs := e.regs, acq := e.acq, pins := e.pins }) h

/-! ### The parts of SAMPLE_DECISION (R314, R315) -/

/-- The record that a sample is decided with: its RAW windows are shifted, and n_a's sample sets t0. -/
abbrev sampledAcq (d : Dev) (p : Nat) (x : Smp) : Acq :=
  { d.acqOf p with wins := rawWindows (d.acqOf p) x, t0 := if x.n = (d.acqOf p).na then x.t else (d.acqOf p).t0 }

/-- The hits of the sample. -/
abbrev hitsOf (d : Dev) (p : Nat) (x : Smp) : Nat := d.sampleHits p (d.sampledAcq p x) x

/-- The hits are counted. -/
def hitsCounted (d : Dev) (p h : Nat) : Dev := (List.range 8).foldl (fun d u => if nbit h u then d.cnt (R.trgCuHits p u) F.all 1 else d) d

/-- The record after the trigger sequencer's step on sample `x`, with `a` the record before it. -/
def sampleDone (d : Dev) (p : Nat) (x : Smp) (rest : List Smp) (a : Acq) (h : Nat) : Acq :=
  let b := d.acqOf p
  let gt := (List.range 8).foldl (fun g u => if d.cuType p u = 8 ∧ nbit h u then g ||| 2 ^ u else g) b.gtcs
  let hits := b.hits.filter (fun t => decide (x.end_ ≤ t.t))
  let trans := b.trans.filter (fun e => decide (x.end_ ≤ e.2.1) ||
    ((b.trans.find? (fun y => y.1 == e.1 && decide (y.2.1 < x.end_))) == some e))
  let cap := decide (d.acqState p = 1 ∨ d.acqState p = 2) && x.n % d.acqU p == d.acqU p - 1
  let r := x.n / d.acqU p
  let out := if cap then b.out ++ [AcqOut.round r (d.acqRoundAddr p b.k r)] else b.out
  { b with smps := rest, last := some x, next := x.n + 1, hits := hits, trans := trans, gtcs := gt,
           cnts := d.nextCounts p a h (b.st != a.st), out := out }

/-- `TRG_STAT` shows the sequencer's state and the sample's hits. -/
def statShown (d : Dev) (p h : Nat) : Dev := (d.wf (R.trgStat p) F.trgStatState (d.acqOf p).st).wf (R.trgStat p) F.trgStatHits h

/-- What follows the sequencer's step. -/
def sampleEnd (d : Dev) (p : Nat) (x : Smp) (rest : List Smp) (a : Acq) (h : Nat) : Dev :=
  (((d.putAcq p (d.sampleDone p x rest a h)).statShown p h).closeDue p x.n).trgShow

theorem sampleDecision_eq {d : Dev} {p : Nat} {x : Smp} {rest : List Smp} (hp : p < 4) (hs : (d.acqOf p).smps = x :: rest)
    (hd : d.decidable p x = true) :
    d.sampleDecision p =
      ((((d.hitsCounted p (d.hitsOf p x)).putAcq p (d.sampledAcq p x)).trgStep p x (d.hitsOf p x))).sampleEnd p x rest (d.sampledAcq p x)
        (d.hitsOf p x) := by
  have hacq : (if x.n = (d.acqOf p).na then { ({ d.acqOf p with wins := rawWindows (d.acqOf p) x } : Acq) with t0 := x.t }
      else { d.acqOf p with wins := rawWindows (d.acqOf p) x }) = d.sampledAcq p x := by
    unfold sampledAcq
    split <;> rfl
  unfold sampleDecision hitsOf
  rw [← hacq]
  split
  · next h => rw [hs] at h; cases h
  · next y l h =>
    obtain ⟨rfl, rfl⟩ := List.cons.inj (hs.symm.trans h)
    rw [if_neg (by rw [hd]; simp; omega)]
    rfl

end Dev
end Sys2Proof.Machine
end

section
/-! PROOFS. The decision of a sample: its hits are counted, and what follows the trigger sequencer's step. -/
namespace Sys2Proof.Machine
namespace Dev

/-- The device without its registers. -/
def unregistered (d : Dev) : Dev := { d with regs := [] }

/-! ### Counting the hits (R311) -/

/-- The registers that count a port's hits. -/
def NotHitCount (p a : Nat) : Prop := ∀ u < 8, a ≠ R.trgCuHits p u

/-- What one unit of the sample's hits counts. -/
def hitCounted (p h : Nat) (d : Dev) (u : Nat) : Dev := if nbit h u then d.cnt (R.trgCuHits p u) F.all 1 else d

theorem hitsCounted_eq (d : Dev) (p h : Nat) : d.hitsCounted p h = (List.range 8).foldl (hitCounted p h) d := rfl

theorem hitCounted_get_ne {p u a : Nat} (ha : a ≠ R.trgCuHits p u) (h : Nat) (d : Dev) : (hitCounted p h d u).get a = d.get a := by
  unfold hitCounted
  split
  · exact get_cnt_ne _ _ _ ha
  · rfl

theorem hitCounted_unregistered (p h : Nat) (d : Dev) (u : Nat) : (hitCounted p h d u).unregistered = d.unregistered := by
  unfold hitCounted
  split <;> rfl

theorem hitsCounted_unregistered (d : Dev) (p h : Nat) : (d.hitsCounted p h).unregistered = d.unregistered :=
  foldl_keep Dev.unregistered (hitCounted p h) (hitCounted_unregistered p h) _ _

theorem hitsCounted_get {p a : Nat} (ha : NotHitCount p a) (d : Dev) (h : Nat) : (d.hitsCounted p h).get a = d.get a :=
  foldl_keep_mem (Dev.get · a) (hitCounted p h) _ (fun u hu x => hitCounted_get_ne (ha u (List.mem_range.mp hu)) h x) _

theorem fget_all (w : Word) : fget w F.all = w.toNat := by
  have h : w.toNat / 2 ^ 0 % 2 ^ 32 = w.toNat := by
    have := w.isLt
    omega
  exact h

/-- A whole register that counts stops at all ones. -/
theorem rn_cnt_all (d : Dev) (a k : Nat) : (d.cnt a F.all k).rn a = min 0xFFFFFFFF (d.rn a + k) := by
  have h := rf_cnt_same d a F.all k rfl
  rwa [rf, rf, fget_all, fget_all] at h

theorem hitCounted_rn (p h : Nat) (d : Dev) (u : Nat) :
    (hitCounted p h d u).rn (R.trgCuHits p u) = min 0xFFFFFFFF (d.rn (R.trgCuHits p u) + b2n (nbit h u)) := by
  unfold hitCounted
  cases nbit h u
  · have := (d.get (R.trgCuHits p u)).isLt
    simp only [Bool.false_eq_true, if_false, b2n, rn]
    omega
  · exact rn_cnt_all _ _ _

theorem hitsCounted_rn {u : Nat} (hu : u < 8) (d : Dev) (p h : Nat) :
    (d.hitsCounted p h).rn (R.trgCuHits p u) = min 0xFFFFFFFF (d.rn (R.trgCuHits p u) + b2n (nbit h u)) := by
  have hne : ∀ (x : Dev) c, c ≠ u → (hitCounted p h x c).rn (R.trgCuHits p u) = x.rn (R.trgCuHits p u) := fun x c hc =>
    congrArg BitVec.toNat (hitCounted_get_ne (by unfold R.trgCuHits; omega) h x)
  obtain ⟨y, hy, hend⟩ := foldl_once (hitCounted p h) (fun x y => x.rn (R.trgCuHits p u) = y.rn (R.trgCuHits p u)) (fun _ => rfl)
    (fun _ _ _ => Eq.trans) u hne (List.mem_range.mpr hu) List.nodup_range d
  rw [hitsCounted_eq, hend, hitCounted_rn, hy]

/-- The first part of the decision: the hits are counted, and the record takes the sample. -/
abbrev sampled (d : Dev) (p : Nat) (x : Smp) : Dev := (d.hitsCounted p (d.hitsOf p x)).putAcq p (d.sampledAcq p x)

theorem sampled_acqOf (d : Dev) (p : Nat) (x : Smp) : (d.sampled p x).acqOf p = d.sampledAcq p x := acqOf_putAcq_same _ _ _

theorem sampled_get {p a : Nat} (ha : NotHitCount p a) (d : Dev) (x : Smp) : (d.sampled p x).get a = d.get a := hitsCounted_get ha d _

theorem sampled_rn {u : Nat} (hu : u < 8) (d : Dev) (p : Nat) (x : Smp) :
    (d.sampled p x).rn (R.trgCuHits p u) = min 0xFFFFFFFF (d.rn (R.trgCuHits p u) + b2n (nbit (d.hitsOf p x) u)) := hitsCounted_rn hu d p _

theorem sampled_unacquired (d : Dev) (p : Nat) (x : Smp) : (d.sampled p x).unacquired = d.unacquired :=
  (congrArg Dev.unacquired (hitsCounted_unregistered d p (d.hitsOf p x)) :)

theorem unshown_of_unacquired {e d : Dev} (h : e.unacquired = d.unacquired) : e.unshown = d.unshown := (congrArg Dev.unshown h :)

/-- Registers of the trigger sequencer's states and of the capture page count no hits. -/
theorem notHitCount_trgStCtrl (p : Nat) {i : Nat} (hi : i < 4) : NotHitCount p (R.trgStCtrl p i) := fun u _ => by unfold R.trgStCtrl R.trgCuHits; omega
theorem notHitCount_trgStTmo (p i : Nat) : NotHitCount p (R.trgStTmo p i) := fun u _ => by unfold R.trgStTmo R.trgCuHits; omega
theorem notHitCount_acqStat (p : Nat) : NotHitCount p (R.acqStat p) := fun u _ => by unfold R.acqStat R.trgCuHits portPage; omega
theorem notHitCount_acqCfg (p : Nat) : NotHitCount p (R.acqCfg p) := fun u _ => by unfold R.acqCfg R.trgCuHits portPage; omega
theorem notHitCount_acqPre (p : Nat) : NotHitCount p (R.acqPre p) := fun u _ => by unfold R.acqPre R.trgCuHits portPage; omega
theorem notHitCount_acqPost (p : Nat) : NotHitCount p (R.acqPost p) := fun u _ => by unfold R.acqPost R.trgCuHits portPage; omega
theorem notHitCount_trgStat (p : Nat) : NotHitCount p (R.trgStat p) := fun u _ => by unfold R.trgStat R.trgCuHits portPage; omega

/-! ### What follows the sequencer's step -/

/-- A record that has not reached its end stays open (R320). -/
theorem closeDue_stays {d : Dev} {p n : Nat}
    (h : ∀ r, (d.acqOf p).open_ = some r → d.acqState p = 2 → n < r.nT + d.rn (R.acqPost p)) : d.closeDue p n = d := by
  unfold closeDue
  split
  · next r hr =>
    rw [if_neg]
    rintro ⟨h2, hend⟩
    have := h r hr h2
    omega
  · rfl

theorem statShown_get (d : Dev) (p h : Nat) {a : Nat} (ha : a ≠ R.trgStat p) : (d.statShown p h).get a = d.get a :=
  (get_wf_ne _ _ _ ha).trans (get_wf_ne _ _ _ ha)

theorem statShown_hits (d : Dev) (p h : Nat) : (d.statShown p h).rf (R.trgStat p) F.trgStatHits = h % 256 := rf_wf_same _ _ _ _ rfl

theorem statShown_acqOf (d : Dev) (p h q : Nat) : (d.statShown p h).acqOf q = d.acqOf q := rfl

theorem statShown_unshown (d : Dev) (p h : Nat) : (d.statShown p h).unshown = d.unshown := rfl

/-- What the end of a decision leaves of the device after the sequencer's step: the sample is the last one, and `TRG_STAT` shows it. -/
structure SampleEnded (e d : Dev) (p : Nat) (x : Smp) (rest : List Smp) (h : Nat) : Prop where
  smps : (e.acqOf p).smps = rest
  last : (e.acqOf p).last = some x
  next : (e.acqOf p).next = x.n + 1
  st : (e.acqOf p).st = (d.acqOf p).st
  entered : (e.acqOf p).entered = (d.acqOf p).entered
  open_ : (e.acqOf p).open_ = (d.acqOf p).open_
  hits : e.rf (R.trgStat p) F.trgStatHits = h % 256
  regs : e.sameRegs d [R.trgStat p]
  unshown : e.unshown = d.unshown

theorem acqState_congr {e d : Dev} {p : Nat} (h : e.get (R.acqStat p) = d.get (R.acqStat p)) : e.acqState p = d.acqState p := rf_congr h _

theorem rn_congr {e d : Dev} {a : Nat} (h : e.get a = d.get a) : e.rn a = d.rn a := congrArg BitVec.toNat h

/-- Records alike but for their pulses. -/
theorem eq_of_unpulsed {a b : Acq} (h : unpulsed a = unpulsed b) : a = { b with pulses := a.pulses } :=
  congrArg (fun c : Acq => { c with pulses := a.pulses }) h

/-- The device before records that are due close. -/
abbrev sampleShown (d : Dev) (p : Nat) (x : Smp) (rest : List Smp) (a : Acq) (h : Nat) : Dev :=
  (d.putAcq p (d.sampleDone p x rest a h)).statShown p h

theorem sampleShown_acqOf (d : Dev) (p : Nat) (x : Smp) (rest : List Smp) (a : Acq) (h : Nat) :
    (d.sampleShown p x rest a h).acqOf p = d.sampleDone p x rest a h := (statShown_acqOf _ _ _ _).trans (acqOf_putAcq_same _ _ _)

theorem sampleShown_get (d : Dev) (p : Nat) (x : Smp) (rest : List Smp) (a : Acq) (h : Nat) {b : Nat} (hb : b ≠ R.trgStat p) :
    (d.sampleShown p x rest a h).get b = d.get b := statShown_get _ _ _ hb

/-- A decision that closes no record ends with the balls as they now stand. -/
theorem sampleEnd_stays {d : Dev} {p : Nat} {x : Smp}
    (hopen : ∀ r, (d.acqOf p).open_ = some r → d.acqState p = 2 → x.n < r.nT + d.rn (R.acqPost p)) (rest : List Smp) (a : Acq) (h : Nat) :
    d.sampleEnd p x rest a h = (d.sampleShown p x rest a h).trgShow := by
  refine congrArg Dev.trgShow (closeDue_stays fun r hr h2 => ?_)
  rw [sampleShown_acqOf] at hr
  rw [acqState_congr (sampleShown_get d p x rest a h (by unfold R.acqStat R.trgStat portPage; omega))] at h2
  rw [rn_congr (sampleShown_get d p x rest a h (b := R.acqPost p) (by unfold R.acqPost R.trgStat portPage; omega))]
  exact hopen r hr h2

theorem sampleEnded_trgShow (d : Dev) (p : Nat) (x : Smp) (rest : List Smp) (a : Acq) (h : Nat) :
    SampleEnded (d.sampleShown p x rest a h).trgShow d p x rest h := by
  have hrec := eq_of_unpulsed (trgShow_acqOf (d.sampleShown p x rest a h) p)
  rw [sampleShown_acqOf] at hrec
  refine ⟨?_, ?_, ?_, ?_, ?_, ?_, (rf_congr (trgShow_get _ _) _).trans (statShown_hits _ _ _),
    fun b hb => (trgShow_get _ _).trans (sampleShown_get d p x rest a h (by simpa using hb)),
    (trgShow_unshown _).trans ((statShown_unshown _ _ _).trans (unshown_of_unacquired (putAcq_unacquired _ _ _)))⟩
  all_goals
    rw [hrec]
    rfl

end Dev
end Sys2Proof.Machine
end

section
/-! PROOFS. A decided sample at which the trigger sequencer stays. -/
namespace Sys2Proof.Machine
namespace Dev

/-- A state that asks for nothing and has no time-out keeps the sequencer where it is (R315). -/
theorem trgStep_stays {d : Dev} {p : Nat} (hforce : (d.acqOf p).force = none) (hmask : (d.acqOf p).mask = none)
    (hcond : fget (d.get (R.trgStCtrl p (d.acqOf p).st)) F.trgStCtrlCond = 0) (htmo : d.rn (R.trgStTmo p (d.acqOf p).st) = 0) (x : Smp) (h : Nat) :
    d.trgStep p x h = d := by
  unfold trgStep
  simp [hforce, hmask, hcond, htmo]

/-- A register that the decision of a sample does not write. -/
theorem sampled_get_of_not_mem {p a : Nat} {l : List Nat}
    (ha : a ∉ [R.trgCuHits p 0, R.trgCuHits p 1, R.trgCuHits p 2, R.trgCuHits p 3, R.trgCuHits p 4, R.trgCuHits p 5, R.trgCuHits p 6,
      R.trgCuHits p 7] ++ l) : NotHitCount p a := by
  rintro u hu rfl
  refine ha (List.mem_append_left _ ?_)
  have : u ∈ ([0, 1, 2, 3, 4, 5, 6, 7] : List Nat) := by simp; omega
  exact List.mem_map_of_mem (f := R.trgCuHits p) this

/-- What every decision that closes no record leaves, where the sequencer's step leaves the counts of hits alone. -/
theorem SampleEnded.counts {e y d : Dev} {p : Nat} {x : Smp} {rest : List Smp} {h : Nat} (he : SampleEnded e y p x rest h)
    (hy : ∀ u < 8, y.rn (R.trgCuHits p u) = (d.sampled p x).rn (R.trgCuHits p u)) (u : Fin 8) :
    e.rn (R.trgCuHits p u) = min 0xFFFFFFFF (d.rn (R.trgCuHits p u) + b2n (nbit (d.hitsOf p x) u)) := by
  rw [rn_congr (he.regs _ (by simpa using (notHitCount_trgStat p u u.isLt).symm)), hy u u.isLt, sampled_rn u.isLt]

end Dev

/-- A decided sample whose state asks for nothing leaves the sequencer and the engine as they are (R314, R315). -/
theorem sampleDecision_stays (p : Fin 4) (x : Smp) (l : List Smp) (s : State) (hs : (s.dev.acqOf p).smps = x :: l)
    (hd : s.dev.decidable p x = true) (hforce : (s.dev.acqOf p).force = none) (hmask : (s.dev.acqOf p).mask = none)
    (harmed : s.dev.acqState p = 1) (hst : (s.dev.acqOf p).st < 4)
    (hcond : fget (s.dev.get (R.trgStCtrl p (s.dev.acqOf p).st)) F.trgStCtrlCond = 0) (htmo : s.dev.rn (R.trgStTmo p (s.dev.acqOf p).st) = 0) :
    ∃ t, exec (.sampleDecision p) s = .next t ∧
      (t.dev.acqOf p).smps = l ∧ (t.dev.acqOf p).st = (s.dev.acqOf p).st ∧ (t.dev.acqOf p).open_ = (s.dev.acqOf p).open_ ∧ t.dev.acqState p = 1 ∧
      (t.dev.acqOf p).last = some x ∧ (t.dev.acqOf p).next = x.n + 1 ∧
      (∀ u : Fin 8, t.dev.rn (R.trgCuHits p u) = min 0xFFFFFFFF (s.dev.rn (R.trgCuHits p u) + b2n (nbit (s.dev.hitsOf p x) u))) ∧
      t.dev.rf (R.trgStat p) F.trgStatHits = s.dev.hitsOf p x % 256 ∧
      t.dev.dram = s.dev.dram ∧
      t.dev.sameRegs s.dev [R.trgCuHits p 0, R.trgCuHits p 1, R.trgCuHits p 2, R.trgCuHits p 3, R.trgCuHits p 4, R.trgCuHits p 5, R.trgCuHits p 6, R.trgCuHits p 7, R.trgStat p] ∧
      t.dev = { s.dev with regs := t.dev.regs, acq := t.dev.acq, pins := t.dev.pins } := by
  have hrec := s.dev.sampled_acqOf p x
  have hstate : (s.dev.sampled p x).acqState p = 1 :=
    (Dev.acqState_congr (Dev.sampled_get (Dev.notHitCount_acqStat p) s.dev x)).trans harmed
  have hstep : (s.dev.sampled p x).trgStep p x (s.dev.hitsOf p x) = s.dev.sampled p x := by
    apply Dev.trgStep_stays <;> rw [hrec]
    · exact hforce
    · exact hmask
    · rw [Dev.sampled_get (Dev.notHitCount_trgStCtrl p hst)]
      exact hcond
    · exact (Dev.rn_congr (Dev.sampled_get (Dev.notHitCount_trgStTmo p _) s.dev x)).trans htmo
  have hdec : s.dev.sampleDecision p = ((s.dev.sampled p x).sampleShown p x l (s.dev.sampledAcq p x) (s.dev.hitsOf p x)).trgShow := by
    rw [Dev.sampleDecision_eq p.isLt hs hd, hstep]
    exact Dev.sampleEnd_stays (fun _ _ h2 => by omega) _ _ _
  have he := Dev.sampleEnded_trgShow (s.dev.sampled p x) p x l (s.dev.sampledAcq p x) (s.dev.hitsOf p x)
  rw [← hdec] at he
  have hun : (s.dev.sampleDecision p).unshown = s.dev.unshown :=
    he.unshown.trans (Dev.unshown_of_unacquired (Dev.sampled_unacquired s.dev p x))
  have hregs : ∀ a, Dev.NotHitCount p a → a ≠ R.trgStat p → (s.dev.sampleDecision p).get a = s.dev.get a := fun a h1 h2 =>
    (he.regs a (by simpa using h2)).trans (Dev.sampled_get h1 s.dev x)
  refine ⟨{ s with dev := s.dev.sampleDecision p }, rfl, he.smps, he.st.trans (congrArg Acq.st hrec :), he.open_.trans (congrArg Acq.open_ hrec :),
    (Dev.acqState_congr (he.regs _ ?_)).trans hstate, he.last, he.next, he.counts (fun _ _ => rfl), he.hits, (congrArg Dev.dram hun :),
    fun a ha => hregs a (Dev.sampled_get_of_not_mem ha) (fun h => ha (by simp [h])), Dev.frame_of_unshown hun⟩
  simp only [List.mem_singleton, R.acqStat, R.trgStat, portPage]
  omega

end Sys2Proof.Machine
end

section
/-! PROOFS. A decided sample at which the armed engine triggers. -/
namespace Sys2Proof.Machine
namespace Dev

/-! ### The record that a fire opens -/

theorem edgeIn_congr {e d : Dev} {p u : Nat} (hcfg : e.get (R.trgCuCfg p u) = d.get (R.trgCuCfg p u)) (hgtc : e.cuGtc p u = d.cuGtc p u)
    (a : Acq) (x : Smp) : e.edgeIn p a x u = d.edgeIn p a x u := by
  unfold edgeIn cuType cuCfg
  rw [hcfg, hgtc]

theorem openRec_congr {e d : Dev} {p : Nat} (hpre : e.get (R.acqPre p) = d.get (R.acqPre p)) {a : Acq} {x : Smp}
    (hedge : ∀ u, e.edgeIn p a x u = d.edgeIn p a x u) (m cause : Nat) (forced mask : Bool) :
    e.openRec p a x m cause forced mask = d.openRec p a x m cause forced mask := by
  unfold openRec
  simp only [rn_congr hpre, hedge]

theorem notHitCount_trgCuCfg (p v : Nat) : NotHitCount p (R.trgCuCfg p v) := fun u _ => by unfold R.trgCuCfg R.trgCuHits; omega
theorem notHitCount_trgCuParam (p v : Nat) : NotHitCount p (R.trgCuParam p v) := fun u _ => by unfold R.trgCuParam R.trgCuHits; omega
theorem notHitCount_trgCuVal (p v : Nat) {j : Nat} (hj : j < 2) : NotHitCount p (R.trgCuValLo p v + 4 * j) := fun u _ => by
  unfold R.trgCuValLo R.trgCuHits
  omega

/-- Counting the hits does not change the edges of a sample. -/
theorem sampled_edgeIn (d : Dev) (p : Nat) (x : Smp) (a : Acq) (u : Nat) : (d.sampled p x).edgeIn p a x u = d.edgeIn p a x u := by
  refine edgeIn_congr (sampled_get (notHitCount_trgCuCfg p u) d x) ?_ a x
  unfold cuGtc
  rw [rn_congr (sampled_get (notHitCount_trgCuParam p u) d x), wide_congr 2 _ fun j hj => sampled_get (notHitCount_trgCuVal p u hj) d x]

theorem sampled_openRec (d : Dev) (p : Nat) (x : Smp) (a : Acq) (m cause : Nat) (forced mask : Bool) :
    (d.sampled p x).openRec p a x m cause forced mask = d.openRec p a x m cause forced mask :=
  openRec_congr (sampled_get (notHitCount_acqPre p) d x) (d.sampled_edgeIn p x a) m cause forced mask

/-! ### The fire (R316) -/

/-- The lowest unit of a mask. -/
abbrev lowestOf (m : Nat) : Nat := ((List.range 8).find? (fun u => nbit m u)).getD 0

/-- A state whose condition one unit meets, with action FIRE, fires (R315). -/
theorem trgStep_fires {d : Dev} {p : Nat} {x : Smp} {h : Nat} (hforce : (d.acqOf p).force = none) (hmask : (d.acqOf p).mask = none)
    (hjudge : (d.acqOf p).entered ≤ x.n) (hm : h &&& fget (d.get (R.trgStCtrl p (d.acqOf p).st)) F.trgStCtrlCond ≠ 0)
    (hall : fget (d.get (R.trgStCtrl p (d.acqOf p).st)) F.trgStCtrlAll = 0)
    (hact : fget (d.get (R.trgStCtrl p (d.acqOf p).st)) F.trgStCtrlAct = 0) :
    d.trgStep p x h = d.fire p x (h &&& fget (d.get (R.trgStCtrl p (d.acqOf p).st)) F.trgStCtrlCond)
      (lowestOf (h &&& fget (d.get (R.trgStCtrl p (d.acqOf p).st)) F.trgStCtrlCond)) false false := by
  have hcond : fget (d.get (R.trgStCtrl p (d.acqOf p).st)) F.trgStCtrlCond ≠ 0 := fun h0 => hm (by rw [h0, Nat.and_zero])
  unfold trgStep
  simp [hforce, hmask, hjudge, hm, hall, hact, hcond]

/-- The engine has opened record `r`, and shows it. -/
def recOpened (d : Dev) (p : Nat) (r : AcqRec) : Dev :=
  ((d.putAcq p { d.acqOf p with open_ := some r }).setAcqState p 2).wf (R.acqStat p) F.acqStatTriggered 1

/-- The fire's events (R316, R319). -/
def fireRaised (d : Dev) (p : Nat) (r : AcqRec) : Dev :=
  if r.preShort then (d.raise (Ev.trgFire p)).raise (Ev.acqPreShort p) else d.raise (Ev.trgFire p)

/-- The sequencer starts again behind sample `x`. -/
def trgRestarted (d : Dev) (p : Nat) (x : Smp) : Dev := d.putAcq p { d.acqOf p with st := 0, entered := x.n + 1, t0 := x.t }

theorem fire_armed {d : Dev} {p : Nat} (harmed : d.acqState p = 1) (hpre : d.rb (R.acqCfg p) F.acqCfgPreFull = false) (x : Smp) (m cause : Nat)
    (forced mask : Bool) :
    d.fire p x m cause forced mask = ((((d.recOpened p (d.openRec p (d.acqOf p) x m cause forced mask)).trgPulse p 0
      (x.t + d.rn (R.trgHorizon p))).fireRaised p (d.openRec p (d.acqOf p) x m cause forced mask))).trgRestarted p x := by
  change trgRestarted (if d.acqState p = 1 then _ else _) p x = _
  rw [if_pos harmed, hpre]
  rfl

theorem recOpened_acqOf (d : Dev) (p : Nat) (r : AcqRec) : (d.recOpened p r).acqOf p = { d.acqOf p with open_ := some r } :=
  acqOf_putAcq_same _ _ _

theorem recOpened_get (d : Dev) (p : Nat) (r : AcqRec) {a : Nat} (h : a ≠ R.acqStat p) : (d.recOpened p r).get a = d.get a :=
  (get_wf_ne _ _ _ h).trans (get_wf_ne _ _ _ h)

theorem recOpened_acqState (d : Dev) (p : Nat) (r : AcqRec) : (d.recOpened p r).acqState p = 2 :=
  (rf_wf_apart _ _ _ _ _ rfl rfl).trans (rf_wf_same _ _ _ _ rfl)

theorem recOpened_triggered (d : Dev) (p : Nat) (r : AcqRec) : (d.recOpened p r).rb (R.acqStat p) F.acqStatTriggered = true :=
  rb_wf_same _ _ _ _ rfl (by decide)

theorem recOpened_calm (d : Dev) (p : Nat) (r : AcqRec) : (d.recOpened p r).calm = d.calm := rfl
theorem recOpened_apg (d : Dev) (p : Nat) (r : AcqRec) : (d.recOpened p r).apg = d.apg := rfl
theorem recOpened_evt (d : Dev) (p : Nat) (r : AcqRec) : (d.recOpened p r).evt = d.evt := rfl

/-- Events that ask for no reaction leave what their bookkeeping cannot change. -/
theorem fireRaised_unnoted {γ : Type} {g : Dev → γ} (hg : Unnoted g) {d : Dev} {p : Nat} (hfire : d.noReact (Ev.trgFire p) = true)
    (hshort : d.noReact (Ev.acqPreShort p) = true) (r : AcqRec) : g (d.fireRaised p r) = g d := by
  unfold fireRaised
  split
  · exact (raise_unnoted hg ((raise_noReact_noReact hfire _).trans hshort)).trans (raise_unnoted hg hfire)
  · exact raise_unnoted hg hfire

/-- What the fire of an armed engine leaves. -/
structure Fired (e d : Dev) (p : Nat) (x : Smp) (r : AcqRec) : Prop where
  record : unpulsed (e.acqOf p) = unpulsed { d.acqOf p with open_ := some r, st := 0, entered := x.n + 1, t0 := x.t }
  state : e.acqState p = 2
  triggered : e.rb (R.acqStat p) F.acqStatTriggered = true
  regs : ∀ a, a ∉ noteRegs → a ≠ R.acqStat p → e.get a = d.get a
  calm : e.calm = d.calm
  apg : e.apg = d.apg

theorem acqStat_not_mem_noteRegs (p : Nat) : R.acqStat p ∉ noteRegs := not_mem_noteRegs (by unfold R.acqStat portPage; omega)

theorem fired_fire {d : Dev} {p : Nat} (harmed : d.acqState p = 1) (hpre : d.rb (R.acqCfg p) F.acqCfgPreFull = false)
    (hfire : d.noReact (Ev.trgFire p) = true) (hshort : d.noReact (Ev.acqPreShort p) = true) (x : Smp) (m cause : Nat) (forced mask : Bool) :
    Fired (d.fire p x m cause forced mask) d p x (d.openRec p (d.acqOf p) x m cause forced mask) := by
  rw [fire_armed harmed hpre]
  generalize d.openRec p (d.acqOf p) x m cause forced mask = r
  generalize x.t + d.rn (R.trgHorizon p) = D
  have hevt : ((d.recOpened p r).trgPulse p 0 D).evt = d.evt := (trgPulse_evt _ _ _ _).trans (recOpened_evt d p r)
  have keep : ∀ {γ : Type} {g : Dev → γ}, Unnoted g →
      g (((d.recOpened p r).trgPulse p 0 D).fireRaised p r) = g ((d.recOpened p r).trgPulse p 0 D) := fun hg =>
    fireRaised_unnoted hg ((noReact_of_evt hevt _).trans hfire) ((noReact_of_evt hevt _).trans hshort) r
  have hget : ∀ a ∉ noteRegs, (((d.recOpened p r).trgPulse p 0 D).fireRaised p r).get a = (d.recOpened p r).get a := fun a ha =>
    (keep (get_unnoted ha)).trans (trgPulse_get _ _ _ _ _)
  have hnoted := keep noted_unnoted
  have hacq : unpulsed ((((d.recOpened p r).trgPulse p 0 D).fireRaised p r).acqOf p) = unpulsed { d.acqOf p with open_ := some r } := by
    rw [← recOpened_acqOf d p r, ← trgPulse_acqOf (d.recOpened p r) p 0 D p]
    exact (congrArg (fun y : Dev => unpulsed (y.acqOf p)) hnoted :)
  refine ⟨?_, (acqState_congr (hget _ (acqStat_not_mem_noteRegs p))).trans (recOpened_acqState d p r),
    (rb_congr (hget _ (acqStat_not_mem_noteRegs p)) _).trans (recOpened_triggered d p r),
    fun a hn ha => (hget a hn).trans (recOpened_get d p r ha), ?_, ?_⟩
  · unfold trgRestarted
    rw [acqOf_putAcq_same]
    exact congrArg (fun a : Acq => { a with st := 0, entered := x.n + 1, t0 := x.t }) hacq
  · exact (congrArg Dev.calm hnoted).trans ((trgPulse_calm _ _ _ _).trans (recOpened_calm d p r))
  · exact (congrArg Dev.apg hnoted).trans ((trgPulse_apg _ _ _ _).trans (recOpened_apg d p r))

end Dev
end Sys2Proof.Machine
end

section
/-! PROOFS. SAMPLE_DECISION at a sample that fires. -/
namespace Sys2Proof.Machine
namespace Dev

/-- The device without what events, the acquisition engine and the balls may touch. -/
def stilled (d : Dev) : Dev := { d.calm with apg := d.apg, pins := Pins.reset }

/-- A frame across a step that events may follow, and one that changes registers, records and pins only. -/
theorem frame_of_calm_unshown {e y d : Dev} (h : e.unshown = y.unshown) (hcalm : y.calm = d.calm) (hapg : y.apg = d.apg) :
    e = { d with regs := e.regs, pins := e.pins, evt := e.evt, sram := e.sram, hostMem := e.hostMem, hif := e.hif, seq := e.seq,
                 chans := e.chans, lvls := e.lvls, acq := e.acq } := by
  have hstill : e.stilled = d.stilled := by
    calc e.stilled = y.stilled := (congrArg Dev.stilled h :)
      _ = d.stilled := by
        unfold stilled
        rw [hcalm, hapg]
  exact congrArg (fun x : Dev =>
    { x with regs := e.regs, pins := e.pins, evt := e.evt, sram := e.sram, hostMem := e.hostMem, hif := e.hif, seq := e.seq,
             chans := e.chans, lvls := e.lvls, acq := e.acq }) hstill

theorem not_mem_noteRegs_of_quiet {a : Nat} (h : quiet a = true) : a ∉ noteRegs := fun hm =>
  ne_of_quiet h (by
    unfold eventRegs
    refine List.mem_append_left _ (List.mem_append_left _ (List.mem_append_left _ ?_))
    simp only [noteRegs, List.mem_cons, List.not_mem_nil, or_false] at hm ⊢
    tauto) rfl

theorem ne_acqStat_of_quiet {a p : Nat} (hp : p < 4) (h : quiet a = true) : a ≠ R.acqStat p := ne_of_quiet h (mem_portRegs hp (by simp))

theorem trgCuHits_not_mem_noteRegs (p u : Nat) : R.trgCuHits p u ∉ noteRegs := not_mem_noteRegs (by unfold R.trgCuHits portPage; omega)

/-- A fire leaves the counts of hits. -/
theorem Fired.counts {e d : Dev} {p : Nat} {x : Smp} {r : AcqRec} (h : Fired e d p x r) (u : Nat) (hu : u < 8) :
    e.rn (R.trgCuHits p u) = d.rn (R.trgCuHits p u) :=
  rn_congr (h.regs _ (trgCuHits_not_mem_noteRegs p u) (notHitCount_acqStat p u hu).symm)

/-- The units that meet the condition of the sequencer's state at a sample. -/
abbrev metBy (d : Dev) (p : Nat) (x : Smp) : Nat := d.hitsOf p x &&& fget (d.get (R.trgStCtrl p (d.acqOf p).st)) F.trgStCtrlCond

/-- The sequencer's step on a sample that meets its state's condition with action FIRE. -/
theorem sampled_trgStep_fires {d : Dev} {p : Nat} {x : Smp} (hforce : (d.acqOf p).force = none) (hmask : (d.acqOf p).mask = none)
    (hst : (d.acqOf p).st < 4) (hjudge : (d.acqOf p).entered ≤ x.n) (hm : d.metBy p x ≠ 0)
    (hall : fget (d.get (R.trgStCtrl p (d.acqOf p).st)) F.trgStCtrlAll = 0)
    (hact : fget (d.get (R.trgStCtrl p (d.acqOf p).st)) F.trgStCtrlAct = 0) :
    (d.sampled p x).trgStep p x (d.hitsOf p x) = (d.sampled p x).fire p x (d.metBy p x) (lowestOf (d.metBy p x)) false false := by
  have hrec := d.sampled_acqOf p x
  have hctrl : (d.sampled p x).get (R.trgStCtrl p ((d.sampled p x).acqOf p).st) = d.get (R.trgStCtrl p (d.acqOf p).st) := by
    rw [hrec]
    exact sampled_get (notHitCount_trgStCtrl p hst) d x
  have h := trgStep_fires (d := d.sampled p x) (p := p) (x := x) (h := d.hitsOf p x) (by rw [hrec]; exact hforce) (by rw [hrec]; exact hmask)
    (by rw [hrec]; exact hjudge) (by rw [hctrl]; exact hm) (by rw [hctrl]; exact hall) (by rw [hctrl]; exact hact)
  rwa [hctrl] at h

/-- The armed engine fires at such a sample, and opens the record of the units that met the condition. -/
theorem sampled_fired {d : Dev} {p : Nat} {x : Smp} (hforce : (d.acqOf p).force = none) (hmask : (d.acqOf p).mask = none)
    (harmed : d.acqState p = 1) (hst : (d.acqOf p).st < 4) (hjudge : (d.acqOf p).entered ≤ x.n) (hm : d.metBy p x ≠ 0)
    (hall : fget (d.get (R.trgStCtrl p (d.acqOf p).st)) F.trgStCtrlAll = 0)
    (hact : fget (d.get (R.trgStCtrl p (d.acqOf p).st)) F.trgStCtrlAct = 0) (hpre : d.rb (R.acqCfg p) F.acqCfgPreFull = false)
    (hfire : d.noReact (Ev.trgFire p) = true) (hshort : d.noReact (Ev.acqPreShort p) = true) :
    Fired ((d.sampled p x).trgStep p x (d.hitsOf p x)) (d.sampled p x) p x
      (d.openRec p (d.sampledAcq p x) x (d.metBy p x) (lowestOf (d.metBy p x)) false false) := by
  have hevt : (d.sampled p x).evt = d.evt := (congrArg Dev.evt (sampled_unacquired d p x) :)
  have h := fired_fire ((acqState_congr (sampled_get (notHitCount_acqStat p) d x)).trans harmed)
    ((rb_congr (sampled_get (notHitCount_acqCfg p) d x) _).trans hpre) ((noReact_of_evt hevt _).trans hfire)
    ((noReact_of_evt hevt _).trans hshort) x (d.metBy p x) (lowestOf (d.metBy p x)) false false
  rwa [sampled_openRec, sampled_acqOf, ← sampled_trgStep_fires hforce hmask hst hjudge hm hall hact] at h

end Dev

/-- A sample whose state's condition holds with action FIRE triggers the armed engine, which opens its record (R315, R316, R319). -/
theorem sampleDecision_fires (p : Fin 4) (x : Smp) (l : List Smp) (o : AcqRec) (s : State) (hs : (s.dev.acqOf p).smps = x :: l)
    (hd : s.dev.decidable p x = true) (hforce : (s.dev.acqOf p).force = none) (hmask : (s.dev.acqOf p).mask = none)
    (harmed : s.dev.acqState p = 1) (hst : (s.dev.acqOf p).st < 4)
    (hm : fget (s.dev.get (R.trgStCtrl p (s.dev.acqOf p).st)) F.trgStCtrlCond &&& s.dev.hitsOf p x ≠ 0)
    (hall : fget (s.dev.get (R.trgStCtrl p (s.dev.acqOf p).st)) F.trgStCtrlAll = 0)
    (hact : fget (s.dev.get (R.trgStCtrl p (s.dev.acqOf p).st)) F.trgStCtrlAct = 0) (hjudge : (s.dev.acqOf p).entered ≤ x.n)
    (hpre : s.dev.rb (R.acqCfg p) F.acqCfgPreFull = false) (hpost : 0 < s.dev.rn (R.acqPost p)) (hfire : s.dev.noReact (Ev.trgFire p) = true)
    (hshort : s.dev.noReact (Ev.acqPreShort p) = true)
    (ho : o = s.dev.openRec p (s.dev.sampledAcq p x) x (s.dev.metBy p x) (Dev.lowestOf (s.dev.metBy p x)) false false) :
    ∃ t, exec (.sampleDecision p) s = .next t ∧
      t.dev.acqState p = 2 ∧ t.dev.rb (R.acqStat p) F.acqStatTriggered = true ∧ (t.dev.acqOf p).open_ = some o ∧ o.nT = x.n ∧
      (t.dev.acqOf p).st = 0 ∧ (t.dev.acqOf p).entered = x.n + 1 ∧ (t.dev.acqOf p).smps = l ∧ (t.dev.acqOf p).last = some x ∧
      (t.dev.acqOf p).next = x.n + 1 ∧
      (∀ u : Fin 8, t.dev.rn (R.trgCuHits p u) = min 0xFFFFFFFF (s.dev.rn (R.trgCuHits p u) + b2n (nbit (s.dev.hitsOf p x) u))) ∧
      t.dev.rf (R.trgStat p) F.trgStatHits = s.dev.hitsOf p x % 256 ∧
      t.dev.dram = s.dev.dram ∧
      t.dev.sameQuiet s.dev [R.trgCuHits p 0, R.trgCuHits p 1, R.trgCuHits p 2, R.trgCuHits p 3, R.trgCuHits p 4, R.trgCuHits p 5, R.trgCuHits p 6, R.trgCuHits p 7, R.trgStat p, R.acqMissed p] ∧
      t.dev = { s.dev with regs := t.dev.regs, pins := t.dev.pins, evt := t.dev.evt, sram := t.dev.sram, hostMem := t.dev.hostMem, hif := t.dev.hif, seq := t.dev.seq, chans := t.dev.chans, lvls := t.dev.lvls, acq := t.dev.acq } := by
  have hy : (s.dev.sampled p x).unacquired = s.dev.unacquired := Dev.sampled_unacquired s.dev p x
  have hfired := Dev.sampled_fired hforce hmask harmed hst hjudge (by rwa [Nat.land_comm] at hm) hall hact hpre hfire hshort
  rw [← ho] at hfired
  have hdec := Dev.sampleDecision_eq p.isLt hs hd
  change s.dev.sampleDecision p = ((s.dev.sampled p x).trgStep p x (s.dev.hitsOf p x)).sampleEnd p x l (s.dev.sampledAcq p x) (s.dev.hitsOf p x)
    at hdec
  generalize (s.dev.sampled p x).trgStep p x (s.dev.hitsOf p x) = z at hfired hdec
  have hrec := Dev.eq_of_unpulsed hfired.record
  have hnT : o.nT = x.n := by rw [ho]; rfl
  have hz : z.rn (R.acqPost p) = s.dev.rn (R.acqPost p) :=
    Dev.rn_congr ((hfired.regs _ (Dev.not_mem_noteRegs (by unfold R.acqPost portPage; omega)) (by unfold R.acqPost R.acqStat; omega)).trans
      (Dev.sampled_get (Dev.notHitCount_acqPost p) s.dev x))
  rw [Dev.sampleEnd_stays fun r hr _ => by
    rw [hrec] at hr
    obtain rfl : o = r := Option.some.inj hr
    omega] at hdec
  have he := Dev.sampleEnded_trgShow z p x l (s.dev.sampledAcq p x) (s.dev.hitsOf p x)
  rw [← hdec] at he
  have hstat : (s.dev.sampleDecision p).get (R.acqStat p) = z.get (R.acqStat p) :=
    he.regs _ (by simp only [List.mem_singleton, R.acqStat, R.trgStat, portPage]; omega)
  have hframe := Dev.frame_of_calm_unshown he.unshown (hfired.calm.trans (congrArg Dev.calm hy :)) (hfired.apg.trans (congrArg Dev.apg hy :))
  refine ⟨{ s with dev := s.dev.sampleDecision p }, rfl, (Dev.acqState_congr hstat).trans hfired.state,
    (Dev.rb_congr hstat _).trans hfired.triggered, he.open_.trans (congrArg Acq.open_ hrec :), hnT, he.st.trans (congrArg Acq.st hrec :),
    he.entered.trans (congrArg Acq.entered hrec :), he.smps, he.last, he.next, he.counts hfired.counts, he.hits,
    (congrArg Dev.dram hframe :), fun a hq ha => ?_, hframe⟩
  calc (s.dev.sampleDecision p).get a = z.get a := he.regs a (fun h => ha (by rw [List.mem_singleton.mp h]; simp))
    _ = (s.dev.sampled p x).get a := hfired.regs a (Dev.not_mem_noteRegs_of_quiet hq) (Dev.ne_acqStat_of_quiet p.isLt hq)
    _ = s.dev.get a := Dev.sampled_get (Dev.sampled_get_of_not_mem ha) s.dev x

end Sys2Proof.Machine
end

section
/-! PROOFS. REARM (R320), and the settling of O46. -/
namespace Sys2Proof.Machine
namespace Dev

/-- REARM finds the engine waiting, and its sample reached with none before it undecided (R320). -/
abbrev rearmDue (d : Dev) (p : Nat) : Prop :=
  d.acqState p = 3 ∧ (d.acqOf p).na ≤ (d.seqOf p).n ∧ (d.acqOf p).smps.any (fun x => decide (x.n < (d.acqOf p).na)) = false

theorem rearm_of_due {d : Dev} {p : Nat} (hp : p < 4) (h : d.rearmDue p) :
    d.rearm p = if d.rb (R.acqCfg p) F.acqCfgFullPol && d.slotsFull p then d.setAcqState p 4
      else ((d.trgRestart p (d.acqOf p).na).setAcqState p 1).trgShow := by
  obtain ⟨hstate, hna, hdecided⟩ := h
  refine if_neg ?_
  rw [hstate, hdecided]
  simp only [ne_eq, not_true_eq_false, Bool.false_eq_true, or_false, false_or]
  omega

theorem setAcqState_acqState {v : Nat} (hv : v < 16) (d : Dev) (p : Nat) : (d.setAcqState p v).acqState p = v :=
  (rf_wf_same _ _ _ _ rfl).trans (Nat.mod_eq_of_lt hv)

theorem setAcqState_get (d : Dev) (p v : Nat) {a : Nat} (h : a ≠ R.acqStat p) : (d.setAcqState p v).get a = d.get a := get_wf_ne _ _ _ h

theorem setAcqState_acqOf (d : Dev) (p v q : Nat) : (d.setAcqState p v).acqOf q = d.acqOf q := rfl

theorem setAcqState_unacquired (d : Dev) (p v : Nat) : (d.setAcqState p v).unacquired = d.unacquired := rfl

theorem trgRestart_acqOf (d : Dev) (p na : Nat) : (d.trgRestart p na).acqOf p =
    { d.acqOf p with na := na, st := 0, entered := na, t0 := 0, cnts := [], open_ := none, force := none, mask := none } :=
  acqOf_putAcq_same _ _ _

theorem trgRestart_get (d : Dev) (p na : Nat) {a : Nat} (h : a ≠ R.trgStat p) : (d.trgRestart p na).get a = d.get a := get_wf_ne _ _ _ h

theorem trgRestart_state (d : Dev) (p na : Nat) : (d.trgRestart p na).rf (R.trgStat p) F.trgStatState = 0 := rf_wf_same _ _ _ _ rfl

theorem trgRestart_unacquired (d : Dev) (p na : Nat) : (d.trgRestart p na).unacquired = d.unacquired := rfl

end Dev

/-- REARM arms the engine at n_a where a slot is free, or full slots do not hold it (R320). -/
theorem rearm_arms (p : Fin 4) (s : State) (hstate : s.dev.acqState p = 3) (hna : (s.dev.acqOf p).na ≤ (s.dev.seqOf p).n)
    (hdecided : (s.dev.acqOf p).smps.any (fun x => decide (x.n < (s.dev.acqOf p).na)) = false)
    (hfree : s.dev.rb (R.acqCfg p) F.acqCfgFullPol = false ∨ s.dev.slotsFull p = false) : ∃ t, exec (.rearm p) s = .next t ∧
      t.dev.acqState p = 1 ∧ (t.dev.acqOf p).st = 0 ∧ (t.dev.acqOf p).entered = (s.dev.acqOf p).na ∧ (t.dev.acqOf p).cnts = [] ∧
      (t.dev.acqOf p).smps = (s.dev.acqOf p).smps ∧ t.dev.rf (R.trgStat p) F.trgStatState = 0 ∧ t.dev.sameRegs s.dev [R.acqStat p, R.trgStat p] ∧
      t.dev = { s.dev with regs := t.dev.regs, acq := t.dev.acq, pins := t.dev.pins } := by
  have hdev : s.dev.rearm p = ((s.dev.trgRestart p (s.dev.acqOf p).na).setAcqState p 1).trgShow := by
    rw [Dev.rearm_of_due p.isLt ⟨hstate, hna, hdecided⟩, if_neg]
    rw [Bool.not_eq_true, Bool.and_eq_false_iff]
    exact hfree
  have hrec := Dev.eq_of_unpulsed (Dev.trgShow_acqOf ((s.dev.trgRestart p (s.dev.acqOf p).na).setAcqState p 1) p)
  rw [Dev.setAcqState_acqOf, Dev.trgRestart_acqOf, ← hdev] at hrec
  have hget : ∀ a, a ≠ R.acqStat p → (s.dev.rearm p).get a = (s.dev.trgRestart p (s.dev.acqOf p).na).get a := fun a ha => by
    rw [hdev, Dev.trgShow_get, Dev.setAcqState_get _ _ _ ha]
  have hun : (s.dev.rearm p).unshown = s.dev.unshown := by
    rw [hdev, Dev.trgShow_unshown]
    exact Dev.unshown_of_unacquired ((Dev.setAcqState_unacquired _ _ _).trans (Dev.trgRestart_unacquired _ _ _))
  refine ⟨{ s with dev := s.dev.rearm p }, rfl, ?_, (congrArg Acq.st hrec :), (congrArg Acq.entered hrec :), (congrArg Acq.cnts hrec :),
    (congrArg Acq.smps hrec :), (Dev.rf_congr (hget _ ?_) _).trans (Dev.trgRestart_state _ _ _), fun a ha => ?_, Dev.frame_of_unshown hun⟩
  · dsimp only
    rw [hdev, Dev.acqState_congr (Dev.trgShow_get _ _), Dev.setAcqState_acqState (by decide)]
  · unfold R.trgStat R.acqStat portPage
    omega
  · simp only [List.mem_cons, List.not_mem_nil, or_false, not_or] at ha
    exact (hget a ha.1).trans (Dev.trgRestart_get _ _ _ ha.2)

/-- REARM holds the engine while full slots hold it (R320). -/
theorem rearm_holds (p : Fin 4) (s : State) (hstate : s.dev.acqState p = 3) (hna : (s.dev.acqOf p).na ≤ (s.dev.seqOf p).n)
    (hdecided : (s.dev.acqOf p).smps.any (fun x => decide (x.n < (s.dev.acqOf p).na)) = false)
    (hpol : s.dev.rb (R.acqCfg p) F.acqCfgFullPol = true) (hfull : s.dev.slotsFull p = true) : ∃ t, exec (.rearm p) s = .next t ∧
      t.dev.acqState p = 4 ∧ t.dev.sameRegs s.dev [R.acqStat p] ∧ t.dev = { s.dev with regs := t.dev.regs } := by
  have hdev : s.dev.rearm p = s.dev.setAcqState p 4 := by
    rw [Dev.rearm_of_due p.isLt ⟨hstate, hna, hdecided⟩, hpol, hfull]
    rfl
  refine ⟨{ s with dev := s.dev.rearm p }, rfl, ?_⟩
  dsimp only
  rw [hdev]
  exact ⟨Dev.setAcqState_acqState (by decide) _ _, fun a ha => Dev.setAcqState_get _ _ _ (by simpa using ha), rfl⟩

/-- Settles O46: edges are noted and are occurrences of the units they match, a decided sample counts its hits and its sequencer stays or fires, and
REARM arms the engine or holds it. -/
theorem triggerInputsAndSamplesAreJudged : Obligations.TriggerInputsAndSamplesAreJudged :=
  ⟨trigInEdge_notes, trigInEdge_seen, trigInEdge_hits, utilityComparatorEdge_notes, sampleDecision_stays, sampleDecision_fires, rearm_arms,
    rearm_holds⟩

end Sys2Proof.Machine
end

section
/-! PROOFS. The family of the generators and the codecs: a statement on decoders whose frames leave out the record of the pattern generator,
as those of the architecture family do. -/
namespace Sys2Proof.Machine

/-- Lane 0 is ready and receives FRL (`CDC_CFG`: MODE 2, LOCK_N 1), and its decoder is unlocked. -/
def lockingLaneState : State where
  __ := State.reset
  dev := ((generatingDev (Ev.cdcLock 0)).wf (R.fchDrvStat 0) F.fchDrvStatReady 1).setN (R.cdcCfg 0 0) 0x10002

theorem codeGroupReceived_cutsGenerator : cutsGenerator (.codeGroupReceived 0 9 0 0 false false) lockingLaneState = true := by decide +kernel

/-- Refutes O41, by its first clause: the group that completes LOCK_N raises CDC_LOCK (R187), whose STOP_PORT cuts the running generator's
segment, and the clause's frame keeps `apg`. -/
theorem not_decodersCountAndLock : ¬ Obligations.DecodersCountAndLock := by
  rintro ⟨hunlocked, -⟩
  obtain ⟨t, ht, -, -, -, -, -, -, hframe⟩ := hunlocked 0 9 0 lockingLaneState (by decide +kernel) (by decide +kernel) (by decide +kernel)
    (by decide +kernel)
  exact apg_ne_of_cutsGenerator codeGroupReceived_cutsGenerator ht (congrArg Dev.apg hframe :)

end Sys2Proof.Machine
end

section
/-! PROOFS. The family of the formatters and the drive: a statement on driver faults with no premise on reactions, whose frames leave out the
record of the pattern generator, as those of the architecture family do. -/
namespace Sys2Proof.Machine

/-- Channel 0 is ready in voltage mode, and `DRV_SHORT` of it stops port A. -/
def shortingState : State where
  __ := State.reset
  dev := (generatingDev (Ev.drvShort 0)).putChan 0 { Chan.reset with phase := 2 }

/-- The short of leg P raises DRV_SHORT (R227). -/
theorem driverShortDetect_cutsGenerator : cutsGenerator (.driverShortDetect 0 1) shortingState = true := by decide +kernel

/-- Refutes O38, by its third clause: a short that begins raises DRV_SHORT, for which the clause asks no `noReact`; its STOP_PORT cuts the
running generator's segment, and the clause's frame keeps `apg`. -/
theorem not_driverFaultsAreCountedOnce : ¬ Obligations.DriverFaultsAreCountedOnce := by
  rintro ⟨-, -, hshort, -⟩
  obtain ⟨t, ht, -, -, -, hframe⟩ := hshort 0 1 shortingState (by decide +kernel) (by decide +kernel) (by decide +kernel) (by decide +kernel)
    (by decide +kernel)
  exact apg_ne_of_cutsGenerator driverShortDetect_cutsGenerator ht (congrArg Dev.apg hframe :)

end Sys2Proof.Machine
end

section
/-! PROOFS. The steps of the enable and disable sequences of a channel (R245 to R248, R254), said for every view of the device that does not show
what they touch. -/
namespace Sys2Proof.Machine
namespace Dev

/-! ### Views that show neither registers of a list, nor levels, nor the bookkeeping of an occurrence -/

/-- A view of the device that shows none of the registers of `L`, of a channel's levels at most whether they follow their codes, and nothing that
the bookkeeping of an occurrence can change. -/
structure Unshown (L : List Nat) {γ : Type} (g : Dev → γ) : Prop extends Unnoted g where
  reg : ∀ (d : Dev) (a : Nat) (w : Word), a ∈ L → g (d.set a w) = g d
  lvl : ∀ (d : Dev) (j : Nat) (l : Lvl), l.follow = (d.lvl j).follow → g (d.putLvl j l) = g d

/-- What is read off such a view is one, too. -/
theorem Unnoted.comp {γ δ : Type} {g : Dev → γ} (hg : Unnoted g) (f : γ → δ) : Unnoted (fun d => f (g d)) where
  set d a w h := congrArg f (hg.set d a w h)
  src d s e hc he := congrArg f (hg.src d s e hc he)
  evt d e h := congrArg f (hg.evt d e h)
  sram d m := congrArg f (hg.sram d m)
  hostMem d m := congrArg f (hg.hostMem d m)
  hif d h := congrArg f (hg.hif d h)

theorem Unshown.comp {L : List Nat} {γ δ : Type} {g : Dev → γ} (hg : Unshown L g) (f : γ → δ) : Unshown L (fun d => f (g d)) where
  toUnnoted := hg.toUnnoted.comp f
  reg d a w h := congrArg f (hg.reg d a w h)
  lvl d j l h := congrArg f (hg.lvl d j l h)

theorem get_unshown {L : List Nat} {a : Nat} (hn : a ∉ noteRegs) (hL : a ∉ L) : Unshown L (fun d => d.get a) where
  toUnnoted := get_unnoted hn
  reg _ _ _ hb := get_set_ne _ _ (fun e => hL (e ▸ hb))
  lvl _ _ _ _ := rfl

theorem srcSetup_unshown (L : List Nat) (k : Nat) : Unshown L (fun d => d.srcSetup k) where
  toUnnoted := srcSetup_unnoted k
  reg _ _ _ _ := rfl
  lvl _ _ _ _ := rfl

/-- The device without its registers, its channels' levels and what the bookkeeping of an occurrence may touch. -/
def bare (d : Dev) : Dev := { d.noted with lvls := [] }

theorem bare_unshown (L : List Nat) : Unshown L bare where
  toUnnoted := noted_unnoted.comp (fun d => { d with lvls := [] })
  reg _ _ _ _ := rfl
  lvl _ _ _ _ := rfl

theorem chan_unshown (L : List Nat) (i : Nat) : Unshown L (fun d => d.chan i) := (bare_unshown L).comp (Dev.chan · i)

theorem lvl_putLvl (d : Dev) (i j : Nat) (l : Lvl) : (d.putLvl j l).lvl i = if i = j then l else d.lvl i := tget_tset ..

theorem follow_unshown (L : List Nat) (i : Nat) : Unshown L (fun d => (d.lvl i).follow) where
  toUnnoted := noted_unnoted.comp (fun d => (d.lvl i).follow)
  reg _ _ _ _ := rfl
  lvl d j l h := by
    simp only [lvl_putLvl]
    split
    · next e => rw [h, e]
    · rfl

/-- What a frame keeps that lists registers, events, memories, the link and the records of sequencers, channels, levels and acquisition. -/
def becalmed (d : Dev) : Dev := { d.calm with apg := d.apg }

theorem becalmed_unshown (L : List Nat) : Unshown L becalmed := (bare_unshown L).comp becalmed

theorem frame_of_becalmed {e d : Dev} (h : e.becalmed = d.becalmed) :
    e = { d with regs := e.regs, evt := e.evt, sram := e.sram, hostMem := e.hostMem, hif := e.hif, seq := e.seq,
                 chans := e.chans, lvls := e.lvls, acq := e.acq } :=
  frame_of_calm (congrArg calm h :) (congrArg Dev.apg h :)

/-- The same without the counter of free values, which a level that moves advances. -/
def unburnt (d : Dev) : Dev := { d.becalmed with fresh := 0 }

theorem unburnt_unshown (L : List Nat) : Unshown L unburnt := (bare_unshown L).comp unburnt

theorem frame_of_unburnt {e d : Dev} (h : e.unburnt = d.unburnt) :
    e = { d with regs := e.regs, chans := e.chans, lvls := e.lvls, fresh := e.fresh, evt := e.evt, sram := e.sram, hostMem := e.hostMem,
                 hif := e.hif, seq := e.seq, acq := e.acq } :=
  congrArg (fun x : Dev => { x with regs := e.regs, chans := e.chans, lvls := e.lvls, fresh := e.fresh, evt := e.evt, sram := e.sram,
                                    hostMem := e.hostMem, hif := e.hif, seq := e.seq, acq := e.acq }) h

/-! ### The registers of a channel -/

/-- The register that shows a channel's driver. -/
abbrev drvStat (i : Nat) : Nat := if i < 32 then R.fchDrvStat i else R.uchDrvStat (i - 32)

/-- The register that shows a channel's levels. -/
abbrev lvlStat (i : Nat) : Nat := if i < 32 then R.fchLvlStat i else R.uchLvlStat (i - 32)

theorem drvStat_fast {i : Nat} (hi : i < 32) : drvStat i = R.fchDrvStat i := if_pos hi
theorem drvStat_util {i : Nat} (hi : ¬ i < 32) : drvStat i = R.uchDrvStat (i - 32) := if_neg hi

theorem drvStat_off (i : Nat) : drvStat i % 0x1000 = 0x6C ∨ drvStat i % 0x1000 = 0x4C := by
  unfold drvStat R.fchDrvStat R.uchDrvStat fchPage uchPage
  split <;> omega

theorem lvlStat_off (i : Nat) : lvlStat i % 0x1000 = 0x78 ∨ lvlStat i % 0x1000 = 0x68 := by
  unfold lvlStat R.fchLvlStat R.uchLvlStat fchPage uchPage
  split <;> omega

theorem pctl_off (page : Nat) : pctl page % 0x1000 = 8 := by unfold pctl; omega
theorem pstat_off (page : Nat) : pstat page % 0x1000 = 0xC := by unfold pstat; omega
theorem fchEyeStat_off (n : Nat) : R.fchEyeStat n % 0x1000 = 0xB4 := by unfold R.fchEyeStat fchPage; omega
theorem fchDrvCnt_off (n : Nat) : R.fchDrvCnt n % 0x1000 = 0x70 := by unfold R.fchDrvCnt fchPage; omega
theorem uchPmuStat_off (m : Nat) : R.uchPmuStat m % 0x1000 = 0x60 := by unfold R.uchPmuStat uchPage; omega
theorem glbProfile_off : R.glbProfile % 0x1000 = 0x60 := rfl

/-- The registers that a judgement of a channel's PMU and of the aggregate may write, and the flags of the channel's page. -/
abbrev judgedRegs (i : Nat) : List Nat := [R.uchPmuStat (i - 32), R.glbProfile, pstat (chPage i)]

theorem drvStat_apart (i : Nat) : drvStat i ∉ lvlStat i :: judgedRegs i := by
  have := drvStat_off i; have := lvlStat_off i; have := uchPmuStat_off (i - 32); have := glbProfile_off; have := pstat_off (chPage i)
  simp only [judgedRegs, List.mem_cons, List.not_mem_nil, or_false]
  omega

theorem pctl_apart (i : Nat) : pctl (chPage i) ∉ lvlStat i :: judgedRegs i := by
  have := pctl_off (chPage i); have := lvlStat_off i; have := uchPmuStat_off (i - 32); have := glbProfile_off; have := pstat_off (chPage i)
  simp only [judgedRegs, List.mem_cons, List.not_mem_nil, or_false]
  omega

theorem drvStat_not_mem_judgedRegs (i : Nat) : drvStat i ∉ judgedRegs i := fun h => drvStat_apart i (List.mem_cons_of_mem _ h)
theorem pctl_not_mem_judgedRegs (i : Nat) : pctl (chPage i) ∉ judgedRegs i := fun h => pctl_apart i (List.mem_cons_of_mem _ h)

theorem pctl_ne_fchEyeStat (page n : Nat) : pctl page ≠ R.fchEyeStat n := by
  have := pctl_off page; have := fchEyeStat_off n
  omega

theorem pctl_ne_drvStat (page i : Nat) : pctl page ≠ drvStat i := by
  have := pctl_off page; have := drvStat_off i
  omega

theorem pctl_ne_pstat (page page' : Nat) : pctl page ≠ pstat page' := by
  have := pctl_off page; have := pstat_off page'
  omega

theorem drvStat_ne_pstat (i page : Nat) : drvStat i ≠ pstat page := by
  have := drvStat_off i; have := pstat_off page
  omega

theorem drvStat_ne_fchEyeStat (i n : Nat) : drvStat i ≠ R.fchEyeStat n := by
  have := drvStat_off i; have := fchEyeStat_off n
  omega

theorem drvStat_ne_fchDrvCnt (i n : Nat) : drvStat i ≠ R.fchDrvCnt n := by
  have := drvStat_off i; have := fchDrvCnt_off n
  omega

theorem drvStat_not_mem_noteRegs (i : Nat) : drvStat i ∉ noteRegs := not_mem_noteRegs (by
  unfold drvStat R.fchDrvStat R.uchDrvStat fchPage uchPage
  split <;> omega)

theorem pctl_chPage_not_mem_noteRegs (i : Nat) : pctl (chPage i) ∉ noteRegs := not_mem_noteRegs (by
  unfold pctl chPage
  split <;> omega)

/-- A register that events leave alone is none of those that a channel's PMU shows itself in. -/
theorem ne_uchPmuStat_of_quiet {a i : Nat} (hi : i < 96) (h : quiet a = true) : a ≠ R.uchPmuStat (i - 32) :=
  ne_of_quiet h (mem_utilRegs (n := i - 32) (by omega) (by simp))

/-! ### The steps -/

section
variable {L : List Nat} {γ : Type} {g : Dev → γ} (hg : Unshown L g)
include hg

theorem wf_unshown (d : Dev) {a : Nat} (f : Fld) (v : Nat) (h : a ∈ L) : g (d.wf a f v) = g d := hg.reg _ _ _ h

theorem condSet_unshown (s : Nat) (b : Bool) (d : Dev) : g (d.condSet s b).1 = g d := hg.src _ _ _ rfl rfl

theorem pmuOff_unshown (d : Dev) (m : Nat) (h : R.uchPmuStat m ∈ L) : g (d.pmuOff m) = g d := by
  unfold pmuOff
  dsimp only
  refine (hg.lvl _ _ _ (by rfl)).trans ?_
  rw [condSet_unshown hg, condSet_unshown hg, wf_unshown hg _ _ _ h, wf_unshown hg _ _ _ h, wf_unshown hg _ _ _ h]

theorem pmuJudge_unshown (d : Dev) (m t : Nat) (h : R.uchPmuStat m ∈ L) : g (d.pmuJudge m t) = g d := by
  unfold pmuJudge
  split
  · split
    · rfl
    · exact hg.lvl _ _ _ (by rfl)
  · split
    · exact pmuOff_unshown hg d m h
    · rfl

/-- The aggregate is judged without a reaction (R32, R33). -/
theorem capJudge_unshown {d : Dev} (h : R.glbProfile ∈ L) (hr : d.noReact Ev.capOver = true) : g d.capJudge = g d := by
  unfold capJudge
  extract_lets above was d1
  have h1 : g d1 = g d := wf_unshown hg _ _ _ h
  split
  · exact (raise_unnoted hg.toUnnoted (d := d1) ((noReact_of_evt rfl _).trans hr)).trans h1
  · exact h1

/-- Beyond its effect a judged write touches the flag `BADWRITE` of its page alone. -/
theorem judged_unshown (d : Dev) (page : Nat) (f : Dev → Dev) (h : pstat page ∈ L) : g (d.judged page f).1 = g (f (d.cleared page)) := by
  rw [judged_fst]
  split
  · exact wf_unshown hg _ _ _ h
  · rfl

theorem readyFall_unshown (d : Dev) (i : Nat) (h : drvStat i ∈ L) (he : R.fchEyeStat i ∈ L) : g (d.readyFall i) = g d := by
  unfold readyFall
  split
  · next hi =>
    rw [drvStat_fast hi] at h
    dsimp only
    rw [condSet_unshown hg]
    split
    · rw [wf_unshown hg _ _ _ he, wf_unshown hg _ _ _ h, wf_unshown hg _ _ _ h]
    · rw [wf_unshown hg _ _ _ h, wf_unshown hg _ _ _ h]
  · next hi =>
    rw [drvStat_util hi] at h
    exact wf_unshown hg _ _ _ h

theorem chFall_unshown (d : Dev) (i : Nat) (h : drvStat i ∈ L) (he : R.fchEyeStat i ∈ L) : g (d.chFall i) = g d := by
  unfold chFall
  dsimp only
  split
  · next hi =>
    have hf : R.fchDrvStat i ∈ L := drvStat_fast hi ▸ h
    rw [wf_unshown hg _ _ _ hf, wf_unshown hg _ _ _ hf, readyFall_unshown hg d i h he]
  · exact readyFall_unshown hg d i h he

theorem setClip_unshown (d : Dev) {i : Nat} (j : Nat) (b : Bool) (h : lvlStat i ∈ L) : g (d.setClip i j b) = g d := wf_unshown hg _ _ _ h

theorem setSettling_unshown (d : Dev) {i : Nat} (j : Nat) (b : Bool) (h : lvlStat i ∈ L) :
    g (d.setSettling i j b) = g d := wf_unshown hg _ _ _ h

section
variable (hfresh : ∀ (d : Dev) (n : Nat), g { d with fresh := n } = g d)
include hfresh

theorem ldacMove_unshown (d : Dev) (i t j : Nat) (h : lvlStat i ∈ L) : g (d.ldacMove i t j) = g d := by
  unfold ldacMove
  extract_lets x r d1 now Δ d2
  have h1 : g d1 = g d := setClip_unshown hg d j r.2 h
  split
  · exact h1
  · calc g (d2.setSettling i j true) = g d2 := setSettling_unshown hg d2 j true h
      _ = g d1.burn := hg.lvl _ _ _ (by rfl)
      _ = g d := (hfresh _ _).trans h1

/-- The levels of a channel are taken anew (R254, R255). -/
theorem levelsAt_unshown (d : Dev) (i t : Nat) (h : lvlStat i ∈ L) : g (d.levelsAt i t) = g d := by
  unfold levelsAt
  split
  · exact foldl_keep g _ (fun x j => ldacMove_unshown hg hfresh x i t j h) _ _
  · rfl

end

end

end Dev
end Sys2Proof.Machine
end

section
/-! PROOFS. A write of `ENABLE` on a channel's page (R245, R246, R248): which sequence it begins, and with what. -/
namespace Sys2Proof.Machine
namespace Dev

theorem chan_putChan_same (d : Dev) (i : Nat) (c : Chan) : (d.putChan i c).chan i = c := tget_tset_same _ _ _ _

theorem chan_putLvl (d : Dev) (i j : Nat) (l : Lvl) : (d.putLvl j l).chan i = d.chan i := rfl

/-! ### The grid is that of the values in force -/

theorem lv_congr {e d : Dev} (h : e.live = d.live) (a : Nat) : e.lv a = d.lv a := by rw [lv, lv, h]

theorem lwide_congr {e d : Dev} (h : e.live = d.live) : ∀ (n a : Nat), e.lwide a n = d.lwide a n := by
  intro n
  induction n with
  | zero => intro a; rfl
  | succ n ih => intro a; rw [lwide, lwide, lv_congr h, ih]

theorem lf_congr {e d : Dev} (h : e.live = d.live) (a : Nat) (f : Fld) : e.lf a f = d.lf a f := congrArg (fget · f) (lv_congr h a)

theorem tsEpoch_congr {e d : Dev} (h : e.live = d.live) (p s : Nat) : e.tsEpoch p s = d.tsEpoch p s := lwide_congr h _ _

theorem tsPfx_congr {e d : Dev} (h : e.live = d.live) (p s : Nat) : e.tsPfx p s = d.tsPfx p s := by
  rw [tsPfx, tsPfx, lv_congr h, lf_congr h]

theorem gridPt_congr {e d : Dev} (h : e.live = d.live) (p s : Nat) (k : Int) : e.gridPt p s k = d.gridPt p s k := by
  rw [gridPt, gridPt, tsEpoch_congr h, tsPfx_congr h]

theorem bound_congr {e d : Dev} (h : e.live = d.live) (p s : Nat) (k : Int) : e.bound p s k = d.bound p s k := by
  unfold bound sscDisp
  dsimp only
  rw [gridPt_congr h, tsEpoch_congr h, lf_congr h, lv_congr h]

theorem bisect_congr {e d : Dev} (h : e.live = d.live) (p s : Nat) (t : Int) :
    ∀ (f : Nat) (lo : Int) (n : Nat), e.bisect p s t f lo n = d.bisect p s t f lo n := by
  intro f
  induction f with
  | zero => intro lo n; rfl
  | succ f ih => intro lo n; simp only [bisect, bound_congr h, ih]

/-- A boundary of the grid depends on the values in force alone (R192). -/
theorem boundAt_congr {e d : Dev} (h : e.live = d.live) (p s t : Nat) : e.boundAt p s t = d.boundAt p s t := by
  unfold boundAt kAt
  dsimp only
  rw [bound_congr h, bisect_congr h, tsPfx_congr h, tsEpoch_congr h, lf_congr h]

/-! ### The write -/

theorem pageOf_chPage {i : Nat} (hi : i < 96) : ∃ k j, pageOf (chPage i) = some (k, j) ∧ hasEnable k = true ∧ hasFreeze k = false ∧
    sbEngine k = none ∧ pageChan k j = some i := by
  by_cases h : i < 32
  · refine ⟨.fch, i, ?_, rfl, rfl, rfl, rfl⟩
    rw [chPage, if_pos h]
    unfold pageOf
    simp (disch := omega) only [if_neg, if_pos]
    rw [Nat.add_sub_cancel_left]
  · refine ⟨.uch, i - 32, ?_, rfl, rfl, rfl, ?_⟩
    · rw [chPage, if_neg h]
      unfold pageOf
      simp (disch := omega) only [if_neg, if_pos]
      rw [Nat.add_sub_cancel_left]
    · rw [pageChan, Nat.add_sub_cancel' (by omega)]

/-- What a write of `ENABLE` does on a channel's page, where nothing refuses it. -/
def enableWritten (d : Dev) (i : Nat) (on : Bool) : Dev :=
  if on then (if d.enableOk i then d.chEnable i else d.badWrite (chPage i))
  else if d.rb (pctl (chPage i)) F.ctlEnable then d.chDisable i else d

theorem ctrlWrite_channel {k : PageKind} {i j w : Nat} (d : Dev) (out : Sys2Proof.Outside) (hen : hasEnable k = true) (hfr : hasFreeze k = false)
    (hsb : sbEngine k = none) (hch : pageChan k j = some i) (hw : nbit w 1 = false) :
    d.ctrlWrite out (chPage i) k j w = d.enableWritten i (nbit w 0) := by
  unfold ctrlWrite enableBit enableWritten
  simp only [hw, hen, hfr, hsb, hch, Bool.false_eq_true, if_false, if_true]
  cases nbit w 0 <;> rfl

/-- A write of a channel's `PAGE_CTRL` that resets nothing is a write of its `ENABLE`. -/
theorem arrives_enable (v : Vault) (out : Sys2Proof.Outside) (path : Nat) (d : Dev) {i w : Nat} (hi : i < 96)
    (h : d.takesCtrl path (chPage i) w = true) (hw : nbit w 1 = false) :
    d.arrives v out path (pctl (chPage i)) w = (d.judged (chPage i) (fun x => x.enableWritten i (nbit w 0))).1 := by
  obtain ⟨k, j, hp, hen, hfr, hsb, hch⟩ := pageOf_chPage hi
  rw [takesCtrl_arrives v out path d _ w k j hp h]
  simp only [ctrlWrite_channel _ out hen hfr hsb hch hw]

/-! ### The enable sequence begins -/

/-- The channel's PMU and the aggregate are judged anew. -/
def outputJudged (d : Dev) (i : Nat) : Dev := (if i < 32 then d else d.pmuJudge (i - 32) d.now).capJudge

theorem outputJudged_unshown {L : List Nat} {γ : Type} {g : Dev → γ} (hg : Unshown L g) {d : Dev} {i : Nat} (hL : judgedRegs i ⊆ L)
    (hr : d.noReact Ev.capOver = true) : g (d.outputJudged i) = g d := by
  have hpmu : R.uchPmuStat (i - 32) ∈ L := hL (by simp)
  have hcap : R.glbProfile ∈ L := hL (by simp)
  unfold outputJudged
  split
  · exact capJudge_unshown hg hcap hr
  · have hr' : (d.pmuJudge (i - 32) d.now).noReact Ev.capOver = d.noReact Ev.capOver :=
      noReact_of_unnoted (fun k => pmuJudge_unshown (srcSetup_unshown L k) d _ _ hpmu) _
    exact (capJudge_unshown hg hcap (hr'.trans hr)).trans (pmuJudge_unshown hg d _ _ hpmu)

/-- The records of a channel whose enable sequence begins: phase 1, and levels that follow their codes (R245, R254). -/
def started (d : Dev) (i : Nat) : Dev :=
  let d := d.putChan i { d.chan i with phase := 1, offAt := none, driven := false, on := false, edges := [], stbs := [], term := false }
  d.putLvl i { d.lvl i with follow := true }

theorem started_get (d : Dev) (i a : Nat) : (d.started i).get a = d.get a := rfl

theorem started_phase (d : Dev) (i : Nat) : ((d.started i).chan i).phase = 1 := by
  unfold started
  rw [chan_putLvl, chan_putChan_same]

theorem started_follow (d : Dev) (i : Nat) : ((d.started i).lvl i).follow = true := by
  unfold started
  rw [lvl_putLvl, if_pos rfl]

/-- A channel as its enable sequence begins, before its levels and its PMU are judged. -/
def enabling (d : Dev) (i : Nat) : Dev := ((d.wf (pctl (chPage i)) F.ctlEnable 1).wf (drvStat i) F.fchDrvStatSafe 0).started i

theorem enabling_get (d : Dev) (i : Nat) {a : Nat} (hc : a ≠ pctl (chPage i)) (hd : a ≠ drvStat i) : (d.enabling i).get a = d.get a := by
  rw [enabling, started_get, get_wf_ne _ _ _ hd, get_wf_ne _ _ _ hc]

theorem enabling_enable (d : Dev) (i : Nat) : (d.enabling i).rb (pctl (chPage i)) F.ctlEnable = true := by
  rw [enabling, rb_congr (started_get _ _ _), rb_wf_ne _ _ _ _ (pctl_ne_drvStat _ _), rb_wf_same _ _ _ _ rfl (by decide)]
  rfl

theorem enabling_safe (d : Dev) (i : Nat) : (d.enabling i).rb (drvStat i) F.fchDrvStatSafe = false := by
  rw [enabling, rb_congr (started_get _ _ _), rb_wf_same _ _ _ _ rfl (by decide)]
  rfl

theorem enabling_ready (d : Dev) (i : Nat) : (d.enabling i).rb (drvStat i) F.fchDrvStatReady = d.rb (drvStat i) F.fchDrvStatReady := by
  rw [enabling, rb_congr (started_get _ _ _), rb_wf_apart _ _ _ _ _ rfl rfl, rb_wf_ne _ _ _ _ (pctl_ne_drvStat _ _).symm]

theorem enabling_phase (d : Dev) (i : Nat) : ((d.enabling i).chan i).phase = 1 := started_phase _ _

theorem enabling_follow (d : Dev) (i : Nat) : ((d.enabling i).lvl i).follow = true := started_follow _ _

theorem enabling_unburnt (d : Dev) (i : Nat) : (d.enabling i).unburnt = d.unburnt := rfl

theorem enabling_srcSetup (d : Dev) (i k : Nat) : (d.enabling i).srcSetup k = d.srcSetup k := rfl

theorem chEnable_unshown {L : List Nat} {γ : Type} {g : Dev → γ} (hg : Unshown L g)
    (hfresh : ∀ (x : Dev) (n : Nat), g { x with fresh := n } = g x) {d : Dev} {i : Nat} (hL : lvlStat i :: judgedRegs i ⊆ L)
    (hr : d.noReact Ev.capOver = true) (hphase : (d.chan i).phase = 0) : g (d.chEnable i) = g (d.enabling i) := by
  obtain ⟨hlvl, hjudged⟩ := List.cons_subset.mp hL
  unfold chEnable
  rw [if_neg (not_not.mpr hphase)]
  extract_lets d1 d2 c d3 l d4 d5
  have h2 : d2 = d1.wf (drvStat i) F.fchDrvStatSafe 0 := by
    simp only [d2]
    split <;> rfl
  have h3 : d3.putLvl i { d3.lvl i with follow := true } = d.enabling i := (congrArg (started · i) h2 :)
  have h4 : ∀ {δ : Type} {f : Dev → δ}, Unshown L f → (∀ (x : Dev) (n : Nat), f { x with fresh := n } = f x) → f d4 = f (d.enabling i) :=
    fun hf hn => (levelsAt_unshown hf hn _ _ _ hlvl).trans (congrArg _ h3)
  have hr4 : d4.noReact Ev.capOver = true :=
    (noReact_of_unnoted (fun k => (h4 (srcSetup_unshown L k) (fun _ _ => rfl)).trans (enabling_srcSetup d i k)) _).trans hr
  exact (outputJudged_unshown hg hjudged hr4).trans (h4 hg hfresh)

theorem enableOk_cleared (d : Dev) (i page : Nat) : (d.cleared page).enableOk i = d.enableOk i := by
  have hwinter : (d.cleared page).winter = d.winter := by
    unfold winter season rn cleared
    rw [get_wf_ne _ _ _ (by unfold R.glbSeason pstat; omega)]
  unfold enableOk
  rw [hwinter]
  rfl

/-- All that a write of `ENABLE` = 1 changes beyond the start of the sequence are levels, judgements and the page's flags. -/
theorem enableWritten_unshown {γ : Type} {g : Dev → γ} {d : Dev} {i : Nat} (hg : Unshown (lvlStat i :: judgedRegs i) g)
    (hfresh : ∀ (x : Dev) (n : Nat), g { x with fresh := n } = g x) (hr : d.noReact Ev.capOver = true) (hphase : (d.chan i).phase = 0)
    (hok : d.enableOk i = true) :
    g (d.judged (chPage i) (fun x => x.enableWritten i true)).1 = g ((d.cleared (chPage i)).enabling i) := by
  have heq : (d.cleared (chPage i)).enableWritten i true = (d.cleared (chPage i)).chEnable i := by
    rw [enableWritten, if_pos rfl, enableOk_cleared, if_pos hok]
  rw [judged_unshown hg _ _ _ (by simp), heq]
  exact chEnable_unshown hg hfresh (List.Subset.refl _) ((noReact_of_evt rfl _).trans hr) hphase

/-! ### The disable sequence begins -/

/-- A channel as its disable sequence begins, with the boundary at which READY falls, if it waits for one. -/
def disabling (d : Dev) (i : Nat) (off : Option Nat) : Dev :=
  let d := d.wf (pctl (chPage i)) F.ctlEnable 0
  d.putChan i { d.chan i with phase := 3, offAt := off }

/-- The boundary at which READY falls on a port that launches: the first one at least 80 ns from now (R246). -/
def disableAt (d : Dev) (i : Nat) : Nat := d.boundAt (chPort i) (d.seqOf (chPort i)).ts (d.now + 4194304)

theorem disableAt_wf (d : Dev) (a : Nat) (f : Fld) (v i : Nat) : (d.wf a f v).disableAt i = d.disableAt i := by
  unfold disableAt now
  rw [boundAt_congr (wf_live d a f v), seqOf_wf, wf_gtc]

/-- The driver lets go at once where READY waits for no boundary. -/
theorem chDisable_eq {d : Dev} {i : Nat} {off : Option Nat} (h : (d.chan i).phase = 2)
    (hoff : (if (d.seqOf (chPort i)).tref = true then some (d.disableAt i) else none) = off) :
    d.chDisable i = (if off.isNone then (d.disabling i off).chFall i else d.disabling i off).outputJudged i := by
  unfold chDisable
  extract_lets d1 ph s off' c d2 d3 d4
  have hph : ph = 2 := h
  have hoff' : off' = off := by
    rw [← hoff]
    simp only [off', hph, and_true]
    exact congrArg (fun t => if s.tref = true then some t else none) (disableAt_wf d _ _ _ i)
  have h2 : d2 = d.disabling i off := (congrArg (fun o => d1.putChan i { c with phase := 3, offAt := o }) hoff' :)
  have h3 : d3 = if off.isNone then (d.disabling i off).chFall i else d.disabling i off := by
    simp only [d3, h2, hoff']
  rw [if_neg (fun hne => hne.2 h)]
  exact congrArg (outputJudged · i) h3

theorem chDisable_launching {d : Dev} {i : Nat} (h : (d.chan i).phase = 2) (hport : (d.seqOf (chPort i)).tref = true) :
    d.chDisable i = (d.disabling i (some (d.disableAt i))).outputJudged i := by
  rw [chDisable_eq h (if_pos hport), if_neg (by simp)]

theorem disabling_get (d : Dev) (i : Nat) (off : Option Nat) {a : Nat} (hc : a ≠ pctl (chPage i)) : (d.disabling i off).get a = d.get a :=
  get_wf_ne _ _ _ hc

theorem disabling_enable (d : Dev) (i : Nat) (off : Option Nat) : (d.disabling i off).rb (pctl (chPage i)) F.ctlEnable = false :=
  rb_wf_same _ _ _ _ rfl (by decide)

theorem disabling_chan (d : Dev) (i : Nat) (off : Option Nat) : (d.disabling i off).chan i = { d.chan i with phase := 3, offAt := off } :=
  chan_putChan_same _ _ _

theorem disabling_becalmed (d : Dev) (i : Nat) (off : Option Nat) : (d.disabling i off).becalmed = d.becalmed := rfl

/-- `ENABLE` reads 1 in the state in which the write's effect runs, too. -/
theorem enableWritten_off {d : Dev} {i : Nat} (hen : d.rb (pctl (chPage i)) F.ctlEnable = true) :
    (d.cleared (chPage i)).enableWritten i false = (d.cleared (chPage i)).chDisable i := by
  have hen' : (d.cleared (chPage i)).rb (pctl (chPage i)) F.ctlEnable = true := (rb_wf_ne _ _ _ _ (pctl_ne_pstat _ _)).trans hen
  rw [enableWritten, if_neg (by simp), if_pos hen']

theorem chFall_ready (d : Dev) (i : Nat) : (d.chFall i).rb (drvStat i) F.fchDrvStatReady = false := by
  unfold chFall readyFall
  by_cases hi : i < 32
  · simp only [hi, if_true, drvStat_fast hi]
    rw [rb_wf_apart _ _ _ _ _ rfl rfl, rb_wf_apart _ _ _ _ _ rfl rfl]
    have hfall : ((d.wf (R.fchDrvStat i) F.fchDrvStatReady 0).wf (R.fchDrvStat i) F.fchDrvStatCmplLive 0).rb (R.fchDrvStat i)
        F.fchDrvStatReady = false := (rb_wf_apart _ _ _ _ _ rfl rfl).trans (rb_wf_same _ _ _ _ rfl (by decide))
    refine (rb_congr (condSet_get _ _ _) _).trans ?_
    split
    · exact (rb_wf_ne _ _ _ _ (drvStat_fast hi ▸ drvStat_ne_fchEyeStat i i)).trans hfall
    · exact hfall
  · simp only [hi, if_false, drvStat_util hi]
    exact rb_wf_same _ _ _ _ rfl (by decide)

/-- A channel as its disable sequence begins on a port that launches nothing: its driver has let go. -/
def falling (d : Dev) (i : Nat) : Dev := (d.disabling i none).chFall i

theorem chDisable_idle {d : Dev} {i : Nat} (h : (d.chan i).phase = 2) (hport : (d.seqOf (chPort i)).tref = false) :
    d.chDisable i = (d.falling i).outputJudged i := by
  rw [chDisable_eq (off := none) h (if_neg (by simp [hport])), if_pos Option.isNone_none, falling]

theorem falling_unshown {γ : Type} {g : Dev → γ} {i : Nat} (hg : Unshown [drvStat i, R.fchEyeStat i] g) (d : Dev) :
    g (d.falling i) = g (d.disabling i none) := chFall_unshown hg _ i (by simp) (by simp)

theorem falling_noReact (d : Dev) (i s : Nat) : (d.falling i).noReact s = d.noReact s :=
  noReact_of_unnoted (fun k => falling_unshown (srcSetup_unshown _ k) d) s

theorem falling_chan (d : Dev) (i : Nat) : (d.falling i).chan i = { d.chan i with phase := 3, offAt := none } :=
  (falling_unshown (chan_unshown _ i) d).trans (disabling_chan d i none)

theorem falling_enable (d : Dev) (i : Nat) : (d.falling i).rb (pctl (chPage i)) F.ctlEnable = false := by
  have hL : pctl (chPage i) ∉ [drvStat i, R.fchEyeStat i] := by simp [pctl_ne_drvStat, pctl_ne_fchEyeStat]
  exact (rb_congr (falling_unshown (get_unshown (pctl_chPage_not_mem_noteRegs i) hL) d) _).trans (disabling_enable d i none)

theorem falling_get (d : Dev) (i : Nat) {a : Nat} (hq : quiet a = true) (hc : a ≠ pctl (chPage i)) (hd : a ≠ drvStat i)
    (he : a ≠ R.fchEyeStat i) : (d.falling i).get a = d.get a :=
  (falling_unshown (get_unshown (not_mem_noteRegs_of_quiet hq) (by simp [hd, he])) d).trans (disabling_get d i none hc)

theorem falling_becalmed (d : Dev) (i : Nat) : (d.falling i).becalmed = d.becalmed :=
  (falling_unshown (becalmed_unshown _) d).trans (disabling_becalmed d i none)

/-- All that a write of `ENABLE` = 0 changes beyond `x`, where the sequence begins with `x`, are judgements and the page's flags. -/
theorem disableWritten_unshown {γ : Type} {g : Dev → γ} {d x : Dev} {i : Nat} (hg : Unshown (judgedRegs i) g)
    (hr : x.noReact Ev.capOver = true) (hen : d.rb (pctl (chPage i)) F.ctlEnable = true)
    (hx : (d.cleared (chPage i)).chDisable i = x.outputJudged i) :
    g (d.judged (chPage i) (fun x => x.enableWritten i false)).1 = g x := by
  rw [judged_unshown hg _ _ _ (by simp), enableWritten_off hen, hx, outputJudged_unshown hg (List.Subset.refl _) hr]

end Dev
end Sys2Proof.Machine
end

section
/-! PROOFS. READY rises (R245), and the disable sequence ends (R246, R247). -/
namespace Sys2Proof.Machine
namespace Dev

/-! ### READY rises -/

/-- A view of the device that does not show what the LP assist and the eye monitor of fast channel `i` do as READY rises (R234, R294). -/
structure Undriven (i : Nat) {γ : Type} (g : Dev → γ) : Prop where
  hsOn : ∀ (d : Dev) (v : Nat), g (d.wf (R.fchDrvStat i) F.fchDrvStatHsOn v) = g d
  lpOn : ∀ (d : Dev) (v : Nat), g (d.wf (R.fchDrvStat i) F.fchDrvStatLpOn v) = g d
  slow : ∀ (d : Dev) (k : Nat), g (d.cnt (R.fchDrvCnt i) F.fchDrvCntLpSlow k) = g d
  eye : ∀ (d : Dev) (v : Nat), g (d.wf (R.fchEyeStat i) F.fchEyeStatState v) = g d
  chan : ∀ (d : Dev) (c : Chan), c.phase = (d.chan i).phase → g (d.putChan i c) = g d

section
variable {i : Nat} {γ : Type} {g : Dev → γ} (hg : Undriven i g)
include hg

theorem eyeGate_undriven (d : Dev) : g (d.eyeGate i) = g d := by
  unfold eyeGate setEyeState
  dsimp only
  split
  · exact hg.eye _ _
  · split
    · exact hg.eye _ _
    · rfl

theorem lpLeg_undriven (d : Dev) (t p nn : Nat) : g (d.lpLeg i t p nn) = g d := by
  unfold lpLeg
  extract_lets c one a b d1
  exact (hg.chan d1 _ (by rfl)).trans (hg.slow _ _)

theorem lpDrive_undriven (d : Dev) : g (d.lpDrive i) = g d := by
  unfold lpDrive showHs
  dsimp only
  rw [hg.lpOn, hg.hsOn]
  exact hg.chan d _ (by rfl)

theorem lpRest_undriven (d : Dev) (t : Nat) : g (d.lpRest i t) = g d := by
  unfold lpRest
  split
  · split
    · rw [lpDrive_undriven hg, lpLeg_undriven hg]
    · exact hg.lpOn _ _
  · rfl

end

/-- A channel as its READY rises. -/
def readied (d : Dev) (i : Nat) : Dev := (d.putChan i { d.chan i with phase := 2 }).wf (drvStat i) F.fchDrvStatReady 1

theorem channelReady_undriven {i : Nat} {γ : Type} {g : Dev → γ} (hg : i < 32 → Undriven i g) {d : Dev} (hon : d.chOnline i = true)
    (hphase : (d.chan i).phase = 1) : g (d.channelReady i) = g (d.readied i) := by
  unfold channelReady readied
  rw [if_neg (by simp [hon, hphase])]
  dsimp only
  split
  · next hi => rw [lpRest_undriven (hg hi), eyeGate_undriven (hg hi)]
  · rfl

theorem get_undriven {i a : Nat} (hd : a ≠ R.fchDrvStat i) (he : a ≠ R.fchEyeStat i) (hc : a ≠ R.fchDrvCnt i) :
    Undriven i (fun d => d.get a) where
  hsOn _ _ := get_wf_ne _ _ _ hd
  lpOn _ _ := get_wf_ne _ _ _ hd
  slow _ _ := get_cnt_ne _ _ _ hc
  eye _ _ := get_wf_ne _ _ _ he
  chan _ _ _ := rfl

theorem phase_undriven (i : Nat) : Undriven i (fun d => (d.chan i).phase) where
  hsOn _ _ := rfl
  lpOn _ _ := rfl
  slow _ _ := rfl
  eye _ _ := rfl
  chan d c h := by simp only [chan_putChan_same, h]

theorem becalmed_undriven (i : Nat) : Undriven i becalmed where
  hsOn _ _ := rfl
  lpOn _ _ := rfl
  slow _ _ := rfl
  eye _ _ := rfl
  chan _ _ _ := rfl

theorem ready_undriven {i : Nat} (hi : i < 32) : Undriven i (fun d => d.rb (drvStat i) F.fchDrvStatReady) where
  hsOn d v := by rw [drvStat_fast hi, rb_wf_apart _ _ _ _ _ rfl rfl]
  lpOn d v := by rw [drvStat_fast hi, rb_wf_apart _ _ _ _ _ rfl rfl]
  slow _ _ := rb_congr (get_cnt_ne _ _ _ (drvStat_ne_fchDrvCnt i i)) _
  eye _ _ := rb_wf_ne _ _ _ _ (drvStat_ne_fchEyeStat i i)
  chan _ _ _ := rfl

theorem readied_ready (d : Dev) (i : Nat) : (d.readied i).rb (drvStat i) F.fchDrvStatReady = true := by
  rw [readied, rb_wf_same _ _ _ _ rfl (by decide)]
  rfl

theorem readied_phase (d : Dev) (i : Nat) : ((d.readied i).chan i).phase = 2 := congrArg Chan.phase (chan_putChan_same d i _)

theorem readied_get (d : Dev) (i : Nat) {a : Nat} (h : a ≠ drvStat i) : (d.readied i).get a = d.get a := get_wf_ne _ _ _ h

theorem readied_becalmed (d : Dev) (i : Nat) : (d.readied i).becalmed = d.becalmed := rfl

/-- A disabled engine does not go on (R338). -/
theorem kick_disabled {d : Dev} {p e : Nat} (h : d.sbOn p e = false) : d.kick p e = d := by
  unfold kick sbKick
  rw [if_pos (by simp [sbLive, h])]

theorem sbReadyKick_disabled {d : Dev} {p : Nat} (h : ∀ e < 3, d.sbOn p e = false) : d.sbReadyKick p = d := by
  rw [sbReadyKick, kick_disabled (h 0 (by decide)), kick_disabled (h 1 (by decide)), kick_disabled (h 2 (by decide))]

/-- `ENABLE` of a page is no register of a channel's driver. -/
theorem channelReady_sbOn {d : Dev} {i : Nat} (hon : d.chOnline i = true) (hphase : (d.chan i).phase = 1) (p e : Nat) :
    (d.channelReady i).sbOn p e = d.sbOn p e := by
  have hoff := pctl_off (sbPage p e)
  have hdrv : pctl (sbPage p e) ≠ R.fchDrvStat i := by unfold R.fchDrvStat fchPage; omega
  have heye : pctl (sbPage p e) ≠ R.fchEyeStat i := by unfold R.fchEyeStat fchPage; omega
  have hcnt : pctl (sbPage p e) ≠ R.fchDrvCnt i := by unfold R.fchDrvCnt fchPage; omega
  exact rb_congr ((channelReady_undriven (fun _ => get_undriven hdrv heye hcnt) hon hphase).trans (readied_get d i (pctl_ne_drvStat _ i))) _

/-! ### The disable sequence ends -/

/-- A channel that is off (R246, R247). -/
def switchedOff (d : Dev) (i : Nat) : Dev :=
  d.putChan i { d.chan i with phase := 0, offAt := none, driven := false, on := false, edges := [], stbs := [], term := false }

theorem disableEnd_eq {d : Dev} {i : Nat} (hi : i < 96) (h : (d.chan i).phase = 3 ∨ (d.chan i).phase = 4) :
    d.disableEnd i = (if (d.chan i).offAt.isSome then d.chFall i else d).switchedOff i :=
  if_neg (by omega)

theorem switchedOff_chan (d : Dev) (i : Nat) : (d.switchedOff i).chan i =
    { d.chan i with phase := 0, offAt := none, driven := false, on := false, edges := [], stbs := [], term := false } := chan_putChan_same _ _ _

theorem switchedOff_get (d : Dev) (i a : Nat) : (d.switchedOff i).get a = d.get a := rfl

/-- What the driver lets go of before it is off is shown in its own registers. -/
theorem disableEnd_unshown {L : List Nat} {γ : Type} {g : Dev → γ} (hg : Unshown L g) (hoff : ∀ x : Dev, g (x.switchedOff i) = g x) {d : Dev}
    (hi : i < 96) (h : (d.chan i).phase = 3 ∨ (d.chan i).phase = 4) (hd : drvStat i ∈ L) (he : R.fchEyeStat i ∈ L) :
    g (d.disableEnd i) = g d := by
  rw [disableEnd_eq hi h, hoff]
  split
  · exact chFall_unshown hg d i hd he
  · rfl

end Dev
end Sys2Proof.Machine
end

section
/-! PROOFS. The statement on channels: the enable and disable sequences. -/
namespace Sys2Proof.Machine
open Dev (drvStat lvlStat judgedRegs)

/-- A write of a channel's `PAGE_CTRL` that resets nothing and that no test turns away. -/
theorem writeBy_enable (path : Fin 7) (i : Fin 96) (w : Word) (s : State) {on : Bool} (h : s.dev.takesCtrl path (Dev.chPage i) w.toNat = true)
    (hreset : nbit w.toNat 1 = false) (hon : nbit w.toNat 0 = on) : writeBy path (pctl (Dev.chPage i)) w s =
      .next { s with dev := (s.dev.judged (Dev.chPage i) (fun x => x.enableWritten i on)).1 } := by
  rw [← hon, ← Dev.arrives_enable s.vault noOut path s.dev i.isLt h hreset]
  rfl

theorem exec_channelEnable (path : Fin 7) (i : Fin 96) (w : Word) (s : State) :
    exec (.channelEnable path i w) s = writeBy path (pctl (Dev.chPage i)) w s := rfl

theorem exec_channelDisable (path : Fin 7) (i : Fin 96) (w : Word) (s : State) :
    exec (.channelDisable path i w) s = writeBy path (pctl (Dev.chPage i)) w s := rfl

/-- `ENABLE` = 1 on a channel that is off (R245, R247, R254). -/
theorem channelEnable_begins (path : Fin 7) (i : Fin 96) (w : Word) (s : State)
    (ht : s.dev.takesCtrl path (Dev.chPage i) w.toNat = true) (hw : nbits w.toNat 1 0 = 1) (hr : s.dev.noReact Ev.capOver = true)
    (hphase : (s.dev.chan i).phase = 0) (hok : s.dev.enableOk i = true) : ∃ t, exec (.channelEnable path i w) s = .next t ∧
      t.dev.rb (pctl (Dev.chPage i)) F.ctlEnable = true ∧ t.dev.rb (drvStat i) F.fchDrvStatSafe = false ∧ (t.dev.chan i).phase = 1 ∧
      (t.dev.lvl i).follow = true ∧ t.dev.rb (drvStat i) F.fchDrvStatReady = s.dev.rb (drvStat i) F.fchDrvStatReady ∧
      t.dev.sameQuiet s.dev [pctl (Dev.chPage i), drvStat i, lvlStat i, R.glbProfile, pstat (Dev.chPage i)] ∧
      t.dev = { s.dev with regs := t.dev.regs, chans := t.dev.chans, lvls := t.dev.lvls, fresh := t.dev.fresh, evt := t.dev.evt,
                           sram := t.dev.sram, hostMem := t.dev.hostMem, hif := t.dev.hif, seq := t.dev.seq, acq := t.dev.acq } := by
  have h0 : nbit w.toNat 0 = true := by rw [nbit, Nat.testBit_zero]; unfold nbits at hw; simp; omega
  have h1 : nbit w.toNat 1 = false := by rw [nbit, Nat.testBit_succ, Nat.testBit_zero]; unfold nbits at hw; simp; omega
  have hview : ∀ {γ : Type} {g : Dev → γ}, Dev.Unshown (lvlStat i :: judgedRegs i) g →
      (∀ (x : Dev) (n : Nat), g { x with fresh := n } = g x) →
      g (s.dev.judged (Dev.chPage i) (fun x => x.enableWritten i true)).1 = g ((s.dev.cleared (Dev.chPage i)).enabling i) :=
    fun hg hfresh => Dev.enableWritten_unshown hg hfresh hr hphase hok
  have hctl := hview (Dev.get_unshown (Dev.pctl_chPage_not_mem_noteRegs i) (Dev.pctl_apart i)) (fun _ _ => rfl)
  have hdrv := hview (Dev.get_unshown (Dev.drvStat_not_mem_noteRegs i) (Dev.drvStat_apart i)) (fun _ _ => rfl)
  refine ⟨_, (exec_channelEnable path i w s).trans (writeBy_enable path i w s ht h1 h0), ?_, ?_, ?_, ?_, ?_, ?_, ?_⟩
  · exact (Dev.rb_congr hctl _).trans (Dev.enabling_enable _ _)
  · exact (Dev.rb_congr hdrv _).trans (Dev.enabling_safe _ _)
  · exact (congrArg Chan.phase (hview (Dev.chan_unshown _ i) (fun _ _ => rfl))).trans (Dev.enabling_phase _ _)
  · exact (hview (Dev.follow_unshown _ i) (fun _ _ => rfl)).trans (Dev.enabling_follow _ _)
  · exact (Dev.rb_congr hdrv _).trans ((Dev.enabling_ready _ _).trans (Dev.rb_wf_ne _ _ _ _ (Dev.drvStat_ne_pstat _ _)))
  · intro a hq ha
    simp only [List.mem_cons, List.not_mem_nil, or_false, not_or] at ha
    obtain ⟨hpctl, hdrvStat, hlvlStat, hglb, hpstat⟩ := ha
    have hL : a ∉ lvlStat i :: judgedRegs i := by simp [hlvlStat, hglb, hpstat, Dev.ne_uchPmuStat_of_quiet i.isLt hq]
    rw [hview (Dev.get_unshown (Dev.not_mem_noteRegs_of_quiet hq) hL) (fun _ _ => rfl), Dev.enabling_get _ _ hpctl hdrvStat, Dev.cleared,
      Dev.get_wf_ne _ _ _ hpstat]
  · exact Dev.frame_of_unburnt ((hview (Dev.unburnt_unshown _) (fun _ _ => rfl)).trans (Dev.enabling_unburnt _ _))

/-- READY rises (R245). -/
theorem channelReady_rises (i : Fin 96) (s : State) (hon : s.dev.chOnline i = true) (hphase : (s.dev.chan i).phase = 1)
    (hsb : ∀ e : Fin 4, s.dev.sbOn (Dev.chPort i) e = false) : ∃ t, exec (.channelReady i) s = .next t ∧
      (t.dev.chan i).phase = 2 ∧ t.dev.rb (drvStat i) F.fchDrvStatReady = true ∧
      t.dev.sameQuiet s.dev [drvStat i, R.fchEyeStat i, R.fchDrvCnt i] ∧
      t.dev = { s.dev with regs := t.dev.regs, chans := t.dev.chans, evt := t.dev.evt, sram := t.dev.sram, hostMem := t.dev.hostMem,
                           hif := t.dev.hif, seq := t.dev.seq, lvls := t.dev.lvls, acq := t.dev.acq } := by
  have hkick : (s.dev.channelReady i).sbReadyKick (Dev.chPort i) = s.dev.channelReady i :=
    Dev.sbReadyKick_disabled (fun e he => (Dev.channelReady_sbOn hon hphase _ e).trans (hsb ⟨e, by omega⟩))
  have hexec : exec (.channelReady i) s = .next { s with dev := s.dev.channelReady i } := by
    rw [← hkick]
    rfl
  refine ⟨_, hexec, ?_, ?_, ?_, ?_⟩
  · exact (Dev.channelReady_undriven (fun _ => Dev.phase_undriven i) hon hphase).trans (Dev.readied_phase _ _)
  · exact (Dev.channelReady_undriven Dev.ready_undriven hon hphase).trans (Dev.readied_ready _ _)
  · intro a hq ha
    simp only [List.mem_cons, List.not_mem_nil, or_false, not_or] at ha
    obtain ⟨hdrv, heye, hcnt⟩ := ha
    have hview : i.val < 32 → Dev.Undriven i (fun d => d.get a) := fun hi => Dev.get_undriven (Dev.drvStat_fast hi ▸ hdrv) heye hcnt
    exact (Dev.channelReady_undriven hview hon hphase).trans (Dev.readied_get _ _ hdrv)
  · exact Dev.frame_of_becalmed ((Dev.channelReady_undriven (fun _ => Dev.becalmed_undriven i) hon hphase).trans (Dev.readied_becalmed _ _))

/-- `ENABLE` = 0 while the port launches nothing: the driver lets go at once (R246, R248). -/
theorem channelDisable_idle (path : Fin 7) (i : Fin 96) (w : Word) (s : State) (ht : s.dev.takesCtrl path (Dev.chPage i) w.toNat = true)
    (hw : w = 0) (hr : s.dev.noReact Ev.capOver = true) (hen : s.dev.rb (pctl (Dev.chPage i)) F.ctlEnable = true)
    (hphase : (s.dev.chan i).phase = 2) (hport : (s.dev.seqOf (Dev.chPort i)).tref = false) : ∃ t, exec (.channelDisable path i w) s = .next t ∧
      t.dev.rb (pctl (Dev.chPage i)) F.ctlEnable = false ∧ (t.dev.chan i).phase = 3 ∧ (t.dev.chan i).offAt = none ∧
      t.dev.rb (drvStat i) F.fchDrvStatReady = false ∧
      t.dev.sameQuiet s.dev [pctl (Dev.chPage i), drvStat i, R.fchEyeStat i, R.uchPmuStat (i.val - 32), R.glbProfile, pstat (Dev.chPage i)] ∧
      t.dev = { s.dev with regs := t.dev.regs, chans := t.dev.chans, lvls := t.dev.lvls, evt := t.dev.evt, sram := t.dev.sram,
                           hostMem := t.dev.hostMem, hif := t.dev.hif, seq := t.dev.seq, acq := t.dev.acq } := by
  have hview : ∀ {γ : Type} {g : Dev → γ}, Dev.Unshown (judgedRegs i) g →
      g (s.dev.judged (Dev.chPage i) (fun x => x.enableWritten i false)).1 = g ((s.dev.cleared (Dev.chPage i)).falling i) :=
    fun hg => Dev.disableWritten_unshown hg ((Dev.falling_noReact _ _ _).trans hr) hen (Dev.chDisable_idle hphase hport)
  have hchan := (hview (Dev.chan_unshown _ i)).trans (Dev.falling_chan _ _)
  subst hw
  refine ⟨_, (exec_channelDisable path i 0 s).trans (writeBy_enable path i 0 s (on := false) ht rfl rfl), ?_, congrArg Chan.phase hchan,
    congrArg Chan.offAt hchan, ?_, ?_, ?_⟩
  · have hctl := hview (Dev.get_unshown (Dev.pctl_chPage_not_mem_noteRegs i) (Dev.pctl_not_mem_judgedRegs i))
    exact (Dev.rb_congr hctl _).trans (Dev.falling_enable _ _)
  · have hdrv := hview (Dev.get_unshown (Dev.drvStat_not_mem_noteRegs i) (Dev.drvStat_not_mem_judgedRegs i))
    exact (Dev.rb_congr hdrv _).trans (Dev.chFall_ready _ _)
  · intro a hq ha
    simp only [List.mem_cons, List.not_mem_nil, or_false, not_or] at ha
    obtain ⟨hpctl, hdrv, heye, hpmu, hglb, hpstat⟩ := ha
    rw [hview (Dev.get_unshown (Dev.not_mem_noteRegs_of_quiet hq) (by simp [hpmu, hglb, hpstat])), Dev.falling_get _ _ hq hpctl hdrv heye,
      Dev.cleared, Dev.get_wf_ne _ _ _ hpstat]
  · exact Dev.frame_of_becalmed ((hview (Dev.becalmed_unshown _)).trans (Dev.falling_becalmed _ _))

/-- `ENABLE` = 0 while the port launches: READY falls at a boundary, and stands until then (R246, R248). -/
theorem channelDisable_launching (path : Fin 7) (i : Fin 96) (w : Word) (s : State) (ht : s.dev.takesCtrl path (Dev.chPage i) w.toNat = true)
    (hw : w = 0) (hr : s.dev.noReact Ev.capOver = true) (hen : s.dev.rb (pctl (Dev.chPage i)) F.ctlEnable = true)
    (hphase : (s.dev.chan i).phase = 2) (hport : (s.dev.seqOf (Dev.chPort i)).tref = true) : ∃ t, exec (.channelDisable path i w) s = .next t ∧
      t.dev.rb (pctl (Dev.chPage i)) F.ctlEnable = false ∧ (t.dev.chan i).phase = 3 ∧
      (t.dev.chan i).offAt = some (s.dev.boundAt (Dev.chPort i) (s.dev.seqOf (Dev.chPort i)).ts (s.dev.now + 4194304)) ∧
      t.dev.rb (drvStat i) F.fchDrvStatReady = s.dev.rb (drvStat i) F.fchDrvStatReady ∧
      t.dev.sameQuiet s.dev [pctl (Dev.chPage i), R.uchPmuStat (i.val - 32), R.glbProfile, pstat (Dev.chPage i)] ∧
      t.dev = { s.dev with regs := t.dev.regs, chans := t.dev.chans, lvls := t.dev.lvls, evt := t.dev.evt, sram := t.dev.sram,
                           hostMem := t.dev.hostMem, hif := t.dev.hif, seq := t.dev.seq, acq := t.dev.acq } := by
  have hat : (s.dev.cleared (Dev.chPage i)).disableAt i = s.dev.disableAt i := Dev.disableAt_wf _ _ _ _ _
  have hview : ∀ {γ : Type} {g : Dev → γ}, Dev.Unshown (judgedRegs i) g →
      g (s.dev.judged (Dev.chPage i) (fun x => x.enableWritten i false)).1 =
        g ((s.dev.cleared (Dev.chPage i)).disabling i (some (s.dev.disableAt i))) :=
    fun hg => Dev.disableWritten_unshown hg hr hen (hat ▸ Dev.chDisable_launching hphase hport)
  have hchan := (hview (Dev.chan_unshown _ i)).trans (Dev.disabling_chan _ _ _)
  subst hw
  refine ⟨_, (exec_channelDisable path i 0 s).trans (writeBy_enable path i 0 s (on := false) ht rfl rfl), ?_, congrArg Chan.phase hchan,
    congrArg Chan.offAt hchan, ?_, ?_, ?_⟩
  · have hctl := hview (Dev.get_unshown (Dev.pctl_chPage_not_mem_noteRegs i) (Dev.pctl_not_mem_judgedRegs i))
    exact (Dev.rb_congr hctl _).trans (Dev.disabling_enable _ _ _)
  · have hdrv := hview (Dev.get_unshown (Dev.drvStat_not_mem_noteRegs i) (Dev.drvStat_not_mem_judgedRegs i))
    have hstand := Dev.disabling_get (s.dev.cleared (Dev.chPage i)) i (some (s.dev.disableAt i)) (Dev.pctl_ne_drvStat _ i).symm
    exact (Dev.rb_congr (hdrv.trans hstand) _).trans (Dev.rb_wf_ne _ _ _ _ (Dev.drvStat_ne_pstat _ _))
  · intro a hq ha
    simp only [List.mem_cons, List.not_mem_nil, or_false, not_or] at ha
    obtain ⟨hpctl, hpmu, hglb, hpstat⟩ := ha
    rw [hview (Dev.get_unshown (Dev.not_mem_noteRegs_of_quiet hq) (by simp [hpmu, hglb, hpstat])), Dev.disabling_get _ _ _ hpctl, Dev.cleared,
      Dev.get_wf_ne _ _ _ hpstat]
  · exact Dev.frame_of_becalmed ((hview (Dev.becalmed_unshown _)).trans (Dev.disabling_becalmed _ _ _))

/-- The disable sequence ends with the channel off (R246, R247). -/
theorem disableSequenceEnd_ends (i : Fin 96) (s : State) (hphase : (s.dev.chan i).phase = 3 ∨ (s.dev.chan i).phase = 4) :
    ∃ t, exec (.disableSequenceEnd i) s = .next t ∧
      (t.dev.chan i).phase = 0 ∧ (t.dev.chan i).offAt = none ∧ (t.dev.chan i).driven = false ∧
      ((s.dev.chan i).offAt = none ∨ t.dev.rb (drvStat i) F.fchDrvStatReady = false) ∧
      t.dev.sameQuiet s.dev [drvStat i, R.fchEyeStat i] ∧
      t.dev = { s.dev with regs := t.dev.regs, chans := t.dev.chans, evt := t.dev.evt, sram := t.dev.sram, hostMem := t.dev.hostMem,
                           hif := t.dev.hif, seq := t.dev.seq, lvls := t.dev.lvls, acq := t.dev.acq } := by
  have heq := Dev.disableEnd_eq i.isLt hphase
  have hchan := (congrArg (Dev.chan · i) heq).trans (Dev.switchedOff_chan _ _)
  refine ⟨{ s with dev := s.dev.disableEnd i }, rfl, congrArg Chan.phase hchan, congrArg Chan.offAt hchan, congrArg Chan.driven hchan,
    ?_, ?_, ?_⟩
  · cases hoff : (s.dev.chan i).offAt with
    | none => exact .inl rfl
    | some x =>
      rw [hoff, if_pos Option.isSome_some] at heq
      refine .inr ((congrArg (Dev.rb · (drvStat i) F.fchDrvStatReady) heq).trans ?_)
      exact (Dev.rb_congr (Dev.switchedOff_get _ _ _) _).trans (Dev.chFall_ready _ _)
  · intro a hq ha
    exact Dev.disableEnd_unshown (Dev.get_unshown (Dev.not_mem_noteRegs_of_quiet hq) ha) (fun _ => rfl) i.isLt hphase (by simp) (by simp)
  · exact Dev.frame_of_becalmed (Dev.disableEnd_unshown (Dev.becalmed_unshown [drvStat i, R.fchEyeStat i]) (fun _ => rfl) i.isLt hphase
      (by simp) (by simp))

/-- Settles O37: each command begins or ends its sequence, and beyond that moves levels, judges the channel's PMU and the aggregate, and shows
the driver. -/
theorem channelsEnableAndDisableInSequence : Obligations.ChannelsEnableAndDisableInSequence :=
  ⟨channelEnable_begins, channelReady_rises, channelDisable_idle, channelDisable_launching, disableSequenceEnd_ends⟩

end Sys2Proof.Machine
end

section
/-! PROOFS. The family of the levels and the PMU: two statements that fail.  One has a clause whose premises leave open by which path a write
comes; the other has a clause with an event and no premise on reactions, whose frame leaves out the record of the pattern generator, as
those of the architecture family do. -/
namespace Sys2Proof.Machine

/-! ### A PMU write on the path of a sequencer -/

/-- Port A launches and decodes at the present tick, which is an ACLK edge.  Utility channel 0 belongs to its PMU and is enabled, and the PMU
is off. -/
def decodingState : State where
  __ := State.reset
  dev := { (((((Dev.reset.setN R.bootStat 0x1100000D).setN (R.seqStat 0) 0x20000000).setN (R.prtUcown0 0) 0x88888888).wf (pctl 0x240)
      F.ctlEnable 1).setN (R.uchPmuCtrl 0) 0x400A4000).setLive (R.uchPmuCtrl 0) 0x400A4000 with
    counting := true
    gtc := 131072000#80
    boot := { Boot.reset with done := 13, runs := [], keeperOn := true }
    hif := { Hif.reset with linkUp := true, linkWasUp := true }
    seq := [(0, { Seq.reset with fe := .run, decoded := 131072000, tref := true })] }

/-- A host's STOP at the same tick leaves the port IDLE (R157); the instant of its latest decode stands. -/
def stoppedAtDecodeState : State := afterAll decodingState [.registerWrite 0 ⟨R.seqCtrl 0, by decide⟩ 2#32 15 noOut]

/-- FV, in the reset range, for the PMU of channel 0, on the path of port A's sequencer. -/
def forceOnSequencerPath : Sys2Proof.Instr := .pmuCtrlWrite 3 0 0x410A4000#32

/-- The write takes effect at the HCLK edge after the decode (R138), so that the switch closes 2 µs after the ACLK edge that follows that
edge: one ACLK cycle later than counted from the present tick. -/
theorem closeAt_of_forceOnSequencerPath {t : State} (ht : exec forceOnSequencerPath stoppedAtDecodeState = .next t) :
    (t.dev.lvl 32).closeAt = some (stoppedAtDecodeState.dev.edgeAt Dev.aclk stoppedAtDecodeState.dev.now + Dev.aclk + 2 * Dev.usTicks) := by
  change onDev (Dev.arrives stoppedAtDecodeState.vault noOut 3 (R.uchPmuCtrl 0) 0x410A4000) stoppedAtDecodeState = .next t at ht
  obtain ⟨hdev, -, -⟩ := onDev_frame _ _ _ ht
  rw [hdev]
  decide +kernel

/-- Refutes O40, by its first clause: the clause counts the 2 µs from the present tick, and the model from the instant at which the write
takes effect, which on a sequencer's path is the HCLK edge after the decode (R138). -/
theorem not_pmusForceMeasureRangesAndFaults : ¬ Obligations.PmusForceMeasureRangesAndFaults := by
  rintro ⟨hforce, -⟩
  obtain ⟨t, ht, -, hclose, -⟩ := hforce 3 0 0x410A4000#32 stoppedAtDecodeState (by decide +kernel) (by decide +kernel) (by decide +kernel)
    (by decide +kernel) (by decide +kernel) (by decide) (by decide +kernel) (by decide +kernel)
  exact absurd ((closeAt_of_forceOnSequencerPath ht).symm.trans hclose) (by decide +kernel)

/-! ### The end of a scan -/

/-- Port A scans entry 0, which `MEAS_CTRL` gives as the last one of a single scan (`LAST` 0, `CONT` 0), and its generator produces. -/
def lastEntryState : State where
  __ := State.reset
  dev := ((generatingDev (Ev.measDone 0)).wf (R.measStat 0) F.measStatState 1).setN (R.measCtrl 0) 0

/-- The last entry ends the scan, which raises MEAS_DONE (R267). -/
theorem measEntryDone_cutsGenerator : cutsGenerator (.measEntryDone 0 0 false) lastEntryState = true := by decide +kernel

/-- Refutes O45, by its fifth clause: the end of a scan raises MEAS_DONE, for which the clause asks no `noReact`; its STOP_PORT cuts the running
generator's segment, and the clause's frame keeps `apg`. -/
theorem not_measurementScansAndTheCalibrationBus : ¬ Obligations.MeasurementScansAndTheCalibrationBus := by
  rintro ⟨-, -, -, -, hlast, -⟩
  obtain ⟨t, ht, -, -, -, -, -, -, hframe⟩ := hlast 0 0 0 false lastEntryState (by decide +kernel) rfl (by decide +kernel)
    (by decide +kernel) (by decide +kernel) (by decide +kernel)
  exact apg_ne_of_cutsGenerator measEntryDone_cutsGenerator ht (congrArg Dev.apg hframe :)

end Sys2Proof.Machine
end

section
/-! PROOFS. The family of the compares and the fail processor: three statements that fail.  Each has a clause with an event and no premise on
reactions, whose frame leaves out the record of the pattern generator, as those of the architecture family do. -/
namespace Sys2Proof.Machine

/-! ### The first failing vector -/

/-- A compare of pin 0 in mode EDGE that expects a 1; S0 strobes (R279). -/
def edgePin : PinJob where
  pin := 0
  stb := 1
  cst := 1
  at_ := 0
  at3 := 0
  cmp := true
  mode := 0
  exp := 1
  useV := false
  part := true
  slip := false
  back := false
  tag := none

/-- A program vector with the one compare `edgePin`, which records nothing and belongs to no decoded group. -/
def edgeVector : CmpJob where
  n := 0
  t := 0
  a := 0
  seg := 0
  prog := true
  pc := 0
  ofs := 0
  beat := 0
  ts := 0
  cmask := 1
  rx := none
  pins := [edgePin]
  dec := []

/-- Port A has launched `edgeVector`, `FLP_PINMASK` judges its pin, no fail has been recorded, and FAIL_FIRST stops the port. -/
def firstFailState : State where
  __ := State.reset
  dev := ((generatingDev (Ev.failFirst 0)).putFlp 0 { Flp.reset with jobs := [edgeVector] }).setN (R.flpPinmask 0) 1

/-- The pin samples 0 where 1 is expected: the first failing vector raises FAIL_FIRST (R296). -/
theorem compareResult_cutsGenerator : cutsGenerator (.compareResult 0 (List.replicate 8 0) []) firstFailState = true := by decide +kernel

/-- Refutes O42, by its first clause: the first vector that fails unmasked raises FAIL_FIRST, for which the clause asks no `noReact`; its
STOP_PORT cuts the running generator's segment, and the clause's frame keeps `apg`. -/
theorem not_compareResultsReachCountersAndTheCdr : ¬ Obligations.CompareResultsReachCountersAndTheCdr := by
  rintro ⟨hcompare, -⟩
  obtain ⟨t, ht, -, -, -, -, -, -, -, -, -, hframe⟩ := hcompare 0 0 edgeVector edgePin [] firstFailState (by decide +kernel) (by decide +kernel)
    rfl rfl rfl rfl (by decide) rfl rfl rfl rfl (by decide +kernel) (by decide +kernel)
  exact apg_ne_of_cutsGenerator compareResult_cutsGenerator ht (congrArg Dev.apg hframe :)

/-! ### A full fail log -/

/-- A FAIL record of pin 0 (Table 10-5). -/
def failRecord : List Nat := [0x10000001, 0, 0, 0, 0, 0, 0, 0]

/-- The ring of port A holds 128 records that the host has not read, as many as fit where `FLP_LOG_LEN` has its reset value 1; `LOG_POL` is 1,
one more record is staged, and FLOG_FULL stops the port. -/
def fullLogState : State where
  __ := State.reset
  dev := (((generatingDev (Ev.flogFull 0)).putFlp 0 { Flp.reset with staged := [failRecord] }).setN (R.flpLogWptr 0) 128).wf (R.flpCtrl 0)
    F.flpCtrlLogPol 1

/-- The record that the full ring loses begins the condition FLOG_FULL (R298). -/
theorem failLogWrite_cutsGenerator : cutsGenerator (.failLogWrite 0) fullLogState = true := by decide +kernel

/-- Refutes O43, by its eighth clause: a ring that is full under LOG_POL = 1 raises FLOG_FULL, for which the clause asks no `noReact`; its
STOP_PORT cuts the running generator's segment, and the clause's frame keeps `apg`. -/
theorem not_failCountersLogAndBitmapAreKept : ¬ Obligations.FailCountersLogAndBitmapAreKept := by
  rintro ⟨-, -, -, -, -, -, -, hfull, -⟩
  obtain ⟨t, ht, -, -, -, -, -, hframe⟩ := hfull 0 failRecord [] fullLogState (by decide +kernel) (by decide) (by decide +kernel)
    (by decide +kernel)
  exact apg_ne_of_cutsGenerator failLogWrite_cutsGenerator ht (congrArg Dev.apg hframe :)

/-! ### The end of an eye scan -/

/-- Channel 0 is ready on a port that launches, and one controller has DRAM behind the row's place; EYE_DONE stops port A. -/
def eyeReadyDev : Dev where
  __ := generatingDev (Ev.eyeDone 0)
    |>.wf (R.fchDrvStat 0) F.fchDrvStatReady 1
    |>.wf (R.mcStat 0) F.mcStatRanks 1
    |>.setN R.mcgCch 65536
    |>.setN R.mcgCap 65536
  seq := [(0, { Seq.reset with tref := true })]

/-- Channel 0 is SCANNING at the last column of row 0 (`FCH_EYE_N`: NT 16, NV 2), the dwell of that point is complete, and a STOP waits for the
end of the row (R294). -/
def lastColumnState : State where
  __ := State.reset
  dev := eyeReadyDev.setN (R.fchEyeDwell 0) 5
    |>.setN (R.fchEyeN 0) 0x20010
    |>.setN (R.fchEyeBaseLo 0) 0x40000
    |>.wf (R.fchEyeStat 0) F.fchEyeStatState 1
    |>.wf (R.fchEyeStat 0) F.fchEyeStatCol 15
    |>.putChan 0 { Chan.reset with eye := { samples := 5, count := 2, stopping := true } }

/-- The scan that STOP ends raises EYE_DONE (R294). -/
theorem eyePointDone_cutsGenerator : cutsGenerator (.eyePointDone 0 false) lastColumnState = true := by decide +kernel

/-- Refutes O44, by its fifth clause: the end of a scan raises EYE_DONE, for which the clause asks no `noReact`; its STOP_PORT cuts the running
generator's segment, and the clause's frame keeps `apg`. -/
theorem not_theEyeMonitorScansAndStops : ¬ Obligations.TheEyeMonitorScansAndStops := by
  rintro ⟨-, -, -, -, hend⟩
  obtain ⟨t, ht, -, -, -, -, hframe⟩ := hend 0 lastColumnState (by decide +kernel) (by decide +kernel) (by decide +kernel) (by decide +kernel)
    (by decide +kernel) (by decide +kernel) (by decide +kernel) (by decide +kernel) (by decide +kernel)
  exact apg_ne_of_cutsGenerator eyePointDone_cutsGenerator ht (congrArg Dev.apg hframe :)

end Sys2Proof.Machine
end

section
/-! PROOFS. The acquisition family: two statements that fail.  One has a clause that asks nothing of the reserved bits of the register it writes,
the other a clause with an event and no premise on reactions, whose frame leaves out the record of the pattern generator. -/
namespace Sys2Proof.Machine

/-! ### A claim of balls beside a reserved bit -/

/-- A started block in which `TRG_OUT` of port A holds its reset value 0x08000000 and the reserved bit 4 (11, field table of `TRG_OUT`).  That
commands reach such a word is not claimed, but the clause's premise holds in it. -/
def reservedTrgOutBitState : State where
  __ := State.reset
  dev := { Dev.reset with
    boot := { Boot.reset with done := 13, runs := [], keeperOn := true }
    hif := { Hif.reset with linkUp := true, linkWasUp := true }
    regs := [(R.bootStat, 0x1100000D#32), (R.trgOut 0, 0x08000010#32)] }

/-- A claim of ball 1 with source ARMED for ball 0 and pulses of five cycles changes no reserved bit (R5). -/
theorem trgOutWrite_keeps_reservedBit {t : State} (ht : exec (.trgOutWrite 0 0 0x05000102#32) reservedTrgOutBitState = .next t) :
    t.dev.get (R.trgOut (0 : Fin 4)) = 0x05000112#32 := by
  change onDev (Dev.arrives reservedTrgOutBitState.vault noOut 0 (R.trgOut 0) 0x05000102) reservedTrgOutBitState = .next t at ht
  obtain ⟨hdev, -, -⟩ := onDev_frame _ _ _ ht
  rw [hdev]
  decide +kernel

/-- Refutes O47, by its eighth clause: the clause does not ask that the reserved bits of `TRG_OUT` read 0, and a write leaves them as they stood,
so that the register reads 0x05000112 after a write of 0x05000102. -/
theorem not_acquisitionIsArmedForcedFrozenAndWritten : ¬ Obligations.AcquisitionIsArmedForcedFrozenAndWritten := by
  rintro ⟨-, -, -, -, -, -, -, hout⟩
  obtain ⟨t, ht, hword, -⟩ := hout 0 0 0x05000102#32 reservedTrgOutBitState (by decide +kernel)
  exact absurd ((trgOutWrite_keeps_reservedBit ht).symm.trans hword) (by decide)

/-! ### A mask violation that stops its port -/

/-- A violation of the eye mask in sample 77 of channel 5: at voltage step 4 and time step 9 the count reaches 3 (R328, Table 11-7). -/
def eyeViolation : MskViol where
  n := 77
  t := 123456
  a := 130000
  stream := false
  ch := 5
  pos := 0x40009
  data := 0
  count := 3

/-- The violation waits for its decision on port A, `MSK_STAT` shows none, `STOP_ACT` is 0, and the event MSK_VIOL stops the port. -/
def violatedMaskState : State where
  __ := State.reset
  dev := (generatingDev (Ev.mskViol 0)).putFlp 0 { Flp.reset with viols := [eyeViolation] }

/-- The decision of the violation raises MSK_VIOL (R330). -/
theorem mskViolDecision_cutsGenerator : cutsGenerator (.mskViolDecision 0) violatedMaskState = true := by decide +kernel

/-- Refutes O48, by its first clause: a mask violation raises MSK_VIOL, for which the clause asks no `noReact`; its STOP_PORT cuts the running
generator's segment, and the clause's frame keeps `apg`. -/
theorem not_maskViolationsAreShownAndCleared : ¬ Obligations.MaskViolationsAreShownAndCleared := by
  rintro ⟨hshown, -⟩
  obtain ⟨t, ht, -, -, -, -, -, -, -, -, -, -, -, -, hframe⟩ := hshown 0 eyeViolation [] violatedMaskState (by decide +kernel) (by decide)
    (by decide +kernel) (by decide +kernel)
  exact apg_ne_of_cutsGenerator mskViolDecision_cutsGenerator ht (congrArg Dev.apg hframe :)

end Sys2Proof.Machine
end

section
/-! PROOFS. The fuses and the queue: what a command may change of the state beside the device, and so of the fuses and of the queue. -/
namespace Sys2Proof.Machine

/-! ### Commands change the device, and two of them the fuses -/

/-- Every command but the two that blow a fuse changes the device alone. -/
theorem exec_changes_device_alone (c : Sys2Proof.Instr) (s : State) (hseason : c ≠ .seasonChangeDone) (hwipe : c ≠ .tamperWipeDone) :
    ∃ e : Dev, exec c s = .next { s with dev := e } := by
  cases c with
  | seasonChangeDone => exact absurd rfl hseason
  | tamperWipeDone => exact absurd rfl hwipe
  | registerWrite path a w be out =>
    change ∃ e, execRegisterWrite path a w be out s = _
    unfold execRegisterWrite
    split <;> exact ⟨_, rfl⟩
  | msixUnmask fn path v w => cases fn <;> exact ⟨_, rfl⟩
  | _ => exact ⟨_, rfl⟩

/-- SEASON_CHANGE_DONE blows the fuse of the season that a change is under way to, and none where there is no change. -/
theorem exec_seasonChangeDone_vault (s : State) : ∃ t, exec .seasonChangeDone s = .next t ∧ t.pending = s.pending ∧
    (t.vault = s.vault ∨ ∃ code, t.vault = s.vault.blow code) := by
  change ∃ t, execSeasonChangeDone s = .next t ∧ _
  unfold execSeasonChangeDone
  split
  · exact ⟨_, rfl, rfl, .inl rfl⟩
  · exact ⟨_, rfl, rfl, .inr ⟨_, rfl⟩⟩

/-- TAMPER_WIPE_DONE blows the next tamper fuse while a wipe is under way. -/
theorem exec_tamperWipeDone_vault (s : State) : ∃ t, exec .tamperWipeDone s = .next t ∧ t.pending = s.pending ∧
    (t.vault = s.vault ∨ t.vault = s.vault.blowTamper) := by
  change ∃ t, execTamperWipeDone s = .next t ∧ _
  unfold execTamperWipeDone
  split
  · exact ⟨_, rfl, rfl, .inr rfl⟩
  · exact ⟨_, rfl, rfl, .inl rfl⟩

/-- What a command can do to the fuses, and that the waiting commands stand. -/
theorem exec_vault (c : Sys2Proof.Instr) (s : State) : ∃ t, exec c s = .next t ∧ t.pending = s.pending ∧
    (t.vault = s.vault ∨ (∃ code, t.vault = s.vault.blow code) ∨ t.vault = s.vault.blowTamper) := by
  by_cases hseason : c = .seasonChangeDone
  · subst hseason
    obtain ⟨t, ht, hq, hv⟩ := exec_seasonChangeDone_vault s
    exact ⟨t, ht, hq, hv.imp_right .inl⟩
  by_cases hwipe : c = .tamperWipeDone
  · subst hwipe
    obtain ⟨t, ht, hq, hv⟩ := exec_tamperWipeDone_vault s
    exact ⟨t, ht, hq, hv.imp_right .inr⟩
  obtain ⟨e, he⟩ := exec_changes_device_alone c s hseason hwipe
  exact ⟨_, he, rfl, .inl rfl⟩

/-- Settles O3: no command faults or is refused, and none touches the queue. -/
theorem commandsLeaveTheQueue : Obligations.CommandsLeaveTheQueue := by
  intro c s
  obtain ⟨t, ht, hq, -⟩ := exec_vault c s
  exact ⟨t, ht, hq⟩

/-- Settles O4: every other command changes the device alone. -/
theorem onlyTwoCommandsBlowFuses : Obligations.OnlyTwoCommandsBlowFuses := by
  intro c s t hseason hwipe ht
  obtain ⟨e, he⟩ := exec_changes_device_alone c s hseason hwipe
  cases he.symm.trans ht
  rfl

/-! ### The order of the fuses -/

/-- The fuses of `w` are among those of `v`, one by one. -/
theorem Vault.atLeast_iff (v w : Vault) : v.atLeast w = true ↔
    (w.spring = true → v.spring = true) ∧ (w.summer = true → v.summer = true) ∧ (w.autumn = true → v.autumn = true) ∧
      (w.winter = true → v.winter = true) ∧ w.tampers ≤ v.tampers := by
  simp only [Vault.atLeast, Bool.and_eq_true, Bool.or_eq_true, Bool.not_eq_true', decide_eq_true_eq, and_assoc,
    ← Bool.not_eq_true, ← imp_iff_not_or]

/-- A blow restores no fuse. -/
theorem Vault.blow_atLeast {v w : Vault} (code : Nat) (h : v.atLeast w = true) : (v.blow code).atLeast w = true := by
  rw [Vault.atLeast_iff] at h ⊢
  obtain ⟨hspring, hsummer, hautumn, hwinter, htampers⟩ := h
  exact ⟨hspring, fun q => by simp [Vault.blow, hsummer q], fun q => by simp [Vault.blow, hautumn q],
    fun q => by simp [Vault.blow, hwinter q], htampers⟩

/-- The next tamper fuse raises the count, which the 32 fuses bound. -/
theorem Vault.blowTamper_atLeast {v w : Vault} (h : v.atLeast w = true) (hv : v.tampers ≤ 32) : v.blowTamper.atLeast w = true := by
  rw [Vault.atLeast_iff] at h ⊢
  obtain ⟨hspring, hsummer, hautumn, hwinter, htampers⟩ := h
  exact ⟨hspring, hsummer, hautumn, hwinter, by change w.tampers ≤ min 32 (v.tampers + 1); omega⟩

/-- With no fuse restored the season in force does not go back (R458). -/
theorem Vault.season_le_of_atLeast {v w : Vault} (h : v.atLeast w = true) : w.season ≤ v.season := by
  rw [Vault.atLeast_iff] at h
  obtain ⟨-, hsummer, hautumn, hwinter, -⟩ := h
  unfold Vault.season
  split_ifs <;> simp_all

/-- A step does to the fuses what its command does; the passing of a cycle leaves them. -/
theorem step_vault {s t : State} (ht : step s = .next t) :
    t.vault = s.vault ∨ (∃ code, t.vault = s.vault.blow code) ∨ t.vault = s.vault.blowTamper := by
  unfold step at ht
  split at ht
  · exact .inl (congrArg State.vault (Host.Outcome.next.inj ht)).symm
  · rename_i c cs _
    obtain ⟨u, hu, -, hv⟩ := exec_vault c { s with pending := cs }
    cases hu.symm.trans ht
    exact hv

/-- Settles O5: a step leaves the fuses, blows a season fuse or blows the next tamper fuse, and none of these restores one. -/
theorem fusesOnlyMoveForward : Obligations.FusesOnlyMoveForward := by
  intro v s t hleast htampers ht
  have hkept : t.vault.atLeast v = true ∧ t.vault.tampers ≤ 32 := by
    obtain hv | ⟨code, hv⟩ | hv := step_vault ht <;> rw [hv]
    · exact ⟨hleast, htampers⟩
    · exact ⟨Vault.blow_atLeast code hleast, htampers⟩
    · exact ⟨Vault.blowTamper_atLeast hleast htampers, Nat.min_le_left ..⟩
  exact ⟨hkept.1, hkept.2, Vault.season_le_of_atLeast hkept.1⟩

end Sys2Proof.Machine
end

section
/-! PROOFS. The rule of event settings under a page lock (R436): writes of the enable, force and configuration registers that a lock turns away,
and the write of the sticky register, which no lock bars. -/
namespace Sys2Proof.Machine
namespace Dev

/-! ### Writes that a page lock turns away -/

/-- A page lock (Table 2-11 test 4) on every path that may write the page. -/
theorem gate_locked_of_access {d : Dev} {path a : Nat} (w : Nat) (f : PageKind → Nat → Nat → Dev × Nat) {k : PageKind} {i : Nat}
    (hp : pageOf (a / 0x1000) = some (k, i)) (hacc : path ≠ 1 ∨ bmpAccess k = 3) (ho : d.offline (path == 1) (a / 0x1000) = false)
    (hl : d.lockBars (a / 0x1000) (a % 0x1000) k i = true) :
    d.gate path a w f = (d.lockViol (a / 0x1000), St.locked) := by
  unfold gate
  simp only [hp, ho, hl]
  rw [if_neg (fun q => hacc.elim (fun n => n q.1) q.2)]
  rfl

/-- A write that arrives and falls under a page lock shows there alone. -/
theorem arrives_locked {d : Dev} {path a : Nat} (v : Vault) (out : Sys2Proof.Outside) (w : Nat) {k : PageKind} {i : Nat}
    (harr : d.arriving path = true) (h4 : a % 4 = 0) (hp : pageOf (a / 0x1000) = some (k, i)) (hacc : path ≠ 1 ∨ bmpAccess k = 3)
    (ho : d.offline (path == 1) (a / 0x1000) = false) (hl : d.lockBars (a / 0x1000) (a % 0x1000) k i = true) :
    d.arrives v out path a w = d.lockViol (a / 0x1000) := by
  have hpw : plainWrite v ⟨path, out, none⟩ d a w = (d.lockViol (a / 0x1000), St.locked) := gate_locked_of_access w _ hp hacc ho hl
  rw [arrives_eq v out path a w d harr h4, busWrite_of_status v _ d a w (by rw [hpw]; exact (by decide : St.locked ≠ St.done)), hpw]

/-- What LOCK_VIOL shows, and that nothing else changes. -/
theorem lockViol_shows (d : Dev) (page : Nat) : (d.lockViol page).rb (pstat page) F.stLockViol = true ∧
    (d.lockViol page).sameRegs d [pstat page] ∧ d.lockViol page = { d with regs := (d.lockViol page).regs } :=
  ⟨rb_wf_same _ _ _ _ rfl (by decide), fun _ hb => get_wf_ne _ _ _ (by simpa using hb), rfl⟩

/-- The enable and the force register fall under the lock of their own page and under that of another page that shows one of their bits. -/
theorem lockBars_of_settings {d : Dev} {page off : Nat} {k : PageKind} {i : Nat} (hoff : off = 0x18 ∨ off = 0x1C)
    (hl : d.pageLocked page = true ∨ ∃ b ∈ bitPages k i, d.pageLocked b = true) : d.lockBars page off k i = true := by
  have hany : (d.pageLocked page || (bitPages k i).any d.pageLocked) = true := by
    rw [Bool.or_eq_true, List.any_eq_true]
    exact hl
  rw [Bool.or_eq_true] at hany
  obtain rfl | rfl := hoff <;> obtain h | h := hany <;> simp [lockBars, h]

/-- A configuration register falls under the lock of its group page and under that of the block page of its source. -/
theorem lockBars_of_evgCfg {d : Dev} {g k : Nat} (hk : k < 32) (hl : d.pageLocked (0x10 + g) = true ∨
    (srcBase (32 * g + k)).isSome = true ∧ d.pageLocked (srcBlockPage (32 * g + k)) = true) :
    d.lockBars (0x10 + g) (0x100 + 4 * k) .evg g = true := by
  obtain hpage | ⟨hsrc, hblock⟩ := hl
  · exact lockBars_of_pageLocked _ _ hpage (by omega)
  · have hix : (0x100 + 4 * k - 0x100) / 4 = k := by omega
    have hin : 0x100 ≤ 0x100 + 4 * k ∧ 0x100 + 4 * k < 0x180 := by omega
    unfold lockBars
    rw [hix, hsrc, hblock, decide_eq_true hin]
    simp

/-! ### The write of a sticky register (R434) -/

theorem esrc_setEsrc (d : Dev) (s x : Nat) (e : EvtSrc) : (d.setEsrc s e).esrc x = if x = s then e else d.esrc x := tget_tset ..

/-- A source as a 1 written to its sticky bit leaves it, where it has not occurred in this HCLK cycle: with its raw state present it is sticky,
and otherwise neither sticky nor escalated. -/
def stickyCleared (d : Dev) (s : Nat) : EvtSrc := { d.esrc s with sticky := d.effRaw s, esc := d.effRaw s && (d.esrc s).esc }

theorem stickyClear1_eq {d : Dev} {s : Nat} (hcyc : (d.esrc s).lastCyc ≠ d.cycNo) :
    d.stickyClear1 s = if (srcBase s).isSome then d.setEsrc s (d.stickyCleared s) else d := by
  unfold stickyClear1 stickyCleared
  cases hs : srcBase s <;> cases he : d.effRaw s <;> simp [hcyc]

/-- A clear leaves every source that it does not name. -/
theorem esrc_stickyClear1 {d : Dev} {s : Nat} (hcyc : (d.esrc s).lastCyc ≠ d.cycNo) (x : Nat) :
    (d.stickyClear1 s).esrc x = if x = s ∧ (srcBase s).isSome = true then d.stickyCleared x else d.esrc x := by
  rw [stickyClear1_eq hcyc]
  by_cases hs : (srcBase s).isSome = true
  · rw [if_pos hs, esrc_setEsrc]
    by_cases hx : x = s
    · simp [hx, hs]
    · simp [hx]
  · simp [hs]

/-- The sources stand in the fabric's own state, and nothing else changes. -/
theorem stickyClear1_frame {d : Dev} {s : Nat} (hcyc : (d.esrc s).lastCyc ≠ d.cycNo) :
    d.stickyClear1 s = { d with evt := (d.stickyClear1 s).evt } := by
  rw [stickyClear1_eq hcyc]
  split <;> rfl

/-- A clear keeps the raw state of every source, and so what a later clear makes of it. -/
theorem stickyCleared_stickyClear1 {d : Dev} {s : Nat} (hcyc : (d.esrc s).lastCyc ≠ d.cycNo) (x : Nat) :
    (d.stickyClear1 s).stickyCleared x = d.stickyCleared x := by
  have hraw : (d.stickyClear1 s).effRaw x = d.effRaw x := by
    have hoff : (d.stickyClear1 s).srcOffline x = d.srcOffline x := by rw [stickyClear1_frame hcyc]; rfl
    unfold effRaw
    rw [hoff, esrc_stickyClear1 hcyc]
    split <;> rfl
  unfold stickyCleared
  rw [hraw, esrc_stickyClear1 hcyc]
  split
  · unfold stickyCleared
    cases d.effRaw x <;> rfl
  · rfl

/-- The clears of the sources from `base` on whose bit of `w` is 1, in a given order of the bits. -/
def stickyClears (base w : Nat) (d : Dev) (l : List Nat) : Dev :=
  l.foldl (fun (d : Dev) j => if nbit w j then d.stickyClear1 (base + j) else d) d

theorem stickyClear_eq (d : Dev) (k : PageKind) (i w : Nat) :
    d.stickyClear k i w = stickyClears (pageSources k i).1 w d (List.range (pageSources k i).2) := rfl

/-- None of the sources whose bit of `w` is 1 has occurred in this HCLK cycle. -/
def Settled (base w : Nat) (d : Dev) (l : List Nat) : Prop :=
  ∀ j ∈ l, nbit w j = true → (d.esrc (base + j)).lastCyc ≠ d.cycNo

theorem Settled.stickyClear1 {base w : Nat} {d : Dev} {l : List Nat} {s : Nat} (h : Settled base w d l)
    (hcyc : (d.esrc s).lastCyc ≠ d.cycNo) : Settled base w (d.stickyClear1 s) l := by
  intro j hj hw
  have hcycNo : (d.stickyClear1 s).cycNo = d.cycNo := by rw [stickyClear1_frame hcyc]; rfl
  have hlast : ((d.stickyClear1 s).esrc (base + j)).lastCyc = (d.esrc (base + j)).lastCyc := by
    rw [esrc_stickyClear1 hcyc]
    split <;> rfl
  rw [hcycNo, hlast]
  exact h j hj hw

theorem stickyClears_frame (base w : Nat) : ∀ (l : List Nat) (d : Dev), Settled base w d l →
    stickyClears base w d l = { d with evt := (stickyClears base w d l).evt }
  | [], _, _ => rfl
  | j :: l, d, h => by
    have hl : Settled base w d l := fun x hx => h x (List.mem_cons_of_mem _ hx)
    by_cases hw : nbit w j = true
    · have hcyc := h j List.mem_cons_self hw
      have hstep : stickyClears base w d (j :: l) = stickyClears base w (d.stickyClear1 (base + j)) l := by
        simp [stickyClears, hw]
      rw [hstep, stickyClears_frame base w l _ (hl.stickyClear1 hcyc), stickyClear1_frame hcyc]
    · have hstep : stickyClears base w d (j :: l) = stickyClears base w d l := by simp [stickyClears, hw]
      rw [hstep]
      exact stickyClears_frame base w l d hl

theorem esrc_stickyClears (base w x : Nat) : ∀ (l : List Nat) (d : Dev), Settled base w d l →
    (stickyClears base w d l).esrc x =
      if (∃ j ∈ l, x = base + j ∧ nbit w j = true) ∧ (srcBase x).isSome = true then d.stickyCleared x else d.esrc x
  | [], _, _ => by simp [stickyClears]
  | j :: l, d, h => by
    have hl : Settled base w d l := fun x hx => h x (List.mem_cons_of_mem _ hx)
    by_cases hw : nbit w j = true
    · have hcyc := h j List.mem_cons_self hw
      have hstep : stickyClears base w d (j :: l) = stickyClears base w (d.stickyClear1 (base + j)) l := by
        simp [stickyClears, hw]
      rw [hstep, esrc_stickyClears base w x l _ (hl.stickyClear1 hcyc), stickyCleared_stickyClear1 hcyc, esrc_stickyClear1 hcyc]
      by_cases hx : x = base + j
      · subst hx
        cases hsrc : srcBase (base + j) <;> simp [hw]
      · simp [hx]
    · have hstep : stickyClears base w d (j :: l) = stickyClears base w d l := by simp [stickyClears, hw]
      rw [hstep, esrc_stickyClears base w x l d hl]
      simp [hw]

/-- No lock bars the sticky register, whose write clears the bits written. -/
theorem arrives_sticky {d : Dev} {path a : Nat} (v : Vault) (out : Sys2Proof.Outside) (w : Nat) {k : PageKind} {i : Nat}
    (harr : d.arriving path = true) (hoff : a % 0x1000 = 0x14) (hp : pageOf (a / 0x1000) = some (k, i))
    (hacc : path ≠ 1 ∨ bmpAccess k = 3) (ho : d.offline (path == 1) (a / 0x1000) = false) (hev : hasEvents k = true) :
    d.arrives v out path a w = d.stickyClear k i w := by
  have h4 : a % 4 = 0 := by omega
  have hbars : d.lockBars (a / 0x1000) (a % 0x1000) k i = false := by simp [lockBars, hoff]
  have hlets : d.lets path a = true := by
    unfold lets
    simp only [hp, harr, h4, ho, hbars]
    simpa using hacc
  rw [arrives_eq v out path a w d harr h4, busWrite_plain v _ d a w (.inl (by unfold R.vltApply; omega))]
  unfold plainWrite
  rw [gate_open d path a w _ k i hp hlets (by omega), hoff]
  simp [commonWrite, hev]

end Dev

/-! ### The commands -/

section
variable (path : Fin 7) (page : Fin 1024) (w : Word) (k : PageKind) (i : Nat) (s : State) (harr : s.dev.arriving path = true)
  (hacc : path.val ≠ 1 ∨ bmpAccess k = 3) (hp : pageOf page = some (k, i)) (ho : s.dev.offline (path.val == 1) page = false)
include harr hacc hp ho

/-- The enable and the force register of a page under a lock, by the address within the page. -/
theorem arrives_settings_locked (out : Sys2Proof.Outside) {off : Nat} (hoff : off = 0x18 ∨ off = 0x1C)
    (hl : s.dev.pageLocked page = true ∨ ∃ b ∈ Dev.bitPages k i, s.dev.pageLocked b = true) :
    s.dev.arrives s.vault out path (page * 0x1000 + off) w.toNat = s.dev.lockViol page := by
  have hpage : (page * 0x1000 + off) / 0x1000 = page.val := by omega
  have hin : (page * 0x1000 + off) % 0x1000 = off := by omega
  rw [Dev.arrives_locked s.vault out w.toNat harr (by omega) (by rw [hpage]; exact hp) hacc (by rw [hpage]; exact ho)
    (by rw [hpage, hin]; exact Dev.lockBars_of_settings hoff hl), hpage]

theorem registerWrite_settings_locked (a : Fin 0x400000) (out : Outside) {off : Nat} (hoff : off = 0x18 ∨ off = 0x1C)
    (ha : a.val = page * 0x1000 + off)
    (hl : s.dev.pageLocked page = true ∨ ∃ b ∈ Dev.bitPages k i, s.dev.pageLocked b = true) :
    ∃ t, exec (.registerWrite path a w 15 out) s = .next t ∧
      t.dev.rb (pstat page) F.stLockViol = true ∧ t.dev.sameRegs s.dev [pstat page] ∧ t.dev = { s.dev with regs := t.dev.regs } := by
  refine ⟨_, exec_registerWrite_whole path a w 15 out s (.inr rfl), ?_⟩
  rw [ha, arrives_settings_locked path page w k i s harr hacc hp ho out hoff hl]
  exact Dev.lockViol_shows s.dev page

theorem eventForceWrite_locked (hl : s.dev.pageLocked page = true ∨ ∃ b ∈ Dev.bitPages k i, s.dev.pageLocked b = true) :
    ∃ t, exec (.eventForceWrite path page w) s = .next t ∧
      t.dev.rb (pstat page) F.stLockViol = true ∧ t.dev.sameRegs s.dev [pstat page] ∧ t.dev = { s.dev with regs := t.dev.regs } := by
  refine ⟨{ s with dev := s.dev.arrives s.vault noOut path (page * 0x1000 + 0x1C) w.toNat }, rfl, ?_⟩
  rw [arrives_settings_locked path page w k i s harr hacc hp ho noOut (.inr rfl) hl]
  exact Dev.lockViol_shows s.dev page

/-- The sticky register stays writable under a lock. -/
theorem registerWrite_sticky_clears (a : Fin 0x400000) (out : Outside) (ha : a.val = page * 0x1000 + 0x14) (hev : hasEvents k = true)
    (hcyc : ∀ j : Fin 64, j.val < (pageSources k i).2 → (s.dev.esrc ((pageSources k i).1 + j)).lastCyc ≠ s.dev.cycNo) :
    ∃ t, exec (.registerWrite path a w 15 out) s = .next t ∧
      (∀ j : Fin 32, j.val < (pageSources k i).2 → (srcBase ((pageSources k i).1 + j)).isSome = true → nbit w.toNat j = true →
        (t.dev.esrc ((pageSources k i).1 + j)).sticky = s.dev.effRaw ((pageSources k i).1 + j)) ∧
      (∀ j : Fin 32, j.val < (pageSources k i).2 → nbit w.toNat j = false →
        t.dev.esrc ((pageSources k i).1 + j) = s.dev.esrc ((pageSources k i).1 + j)) ∧
      t.dev.sameRegs s.dev [pstat page] ∧ t.dev = { s.dev with regs := t.dev.regs, evt := t.dev.evt } := by
  have hpage : (page * 0x1000 + 0x14) / 0x1000 = page.val := by omega
  have hclear : s.dev.arrives s.vault out path a w.toNat = s.dev.stickyClear k i w.toNat := by
    rw [ha]
    exact Dev.arrives_sticky s.vault out w.toNat harr (by omega) (by rw [hpage]; exact hp) hacc (by rw [hpage]; exact ho) hev
  have hset : Dev.Settled (pageSources k i).1 w.toNat s.dev (List.range (pageSources k i).2) := by
    intro j hj hw
    have hj32 : j < 32 := by
      by_contra h
      rw [nbit, Nat.testBit_lt_two_pow (lt_of_lt_of_le w.isLt (Nat.pow_le_pow_right (by decide) (by omega)))] at hw
      cases hw
    exact hcyc ⟨j, by omega⟩ (List.mem_range.mp hj)
  refine ⟨_, exec_registerWrite_whole path a w 15 out s (.inr rfl), ?_⟩
  rw [hclear, Dev.stickyClear_eq]
  refine ⟨fun j hj hsrc hw => ?_, fun j hj hw => ?_, fun b _ => ?_, ?_⟩
  · rw [Dev.esrc_stickyClears _ _ _ _ _ hset, if_pos ⟨⟨j, List.mem_range.mpr hj, rfl, hw⟩, hsrc⟩]
    rfl
  · rw [Dev.esrc_stickyClears _ _ _ _ _ hset, if_neg]
    rintro ⟨⟨q, -, hq, hwq⟩, -⟩
    rw [← Nat.add_left_cancel hq, hw] at hwq
    cases hwq
  · rw [Dev.stickyClears_frame _ _ _ _ hset]
    rfl
  · rw [Dev.stickyClears_frame _ _ _ _ hset]

end

theorem evgCfgWrite_locked (path : Fin 7) (g : Fin 36) (k : Fin 32) (w : Word) (s : State) (harr : s.dev.arriving path = true)
    (hl : s.dev.pageLocked (0x10 + g) = true ∨ (srcBase (32 * g + k)).isSome = true ∧ s.dev.pageLocked (srcBlockPage (32 * g + k)) = true)
    (ho : s.dev.offline (path.val == 1) (0x10 + g) = false) : ∃ t, exec (.evgCfgWrite path g k w) s = .next t ∧
      t.dev.rb (pstat (0x10 + g)) F.stLockViol = true ∧ t.dev.sameRegs s.dev [pstat (0x10 + g)] ∧
      t.dev = { s.dev with regs := t.dev.regs } := by
  have hpage : R.evgCfg g k / 0x1000 = 0x10 + g := by unfold R.evgCfg; omega
  have hoff : R.evgCfg g k % 0x1000 = 0x100 + 4 * k := by unfold R.evgCfg; omega
  have hp : pageOf (0x10 + g) = some (.evg, g.val) := by
    have : ∀ g : Fin 36, pageOf (0x10 + g) = some (.evg, g.val) := by decide
    exact this g
  refine ⟨{ s with dev := s.dev.arrives s.vault noOut path (R.evgCfg g k) w.toNat }, rfl, ?_⟩
  rw [Dev.arrives_locked s.vault noOut w.toNat harr (by omega) (by rw [hpage]; exact hp) (.inr rfl) (by rw [hpage]; exact ho)
    (by rw [hpage, hoff]; exact Dev.lockBars_of_evgCfg k.isLt hl), hpage]
  exact Dev.lockViol_shows s.dev (0x10 + g)

/-- Settles O60: a lock on the page addressed or on another page that shows the bit fails test 4 of Table 2-11 for the enable, force and
configuration registers, and the test leaves the sticky register out. -/
theorem lockedPagesKeepEventSettings : Obligations.LockedPagesKeepEventSettings :=
  ⟨fun path page w k i a out s harr hacc hp ho ha hl =>
      registerWrite_settings_locked path page w k i s harr hacc hp ho a out (.inl rfl) ha hl,
    fun path page w k i a out s harr hacc hp ho ha hl =>
      registerWrite_settings_locked path page w k i s harr hacc hp ho a out (.inr rfl) ha hl,
    fun path page w k i s harr hacc hp ho hl => eventForceWrite_locked path page w k i s harr hacc hp ho hl,
    evgCfgWrite_locked,
    fun path page w k i a out s harr hacc hp ho ha hev _ hcyc =>
      registerWrite_sticky_clears path page w k i s harr hacc hp ho a out ha hev hcyc⟩

end Sys2Proof.Machine
end

section
/-! PROOFS. The families of power, events, DRAM, on-chip memories, the vault and the sideband engines: nine statements that fail.  Each has a
clause with an event and no premise on reactions, whose frame leaves out the record of the pattern generator, as those of the architecture
family do. -/
namespace Sys2Proof.Machine

-- One kernel evaluation at a time: each takes a thread with a large stack.
set_option Elab.async false

/-! ### A first sag -/

/-- The governor watches point 0; the supply is at 750 mV and the threshold 20 mV below it. -/
def watchedSupplyState : State where
  __ := State.reset
  dev := ((generatingDev Ev.sagDetect).setN R.pwrAvs 750).setN R.pwrSagCfg 0x00000114

/-- A first point below the threshold raises SAG_DETECT (R448). -/
theorem sagStart_cutsGenerator : cutsGenerator (.sagStart 0 700) watchedSupplyState = true := by decide +kernel

/-- Refutes O29, by its first clause: a first point raises SAG_DETECT, for which the clause asks no `noReact`; its STOP_PORT cuts the running
generator's segment, and the clause's frame keeps `apg`. -/
theorem not_sagsStretchTheClockAndEnd : ¬ Obligations.SagsStretchTheClockAndEnd := by
  rintro ⟨hfirst, -⟩
  obtain ⟨t, ht, -, -, -, -, -, -, -, hframe⟩ := hfirst 0 700 watchedSupplyState (by decide +kernel) (by decide +kernel) (by decide +kernel)
  exact apg_ne_of_cutsGenerator sagStart_cutsGenerator ht (congrArg Dev.apg hframe :)

/-! ### A suppressed fault -/

/-- A SEVERE latch of DRV_SHORT of channel 0, one tick after its last record in the ledger. -/
def heldOffFault : FaultCand where
  src := Ev.drvShort 0
  cls := 2
  esc := false
  forced := false
  coinc := false
  react := 0
  gtc := 131072001

/-- The latch waits for the Keeper, and the hold-off is 1 ms. -/
def heldOffState : State where
  __ := State.reset
  dev :=
    let d := ((generatingDev Ev.faultHistSupp).setEsrc (Ev.drvShort 0) { EvtSrc.reset (Ev.drvShort 0) with lastRec := some 131072000 }).wf
      R.evcLedgerCfg F.evcLedgerCfgHold 1
    { d with evt := { d.evt with cands := [heldOffFault] } }

/-- A suppressed record raises FAULT_HIST_SUPP (R444). -/
theorem ledgerFaultRecord_cutsGenerator : cutsGenerator .ledgerFaultRecord heldOffState = true := by decide +kernel

/-- Refutes O54, by its third clause: a suppressed record raises FAULT_HIST_SUPP, for which the clause asks no `noReact`; its STOP_PORT cuts the
running generator's segment, and the clause's frame keeps `apg`. -/
theorem not_faultRecordsAreTakenAndCleared : ¬ Obligations.FaultRecordsAreTakenAndCleared := by
  rintro ⟨-, -, hsuppressed⟩
  obtain ⟨t, ht, -, -, -, -, hframe⟩ := hsuppressed heldOffFault [] 131072000 heldOffState rfl (by decide) (by decide +kernel) rfl
    (by decide +kernel) (by decide +kernel)
  exact apg_ne_of_cutsGenerator ledgerFaultRecord_cutsGenerator ht (congrArg Dev.apg hframe :)

/-! ### A forced refresh -/

/-- Channel 0 has one rank, which owes all the refreshes that may be postponed. -/
def fullDebtState : State where
  __ := State.reset
  dev := (((generatingDev (Ev.mcRefForced 0)).wf (R.mcStat 0) F.mcStatRanks 1).wf (R.mcRefCfg 0) F.mcRefCfgPostpone 4).setDebt 0 0 4

/-- The next interval forces a refresh, which raises MC_REF_FORCED (R379). -/
theorem refreshInterval_cutsGenerator : cutsGenerator (.refreshInterval 0 0) fullDebtState = true := by decide +kernel

/-- Refutes O56, by its fifth clause: a forced refresh raises MC_REF_FORCED, for which the clause asks no `noReact`; its STOP_PORT cuts the running
generator's segment, and the clause's frame keeps `apg`. -/
theorem not_dramRowsRefreshAndScrubAreKept : ¬ Obligations.DramRowsRefreshAndScrubAreKept := by
  rintro ⟨-, -, -, -, hforced, -⟩
  obtain ⟨t, ht, -, -, -, hframe⟩ := hforced 0 0 fullDebtState (by decide +kernel) (by decide +kernel) (by decide +kernel) (by decide +kernel)
  exact apg_ne_of_cutsGenerator refreshInterval_cutsGenerator ht (congrArg Dev.apg hframe :)

/-! ### A skipped window -/

/-- A preserving run of the event-queue bank, begun at the present tick, whose window 5 has yielded 254 times. -/
def yieldingMarch : March := ⟨64, 64, true, false, 0, 64, 131072007, [], 5, 254, false⟩

/-- The run is in progress. -/
def yieldingMarchState : State where
  __ := State.reset
  dev := { generatingDev Ev.sramMarchSkip with srm := { Srm.reset with run := some yieldingMarch } }

/-- The 255th yield skips the window and raises SRAM_MARCH_SKIP (R422). -/
theorem marchYield_cutsGenerator : cutsGenerator (.marchYield 5) yieldingMarchState = true := by decide +kernel

/-- Refutes O57, by its seventh clause: a skipped window raises SRAM_MARCH_SKIP, for which the clause asks no `noReact`; its STOP_PORT cuts the
running generator's segment, and the clause's frame keeps `apg`. -/
theorem not_marchAndRetentionAndMailboxKeepTheirRules : ¬ Obligations.MarchAndRetentionAndMailboxKeepTheirRules := by
  rintro ⟨-, -, -, -, -, -, hskipped, -⟩
  obtain ⟨t, ht, -, -, -, hframe⟩ := hskipped 5 yieldingMarch yieldingMarchState rfl rfl rfl (.inr (by decide +kernel)) rfl (by decide)
  exact apg_ne_of_cutsGenerator marchYield_cutsGenerator ht (congrArg Dev.apg hframe :)

/-! ### A debug instruction in SUMMER -/

/-- The fuse of SUMMER is blown, and `GLB_SEASON` shows it. -/
def summerState : State where
  __ := State.reset
  dev := (generatingDev Ev.debugDenied).showFuses { Vault.reset with summer := true }
  vault := { Vault.reset with summer := true }

/-- A private instruction is refused in SUMMER, which raises DEBUG_DENIED (R487, Table 18-2). -/
theorem jtagInstruction_cutsGenerator : cutsGenerator (.jtagInstruction .private_ false) summerState = true := by decide +kernel

/-- Refutes O58, by its last clause: a refused instruction raises DEBUG_DENIED, for which the clause asks no `noReact`; its STOP_PORT cuts the
running generator's segment, and the clause's frame keeps `apg`. -/
theorem not_seasonsKeysAndTamperMoveOneWay : ¬ Obligations.SeasonsKeysAndTamperMoveOneWay := by
  rintro ⟨-, -, -, -, -, -, -, -, -, -, -, -, -, -, -, -, -, hdenied⟩
  obtain ⟨t, ht, -, hframe⟩ := hdenied .private_ false summerState rfl (.inl (by decide +kernel))
  exact apg_ne_of_cutsGenerator jtagInstruction_cutsGenerator ht (congrArg Dev.apg hframe :)

/-! ### Sideband engines with their lines -/

/-- Utility channels 0 to 5 of port A have the engines as their owners and are ready, and engine `e` of port A is enabled (R334). -/
def sidebandDev (n e : Nat) : Dev :=
  (List.range 6).foldl (fun (d : Dev) m => d.wf (R.uchDrvStat m) F.uchDrvStatReady 1)
    (((generatingDev n).setN (R.prtUcown0 0) 0x765432).wf (pctl (Dev.sbPage 0 e)) F.ctlEnable 1)

/-- Engine `e` works on a command of the two words `w0` and `w1`, the only one of its ring; `x` is its state beyond that. -/
def commandDev (n e w0 w1 : Nat) (x : Sb) : Dev :=
  ((((sidebandDev n e).sramPut (Dev.sbArea 0 + 0xA000 + 0x400 * e) w0).sramPut (Dev.sbArea 0 + 0xA000 + 0x400 * e + 4) w1).setN (Dev.sbWptr 0 e)
    8).putSb 0 e { x with busy := true }

/-- The frame of the clauses whose command ends in a record keeps the generators' records. -/
theorem apg_eq_of_recordFrame {s t : State} (h : t.dev = { s.dev with
      regs := t.dev.regs, sb := t.dev.sb, acq := t.dev.acq, sram := t.dev.sram, evt := t.dev.evt, hostMem := t.dev.hostMem,
      hif := t.dev.hif, seq := t.dev.seq, chans := t.dev.chans, lvls := t.dev.lvls }) : t.dev.apg = s.dev.apg := (congrArg Dev.apg h :)

/-! ### A DDC command that fails -/

/-- The DDC engine of port A works on a READ of one byte from address 0x50. -/
def ddcReadState : State where
  __ := State.reset
  dev := commandDev (Ev.ddcFail 0) 1 0x20000007 0x00800050 Sb.reset

/-- An ABORT ends the command with status 7, which raises DDC_FAIL (R342). -/
theorem abort_cutsGenerator : cutsGenerator (.abort 0 0 1 1#32 noOut) ddcReadState = true := by decide +kernel

/-- Refutes O49, by its third clause: an aborted command raises its engine's FAIL, for which the clause asks no `noReact`; its STOP_PORT cuts the
running generator's segment, and the clause's frame keeps `apg`. -/
theorem not_sidebandEnginesEnableFlushAndAbort : ¬ Obligations.SidebandEnginesEnableFlushAndAbort := by
  rintro ⟨-, -, habort, -⟩
  obtain ⟨t, ht, -, -, -, -, hframe⟩ := habort 0 0 1 1#32 noOut ddcReadState (by decide +kernel) (by decide) (by decide +kernel)
    (by decide +kernel) (by decide +kernel) (by decide +kernel)
  exact apg_ne_of_cutsGenerator abort_cutsGenerator ht (apg_eq_of_recordFrame hframe)

/-- A stuck bus ends the command with status 5, which raises DDC_FAIL (R349). -/
theorem ddcStuckBusTimeout_cutsGenerator : cutsGenerator (.ddcStuckBusTimeout 0 131072007) ddcReadState = true := by decide +kernel

/-- Refutes O50, by its tenth clause: on a stuck bus the command that ends raises DDC_FAIL, for which the clause asks no `noReact`; its STOP_PORT cuts
the running generator's segment, and the clause's frame keeps `apg`. -/
theorem not_cecAndDdcMessagesEndInRecords : ¬ Obligations.CecAndDdcMessagesEndInRecords := by
  rintro ⟨-, -, -, -, -, -, -, -, -, hstuck, -⟩
  obtain ⟨t, ht, -, -, -, -, hframe⟩ := hstuck 0 131072007 2 ddcReadState (by decide +kernel)
  exact apg_ne_of_cutsGenerator ddcStuckBusTimeout_cutsGenerator ht (apg_eq_of_recordFrame hframe)

/-! ### An AUX command that ends -/

/-- The AUX engine of port A has sent the request of a native READ of one byte from DPCD address 0x100. -/
def auxReadState : State where
  __ := State.reset
  dev := commandDev (Ev.auxDone 0) 2 0x20000007 0x01000100 { Sb.reset with run := true }

/-- A reply with ACK ends the command, which raises AUX_DONE (R353). -/
theorem auxReplyReceived_cutsGenerator : cutsGenerator (.auxReplyReceived 0 131072007 0 [0x14] false []) auxReadState = true := by
  decide +kernel

/-- Refutes O51, by its fifth clause: a reply that ends the command raises AUX_DONE, for which the clause asks no `noReact`; its STOP_PORT cuts the
running generator's segment, and the clause's frame keeps `apg`. -/
theorem not_auxTransactionsEndInRecords : ¬ Obligations.AuxTransactionsEndInRecords := by
  rintro ⟨-, -, -, -, hreply, -⟩
  obtain ⟨t, ht, -, -, -, -, hframe⟩ := hreply 0 131072007 2 0 [0x14] [] auxReadState (by decide +kernel) (by decide +kernel)
    (by decide +kernel) (by decide) (by decide)
  exact apg_ne_of_cutsGenerator auxReplyReceived_cutsGenerator ht (apg_eq_of_recordFrame hframe)

/-! ### An unplug -/

/-- The HPD engine of port A senses a line that fell at tick 66. -/
def unpluggingState : State where
  __ := State.reset
  dev := (sidebandDev (Ev.hpdLevel 0) 3).putSb 0 3 { Sb.reset with known := true, fall := some 66 }

/-- A low that lasts is recorded as an unplug, which raises HPD_LEVEL (R359). -/
theorem hpdUnplugTimeout_cutsGenerator : cutsGenerator (.hpdUnplugTimeout 0) unpluggingState = true := by decide +kernel

/-- Refutes O52, by its last clause: an unplug raises HPD_LEVEL, for which the clause asks no `noReact`; its STOP_PORT cuts the running generator's
segment, and the clause's frame keeps `apg`. -/
theorem not_hpdLinesAreDrivenAndSensed : ¬ Obligations.HpdLinesAreDrivenAndSensed := by
  rintro ⟨-, -, -, -, -, hunplug⟩
  obtain ⟨t, ht, -, -, -, hframe⟩ := hunplug 0 66 unpluggingState (by decide +kernel) (by decide +kernel) (by decide +kernel)
    (by decide +kernel) (by decide +kernel)
  exact apg_ne_of_cutsGenerator hpdUnplugTimeout_cutsGenerator ht (apg_eq_of_recordFrame hframe)

end Sys2Proof.Machine
end
